-- ==== Sys2Proof/Word.lean ====
section
/-!
DEFINITION. The bit-vector types of the Dravrum Kreny (spec/00_scope.md R2, R3) and nothing else: their
plainest arithmetic is BitVec's own.
-/
namespace Sys2Proof

/-- A 64-bit word: an instruction word (R92), a scalar register (R42), an address. -/
abbrev Word := BitVec 64
/-- A 32-bit word: a lane register (R42). -/
abbrev W32 := BitVec 32
/-- A byte of memory (R3). -/
abbrev Byte := BitVec 8
/-- A 9-bit operand code (R104). -/
abbrev Code := BitVec 9
/-- A mask of warp lanes (R176, R337, R349): bit l names lane l. -/
abbrev LaneMask := BitVec 64
/-- A 64-byte management message or packet (R270, R315). -/
abbrev Msg := BitVec 512

end Sys2Proof
end

