-- ==== Sys2Proof/Syntax.lean ====
section
/-!
DEFINITION. The syntax of the Kreny: the word formats of spec/05_encoding_and_assembly.md (R93, R97 to R103) as
records, the descriptions of what outside agents and engines do, and `Instr` with one constructor for each row of
spec/opcode_table.json. A must-be-zero bit of a format is no field of its record: the decoder checks it (R111).
-/
namespace Sys2Proof

/-- The PX prefix word (R103), less its must-be-zero bits [38:24]. -/
structure Px where
  me   : Bool
  mp   : BitVec 3
  rm   : BitVec 3
  mz   : Bool
  e    : Code
  ximm : BitVec 24
  deriving DecidableEq, Repr

/-- A clause header (R93). `count` is COUNT: the number of following words, minus 1. -/
structure FmtH where
  count : BitVec 4
  cls   : BitVec 3
  hwait : BitVec 16
  barw  : Bool
  yh    : Bool
  deriving DecidableEq, Repr

/-- A NOP word (R110), with its prefix. -/
structure FmtN where
  px : Option Px
  deriving DecidableEq, Repr

/-- Format A (R97), less OPC and FN, which the constructor says. `mod` is MOD or GUARD (R98). -/
structure FmtA where
  d   : Code
  a   : Code
  b   : Code
  c   : Code
  ty  : BitVec 4
  mod : BitVec 4
  run : BitVec 4
  px  : Option Px
  deriving DecidableEq, Repr

/-- Format I (R99). -/
structure FmtI where
  d   : Code
  a   : Code
  imm : W32
  px  : Option Px
  deriving DecidableEq, Repr

/-- Format M (R100). -/
structure FmtM where
  d     : Code
  a     : Code
  b     : Code
  sz    : BitVec 3
  sp    : BitVec 2
  ord   : BitVec 2
  scope : BitVec 3
  guard : BitVec 4
  run   : BitVec 4
  disp  : BitVec 7
  px    : Option Px
  deriving DecidableEq, Repr

/-- Format E (R101). -/
structure FmtE where
  h     : BitVec 4
  a     : Code
  b     : Code
  c     : Code
  d     : Code
  run   : BitVec 4
  flags : Byte
  px    : Option Px
  deriving DecidableEq, Repr

/-- Format B (R102). -/
structure FmtB where
  guard : BitVec 4
  u     : Bool
  disp  : BitVec 40
  px    : Option Px
  deriving DecidableEq, Repr

/-- One beat of a peer's copy into a tile of this device (R56, R59, R218): the copy it belongs to at its sender, the
target, the consume count, how many bytes that copy writes into the tile in all, whether its source was poisoned
(R219), and the bytes. `tag` is the number that its acknowledgement names. -/
structure Beat where
  sender : Nat
  tag    : Nat
  copy   : Nat
  alloc  : W32
  off    : Nat
  cc     : Nat
  total  : Nat
  poison : Bool
  data   : List Byte
  deriving DecidableEq, Repr

/-- A waiting arrival (R59): the n-th beat that waits at the ingress, or tile `tile` of a local engine operation. -/
inductive Arrival where
  | ingress (n : Nat)
  | localOp (op tile : Nat)
  deriving DecidableEq, Repr

/-- Who waits on a tag (R61, R359). -/
inductive TagWaiter where
  | lanes (core slot : Nat)
  | arrival (a : Arrival)
  | mloop (op : Nat)
  deriving DecidableEq, Repr

/-- What a peer's remote request asks (R305, R306). -/
inductive PeerAccess where
  | load
  | atom (opc : BitVec 4) (operand : Word)
  | cas (expected new : Word)
  deriving DecidableEq, Repr

/-- A remote load, atomic or CAS that reaches this device as its target (R305). -/
structure PeerRequest where
  sender : Nat
  tag    : Nat
  addr   : Word
  bytes  : Nat
  what   : PeerAccess
  deriving DecidableEq, Repr

/-- A write-combined store line that reaches this device as its target (R307, R381). -/
structure PeerLine where
  sender : Nat
  tag    : Nat
  addr   : Word
  mask   : BitVec 128
  data   : List Byte
  poison : Bool
  deriving DecidableEq, Repr

/-- A response or acknowledgement of a peer (R304, R306): the request it answers and what it says. -/
inductive PeerAnswer where
  | data (bytes : List Byte) (poison : Bool)
  | fault (cause : Byte)
  | ack
  | stale
  deriving DecidableEq, Repr

/-- A response to request `tag` of this device. -/
structure PeerResponse where
  tag    : Nat
  answer : PeerAnswer
  deriving DecidableEq, Repr

/-- A flit as the receiver of a channel finds it (R378): its sequence number, how many erroneous bits its one burst
holds, and whether its CRC fails after correction. -/
structure Flit where
  peer   : Nat
  plane  : Nat
  seq    : Byte
  burst  : Nat
  crcBad : Bool
  deriving DecidableEq, Repr

/-- A version-3 receiver's report about a channel on which this device sends (R379). -/
structure HealthReport where
  peer    : Nat
  plane   : Nat
  score   : Nat
  retired : Bool
  deriving DecidableEq, Repr

/-- Link-up frames of a channel exchanged by both ends (R303, R314). -/
structure LinkFrame where
  peer   : Nat
  plane  : Nat
  podId  : W32
  verLo  : Nat
  verHi  : Nat
  deriving DecidableEq, Repr

/-- A Sync message with its Follow_Up, if the master sends in two steps (R289): the port that takes it, its domain, whether the best
master clock algorithm has chosen its sender, the master's timestamp, the correctionField and the path's delay as the end-to-end
mechanism has measured it, all in ns, and the error bound against the master in units of 16 ns (R290). -/
structure PtpSync where
  port       : Bool
  domain     : Nat
  chosen     : Bool
  origin     : Nat
  correction : Int
  delay      : Int
  errb       : BitVec 16
  deriving DecidableEq, Repr

/-- The rings whose consumed count the device re-reads (R348, R363, R380). -/
inductive RingName where
  | fault
  | service
  | storeLog
  deriving DecidableEq, Repr

/-- The error that is found (R361); the constructors follow SUB 1 to 8. A tile's names the core and the warp slot whose access finds it
(R362). -/
inductive SoftError where
  | hbm (granule : Nat)
  | l2 (line : Nat)
  | l1 (core line : Nat)
  | tile (core slot tile : Nat)
  | acc (core slot row col : Nat)
  | reg (core slot lane : Nat) (code : Code)
  | pte (entry : Nat)
  | instr (word : Nat)
  deriving DecidableEq, Repr

/-- The supply rails in the order in which they come up (R329). -/
inductive Rail where
  | vddAux
  | vddIod
  | vddHbm
  | vddqHbm
  | vddCmp
  | vddOpt
  deriving DecidableEq, Repr

/-- What the firmware measures every 100 µs (R331 to R334): the module's power in W, the current of each rail in mA, the temperature at
each of the 24 junction sensors of die 0 and of die 1, and of the coolant at the inlet and at the outlet, in m°C, and the coolant's flow
in mL/min. -/
structure Measurement where
  watts     : Nat
  amps      : List Nat
  junctions : List Nat
  inlet     : Nat
  outlet    : Nat
  flow      : Nat
  deriving DecidableEq, Repr

/-- What an HTTPS source has delivered (R319): its server's certificate chain and the image. -/
structure Fetch where
  chain : List Byte
  image : List Byte
  deriving DecidableEq, Repr

/-- What has come of an HTTPS source (R319): its index in the boot configuration, and what it has delivered, none if it has failed. -/
structure SourceResult where
  source : Nat
  got    : Option Fetch
  deriving DecidableEq, Repr

/-- A junction's temperature in m°C, as the sensor of a compute die has it (R332). -/
structure Junction where
  die   : Nat
  milli : Nat
  deriving DecidableEq, Repr

/-- A PCIe configuration request (R319 step 2). -/
structure ConfigRequest where
  write  : Bool
  offset : Nat
  value  : W32
  deriving DecidableEq, Repr

/-- A host access through BAR2 (R312): an offset in the aperture, and the bytes written or the count read. -/
inductive Bar2Access where
  | read (offset count : Nat)
  | write (offset : Nat) (data : List Byte)
  deriving DecidableEq, Repr

/-- The steps of the Kreny: one constructor for each row of spec/opcode_table.json. A management message (R315, R316) is the
oldest that has been sent and not answered, so its constructor carries nothing. -/
inductive Instr where
  /-- CLAUSE_HEADER (R96). -/
  | clauseHeader (w : FmtH)
  /-- NOP (R110). -/
  | nop (w : FmtN)
  /-- IADD (R125). -/
  | iadd (w : FmtA)
  /-- ISUB (R125). -/
  | isub (w : FmtA)
  /-- IMUL (R125). -/
  | imul (w : FmtA)
  /-- IMULH (R125). -/
  | imulh (w : FmtA)
  /-- IMAD (R125). -/
  | imad (w : FmtA)
  /-- IMIN (R125). -/
  | imin (w : FmtA)
  /-- IMAX (R125). -/
  | imax (w : FmtA)
  /-- IABS (R125). -/
  | iabs (w : FmtA)
  /-- INEG (R125). -/
  | ineg (w : FmtA)
  /-- IDIFF (R125). -/
  | idiff (w : FmtA)
  /-- ICMP (R126). -/
  | icmp (w : FmtA)
  /-- SEL (R127). -/
  | sel (w : FmtA)
  /-- ICVT (R128). -/
  | icvt (w : FmtA)
  /-- IDIV (R129). -/
  | idiv (w : FmtA)
  /-- IREM (R129). -/
  | irem (w : FmtA)
  /-- IADD_IMM (R131). -/
  | iaddImm (w : FmtI)
  /-- IMUL_IMM (R131). -/
  | imulImm (w : FmtI)
  /-- IMIN_IMM (R131). -/
  | iminImm (w : FmtI)
  /-- IMAX_IMM (R131). -/
  | imaxImm (w : FmtI)
  /-- ICMP_IMM (R131). -/
  | icmpImm (w : FmtI)
  /-- AND_IMM (R131). -/
  | andImm (w : FmtI)
  /-- OR_IMM (R131). -/
  | orImm (w : FmtI)
  /-- XOR_IMM (R131). -/
  | xorImm (w : FmtI)
  /-- SHL_IMM (R131). -/
  | shlImm (w : FmtI)
  /-- SHR_IMM (R131). -/
  | shrImm (w : FmtI)
  /-- SAR_IMM (R131). -/
  | sarImm (w : FmtI)
  /-- MOVI (R131). -/
  | movi (w : FmtI)
  /-- AND (R132). -/
  | and (w : FmtA)
  /-- OR (R132). -/
  | or (w : FmtA)
  /-- XOR (R132). -/
  | xor (w : FmtA)
  /-- ANDN (R132). -/
  | andn (w : FmtA)
  /-- ORN (R132). -/
  | orn (w : FmtA)
  /-- NOT (R132). -/
  | not (w : FmtA)
  /-- LOP3 (R132). -/
  | lop3 (w : FmtA)
  /-- SHL (R133). -/
  | shl (w : FmtA)
  /-- SHR (R133). -/
  | shr (w : FmtA)
  /-- SAR (R133). -/
  | sar (w : FmtA)
  /-- ROL (R134). -/
  | rol (w : FmtA)
  /-- ROR (R134). -/
  | ror (w : FmtA)
  /-- FSHL (R134). -/
  | fshl (w : FmtA)
  /-- FSHR (R134). -/
  | fshr (w : FmtA)
  /-- POPC (R135). -/
  | popc (w : FmtA)
  /-- CLZ (R135). -/
  | clz (w : FmtA)
  /-- CTZ (R135). -/
  | ctz (w : FmtA)
  /-- FNS (R135). -/
  | fns (w : FmtA)
  /-- BREV (R135). -/
  | brev (w : FmtA)
  /-- BFX (R136). -/
  | bfx (w : FmtA)
  /-- BFXS (R136). -/
  | bfxs (w : FmtA)
  /-- BFI (R136). -/
  | bfi (w : FmtA)
  /-- PDEP (R137). -/
  | pdep (w : FmtA)
  /-- PEXT (R137). -/
  | pext (w : FmtA)
  /-- BPERM (R138). -/
  | bperm (w : FmtA)
  /-- GF2MM (R139). -/
  | gf2mm (w : FmtA)
  /-- PRMB (R140). -/
  | prmb (w : FmtA)
  /-- MIX64 (R141). -/
  | mix64 (w : FmtA)
  /-- MOV (R142). -/
  | mov (w : FmtA)
  /-- RDLANE (R143). -/
  | rdlane (w : FmtA)
  /-- WRLANE (R144). -/
  | wrlane (w : FmtA)
  /-- PAND (R145). -/
  | pand (w : FmtA)
  /-- POR (R145). -/
  | por (w : FmtA)
  /-- PXOR (R145). -/
  | pxor (w : FmtA)
  /-- PNOT (R145). -/
  | pnot (w : FmtA)
  /-- PMOV (R146). -/
  | pmov (w : FmtA)
  /-- FADD (R148). -/
  | fadd (w : FmtA)
  /-- FSUB (R148). -/
  | fsub (w : FmtA)
  /-- FMUL (R148). -/
  | fmul (w : FmtA)
  /-- FFMA (R148). -/
  | ffma (w : FmtA)
  /-- FMIN (R149). -/
  | fmin (w : FmtA)
  /-- FMAX (R149). -/
  | fmax (w : FmtA)
  /-- FCMP (R150). -/
  | fcmp (w : FmtA)
  /-- FCLASS (R151). -/
  | fclass (w : FmtA)
  /-- FCVT (R152). -/
  | fcvt (w : FmtA)
  /-- FRND (R153). -/
  | frnd (w : FmtA)
  /-- FTOI (R154). -/
  | ftoi (w : FmtA)
  /-- ITOF (R155). -/
  | itof (w : FmtA)
  /-- FSCL (R156). -/
  | fscl (w : FmtA)
  /-- FDIV (R157). -/
  | fdiv (w : FmtA)
  /-- FSQRT (R157). -/
  | fsqrt (w : FmtA)
  /-- FRCP (R157). -/
  | frcp (w : FmtA)
  /-- FRSQ (R157). -/
  | frsq (w : FmtA)
  /-- FEX2 (R157). -/
  | fex2 (w : FmtA)
  /-- FLG2 (R157). -/
  | flg2 (w : FmtA)
  /-- FSIN (R157). -/
  | fsin (w : FmtA)
  /-- FCOS (R157). -/
  | fcos (w : FmtA)
  /-- FTANH (R157). -/
  | ftanh (w : FmtA)
  /-- XADD (R160). -/
  | xadd (w : FmtA)
  /-- XSUB (R160). -/
  | xsub (w : FmtA)
  /-- XMUL (R160). -/
  | xmul (w : FmtA)
  /-- XFMA (R160). -/
  | xfma (w : FmtA)
  /-- XDIV (R160). -/
  | xdiv (w : FmtA)
  /-- XQUANT (R161). -/
  | xquant (w : FmtA)
  /-- XCMP (R162). -/
  | xcmp (w : FmtA)
  /-- XCVT (R163). -/
  | xcvt (w : FmtA)
  /-- XRND (R164). -/
  | xrnd (w : FmtA)
  /-- XSCALEB (R165). -/
  | xscaleb (w : FmtA)
  /-- SHFL (R168). -/
  | shfl (w : FmtA)
  /-- PUSHL (R169). -/
  | pushl (w : FmtA)
  /-- VOTE (R170). -/
  | vote (w : FmtA)
  /-- RED (R172). -/
  | red (w : FmtA)
  /-- SCAN (R172). -/
  | scan (w : FmtA)
  /-- MATCH (R173). -/
  | matchLanes (w : FmtA)
  /-- BR (R174). -/
  | br (w : FmtB)
  /-- BRU (R175). -/
  | bru (w : FmtB)
  /-- CALL (R174). -/
  | call (w : FmtB)
  /-- JMPI (R177). -/
  | jmpi (w : FmtA)
  /-- CALLI (R177). -/
  | calli (w : FmtA)
  /-- RET (R178). -/
  | ret (w : FmtA)
  /-- TCALL (R179). -/
  | tcall (w : FmtA)
  /-- TRET (R182). -/
  | tret (w : FmtA)
  /-- EXIT (R183). -/
  | exit (w : FmtA)
  /-- BAR (R184). -/
  | bar (w : FmtA)
  /-- BAR_ARRIVE (R184). -/
  | barArrive (w : FmtA)
  /-- TBAR (R185). -/
  | tbar (w : FmtA)
  /-- YIELD (R186). -/
  | yield (w : FmtA)
  /-- SLEEP (R187). -/
  | sleep (w : FmtA)
  /-- RELABEL (R189). -/
  | relabel (w : FmtA)
  /-- ORDREL (R190). -/
  | ordrel (w : FmtA)
  /-- ORDSKIP (R191). -/
  | ordskip (w : FmtA)
  /-- HOLD (R192). -/
  | hold (w : FmtA)
  /-- FLOWKILL (R193). -/
  | flowkill (w : FmtA)
  /-- ENQ (R194). -/
  | enq (w : FmtA)
  /-- LD (R203). -/
  | ld (w : FmtM)
  /-- ST (R204). -/
  | st (w : FmtM)
  /-- LDC (R205). -/
  | ldc (w : FmtM)
  /-- PREF (R206). -/
  | pref (w : FmtM)
  /-- CCTL_INV1 (R206). -/
  | cctlInv1 (w : FmtM)
  /-- CCTL_INV1ALL (R206). -/
  | cctlInv1all (w : FmtM)
  /-- CCTL_CLEAN2 (R206). -/
  | cctlClean2 (w : FmtM)
  /-- CCTL_FLUSH2 (R206). -/
  | cctlFlush2 (w : FmtM)
  /-- TWAIT (R207). -/
  | twait (w : FmtM)
  /-- TSET (R207). -/
  | tset (w : FmtM)
  /-- TCLR (R207). -/
  | tclr (w : FmtM)
  /-- TTEST (R207). -/
  | ttest (w : FmtM)
  /-- ATOM (R209). -/
  | atom (w : FmtM)
  /-- CAS (R210). -/
  | cas (w : FmtM)
  /-- FENCE (R211). -/
  | fence (w : FmtM)
  /-- COPY_LOCAL (R219). -/
  | copyLocal (w : FmtE)
  /-- COPY_REMOTE (R219). -/
  | copyRemote (w : FmtE)
  /-- COPY_MULTICAST (R220). -/
  | copyMulticast (w : FmtE)
  /-- COPY_DRAIN (R221). -/
  | copyDrain (w : FmtE)
  /-- TCOPY (R223). -/
  | tcopy (w : FmtE)
  /-- WNST (R224). -/
  | wnst (w : FmtE)
  /-- RINGWAIT (R225). -/
  | ringwait (w : FmtE)
  /-- MLOOP (R228). -/
  | mloop (w : FmtE)
  /-- MCHAIN_B (R230). -/
  | mchainB (w : FmtE)
  /-- MCHAIN_E (R230). -/
  | mchainE (w : FmtE)
  /-- MZERO (R231). -/
  | mzero (w : FmtE)
  /-- ACRD (R232). -/
  | acrd (w : FmtE)
  /-- ACWR (R232). -/
  | acwr (w : FmtE)
  /-- ACST (R233). -/
  | acst (w : FmtE)
  /-- ACLD (R233). -/
  | acld (w : FmtE)
  /-- WAIT (R234). -/
  | wait (w : FmtE)
  /-- HTEST (R235). -/
  | htest (w : FmtE)
  /-- HCANCEL (R236). -/
  | hcancel (w : FmtE)
  /-- HMOV_EXPORT (R237). -/
  | hmovExport (w : FmtE)
  /-- HMOV_IMPORT (R237). -/
  | hmovImport (w : FmtE)
  /-- OWNPASS (R238). -/
  | ownpass (w : FmtE)
  /-- OWNTAKE (R238). -/
  | owntake (w : FmtE)
  /-- EVWAIT (R240). -/
  | evwait (w : FmtA)
  /-- EVSIG (R240). -/
  | evsig (w : FmtA)
  /-- SIGADD (R241). -/
  | sigadd (w : FmtA)
  /-- SIGWAIT (R241). -/
  | sigwait (w : FmtA)
  /-- TIME (R242). -/
  | time (w : FmtA)
  /-- TRAP (R195). -/
  | trap (w : FmtA)
  /-- BKPT (R195). -/
  | bkpt (w : FmtA)
  /-- RTT (R197). -/
  | rtt (w : FmtA)
  /-- CSRR (R198). -/
  | csrr (w : FmtA)
  /-- CSRW (R198). -/
  | csrw (w : FmtA)
  /-- LAUNCH (R274). -/
  | launch (ctx q : Nat)
  /-- FLOWLAUNCH (R275). -/
  | flowlaunch (ctx q : Nat)
  /-- BARRIER_AND (R276). -/
  | barrierAnd (ctx q : Nat)
  /-- BARRIER_OR (R276). -/
  | barrierOr (ctx q : Nat)
  /-- COPY_PACKET (R277). -/
  | copyPacket (ctx q : Nat)
  /-- TICKCFG (R294). -/
  | tickcfg (ctx q : Nat)
  /-- TICKCFG_STOP (R294). -/
  | tickcfgStop (ctx q : Nat)
  /-- PACKET_START (R271). -/
  | packetStart (ctx q n : Nat)
  /-- PACKET_COMPLETE (R271). -/
  | packetComplete (ctx q n : Nat)
  /-- BARRIER_EVALUATE (R276). -/
  | barrierEvaluate (ctx q n : Nat)
  /-- QUEUE_EXAMINE (R388). -/
  | queueExamine (ctx q : Nat)
  /-- QUEUE_SLOT_MAP (R281). -/
  | queueSlotMap (ctx q : Nat)
  /-- TIME_SLICE_END (R282). -/
  | timeSliceEnd (slot : Nat)
  /-- PLACE_WORKGROUP (R283). -/
  | placeWorkgroup (wid : Nat)
  /-- PREEMPT (R284). -/
  | preempt (wid : Nat)
  /-- FLOW_ENTRY_TAKE (R29). -/
  | flowEntryTake (ctx q n : Nat)
  /-- PACKING_DELAY_EXPIRY (R30). -/
  | packingDelayExpiry (ctx q n : Nat)
  /-- SLEEP_EXPIRY (R187). -/
  | sleepExpiry (core slot : Nat)
  /-- SIGNAL_POLL (R241). -/
  | signalPoll (core slot : Nat)
  /-- EVENT_POLL (R280). -/
  | eventPoll (core slot : Nat)
  /-- ENGINE_QUEUE_START (R213). -/
  | engineQueueStart (op : Nat)
  /-- ENGINE_OPERATION_COMPLETE (R214). -/
  | engineOperationComplete (op : Nat)
  /-- ARRIVAL_ADMIT (R59). -/
  | arrivalAdmit (a : Arrival)
  /-- REMOTE_ARRIVAL_BEAT (R219). -/
  | remoteArrivalBeat (b : Beat)
  /-- TAG_WAIT_TIMEOUT (R61). -/
  | tagWaitTimeout (w : TagWaiter)
  /-- KSTEP (R229). -/
  | kstep (op j : Nat)
  /-- MATRIX_COMMAND_PERFORM (R226). -/
  | matrixCommandPerform (core : Nat)
  /-- WINNOW_SHORTLIST (R298). -/
  | winnowShortlist (op : Nat)
  /-- REMOTE_REQUEST (R305). -/
  | remoteRequest (r : PeerRequest)
  /-- REMOTE_STORE_LINE (R381). -/
  | remoteStoreLine (l : PeerLine)
  /-- REMOTE_RESPONSE (R306). -/
  | remoteResponse (r : PeerResponse)
  /-- WC_AGEING (R307). -/
  | wcAgeing (core line : Nat)
  /-- FLIT_RECEIVE (R378). -/
  | flitReceive (f : Flit)
  /-- REPLAY_REQUEST (R378). -/
  | replayRequest (peer plane seq : Nat)
  /-- CHANNEL_SILENCE (R378). -/
  | channelSilence (peer plane : Nat)
  /-- HEALTH_WINDOW (R379). -/
  | healthWindow (peer plane : Nat)
  /-- HEALTH_REPORT (R379). -/
  | healthReport (r : HealthReport)
  /-- LINK_UP (R303). -/
  | linkUp (l : LinkFrame)
  /-- INGEST_FRAME (R291). -/
  | ingestFrame (port : Nat) (payload : List Byte)
  /-- TICK_DUE (R295). -/
  | tickDue (ctx stream : Nat)
  /-- TICK_GRACE_EXPIRY (R295). -/
  | tickGraceExpiry (ctx stream : Nat)
  /-- PTP_SYNC (R290). -/
  | ptpSync (y : PtpSync)
  /-- SAMPLER_SAMPLE (R325). -/
  | samplerSample (core : Nat)
  /-- RING_CONSUMED_POLL (R348). -/
  | ringConsumedPoll (r : RingName)
  /-- UNCORRECTABLE_ERROR (R361). -/
  | uncorrectableError (e : SoftError)
  /-- POWER_MEASURE (R331). -/
  | powerMeasure (m : Measurement)
  /-- THERMAL_TRIP (R332). -/
  | thermalTrip (die milli : Nat)
  /-- POWER_ON (R329). -/
  | powerOn (rail : Rail)
  /-- IMAGE_FETCH_COMPLETE (R319); without a fetch where the source has not answered. -/
  | imageFetchComplete (r : SourceResult)
  /-- CONFIG_REQUEST (R319). -/
  | configRequest (r : ConfigRequest)
  /-- HOST_BAR2_ACCESS (R312). -/
  | hostBar2Access (r : Bar2Access)
  /-- DOORBELL (R310). -/
  | doorbell (value : Word)
  /-- REGISTER_WRITE (R4). -/
  | registerWrite (offset : Nat) (data : List Byte)
  /-- LONG_LATENCY_RESULT (R106). -/
  | longLatencyResult (core slot id : Nat)
  /-- COPY_UNIT (R219). -/
  | copyUnit (op unit : Nat)
  /-- JUNCTION_TEMPERATURE (R332). -/
  | junctionTemperature (r : Junction)
  /-- UNASSIGNED_ENCODING (R111). -/
  | unassignedEncoding (word : Word)
  /-- UNASSIGNED_PACKET_TYPE (R272). -/
  | unassignedPacketType (ctx q : Nat)
  /-- DARK_LIMIT_EXPIRY (R383). -/
  | darkLimitExpiry
  /-- TB_HOLDOVER (R290). -/
  | tbHoldover
  /-- GLEANER_SWEEP (R324). -/
  | gleanerSweep
  /-- GLCTL_ONCE (R324). -/
  | glctlOnce
  /-- COOLANT_FLOW_LOW (R333). -/
  | coolantFlowLow
  /-- IDLE_ENTRY (R330). -/
  | idleEntry
  /-- RESET_RELEASE (R329). -/
  | resetRelease
  /-- BOOT_SOURCE_RETRY (R386). -/
  | bootSourceRetry
  /-- TELEMETRY_SEND (R334). -/
  | telemetrySend
  /-- CORE_CLOCK_CYCLE (R322). -/
  | coreClockCycle
  /-- ATTACH (R317). -/
  | attach
  /-- DETACH (R317). -/
  | detach
  /-- CTXCREATE (R317). -/
  | ctxcreate
  /-- CTXDESTROY (R317). -/
  | ctxdestroy
  /-- FAULTRING (R317). -/
  | faultring
  /-- SERVRING (R317). -/
  | servring
  /-- STORELOG (R317). -/
  | storelog
  /-- SAVEPOOL (R317). -/
  | savepool
  /-- PODFORM (R317). -/
  | podform
  /-- EXPORT (R317). -/
  | exportCtx
  /-- BAR2BASE (R317). -/
  | bar2base
  /-- HOSTATOMIC (R317). -/
  | hostatomic
  /-- FABPARAM (R317). -/
  | fabparam
  /-- STREAMPARAM (R317). -/
  | streamparam
  /-- POWERCAP (R317). -/
  | powercap
  /-- POWERSTATE (R330). -/
  | powerstate
  /-- TELEMETRY (R317). -/
  | telemetry
  /-- ROLLBACK (R320). -/
  | rollback
  /-- JOURNALCLR (R386). -/
  | journalclr
  /-- IMGPIECE (R317). -/
  | imgpiece
  /-- IMGDONE (R320). -/
  | imgdone
  /-- CTXCSR (R317). -/
  | ctxcsr
  /-- DEVCSR (R317). -/
  | devcsr
  /-- RESUME (R347). -/
  | resume
  /-- REDIRECT (R347). -/
  | redirect
  /-- KILL (R347). -/
  | kill
  /-- READ (R347). -/
  | read
  /-- WRITE (R347). -/
  | write
  /-- HALT (R351). -/
  | halt
  /-- STEP (R327). -/
  | step
  /-- RESUME_DBG (R327). -/
  | resumeDbg
  /-- TRACE (R327). -/
  | trace
  /-- BREAK (R327). -/
  | breakpoint
  /-- INVAL (R355). -/
  | inval
  /-- SETHWM (R355). -/
  | sethwm
  /-- RESUMEPAGE (R355). -/
  | resumepage
  /-- ENGRESUME (R366). -/
  | engresume
  /-- ENGEND (R366). -/
  | engend
  /-- ENDLAUNCH (R366). -/
  | endlaunch
  /-- CTXSAVE (R372). -/
  | ctxsave
  /-- CTXRESTORE (R375). -/
  | ctxrestore
  /-- CHRETIRE (R384). -/
  | chretire
  /-- CHRESTORE (R384). -/
  | chrestore
  /-- SLREPLAY (R381). -/
  | slreplay
  /-- SLDISCARD (R384). -/
  | sldiscard
  /-- PODHOLD (R383). -/
  | podhold
  /-- PODSET (R383). -/
  | podset
  /-- FLOWSTATE (R389). -/
  | flowstate
  /-- UNASSIGNED_MESSAGE_OP (R316). -/
  | unassignedMessageOp
  deriving DecidableEq, Repr

end Sys2Proof
end

