-- ==== Sys2Proof/WellFormed.lean ====
section
/-!
DEFINITION. Well-formed instructions: the causes of spec/05_encoding_and_assembly.md R112, the operand codes of R104, what
each instruction's entry asks of its fields (`form`), and the static checks 3, 4 and 5 of R111 over it. What
depends on the state (declared registers, clause position, operand values) is checked when the instruction issues.
-/
namespace Sys2Proof

/-- The causes of R112. -/
inductive Cause where
  | illegal | reservedBits | badType | clauseForm | poisonUse | uniformity | copyRights
  | arithBin | arithDec | intDivzero | trapInsn | bkpt
  | xlateMiss | protection | privateGrowth | align | kindStraddle | tagTimeout
  | peerUnreachable | remoteFault | callstackSpill | teamDepth | flowKilled | releaseTwice
  | memUncorrectable | handleInvalid
  deriving DecidableEq, Repr

/-- The 8-bit code of a cause (R112). -/
def Cause.code : Cause → Byte
  | .illegal => 0x01 | .reservedBits => 0x02 | .badType => 0x03 | .clauseForm => 0x04
  | .poisonUse => 0x08 | .uniformity => 0x0A | .copyRights => 0x0B
  | .arithBin => 0x10 | .arithDec => 0x11 | .intDivzero => 0x12
  | .trapInsn => 0x18 | .bkpt => 0x19
  | .xlateMiss => 0x20 | .protection => 0x21 | .privateGrowth => 0x22 | .align => 0x23 | .kindStraddle => 0x24
  | .tagTimeout => 0x28 | .peerUnreachable => 0x30 | .remoteFault => 0x31
  | .callstackSpill => 0x38 | .teamDepth => 0x39 | .flowKilled => 0x40 | .releaseTwice => 0x41
  | .memUncorrectable => 0x48 | .handleInvalid => 0x50

/-! ### Operand codes (R104) -/

/-- A lane register, v0 to v255. -/
def Code.isLane (c : Code) : Bool := c.toNat < 0x100
/-- A scalar register, s0 to s63. -/
def Code.isScalar (c : Code) : Bool := 0x100 ≤ c.toNat && c.toNat < 0x140
/-- A special. -/
def Code.isSpecial (c : Code) : Bool := 0x140 ≤ c.toNat && c.toNat < 0x156
/-- A code that names no operand. -/
def Code.isReserved (c : Code) : Bool := 0x156 ≤ c.toNat && c.toNat < 0x180
/-- An imm7. -/
def Code.isImm (c : Code) : Bool := 0x180 ≤ c.toNat
/-- A register, which may be a destination. -/
def Code.isReg (c : Code) : Bool := c.toNat < 0x140
/-- A warp-uniform special (R46): %warp %wg %core %stage %launch %width %peer %gx %gy %gz. -/
def Code.isUniformSpecial (c : Code) : Bool :=
  [0x141, 0x142, 0x143, 0x144, 0x145, 0x151, 0x152, 0x153, 0x154, 0x155].elem c.toNat
/-- A uniform operand (R46, R166): scalar register, immediate or warp-uniform special. -/
def Code.isUniform (c : Code) : Bool := c.isScalar || c.isImm || c.isUniformSpecial

/-! ### Type codes (R70, R121) -/

/-- Whether a type takes a register pair. -/
def tyWide (t : BitVec 4) : Bool := t == 2 || t == 3 || t == 11 || t == 14
/-- Lane registers of a value of a type (R43). -/
def tyRegs (t : BitVec 4) : Nat := if tyWide t then 2 else 1
def tyI (t : BitVec 4) : Bool := t.toNat ≤ 7
def tyI1 (t : BitVec 4) : Bool := t.toNat ≤ 3
def tyW32 (t : BitVec 4) : Bool := t == 0 || t == 1 || (4 ≤ t.toNat && t.toNat ≤ 7)
def tyF (t : BitVec 4) : Bool := 8 ≤ t.toNat && t.toNat ≤ 13
def tyF1 (t : BitVec 4) : Bool := 8 ≤ t.toNat && t.toNat ≤ 11
def tyAny (t : BitVec 4) : Bool := t.toNat ≤ 14

/-! ### What an entry asks of its fields -/

/-- Whether an operand field is read, written or both. -/
inductive Role where
  | src | dst | both
  deriving DecidableEq, Repr

/-- Which operands an entry admits in a field. -/
inductive Kind where
  | any        -- every operand of R104
  | reg        -- a lane or scalar register
  | lane       -- a lane register
  | scalar     -- a scalar register
  | laneScalar -- a lane register or pair, or a scalar register
  | uniform    -- a uniform operand
  deriving DecidableEq, Repr

/-- One operand field in use: its code, its role, the operands admitted, how many lane registers and how many scalar
registers it names, and the alignment of the first lane register (R43). -/
structure Use where
  code  : Code
  role  : Role
  kind  : Kind := .any
  lanes : Nat := 1
  scals : Nat := 1
  align : Nat := lanes
  deriving DecidableEq, Repr

/-- A field that is read. -/
def Use.rd (c : Code) (n : Nat := 1) (k : Kind := .any) : Use := { code := c, role := .src, kind := k, lanes := n }
/-- A field that is written. -/
def Use.wr (c : Code) (n : Nat := 1) (k : Kind := .reg) : Use := { code := c, role := .dst, kind := k, lanes := n }

/-- What an instruction's entry asks of its word: the operands in use; whether it may execute on the scalar unit (R46) and
whether it reads a predicate; whether its entry lets it name a scalar destination when it executes per lane; the PX fields
it takes; whether it is long-latency (R106); and the entry's own conditions for steps 3, 4 and 5 of R111. -/
structure Form where
  uses    : List Use := []
  unit    : Bool := false
  perLane : Bool := false
  scalarD : Bool := false
  mask    : Bool := false
  round   : Bool := false
  ximm    : Bool := false
  eSel    : Bool := false
  long    : Bool := false
  run     : BitVec 4 := 0
  px      : Option Px := none
  ill     : Bool := false
  resv    : Bool := false
  badTy   : Bool := false
  deriving DecidableEq, Repr

/-- Whether the operand stands in the class that the entry admits (R104, R111 step 3). -/
def Use.admitted (u : Use) : Bool :=
  !u.code.isReserved &&
  (u.role == .src || u.code.isReg) &&
  match u.kind with
  | .any => true
  | .reg => u.code.isReg
  | .lane => u.code.isLane
  | .scalar => u.code.isScalar
  | .laneScalar => u.code.isReg
  | .uniform => u.code.isUniform

/-- A misaligned pair or quadruple base (R43). -/
def Use.misaligned (u : Use) : Bool := u.code.isLane && u.code.toNat % u.align != 0

/-- The declared-register check of R19 for `regs` declared lane registers and `scals` scalar registers. -/
def Use.beyond (regs scals : Nat) (u : Use) : Bool :=
  (u.code.isLane && 8 * ((regs + 7) / 8) < u.code.toNat + u.lanes) ||
  (u.code.isScalar && scals < u.code.toNat - 0x100 + u.scals)

/-- Whether the instruction executes once, on the scalar unit (R46). -/
def Form.scalarUnit (f : Form) : Bool :=
  f.unit && !f.perLane && f.uses.all (fun u => u.role == .dst || u.code.isUniform)

/-- A guard that reads a predicate: other than 0b0111 and 0b1111 (R46, R108). -/
def liveGuard (g : BitVec 4) : Bool := g != 0b0111 && g != 0b1111

/-- Step 3 of R111, less the declared registers: ILLEGAL. -/
def Form.illegal (f : Form) : Bool :=
  f.ill ||
  f.uses.any (fun u => !u.admitted) ||
  (f.uses.any (fun u => u.role != .src && u.code.isScalar) && !(f.scalarUnit || f.scalarD)) ||
  (match f.px with | none => false | some p => 6 ≤ p.rm.toNat || (f.eSel && 16 ≤ p.e.toNat))

/-- The PX fields that the instruction does not take (R103, R107). -/
def Form.pxReserved (f : Form) : Bool :=
  match f.px with
  | none => false
  | some p =>
    (p.me && !(f.mask && !f.scalarUnit)) ||
    (!p.me && (p.mp != 0 || p.mz)) ||
    (p.rm != 0 && !f.round) ||
    (p.e != 0 && !f.eSel) ||
    (p.ximm != 0 && !f.ximm)

/-- Step 4 of R111: RESERVED_BITS. -/
def Form.reserved (f : Form) : Bool := f.resv || f.pxReserved || (f.run != 0 && !f.long)

/-- Step 5 of R111: BAD_TYPE. -/
def Form.badType (f : Form) : Bool := f.badTy || f.uses.any Use.misaligned

/-! ### Family A -/

/-- The MOD bits of a word outside those the entry accepts (R98). -/
def modExtra (accepted mod : BitVec 4) : Bool := mod &&& ~~~accepted != 0
/-- Whether a raw field has a bit set at or above bit n. -/
def rawAbove (c : Code) (n : Nat) : Bool := c.toNat / 2 ^ n != 0

/-- The frame of a class-0 A-format member (R114, R121). -/
def formA (w : FmtA) (uses : List Use) (mods : BitVec 4) (tyOk : Bool) : Form :=
  { uses := uses, unit := true, mask := true, run := w.run, px := w.px,
    ill := w.ty == 15, resv := modExtra mods w.mod, badTy := !tyOk }

/-- Two sources, B and C checked by the caller's flags. -/
def formAB (w : FmtA) (mods : BitVec 4) (tyOk : Bool) : Form :=
  let n := tyRegs w.ty
  let f := formA w [.wr w.d n, .rd w.a n, .rd w.b n] mods tyOk
  { f with resv := f.resv || w.c != 0 }

def formA1 (w : FmtA) (mods : BitVec 4) (tyOk : Bool) : Form :=
  let n := tyRegs w.ty
  let f := formA w [.wr w.d n, .rd w.a n] mods tyOk
  { f with resv := f.resv || w.b != 0 || w.c != 0 }

def formABC (w : FmtA) (mods : BitVec 4) (tyOk : Bool) : Form :=
  let n := tyRegs w.ty
  formA w [.wr w.d n, .rd w.a n, .rd w.b n, .rd w.c n] mods tyOk

/-- A compare into a predicate (R126, R150, R162): `codes` condition codes are accepted. -/
def formCmp (w : FmtA) (codes : Nat) (tyOk : Bool) : Form :=
  let n := tyRegs w.ty
  let f := formA w [.rd w.a n, .rd w.b n] 0b0111 tyOk
  { f with ill := f.ill || codes ≤ w.c.toNat % 8, resv := f.resv || rawAbove w.d 3 || rawAbove w.c 3 }

/-- A conversion with the source type in C[3:0]. Code 15 names no type: ILLEGAL in every conversion, as R128 says of ICVT (DEDUCED for
XCVT, whose R163 says BAD_TYPE of every other pair of types; log 73). -/
def formCvt (w : FmtA) (mods : BitVec 4) (tyOk : Bool) : Form :=
  let ts : BitVec 4 := w.c.extractLsb' 0 4
  let f := formA w [.wr w.d (tyRegs w.ty), .rd w.a (tyRegs ts)] mods tyOk
  { f with ill := f.ill || ts == 15, resv := f.resv || w.b != 0 || rawAbove w.c 4 }

/-- A rounding member. -/
def Form.rounds (f : Form) : Form := { f with round := true }
/-- A long-latency member when b holds (R106). -/
def Form.longIf (f : Form) (b : Bool) : Form := { f with long := b }

/-- Predicate logic (R145): TY 0, and the predicate fields in [2:0]. -/
def formPred (w : FmtA) (two : Bool) : Form :=
  { unit := true, perLane := true, mask := true, run := w.run, px := w.px, ill := w.ty == 15, badTy := w.ty != 0,
    resv := w.mod != 0 || rawAbove w.d 3 || rawAbove w.a 3 || (if two then rawAbove w.b 3 else w.b != 0) || w.c != 0 }

/-- The source type that FCVT, FTOI, ITOF, ICVT and XCVT name in C[3:0]. -/
def FmtA.ts (w : FmtA) : BitVec 4 := w.c.extractLsb' 0 4

/-- FCVT's pairs (R152). -/
def fcvtPair (td ts : BitVec 4) : Bool :=
  (tyF1 td && tyF1 ts) || ((td == 12 || td == 13) && (ts == 8 || ts == 12 || ts == 13)) ||
  (tyF1 td && (ts == 12 || ts == 13))

def formFcvt (w : FmtA) : Form :=
  let two := (w.ty == 12 || w.ty == 13) && w.ts == 8
  let hi := tyF1 w.ty && (w.ts == 12 || w.ts == 13)
  let us := [Use.wr w.d (tyRegs w.ty), Use.rd w.a (tyRegs w.ts)] ++ (if two then [Use.rd w.b 1] else [])
  let f := formA w us 0b1101 (fcvtPair w.ty w.ts)
  { f with ill := f.ill || w.ts == 15,
           resv := f.resv || (!two && w.b != 0) || rawAbove w.c 5 || (!hi && rawAbove w.c 4),
           round := true, long := w.ty == 11 || w.ts == 11 }

def xcvtOther (t : BitVec 4) : Bool := tyI1 t || t == 8 || t == 11
def xcvtPair (td ts : BitVec 4) : Bool := (td == 14 && xcvtOther ts) || (ts == 14 && xcvtOther td)

/-! ### Control, cross-lane, flow and system: format A with no MOD (R166) -/

/-- The frame of these members: which TY they accept and which operand fields stay zero. -/
def formK (w : FmtA) (uses : List Use) (tyOk : Bool) (zero : Bool) : Form :=
  { uses := uses, run := w.run, px := w.px, ill := w.ty == 15, resv := w.mod != 0 || !zero, badTy := !tyOk }

/-- RED and SCAN (R171). -/
def redTy (red : Bool) (op : Nat) (t : BitVec 4) : Bool :=
  if op ≤ 2 then tyI1 t || t == 8 || (red && (t == 11 || t == 14)) else tyI1 t

def formRed (w : FmtA) (red : Bool) : Form :=
  let op := w.c.toNat % 8
  let n := tyRegs w.ty
  { uses := [.wr w.d n (if red then .reg else .lane), .rd w.a n], scalarD := red, mask := !(red && w.d.isScalar),
    round := decide (8 ≤ w.ty.toNat), run := w.run, px := w.px,
    ill := w.ty == 15 || 6 ≤ op,
    resv := modExtra (if op == 0 && tyI1 w.ty then 0b1000 else 0) w.mod || w.b != 0 || rawAbove w.c (if red then 3 else 4),
    badTy := !redTy red op w.ty }

/-- VOTE (R170). -/
def formVote (w : FmtA) : Form :=
  let m := w.c.toNat % 8
  let uses := if m ≤ 2 then [] else [Use.wr w.d (if m == 3 then 2 else 1)]
  { uses := uses, scalarD := true, mask := m ≤ 2 || !w.d.isScalar, run := w.run, px := w.px,
    ill := w.ty == 15 || 5 ≤ m,
    resv := w.mod != 0 || rawAbove w.a 3 || w.b != 0 || rawAbove w.c 3 || (m ≤ 2 && rawAbove w.d 3),
    badTy := w.ty != (if m ≤ 2 then 0 else if m == 3 then 3 else 1) }

/-- The register number of CSRR and CSRW: C[2:0] : B (R198). -/
def FmtA.csr (w : FmtA) : Nat := w.c.toNat % 8 * 512 + w.b.toNat

/-- The system registers that R199 and spec/14_observing.md assign. -/
def csrAssigned (n : Nat) : Bool :=
  n ≤ 4 || (0x8 ≤ n && n ≤ 0xC) || (0x10 ≤ n && n ≤ 0x13) || n == 0x18 || n == 0x20 || n == 0x30 ||
  (0x100 ≤ n && n ≤ 0x103) || (0x120 ≤ n && n ≤ 0x130) || (0x140 ≤ n && n ≤ 0x177)

def formCsr (w : FmtA) (uses : List Use) (spare : Code) : Form :=
  { uses := uses, scalarD := true, run := w.run, px := w.px, ill := w.ty == 15 || !csrAssigned w.csr,
    resv := w.mod != 0 || spare != 0 || rawAbove w.c 3, badTy := w.ty != 1 && w.ty != 3 }

/-! ### Format M -/

/-- Bytes of an access (R105). -/
def szBytes (sz : BitVec 3) : Nat := 2 ^ sz.toNat
/-- Lane registers of an access (R203). -/
def szRegs (sz : BitVec 3) : Nat := if sz.toNat ≤ 2 then 1 else if sz.toNat == 3 then 2 else 4

/-- The address operands (R202): a lane base of global space is a pair. -/
def addrUses (w : FmtM) : List Use := [.rd w.a (if w.sp == 0 then 2 else 1), .rd w.b 1]

/-- The frame of a format-M member: ill, resv as its entry gives beyond SZ 5–7, SP 3 and SCOPE 6–7. -/
def formM (w : FmtM) (uses : List Use) (ill resv : Bool) : Form :=
  { uses := addrUses w ++ uses, run := w.run, px := w.px, ximm := true,
    ill := 5 ≤ w.sz.toNat || w.sp == 3 || 6 ≤ w.scope.toNat || ill, resv := resv }

def formTag (w : FmtM) (sz : BitVec 3) (uses : List Use) (dZero : Bool) : Form :=
  formM w uses (w.sp != 1 || w.ord != 0 || w.scope != 0 || w.sz != sz) (w.guard != 0 || !dZero)

/-! ### Format E -/

/-- The frame of an engine word: `flags` are the FLAGS bits the entry defines; `zero` says that the unused operand fields
are zero, `hasH` that the member takes a handle (R201). -/
def formE (w : FmtE) (uses : List Use) (flags : Byte) (ill : Bool) (zero hasH : Bool) : Form :=
  { uses := uses, scalarD := true, run := w.run, px := w.px, ill := ill,
    resv := w.flags &&& ~~~flags != 0 || !zero || (!hasH && w.h != 0) }

/-- A uniform engine operand (R201). -/
def Use.uni (c : Code) : Use := .rd c 1 .uniform
/-- The event-and-map operand of COPY: a field of 0x000 names none (R217). -/
def eventUse (c : Code) : List Use := if c == 0 then [] else [.uni c]

def FmtE.mode (w : FmtE) : Nat := w.flags.toNat % 8
def FmtE.sscr (w : FmtE) : Bool := w.flags.getLsbD 3
def FmtE.dscr (w : FmtE) : Bool := w.flags.getLsbD 4
def FmtE.cc (w : FmtE) : Nat := w.flags.toNat / 32

/-- COPY (R217): CC belongs to scratch destinations; the drain marker reads neither B nor C. -/
def formCopy (w : FmtE) (mode : Nat) : Form :=
  if mode == 3 then
    { formE w ([.uni w.a] ++ eventUse w.d) 0b00010011 (!w.dscr) (w.b == 0 && w.c == 0) true with
      ill := !w.dscr || w.mode != mode || Code.isReserved w.d }
  else
    formE w ([.uni w.a, .uni w.b, .uni w.c] ++ eventUse w.d) (if w.dscr then 0xFF else 0x1F)
      ((mode != 0 && !w.dscr) || w.mode != mode) true true

/-- A run of consecutive scalar registers (R222, R227, R179). -/
def Use.block (c : Code) (n : Nat) : Use := { code := c, role := .src, kind := .scalar, scals := n }

/-! ### Every instruction's form -/

/-- The default type of a format-I member (R131). -/
def immDefault : Instr → BitVec 4
  | .andImm _ | .orImm _ | .xorImm _ | .shlImm _ | .shrImm _ | .movi _ => 1
  | _ => 0

/-- The type of a format-I word (R130): E − 1, or the member's default. -/
def FmtI.ty (w : FmtI) (dflt : BitVec 4) : BitVec 4 :=
  match w.px with
  | none => dflt
  | some p => if p.e == 0 then dflt else BitVec.ofNat 4 (p.e.toNat - 1)

/-- The frame of a format-I member (R130): XIMM only on 64-bit types of the members that are no shifts. -/
def formI (w : FmtI) (dflt : BitVec 4) (shift : Bool) : Form :=
  let t := w.ty dflt
  let n := tyRegs t
  { uses := [.wr w.d n, .rd w.a n], unit := true, mask := true, eSel := true, px := w.px,
    ximm := (t == 2 || t == 3) && !shift, ill := t == 15, badTy := !tyI1 t }

/-- What the entry of each instruction asks of its word. The steps that are no words ask nothing here. -/
def form : Instr → Form
  | .clauseHeader w => { ill := w.cls == 5 || w.cls == 6 }
  | .nop w => { px := w.px }
  | .iadd w | .isub w => formAB w 0b1111 (tyI w.ty)
  | .imul w => formAB w 0b1110 (tyI w.ty)
  | .imulh w => formAB w 0 (tyI w.ty)
  | .imad w => formABC w 0b1110 (tyI w.ty)
  | .imin w | .imax w => formAB w 0b0111 (tyI w.ty)
  | .iabs w => formA1 w 0b1000 (tyI w.ty && w.ty.toNat % 2 == 0)
  | .ineg w => formA1 w 0b1000 (tyI w.ty)
  | .idiff w => formAB w 0b1000 (tyI w.ty)
  | .icmp w => formCmp w 6 (tyI1 w.ty)
  | .sel w =>
    let n := tyRegs w.ty
    { uses := [.wr w.d n, .rd w.a n, .rd w.b n], unit := true, perLane := true, mask := true, run := w.run, px := w.px,
      ill := w.ty == 15, resv := rawAbove w.c 3 }
  | .icvt w => { formCvt w 0b1000 (tyI1 w.ty && tyI1 w.ts) with }
  | .idiv w | .irem w => (formAB w 0 (tyI1 w.ty)).longIf true
  | .iaddImm w => formI w 0 false
  | .imulImm w => formI w 0 false
  | .iminImm w => formI w 0 false
  | .imaxImm w => formI w 0 false
  | .icmpImm w =>
    let f := formI w 0 false
    { f with uses := [.rd w.a (tyRegs (w.ty 0))], resv := rawAbove w.d 3, ill := f.ill || 6 ≤ w.imm.toNat / 2 ^ 29 }
  | .andImm w | .orImm w | .xorImm w => formI w 1 false
  | .shlImm w | .shrImm w => formI w 1 true
  | .sarImm w => formI w 0 true
  | .movi w => { formI w 1 false with uses := [.wr w.d (tyRegs (w.ty 1))], resv := w.a != 0 }
  | .and w | .or w | .xor w | .andn w | .orn w => formAB w 0 (tyI w.ty)
  | .not w => formA1 w 0 (tyI w.ty)
  | .lop3 w =>
    let n := tyRegs w.ty
    let f := formA w [{ code := w.d, role := .both, kind := .reg, lanes := n }, .rd w.a n, .rd w.b n] 0 (tyI w.ty)
    { f with resv := f.resv || rawAbove w.c 8 }
  | .shl w | .shr w | .sar w | .rol w | .ror w => formAB w 0 (tyI w.ty)
  | .fshl w | .fshr w => formABC w 0 (tyI w.ty)
  | .popc w | .clz w | .ctz w | .brev w => formA1 w 0 (tyI1 w.ty)
  | .fns w | .bfx w | .bfxs w =>
    let n := tyRegs w.ty
    let f := formA w [.wr w.d n, .rd w.a n, .rd w.b 1] 0 (tyI1 w.ty)
    { f with resv := f.resv || w.c != 0 }
  | .bfi w =>
    let n := tyRegs w.ty
    formA w [.wr w.d n, .rd w.a n, .rd w.b n, .rd w.c 1] 0 (tyI1 w.ty)
  | .pdep w | .pext w =>
    let n := tyRegs w.ty
    let f := formA w [.wr w.d n, .rd w.a n, .rd w.b n] 0 (tyI1 w.ty)
    { f with resv := f.resv || rawAbove w.c 1 }
  | .bperm w =>
    let f := formA w [.wr w.d 2, .rd w.a 2,
      { code := w.b, role := .src, kind := .laneScalar, lanes := 12, scals := 6, align := 2 }] 0 (w.ty == 2 || w.ty == 3)
    { f with resv := f.resv || w.c != 0, long := true }
  | .gf2mm w => (formAB w 0 (w.ty == 2 || w.ty == 3)).longIf true
  | .prmb w => formABC w 0 (tyW32 w.ty)
  | .mix64 w => formA1 w 0 (w.ty == 2 || w.ty == 3)
  | .mov w => formA1 w 0 (tyAny w.ty)
  | .rdlane w =>
    let n := tyRegs w.ty
    let f := formA w [.wr w.d n, .rd w.a n .lane, .rd w.b 1 .uniform] 0 (tyAny w.ty)
    { f with resv := f.resv || w.c != 0, scalarD := true, mask := !w.d.isScalar }
  | .wrlane w =>
    let n := tyRegs w.ty
    let f := formA w [.wr w.d n .lane, .rd w.a n .uniform, .rd w.b 1 .uniform] 0 (tyAny w.ty)
    { f with resv := f.resv || w.c != 0, mask := false }
  | .pand w | .por w | .pxor w => formPred w true
  | .pnot w => formPred w false
  | .pmov w =>
    let k := w.c.toNat % 4
    let uses := if k == 1 then [Use.wr w.d] else if k == 2 then [Use.rd w.a] else []
    let f := formA w uses 0 (w.ty == 0)
    { f with perLane := k != 2, ill := f.ill || k == 3,
             resv := f.resv || w.b != 0 || rawAbove w.c 2 ||
               (if k == 0 then rawAbove w.d 3 || rawAbove w.a 3 else if k == 1 then w.a != 0 else k == 2 && w.d != 0) }
  | .fadd w | .fsub w | .fmul w => ((formAB w 0b1111 (tyF w.ty)).rounds).longIf (w.ty == 11)
  | .ffma w => ((formABC w 0b1111 (tyF w.ty)).rounds).longIf (w.ty == 11)
  | .fmin w | .fmax w => (formAB w 0b0111 (tyF w.ty)).longIf (w.ty == 11)
  | .fcmp w => (formCmp w 8 (tyF1 w.ty)).longIf (w.ty == 11)
  | .fclass w =>
    let f := formA w [.wr w.d 1, .rd w.a (tyRegs w.ty)] 0 (tyF w.ty)
    { f with resv := f.resv || w.b != 0 || w.c != 0, long := w.ty == 11 }
  | .fcvt w => formFcvt w
  | .frnd w => ((formA1 w 0b0101 (tyF w.ty)).rounds).longIf (w.ty == 11)
  | .ftoi w => ((formCvt w 0b0101 (tyI1 w.ty && tyF1 w.ts)).rounds).longIf (w.ts == 11)
  | .itof w => ((formCvt w 0 (tyF1 w.ty && tyI1 w.ts)).rounds).longIf (w.ty == 11)
  | .fscl w =>
    let n := tyRegs w.ty
    let f := formA w [.wr w.d n, .rd w.a n, .rd w.b 1] 0b1101 (tyF w.ty)
    { f with resv := f.resv || w.c != 0, round := true, long := w.ty == 11 }
  | .fdiv w => ((formAB w 0b1111 (tyF w.ty)).rounds).longIf true
  | .fsqrt w => ((formA1 w 0b1101 (tyF w.ty)).rounds).longIf true
  | .frcp w | .frsq w | .fex2 w | .flg2 w | .fsin w | .fcos w | .ftanh w =>
    ((formA1 w 0b1101 (tyF w.ty && w.ty != 11)).rounds).longIf true
  | .xadd w | .xsub w | .xmul w | .xdiv w => ((formAB w 0b0111 (w.ty == 14)).rounds).longIf true
  | .xfma w => ((formABC w 0b0111 (w.ty == 14)).rounds).longIf true
  | .xquant w => ((formAB w 0b0100 (w.ty == 14)).rounds).longIf true
  | .xcmp w => (formCmp w 8 (w.ty == 14)).longIf true
  | .xcvt w => ((formCvt w 0b0101 (xcvtPair w.ty w.ts)).rounds).longIf true
  | .xrnd w => ((formA1 w 0b0101 (w.ty == 14)).rounds).longIf true
  | .xscaleb w =>
    let f := formA w [.wr w.d 2, .rd w.a 2, .rd w.b 1] 0b0100 (w.ty == 14)
    { f with resv := f.resv || w.c != 0, round := true, long := true }
  | .shfl w =>
    let n := tyRegs w.ty
    { formK w [.wr w.d n .lane, .rd w.a n .lane, .rd w.b 1] (tyAny w.ty) (!rawAbove w.c 2) with mask := true }
  | .pushl w =>
    let n := tyRegs w.ty
    { formK w [.wr w.d n .lane, .rd w.a n .lane, .rd w.b 1] (tyAny w.ty) (w.c == 0) with mask := true }
  | .vote w => formVote w
  | .red w => formRed w true
  | .scan w => formRed w false
  | .matchLanes w =>
    { formK w [.wr w.d 2 .lane, .rd w.a (tyRegs w.ty)] (tyAny w.ty) (w.b == 0 && w.c == 0) with mask := true }
  | .br w | .call w => { px := w.px, resv := w.u }
  | .bru w => { px := w.px, resv := !w.u }
  | .jmpi w | .calli w =>
    formK w [.rd w.a 2 .laneScalar] (w.ty == 3) (w.d == 0 && w.b == 0 && w.c == 0)
  | .ret w | .tret w | .exit w | .tbar w | .yield w | .bar w =>
    formK w [] (w.ty == 0) (w.d == 0 && w.a == 0 && w.b == 0 && w.c == 0)
  | .barArrive w => formK w [] (w.ty == 0) (w.d == 0 && w.a == 0 && w.b == 0 && w.c == 1)
  | .tcall w =>
    let n := w.c.toNat - 0x180
    { formK w [.block w.a n, .rd w.b 1 .scalar] (w.ty == 0) (w.d == 0) with
      ill := w.ty == 15 || !(0x181 ≤ w.c.toNat && w.c.toNat ≤ 0x184) }
  | .sleep w => formK w [.uni w.a] (w.ty == 0) (w.d == 0 && w.b == 0 && w.c == 0)
  | .relabel w => formK w [.rd w.a, .rd w.b] (w.ty == 0) (w.d == 0 && w.c == 0)
  | .ordrel w => formK w [.rd w.a 1 .lane, .uni w.b] (w.ty == 0) (w.d == 0 && w.c == 0)
  | .ordskip w => formK w [] (w.ty == 0) (w.d == 0 && w.a == 0 && w.b == 0 && w.c == 0)
  | .hold w | .flowkill w => formK w [.rd w.a] (w.ty == 0) (w.d == 0 && w.b == 0 && w.c == 0)
  | .enq w => formK w [.wr w.d 1 .lane, .rd w.a 2 .laneScalar, .rd w.b] (w.ty == 0) (w.c == 0)
  | .ld w =>
    { formM w [.wr w.d (szRegs w.sz)] (2 ≤ w.ord.toNat || (w.sz == 4 && w.d.isScalar)) (w.guard != 0) with
      unit := true, mask := true, long := true }
  | .st w =>
    { formM w [.rd w.d (szRegs w.sz) .reg] (w.ord == 1 || w.ord == 3 || (w.sz == 4 && w.d.isScalar)) false with
      unit := true, perLane := liveGuard w.guard }
  | .ldc w =>
    { formM w [.wr w.d (szRegs w.sz)] (w.sp != 1 || w.ord != 0 || w.scope != 0 || (w.sz == 4 && w.d.isScalar))
        (w.guard != 0) with unit := true, mask := true, long := true }
  | .pref w =>
    { formM w [] (w.sp != 0 || w.ord != 0 || w.scope != 0 || 2 ≤ w.d.toNat % 4) (w.guard != 0 || rawAbove w.d 2) with
      unit := true }
  | .cctlInv1 w =>
    { formM w [] (w.sp != 0 || w.ord != 0 || w.scope != 0 || w.d.toNat % 8 != 0) (w.guard != 0 || rawAbove w.d 3) with
      unit := true }
  | .cctlInv1all w =>
    { formM w [] (w.sp != 0 || w.ord != 0 || w.scope != 0 || w.d.toNat % 8 != 1) (w.guard != 0 || rawAbove w.d 3) with
      unit := true }
  | .cctlClean2 w =>
    { formM w [] (w.sp != 0 || w.ord != 0 || w.scope != 0 || w.d.toNat % 8 != 2) (w.guard != 0 || rawAbove w.d 3) with
      unit := true }
  | .cctlFlush2 w =>
    { formM w [] (w.sp != 0 || w.ord != 0 || w.scope != 0 || w.d.toNat % 8 != 3) (w.guard != 0 || rawAbove w.d 3) with
      unit := true }
  | .twait w | .tclr w => formTag w 0 [] (w.d == 0)
  | .tset w => formTag w 0 [.rd w.d] true
  | .ttest w => formTag w 2 [.wr w.d 1 .lane] true
  | .atom w =>
    let n := if w.sz == 3 then 2 else 1
    let nr := w.disp.getLsbD 4
    let d : Use := { code := w.d, role := if nr then .src else .both, kind := .reg, lanes := n }
    { formM w [d] (!(w.sz == 2 || w.sz == 3) || !(w.sp == 0 || w.sp == 1) || 10 ≤ w.disp.toNat % 16)
        (32 ≤ w.disp.toNat) with unit := true, perLane := liveGuard w.guard, ximm := false, long := !nr }
  | .cas w =>
    let d : Use := { code := w.d, role := .both, kind := .lane, lanes := if w.sz == 3 then 4 else 2 }
    { formM w [d] (!(w.sz == 2 || w.sz == 3) || !(w.sp == 0 || w.sp == 1)) (w.disp != 0) with
      unit := true, perLane := liveGuard w.guard, ximm := false, long := true }
  | .fence w =>
    { run := w.run, px := w.px,
      ill := 5 ≤ w.sz.toNat || w.sp == 3 || 6 ≤ w.scope.toNat || w.ord == 0,
      resv := rawAbove w.d 1 || w.a != 0 || w.b != 0 || w.sz != 0 || w.sp != 0 || w.guard != 0 || w.disp != 0 }
  | .copyLocal w => formCopy w 0
  | .copyRemote w => formCopy w 1
  | .copyMulticast w => formCopy w 2
  | .copyDrain w => formCopy w 3
  | .tcopy w => formE w [.uni w.a, .uni w.b, .block w.c 2, .uni w.d] 0b11101000 false true true
  | .wnst w => formE w [.uni w.a, .uni w.b, .uni w.c, .uni w.d] 0b00011000 false true true
  | .ringwait w =>
    { formE w [.uni w.a, .uni w.b, .wr w.d 2] 0 false (w.c == 0) false with long := true }
  | .mloop w => formE w [.block w.a 4] 0 false (w.b == 0 && w.c == 0 && w.d == 0) true
  | .mchainB w => formE w [] 1 (w.flags.getLsbD 0) (w.a == 0 && w.b == 0 && w.c == 0 && w.d == 0) false
  | .mchainE w => formE w [] 1 (!w.flags.getLsbD 0) (w.a == 0 && w.b == 0 && w.c == 0 && w.d == 0) false
  | .mzero w => formE w [.uni w.a, .uni w.b, .uni w.c, .uni w.d] 0 false true true
  | .acrd w => { formE w [.uni w.a, .uni w.b, .uni w.c, .wr w.d 1 .lane] 0 false true false with long := true }
  | .acwr w => formE w [.uni w.a, .uni w.b, .uni w.c, .rd w.d 1 .lane] 0 false true false
  | .acst w | .acld w =>
    formE w [.uni w.a, .uni w.b, .uni w.c, .uni w.d] 0b11110111 (w.flags.toNat % 4 == 3) true true
  | .wait w =>
    let st := w.flags.getLsbD 0
    { formE w (if st then [.wr w.d 1] else []) 1 false (w.a == 0 && w.b == 0 && w.c == 0 && (st || w.d == 0)) true with
      long := st }
  | .htest w => formE w [] 0 false (w.a == 0 && w.b == 0 && w.c == 0 && !rawAbove w.d 3) true
  | .hcancel w => formE w [] 0 false (w.a == 0 && w.b == 0 && w.c == 0 && w.d == 0) true
  | .hmovExport w =>
    { formE w [.wr w.a 1 .scalar] 1 (w.flags.getLsbD 0) (w.b == 0 && w.c == 0 && w.d == 0) true with long := true }
  | .hmovImport w => formE w [.rd w.a 1 .scalar] 1 (!w.flags.getLsbD 0) (w.b == 0 && w.c == 0 && w.d == 0) true
  | .ownpass w => formE w [.uni w.a, .uni w.b, .uni w.c] 0 false (w.d == 0) true
  | .owntake w => formE w [.uni w.c] 0 false (w.a == 0 && w.b == 0 && w.d == 0) true
  | .evwait w => { formK w [.wr w.d 1, .rd w.a, .rd w.b] (w.ty == 1) (w.c == 0) with unit := true, long := true }
  | .evsig w => { formK w [.rd w.a, .rd w.b] (w.ty == 1) (w.c == 0 && w.d == 0) with unit := true }
  | .sigadd w => { formK w [.rd w.a 2 .laneScalar, .rd w.b 2] (w.ty == 2) (w.c == 0 && w.d == 0) with unit := true }
  | .sigwait w =>
    { formK w [.wr w.d 2, .rd w.a 2 .laneScalar, .rd w.b 2] (w.ty == 2) (!rawAbove w.c 3) with
      unit := true, long := true, ill := w.ty == 15 || 6 ≤ w.c.toNat % 8 }
  | .time w =>
    { formK w [.wr w.d 2] (w.ty == 3) (w.a == 0 && w.b == 0 && w.c == 0) with unit := true, long := true }
  | .trap w => formK w [.uni w.a] (w.ty == 0) (w.d == 0 && w.b == 0 && w.c == 0)
  | .bkpt w | .rtt w => formK w [] (w.ty == 0) (w.d == 0 && w.a == 0 && w.b == 0 && w.c == 0)
  | .csrr w => formCsr w [.wr w.d (tyRegs w.ty)] w.a
  | .csrw w => formCsr w [.rd w.a (tyRegs w.ty)] w.d
  | .unassignedEncoding _ | .launch .. | .flowlaunch .. | .barrierAnd .. | .barrierOr .. | .copyPacket ..
  | .tickcfg .. | .tickcfgStop .. | .packetStart .. | .packetComplete .. | .barrierEvaluate .. | .queueExamine ..
  | .queueSlotMap .. | .timeSliceEnd _ | .placeWorkgroup _ | .preempt _ | .flowEntryTake .. | .packingDelayExpiry ..
  | .sleepExpiry .. | .signalPoll .. | .eventPoll .. | .engineQueueStart _ | .engineOperationComplete _
  | .arrivalAdmit _ | .remoteArrivalBeat _ | .tagWaitTimeout _ | .kstep .. | .matrixCommandPerform _
  | .winnowShortlist _ | .remoteRequest _ | .remoteStoreLine _ | .remoteResponse _ | .wcAgeing .. | .flitReceive _
  | .replayRequest .. | .channelSilence .. | .healthWindow .. | .healthReport _ | .linkUp _ | .darkLimitExpiry
  | .ingestFrame .. | .tickDue .. | .tickGraceExpiry .. | .ptpSync _ | .tbHoldover | .gleanerSweep | .glctlOnce
  | .samplerSample _ | .ringConsumedPoll _ | .uncorrectableError _ | .powerMeasure _ | .thermalTrip ..
  | .coolantFlowLow | .idleEntry | .powerOn _ | .resetRelease | .imageFetchComplete .. | .bootSourceRetry
  | .configRequest _ | .hostBar2Access _ | .doorbell _ | .registerWrite .. | .telemetrySend
  | .attach | .detach | .ctxcreate | .ctxdestroy | .faultring | .servring | .storelog | .savepool
  | .podform | .exportCtx | .bar2base | .hostatomic | .fabparam | .streamparam | .powercap
  | .powerstate | .telemetry | .rollback | .journalclr | .imgpiece | .imgdone | .ctxcsr | .devcsr
  | .resume | .redirect | .kill | .read | .write | .halt | .step | .resumeDbg | .trace | .breakpoint
  | .inval | .sethwm | .resumepage | .engresume | .engend | .endlaunch | .ctxsave | .ctxrestore
  | .chretire | .chrestore | .slreplay | .sldiscard | .podhold | .podset | .flowstate
  | .longLatencyResult .. | .copyUnit .. | .junctionTemperature .. | .coreClockCycle | .unassignedPacketType ..
  | .unassignedMessageOp => {}

/-- Whether the instruction executes once, on the scalar unit (R46). -/
def Instr.scalarUnit (i : Instr) : Bool := (form i).scalarUnit

/-! ### Well-formedness -/

/-- The major opcodes that R110 assigns. -/
def majorAssigned (m : Nat) : Bool :=
  [0x01, 0x02, 0x03, 0x10, 0x11, 0x12, 0x13, 0x14, 0x18, 0x19, 0x1A, 0x20, 0x28, 0x29, 0x30, 0x38, 0x39, 0x3A, 0x3B,
   0x40, 0x41, 0x42, 0x43, 0x48, 0x50].elem m

/-- Step 1 of R111: an all-zero word or an unassigned major. -/
def wordUnassigned (w : Word) : Bool := !majorAssigned (w.toNat / 2 ^ 56)

/-- The ranges of the numbers that the steps of other agents carry. -/
def eventOk : Instr → Bool
  | .unassignedEncoding w => wordUnassigned w
  | .sleepExpiry c s | .signalPoll c s | .eventPoll c s | .longLatencyResult c s _ => c < 96 && s < 128
  | .tagWaitTimeout (.lanes c s) => c < 96 && s < 128
  | .matrixCommandPerform c | .samplerSample c | .wcAgeing c _ => c < 96
  | .timeSliceEnd n => n < 64
  | .remoteArrivalBeat b => b.sender < 16 && b.cc < 8 && b.data.length % 16 == 0
  | .remoteRequest r => r.sender < 16
  | .remoteStoreLine l => l.sender < 16 && l.data.length == 128
  | .flitReceive f => f.peer < 16 && f.plane < 64
  | .replayRequest p pl q => p < 16 && pl < 64 && q < 256
  | .channelSilence p pl | .healthWindow p pl => p < 16 && pl < 64
  | .healthReport r => r.peer < 16 && r.plane < 64 && r.score < 1024
  | .linkUp l => l.peer < 16 && l.plane < 64
  | .ingestFrame port _ => port < 65536
  | .kstep _ j => j < 4096
  | .thermalTrip d _ => d < 2
  | .powerMeasure m => m.junctions.length == 48
  | .junctionTemperature r => r.die < 2
  | .registerWrite off d => off + d.length ≤ 0x4000000
  | _ => true

/-- Check 3 to 5 of R111 on a word as its entry gives them: the step that fails first, with its cause. -/
def Instr.firstFault (i : Instr) : Option (Nat × Cause) :=
  if (form i).illegal then some (3, .illegal)
  else if (form i).reserved then some (4, .reservedBits)
  else if (form i).badType then some (5, .badType)
  else none

/-- A well-formed instruction: no static check of R111 refuses its word, and its numbers are in range. -/
def Instr.wf (i : Instr) : Bool := (i.firstFault == none) && eventOk i

end Sys2Proof
end

