-- ==== Sys2Proof/Machine/Flags.lean ====
section
/-!
DEFINITION. Conditions, rounding attributes, elements of packed types and comparisons: every flag computation of
spec/04_numbers.md R70 to R77 and spec/06_ref_lane_arithmetic.md R124, R126.
-/
namespace Sys2Proof.Machine

/-! ### Conditions (R76) -/

/-- The conditions an operation raises. `tiny` is a tiny result, exact or not, which an enabled underflow traps (R77). -/
structure Conds where
  nv   : Bool := false
  dz   : Bool := false
  ovf  : Bool := false
  uf   : Bool := false
  nx   : Bool := false
  tiny : Bool := false
  deriving DecidableEq, Repr

/-- No condition. -/
def Conds.none : Conds := {}
/-- Invalid operation. -/
def Conds.invalid : Conds := { nv := true }
/-- Division by zero. -/
def Conds.divZero : Conds := { dz := true }

/-- The conditions of several elements or combinations (R76, R172). -/
def Conds.join (a b : Conds) : Conds :=
  { nv := a.nv || b.nv, dz := a.dz || b.dz, ovf := a.ovf || b.ovf, uf := a.uf || b.uf, nx := a.nx || b.nx,
    tiny := a.tiny || b.tiny }

/-- The sticky flags: NX, UF, OF, DZ, NV from bit 4 down (R76). -/
def Conds.flags (c : Conds) : BitVec 5 :=
  BitVec.ofBool c.nx ++ BitVec.ofBool c.uf ++ BitVec.ofBool c.ovf ++ BitVec.ofBool c.dz ++ BitVec.ofBool c.nv

/-- What an enabled trap sees: the flags, with UF also for an exact tiny result (R77). -/
def Conds.trapping (c : Conds) : BitVec 5 :=
  BitVec.ofBool c.nx ++ BitVec.ofBool (c.uf || c.tiny) ++ BitVec.ofBool c.ovf ++ BitVec.ofBool c.dz ++ BitVec.ofBool c.nv

/-- The enabled conditions that cause a trap, for COND of TRAPCAUSE (R77, R200): the enabled ones, and an enabled overflow
or underflow does not also trap for inexact. -/
def Conds.cond (c : Conds) (enabled : BitVec 5) : BitVec 5 :=
  let e := c.trapping &&& enabled
  if e.getLsbD 2 || e.getLsbD 3 then e &&& 0b01111 else e

/-! ### Rounding attributes (R74) -/

/-- RNE, RTZ, RDN, RUP, RNA. -/
inductive Rm where
  | rne | rtz | rdn | rup | rna
  deriving DecidableEq, Repr

/-- RM codes 0 to 4. -/
def Rm.ofCode (c : BitVec 3) : Rm :=
  match c.toNat with
  | 1 => .rtz
  | 2 => .rdn
  | 3 => .rup
  | 4 => .rna
  | _ => .rne

/-- Whether the magnitude q + r/d, 0 ≤ r < d, of sign s rounds up to q + 1. -/
def Rm.up (rm : Rm) (s : Bool) (q r d : Nat) : Bool :=
  match rm with
  | .rne => d < 2 * r || (2 * r == d && q % 2 == 1)
  | .rtz => false
  | .rdn => s && r != 0
  | .rup => !s && r != 0
  | .rna => r != 0 && d ≤ 2 * r

/-- n / d rounded to an integer under the attribute, with whether it was inexact. -/
def roundDiv (rm : Rm) (s : Bool) (n d : Nat) : Nat × Bool :=
  let q := n / d
  let r := n % d
  (if rm.up s q r d then q + 1 else q, r != 0)

/-- Whether overflow gives infinity rather than the largest finite value (IEEE 754-2019 for the attribute). -/
def Rm.toInf (rm : Rm) (s : Bool) : Bool :=
  match rm with
  | .rne | .rna => true
  | .rtz => false
  | .rdn => s
  | .rup => !s

/-- Digits of n in base 2, 0 for 0. -/
def bitLen (n : Nat) : Nat := if n == 0 then 0 else Nat.log2 n + 1

/-- Digits of n in base b with `fuel` at least their count. -/
def digitsAux (b : Nat) : Nat → Nat → Nat
  | 0, _ => 0
  | fuel + 1, n => if n == 0 then 0 else digitsAux b fuel (n / b) + 1

/-- Decimal digits of n, 0 for 0. -/
def decDigits (n : Nat) : Nat := digitsAux 10 (bitLen n) n

/-- ⌊√n⌋ of n < 4^(k+1), bit by bit from bit k. -/
def isqrtAux (n : Nat) : Nat → Nat → Nat
  | 0, r => if (r + 1) * (r + 1) ≤ n then r + 1 else r
  | k + 1, r => isqrtAux n k (if (r + 2 ^ (k + 1)) * (r + 2 ^ (k + 1)) ≤ n then r + 2 ^ (k + 1) else r)

/-- ⌊√n⌋. -/
def isqrt (n : Nat) : Nat := isqrtAux n (bitLen n / 2 + 1) 0

/-! ### Elements (R70) -/

/-- The bits of one element of a type. -/
def elemBits (t : BitVec 4) : Nat :=
  match t.toNat with
  | 0 | 1 | 8 => 32
  | 2 | 3 | 11 | 14 => 64
  | 4 | 5 => 8
  | _ => 16

/-- The elements of a type. -/
def elemCount (t : BitVec 4) : Nat :=
  match t.toNat with
  | 4 | 5 => 4
  | 6 | 7 | 12 | 13 => 2
  | _ => 1

/-- Signed integer types: i32, i64, i8x4, i16x2. -/
def tySigned (t : BitVec 4) : Bool := t == 0 || t == 2 || t == 4 || t == 6

/-- Element i of a lane value. -/
def elemAt (t : BitVec 4) (x : Word) (i : Nat) : Nat := x.toNat / 2 ^ (elemBits t * i) % 2 ^ elemBits t

/-- A lane value from its elements, the first lowest. -/
def ofElems (t : BitVec 4) (es : List Nat) : Word :=
  BitVec.ofNat 64 (es.foldr (fun e acc => e % 2 ^ elemBits t + 2 ^ elemBits t * acc) 0)

/-- The element indices of a type. -/
def elems (t : BitVec 4) : List Nat := List.range (elemCount t)

/-! ### Integers (R124) -/

/-- A w-bit pattern as a signed integer. -/
def signedOf (w n : Nat) : Int := if 2 ^ (w - 1) ≤ n % 2 ^ w then (n % 2 ^ w : Nat) - (2 ^ w : Nat) else (n % 2 ^ w : Nat)

/-- A w-bit pattern as an exact integer, signed or unsigned. -/
def intOf (signed : Bool) (w n : Nat) : Int := if signed then signedOf w n else (n % 2 ^ w : Nat)

/-- The least value of a w-bit type. -/
def minOf (signed : Bool) (w : Nat) : Int := if signed then -(2 ^ (w - 1) : Nat) else 0
/-- The largest value of a w-bit type. -/
def maxOf (signed : Bool) (w : Nat) : Int := if signed then (2 ^ (w - 1) : Nat) - 1 else (2 ^ w : Nat) - 1

/-- The w-bit pattern of an integer modulo 2^w. -/
def wrap (w : Nat) (y : Int) : Nat := (y % (2 ^ w : Nat)).toNat

/-- sat(x, lo, hi) of R113. -/
def clamp (x lo hi : Int) : Int := if x < lo then lo else if hi < x then hi else x

/-- An exact result fitted to the type: saturated, or modulo 2^w (R124). -/
def fit (sat signed : Bool) (w : Nat) (y : Int) : Nat :=
  wrap w (if sat then clamp y (minOf signed w) (maxOf signed w) else y)

/-! ### Comparisons (R126) -/

/-- The outcome of a comparison: less, equal, greater, or unordered. -/
inductive Ord4 where
  | lt | eq | gt | unord
  deriving DecidableEq, Repr

/-- The order of two integers. -/
def ordInt (a b : Int) : Ord4 := if a < b then .lt else if a == b then .eq else .gt

/-- The condition codes of R126 on an outcome. -/
def condHolds (cc : Nat) (o : Ord4) : Bool :=
  match cc, o with
  | 0, .eq => true
  | 1, .eq => false
  | 1, _ => true
  | 2, .lt => true
  | 3, .lt | 3, .eq => true
  | 4, .gt => true
  | 5, .gt | 5, .eq => true
  | 6, .unord => false
  | 6, _ => true
  | 7, .unord => true
  | _, _ => false

/-- Whether a NaN operand raises NV: for a signalling NaN always, for a quiet one with lt, le, gt, ge (R126). -/
def condInvalid (cc : Nat) (o : Ord4) (signalling : Bool) : Bool :=
  signalling || (o == .unord && 2 ≤ cc && cc ≤ 5)

end Sys2Proof.Machine
end

