-- ==== Sys2Proof/Machine/Float.lean ====
section
/-!
DEFINITION. Binary floating point of spec/04_numbers.md R71 to R74 and the operations of spec/06_ref_lane_arithmetic.md
R148 to R157 that are algebraic: exact results as integers, rounded once by `roundFin`.
-/
namespace Sys2Proof.Machine

/-- A binary interchange format: exponent bits and fraction bits (R71). -/
structure BinFmt where
  eb : Nat
  fb : Nat
  deriving DecidableEq, Repr

def fmtF32 : BinFmt := ⟨8, 23⟩
def fmtF16 : BinFmt := ⟨5, 10⟩
def fmtBf16 : BinFmt := ⟨8, 7⟩
def fmtF64 : BinFmt := ⟨11, 52⟩

/-- The format of a floating-point type code (R70). -/
def fmtOf (t : BitVec 4) : BinFmt :=
  match t.toNat with
  | 9 | 12 => fmtF16
  | 10 | 13 => fmtBf16
  | 11 => fmtF64
  | _ => fmtF32

/-- Width in bits. -/
def BinFmt.width (f : BinFmt) : Nat := 1 + f.eb + f.fb
/-- Precision in bits. -/
def BinFmt.prec (f : BinFmt) : Nat := f.fb + 1
/-- Exponent bias. -/
def BinFmt.bias (f : BinFmt) : Nat := 2 ^ (f.eb - 1) - 1
/-- The exponent of the last place of a subnormal. -/
def BinFmt.qmin (f : BinFmt) : Int := 1 - (f.bias : Int) - f.fb
/-- Infinity without sign. -/
def BinFmt.infBits (f : BinFmt) : Nat := (2 ^ f.eb - 1) * 2 ^ f.fb
/-- The canonical quiet NaN (R71). -/
def BinFmt.nanBits (f : BinFmt) : Nat := f.infBits + 2 ^ (f.fb - 1)
/-- The largest finite magnitude. -/
def BinFmt.maxBits (f : BinFmt) : Nat := f.infBits - 1
/-- The sign bit's place value. -/
def BinFmt.signBit (f : BinFmt) : Nat := 2 ^ (f.eb + f.fb)
/-- A magnitude with its sign. -/
def BinFmt.withSign (f : BinFmt) (s : Bool) (n : Nat) : Nat := if s then f.signBit + n else n

/-- A datum (R71): a NaN, an infinity, or (−1)^s × m × 2^e. -/
inductive FVal where
  | nan (signalling : Bool)
  | inf (s : Bool)
  | fin (s : Bool) (m : Nat) (e : Int)
  deriving DecidableEq, Repr

/-- The datum of a bit pattern; subnormals at their value (R71). -/
def unpack (f : BinFmt) (x : Nat) : FVal :=
  let s := x / f.signBit % 2 == 1
  let ex := x / 2 ^ f.fb % 2 ^ f.eb
  let fr := x % 2 ^ f.fb
  if ex == 2 ^ f.eb - 1 then
    if fr == 0 then .inf s else .nan (fr / 2 ^ (f.fb - 1) == 0)
  else if ex == 0 then .fin s fr f.qmin
  else .fin s (2 ^ f.fb + fr) (f.qmin + ex - 1)

def FVal.isNan : FVal → Bool
  | .nan _ => true
  | _ => false
def FVal.isSnan : FVal → Bool
  | .nan b => b
  | _ => false
def FVal.sign : FVal → Bool
  | .nan _ => false
  | .inf s => s
  | .fin s _ _ => s
def FVal.isZero : FVal → Bool
  | .fin _ m _ => m == 0
  | _ => false

/-- A result and the conditions raised (R113, round_T). -/
structure FRes where
  bits : Nat
  c    : Conds := {}
  deriving DecidableEq, Repr

/-- The canonical NaN, with NV when `nv` (R73). -/
def FRes.nan (f : BinFmt) (nv : Bool) : FRes := { bits := f.nanBits, c := { nv := nv } }

/-- (−1)^s × (m + δ) × 2^e rounded once to the format (R72), where δ is 0, or with `sticky` some value strictly between 0
and 1; a caller that gives `sticky` gives m more bits than the precision. Tininess is detected after rounding. -/
def roundFin (f : BinFmt) (rm : Rm) (s : Bool) (m : Nat) (e : Int) (sticky : Bool := false) : FRes :=
  let m := if sticky then 2 * m + 1 else m
  let e := if sticky then e - 1 else e
  if m == 0 then { bits := f.withSign s 0 }
  else
    let len : Int := bitLen m
    let q1 := e + len - f.prec
    let q := if q1 < f.qmin then f.qmin else q1
    let at_ (q : Int) : Nat × Bool :=
      let k := q - e
      if k ≤ 0 then (m * 2 ^ (-k).toNat, false)
      else if len + 1 < k then roundDiv rm s 1 4
      else roundDiv rm s m (2 ^ k.toNat)
    let (n, inexact) := at_ q
    let tiny := q1 < f.qmin && !((at_ q1).1 == 2 ^ f.prec && q1 + 1 == f.qmin)
    let top := (q - f.qmin) * (2 ^ f.fb : Nat) + n
    if (f.infBits : Int) ≤ top then
      { bits := f.withSign s (if rm.toInf s then f.infBits else f.maxBits), c := { ovf := true, nx := true } }
    else
      { bits := f.withSign s top.toNat, c := { uf := tiny && inexact, nx := inexact, tiny := tiny } }

/-- The sign of an exact zero sum of addends of signs a and b (R72): the same sign, or + except under RDN. -/
def zeroSign (rm : Rm) (a b : Bool) : Bool := if a == b then a else rm == .rdn

/-- An integer with its sign read from it. -/
def signedFin (s : Bool) (m : Nat) : Int := if s then -(m : Int) else m

/-- The sum of two finite addends (−1)^s × m × 2^e, as one integer at their lower exponent. -/
def alignSum (s1 : Bool) (m1 : Nat) (e1 : Int) (s2 : Bool) (m2 : Nat) (e2 : Int) : Int × Int :=
  let e := if e1 ≤ e2 then e1 else e2
  (signedFin s1 (m1 * 2 ^ (e1 - e).toNat) + signedFin s2 (m2 * 2 ^ (e2 - e).toNat), e)

/-- The rounded sum of two finite addends. -/
def sumFin (f : BinFmt) (rm : Rm) (s1 : Bool) (m1 : Nat) (e1 : Int) (s2 : Bool) (m2 : Nat) (e2 : Int) : FRes :=
  if m1 == 0 && m2 == 0 then { bits := f.withSign (zeroSign rm s1 s2) 0 }
  else if m1 == 0 then roundFin f rm s2 m2 e2
  else if m2 == 0 then roundFin f rm s1 m1 e1
  else
    let (z, e) := alignSum s1 m1 e1 s2 m2 e2
    if z == 0 then { bits := f.withSign (rm == .rdn) 0 }
    else roundFin f rm (z < 0) z.natAbs e

/-- a + b (R148). -/
def fAdd (f : BinFmt) (rm : Rm) (a b : FVal) : FRes :=
  match a, b with
  | .nan s, y => .nan f (s || y.isSnan)
  | x, .nan s => .nan f (s || x.isSnan)
  | .inf s, .inf t => if s == t then { bits := f.withSign s f.infBits } else .nan f true
  | .inf s, .fin .. => { bits := f.withSign s f.infBits }
  | .fin .., .inf t => { bits := f.withSign t f.infBits }
  | .fin s m e, .fin t n d => sumFin f rm s m e t n d

/-- −a. -/
def FVal.neg : FVal → FVal
  | .nan b => .nan b
  | .inf s => .inf (!s)
  | .fin s m e => .fin (!s) m e

/-- a × b (R148). -/
def fMul (f : BinFmt) (rm : Rm) (a b : FVal) : FRes :=
  match a, b with
  | .nan s, y => .nan f (s || y.isSnan)
  | x, .nan s => .nan f (s || x.isSnan)
  | .inf s, .inf t => { bits := f.withSign (s != t) f.infBits }
  | .inf s, .fin t n _ => if n == 0 then .nan f true else { bits := f.withSign (s != t) f.infBits }
  | .fin s m _, .inf t => if m == 0 then .nan f true else { bits := f.withSign (s != t) f.infBits }
  | .fin s m e, .fin t n d => roundFin f rm (s != t) (m * n) (e + d)

/-- a × b + c, rounded once; 0 × ∞ raises NV whatever c is (R72, R148). -/
def fFma (f : BinFmt) (rm : Rm) (a b c : FVal) : FRes :=
  let badProduct := match a, b with
    | .inf _, .fin _ n _ => n == 0
    | .fin _ m _, .inf _ => m == 0
    | _, _ => false
  if badProduct then .nan f true
  else if a.isNan || b.isNan || c.isNan then .nan f (a.isSnan || b.isSnan || c.isSnan)
  else
    match a, b, c with
    | .fin s m e, .fin t n d, .fin u k g => sumFin f rm (s != t) (m * n) (e + d) u k g
    | .fin .., .fin .., .inf u => { bits := f.withSign u f.infBits }
    | _, _, .inf u =>
      if (a.sign != b.sign) == u then { bits := f.withSign u f.infBits } else .nan f true
    | _, _, _ => { bits := f.withSign (a.sign != b.sign) f.infBits }

/-- The order of two data, −0 equal to +0 (R150). -/
def fOrd (a b : FVal) : Ord4 :=
  match a, b with
  | .nan _, _ => .unord
  | _, .nan _ => .unord
  | .inf s, .inf t => if s == t then .eq else if s then .lt else .gt
  | .inf s, .fin .. => if s then .lt else .gt
  | .fin .., .inf t => if t then .gt else .lt
  | .fin s m e, .fin t n d =>
    let z := (alignSum s m e (!t) n d).1
    if z < 0 then .lt else if z == 0 then .eq else .gt

/-- Whether a is below b in the order of minimumNumber, −0 below +0 (R73). -/
def fBelow (a b : FVal) : Bool :=
  match fOrd a b with
  | .lt => true
  | .eq => a.sign && !b.sign
  | _ => false

/-- FMIN and FMAX (R149) on bit patterns x and y. -/
def fMinMax (f : BinFmt) (max : Bool) (x y : Nat) : FRes :=
  let a := unpack f x
  let b := unpack f y
  let c : Conds := { nv := a.isSnan || b.isSnan }
  if a.isNan && b.isNan then { bits := f.nanBits, c := c }
  else if a.isNan then { bits := y, c := c }
  else if b.isNan then { bits := x, c := c }
  else { bits := if (if max then fBelow a b else fBelow b a) then y else x, c := c }

/-- FCLASS (R151): the mask of a bit pattern. -/
def fClass (f : BinFmt) (x : Nat) : Nat :=
  match unpack f x with
  | .nan true => 256
  | .nan false => 512
  | .inf s => if s then 1 else 128
  | .fin s m e =>
    if m == 0 then (if s then 8 else 16)
    else if e == f.qmin && m < 2 ^ f.fb then (if s then 4 else 32)
    else if s then 2 else 64

/-- Whether `d` is as wide as `s` in both fields, so that a conversion keeps a NaN's payload (R73). -/
def BinFmt.covers (d s : BinFmt) : Bool := s.eb ≤ d.eb && s.fb ≤ d.fb

/-- FCVT of a bit pattern from format `fs` to `fd` (R152). -/
def fCvt (fd fs : BinFmt) (rm : Rm) (x : Nat) : FRes :=
  match unpack fs x with
  | .nan sig =>
    if fd.covers fs then
      let frac := (x % 2 ^ fs.fb) * 2 ^ (fd.fb - fs.fb)
      let quiet := if frac / 2 ^ (fd.fb - 1) == 0 then frac + 2 ^ (fd.fb - 1) else frac
      { bits := fd.withSign (x / fs.signBit % 2 == 1) (fd.infBits + quiet), c := { nv := sig } }
    else .nan fd sig
  | .inf s => { bits := fd.withSign s fd.infBits }
  | .fin s m e => roundFin fd rm s m e

/-- m × 2^e rounded to an integer under the attribute, with whether it was inexact. -/
def roundInt (rm : Rm) (s : Bool) (m : Nat) (e : Int) : Nat × Bool :=
  if 0 ≤ e then (m * 2 ^ e.toNat, false) else roundDiv rm s m (2 ^ (-e).toNat)

/-- FRND (R153): no NX. -/
def fRnd (f : BinFmt) (rm : Rm) (x : Nat) : FRes :=
  match unpack f x with
  | .nan sig => .nan f sig
  | .inf s => { bits := f.withSign s f.infBits }
  | .fin s m e =>
    let n := (roundInt rm s m e).1
    { bits := (roundFin f .rne s n 0).bits }

/-- FTOI (R154) of a datum to a w-bit integer. -/
def fToI (signed : Bool) (w : Nat) (rm : Rm) (a : FVal) : Nat × Conds :=
  match a with
  | .nan _ => (0, Conds.invalid)
  | .inf s => (wrap w (if s then minOf signed w else maxOf signed w), Conds.invalid)
  | .fin s m e =>
    let (n, inexact) := roundInt rm s m e
    let z := signedFin s n
    if z < minOf signed w || maxOf signed w < z then
      (wrap w (clamp z (minOf signed w) (maxOf signed w)), Conds.invalid)
    else (wrap w z, { nx := inexact })

/-- ITOF (R155). -/
def fOfI (f : BinFmt) (rm : Rm) (z : Int) : FRes := roundFin f rm (z < 0) z.natAbs 0

/-- FSCL (R156): a × 2^n. -/
def fScale (f : BinFmt) (rm : Rm) (x : Nat) (n : Int) : FRes :=
  match unpack f x with
  | .nan sig => .nan f sig
  | .inf s => { bits := f.withSign s f.infBits }
  | .fin s m e => roundFin f rm s m (e + n)

/-- m / n with `f.prec + 3` bits or more, as roundFin takes it. -/
def quotFin (f : BinFmt) (rm : Rm) (s : Bool) (m : Nat) (e : Int) (n : Nat) (d : Int) : FRes :=
  let k := f.prec + 3 + bitLen n
  let num := m * 2 ^ k
  roundFin f rm s (num / n) (e - k - d) (num % n != 0)

/-- a / b (R157, R158). -/
def fDiv (f : BinFmt) (rm : Rm) (a b : FVal) : FRes :=
  match a, b with
  | .nan s, y => .nan f (s || y.isSnan)
  | x, .nan s => .nan f (s || x.isSnan)
  | .inf _, .inf _ => .nan f true
  | .inf s, .fin t _ _ => { bits := f.withSign (s != t) f.infBits }
  | .fin s _ _, .inf t => { bits := f.withSign (s != t) 0 }
  | .fin s m e, .fin t n d =>
    if n == 0 then
      if m == 0 then .nan f true else { bits := f.withSign (s != t) f.infBits, c := Conds.divZero }
    else if m == 0 then { bits := f.withSign (s != t) 0 }
    else quotFin f rm (s != t) m e n d

/-- √a (R157, R158). -/
def fSqrt (f : BinFmt) (rm : Rm) (a : FVal) : FRes :=
  match a with
  | .nan s => .nan f s
  | .inf s => if s then .nan f true else { bits := f.infBits }
  | .fin s m e =>
    if m == 0 then { bits := f.withSign s 0 }
    else if s then .nan f true
    else
      let m := if e % 2 == 0 then m else 2 * m
      let e := if e % 2 == 0 then e else e - 1
      let k := f.prec + 4
      let n := m * 2 ^ (2 * k)
      let r := isqrt n
      roundFin f rm false r (e / 2 - k) (r * r != n)

/-- 1 / a (R157, R158). -/
def fRcp (f : BinFmt) (rm : Rm) (a : FVal) : FRes := fDiv f rm (.fin false 1 0) a

/-- 1 / √a (R157, R158). -/
def fRsq (f : BinFmt) (rm : Rm) (a : FVal) : FRes :=
  match a with
  | .nan s => .nan f s
  | .inf s => if s then .nan f true else { bits := 0 }
  | .fin s m e =>
    if m == 0 then { bits := f.withSign s f.infBits, c := Conds.divZero }
    else if s then .nan f true
    else
      let m := if e % 2 == 0 then m else 2 * m
      let e := if e % 2 == 0 then e else e - 1
      let k := f.prec + 4 + bitLen m
      let r := isqrt (2 ^ (2 * k) / m)
      roundFin f rm false r (-(e / 2) - k) (r * r * m != 2 ^ (2 * k))

/-- MOD bits 8, 7 and 6 of a floating-point source: the sign bit alone (R147). -/
def fModSign (f : BinFmt) (neg abs : Bool) (x : Nat) : Nat :=
  let x := if abs then x % f.signBit else x
  if neg then (if x / f.signBit % 2 == 1 then x - f.signBit else x + f.signBit) else x

/-- MOD bit 9 (R147): clamps the result to [+0.0, +1.0]. -/
def fSat (f : BinFmt) (x : Nat) : Nat :=
  match unpack f x with
  | .nan _ => 0
  | .inf s => if s then 0 else f.bias * 2 ^ f.fb
  | .fin s m _ => if s || m == 0 then 0 else if f.bias * 2 ^ f.fb < x then f.bias * 2 ^ f.fb else x

end Sys2Proof.Machine
end

