-- ==== Sys2Proof/Machine/Trans.lean ====
section
/-!
DEFINITION. The transcendental members of 0x19: FEX2, FLG2, FSIN, FCOS, FTANH (spec/06_ref_lane_arithmetic.md R157, R158).
Each is the exact mathematical result rounded once. The result is computed in fixed point with 1,000 fraction bits
and rounded with a sticky bit: apart from the exact cases of R158 no result of these formats is exact, and none
lies so near a rounding boundary that the error of the last fraction bits could move it (log 20).
-/
namespace Sys2Proof.Machine

/-- Fraction bits of the fixed-point numbers here. -/
abbrev fxBits : Nat := 1000
/-- 1. -/
def fxOne : Nat := 2 ^ fxBits
/-- π, its first 1,000 fraction bits. -/
def fxPi : Nat := 0x3243f6a8885a308d313198a2e03707344a4093822299f31d0082efa98ec4e6c89452821e638d01377be5466cf34e90c6cc0ac29b7c97c50dd3f84d5b5b54709179216d5d98979fb1bd1310ba698dfb5ac2ffd72dbd01adfb7b8e1afed6a267e96ba7c9045f12c7f9924a19947b3916cf70801f2e2858efc16636920d871
/-- ln 2, its first 1,000 fraction bits. -/
def fxLn2 : Nat := 0xb17217f7d1cf79abc9e3b39803f2f6af40f343267298b62d8a0d175b8baafa2be7b876206debac98559552fb4afa1b10ed2eae35c138214427573b291169b8253e96ca16224ae8c51acbda11317c387eb9ea9bc3b136603b256fa0ec7657f74b72ce87b19d6548caf5dfa6bd38303248655fa1872f20e3a2da2d97c50f

/-- Σ r^k / k! from the term t of index k on. -/
def expSeries (r : Nat) : Nat → Nat → Nat → Nat → Nat
  | 0, _, _, acc => acc
  | fuel + 1, k, t, acc => expSeries r fuel (k + 1) (t * r / fxOne / k) (acc + t)

/-- e^r for 0 ≤ r < 1. -/
def fxExp (r : Nat) : Nat := expSeries r 220 1 fxOne 0

/-- Alternating series of sine and cosine: the terms of both signs, each the last times r² / (k (k + 1)). -/
def trigSeries (r2 : Nat) : Nat → Nat → Nat → Int → Bool → Int
  | 0, _, _, acc, _ => acc
  | fuel + 1, k, t, acc, neg =>
    trigSeries r2 fuel (k + 2) (t * r2 / fxOne / (k * (k + 1))) (if neg then acc - (t : Int) else acc + (t : Int)) (!neg)

/-- sin r for 0 ≤ r < 1. -/
def fxSin (r : Nat) : Int := trigSeries (r * r / fxOne) 120 2 r 0 false
/-- cos r for 0 ≤ r < 1. -/
def fxCos (r : Nat) : Int := trigSeries (r * r / fxOne) 120 1 fxOne 0 false

/-- Σ z^(2k+1) / (2k+1), the series of artanh. -/
def atanhSeries (z2 : Nat) : Nat → Nat → Nat → Nat → Nat
  | 0, _, _, acc => acc
  | fuel + 1, k, t, acc => atanhSeries z2 fuel (k + 2) (t * z2 / fxOne) (acc + t / k)

/-- ln y for 1 ≤ y < 2. -/
def fxLn (y : Nat) : Nat :=
  let z := (y - fxOne) * fxOne / (y + fxOne)
  2 * atanhSeries (z * z / fxOne) 330 1 z 0

/-- (−1)^s × m × 2^e in fixed point; exact, since the least exponent of the formats here is above −fxBits. -/
def fxOf (m : Nat) (e : Int) : Nat :=
  let k := e + fxBits
  if 0 ≤ k then m * 2 ^ k.toNat else m / 2 ^ (-k).toNat

/-- A fixed-point magnitude rounded, known not to be exact. -/
def roundFx (f : BinFmt) (rm : Rm) (s : Bool) (v : Nat) (e : Int := 0) : FRes :=
  roundFin f rm s v (e - fxBits) true

/-- 2^a (R157): a = n + r with 0 ≤ r < 1. -/
def fEx2 (f : BinFmt) (rm : Rm) (a : FVal) : FRes :=
  match a with
  | .nan s => .nan f s
  | .inf s => { bits := if s then 0 else f.infBits }
  | .fin s m e =>
    if m == 0 then { bits := f.bias * 2 ^ f.fb }
    else if 0 ≤ e + bitLen m - 13 then
      -- beyond ±4,096 every format overflows or underflows
      roundFx f rm false fxOne (if s then -4096 else 4096)
    else
      let x := fxOf m e
      let n : Int := if s then -((x + fxOne - 1) / fxOne : Nat) else (x / fxOne : Nat)
      let r := if s then (n.natAbs * fxOne - x) else x % fxOne
      if r == 0 then roundFin f rm false 1 n
      else roundFx f rm false (fxExp (r * fxLn2 / fxOne)) n

/-- log2 a (R157, R158). -/
def fLg2 (f : BinFmt) (rm : Rm) (a : FVal) : FRes :=
  match a with
  | .nan s => .nan f s
  | .inf s => if s then .nan f true else { bits := f.infBits }
  | .fin s m e =>
    if m == 0 then { bits := f.withSign true f.infBits, c := Conds.divZero }
    else if s then .nan f true
    else
      let k := bitLen m - 1
      let ex : Int := e + k
      if m == 2 ^ k then roundFin f rm (ex < 0) ex.natAbs 0
      else
        let y := m * 2 ^ (fxBits - k)
        let z : Int := ex * fxOne + (fxLn y * fxOne / fxLn2 : Nat)
        roundFx f rm (z < 0) z.natAbs

/-- |a| = q × π/2 + r with −π/4 ≤ r ≤ π/4: q mod 4, the sign of r and |r|. -/
def reduceHalfPi (m : Nat) (e : Int) : Nat × Bool × Nat :=
  let x := fxOf m e
  let q := (4 * x + fxPi) / (2 * fxPi)
  let r : Int := (2 * x : Nat) - (q * fxPi : Nat)
  (q % 4, r < 0, r.natAbs / 2)

/-- sin of quadrant q plus r, as a signed fixed-point number: q 0 sin r, 1 cos r, 2 −sin r, 3 −cos r. -/
def fxTrig (q : Nat) (neg : Bool) (r : Nat) : Int :=
  let s := if neg then -fxSin r else fxSin r
  match q % 4 with
  | 0 => s
  | 1 => fxCos r
  | 2 => -s
  | _ => -fxCos r

/-- sin a (R157, R158). -/
def fSin (f : BinFmt) (rm : Rm) (a : FVal) : FRes :=
  match a with
  | .nan s => .nan f s
  | .inf _ => .nan f true
  | .fin s m e =>
    if m == 0 then { bits := f.withSign s 0 }
    else
      let (q, neg, r) := reduceHalfPi m e
      let z := fxTrig q neg r
      roundFx f rm ((z < 0) != s) z.natAbs

/-- cos a (R157, R158). -/
def fCos (f : BinFmt) (rm : Rm) (a : FVal) : FRes :=
  match a with
  | .nan s => .nan f s
  | .inf _ => .nan f true
  | .fin _ m e =>
    if m == 0 then { bits := f.bias * 2 ^ f.fb }
    else
      let (q, neg, r) := reduceHalfPi m e
      let z := fxTrig (q + 1) neg r
      if fxOne ≤ z.natAbs then roundFx f rm (z < 0) (fxOne - 1)
      else roundFx f rm (z < 0) z.natAbs

/-- tanh a (R157, R158): (E − 1) / (E + 1) with E = e^(2|a|); beyond 64 it is below 1 by less than any place shows. -/
def fTanh (f : BinFmt) (rm : Rm) (a : FVal) : FRes :=
  match a with
  | .nan s => .nan f s
  | .inf s => { bits := f.withSign s (f.bias * 2 ^ f.fb) }
  | .fin s m e =>
    if m == 0 then { bits := f.withSign s 0 }
    else if 0 ≤ e + bitLen m - 7 then roundFx f rm s (fxOne - 1)
    else
      let x := 2 * fxOf m e
      let n := x / fxLn2
      let ee := fxExp (x - n * fxLn2) * 2 ^ n
      roundFx f rm s ((ee - fxOne) * fxOne / (ee + fxOne))

end Sys2Proof.Machine
end

