-- ==== Sys2Proof/Machine/Decimal.lean ====
section
/-!
DEFINITION. decimal64 of spec/04_numbers.md R78 to R80 and the operations of spec/06_ref_lane_arithmetic.md R159 to R165:
exact coefficients and exponents, rounded once by `roundDec`.
-/
namespace Sys2Proof.Machine

/-- A d64 datum (R78): a NaN, an infinity, or (−1)^s × c × 10^q. -/
inductive DVal where
  | nan (signalling : Bool)
  | inf (s : Bool)
  | fin (s : Bool) (c : Nat) (q : Int)
  deriving DecidableEq, Repr

/-- 10^16 − 1, the largest coefficient. -/
abbrev decMax : Nat := 9999999999999999

/-- The datum of a bit pattern; a non-canonical coefficient is 0 (R78, R79). -/
def decUnpack (x : Nat) : DVal :=
  let s := x / 2 ^ 63 % 2 == 1
  let g := x / 2 ^ 58 % 32
  if g == 0b11111 then .nan (x / 2 ^ 57 % 2 == 1)
  else if g == 0b11110 then .inf s
  else if x / 2 ^ 61 % 4 == 3 then
    let c := 2 ^ 53 + x % 2 ^ 51
    .fin s (if decMax < c then 0 else c) ((x / 2 ^ 51 % 2 ^ 10 : Nat) - 398)
  else .fin s (x % 2 ^ 53) ((x / 2 ^ 53 % 2 ^ 10 : Nat) - 398)

def DVal.isNan : DVal → Bool
  | .nan _ => true
  | _ => false
def DVal.isSnan : DVal → Bool
  | .nan b => b
  | _ => false
def DVal.sign : DVal → Bool
  | .nan _ => false
  | .inf s => s
  | .fin s _ _ => s

/-- The sign bit with a magnitude. -/
def decSign (s : Bool) (n : Nat) : Nat := if s then 2 ^ 63 + n else n
/-- The canonical NaN (R79). -/
def decNan : Nat := 0x7C00000000000000
/-- An infinity. -/
def decInf (s : Bool) : Nat := decSign s 0x7800000000000000

/-- The canonical encoding of c ≤ decMax at exponent q in range (R79). -/
def decPack (s : Bool) (c : Nat) (q : Int) : Nat :=
  let ef := (q + 398).toNat
  decSign s (if c < 2 ^ 53 then ef * 2 ^ 53 + c else 3 * 2 ^ 61 + ef * 2 ^ 51 + (c - 2 ^ 53))

def DRes.nan (nv : Bool) : FRes := { bits := decNan, c := { nv := nv } }

/-- Zeros added to the coefficient while the exponent is above `goal` and 16 digits hold it. -/
def decPad (goal : Int) : Nat → Nat → Int → Nat × Int
  | 0, c, q => (c, q)
  | fuel + 1, c, q => if goal < q && 10 * c ≤ decMax then decPad goal fuel (10 * c) (q - 1) else (c, q)

/-- Zeros taken from the coefficient while the exponent is below `goal`. -/
def decStrip (goal : Int) : Nat → Nat → Int → Nat × Int
  | 0, c, q => (c, q)
  | fuel + 1, c, q => if q < goal && c % 10 == 0 then decStrip goal fuel (c / 10) (q + 1) else (c, q)

/-- The exponent within the format, for a zero. -/
def decClampExp (q : Int) : Int := clamp q (-398) 369

/-- The exact result c × 10^q, at the exponent nearest `pref` that holds it (R159), and clamped (R159). -/
def decExact (c : Nat) (q pref : Int) : Nat × Int :=
  if c == 0 then (0, decClampExp pref)
  else
    let pref := decClampExp pref
    let (c, q) := decPad pref 17 c q
    let (c, q) := decStrip pref 17 c q
    decPad 369 17 c q

/-- (−1)^s × (n + δ) × 10^e rounded once to 16 digits (R80), where δ is 0, or with `sticky` some value strictly between 0
and 1; a caller that gives `sticky` gives at least 17 digits. -/
def roundDec (rm : Rm) (s : Bool) (n : Nat) (e pref : Int) (sticky : Bool := false) : FRes :=
  let n := if sticky then 10 * n + 1 else n
  let e := if sticky then e - 1 else e
  if n == 0 then { bits := decPack s 0 (decClampExp pref) }
  else
    let d : Int := decDigits n
    let drop (k : Int) : Nat × Bool :=
      if k ≤ 0 then (n, false)
      else if d + 1 < k then roundDiv rm s 1 100
      else roundDiv rm s n (10 ^ k.toNat)
    let k16 := if d ≤ 16 then 0 else d - 16
    let k := if e + k16 < -398 then -398 - e else k16
    let (c0, inexact) := drop k
    let q0 := if k ≤ 0 then e else e + k
    let (c, q) := if c0 == decMax + 1 then (10 ^ 15, q0 + 1) else (c0, q0)
    let (c, q) := if inexact then (c, q) else decExact c q pref
    let tiny := e + d ≤ -383 && !((drop k16).1 == 10 ^ 16 && e + k16 + 16 == -383)
    let (c, q) := if 369 < q then decPad 369 17 c q else (c, q)
    if 369 < q && c != 0 then
      { bits := if rm.toInf s then decInf s else decPack s decMax 369, c := { ovf := true, nx := true } }
    else
      { bits := decPack s c q, c := { uf := tiny && inexact, nx := inexact, tiny := tiny } }

/-- The sum of two finite addends, with preferred exponent min(q1, q2) (R160). -/
def decSum (rm : Rm) (s1 : Bool) (c1 : Nat) (q1 : Int) (s2 : Bool) (c2 : Nat) (q2 : Int) : FRes :=
  let q := if q1 ≤ q2 then q1 else q2
  let z := signedFin s1 (c1 * 10 ^ (q1 - q).toNat) + signedFin s2 (c2 * 10 ^ (q2 - q).toNat)
  if z == 0 then
    { bits := decPack (if c1 == 0 && c2 == 0 then zeroSign rm s1 s2 else rm == .rdn) 0 (decClampExp q) }
  else roundDec rm (z < 0) z.natAbs q q

/-- a + b (R160). -/
def decAdd (rm : Rm) (a b : DVal) : FRes :=
  match a, b with
  | .nan s, y => DRes.nan (s || y.isSnan)
  | x, .nan s => DRes.nan (s || x.isSnan)
  | .inf s, .inf t => if s == t then { bits := decInf s } else DRes.nan true
  | .inf s, .fin .. => { bits := decInf s }
  | .fin .., .inf t => { bits := decInf t }
  | .fin s c q, .fin t d r => decSum rm s c q t d r

/-- −a. -/
def DVal.neg : DVal → DVal
  | .nan b => .nan b
  | .inf s => .inf (!s)
  | .fin s c q => .fin (!s) c q

/-- a × b (R160). -/
def decMul (rm : Rm) (a b : DVal) : FRes :=
  match a, b with
  | .nan s, y => DRes.nan (s || y.isSnan)
  | x, .nan s => DRes.nan (s || x.isSnan)
  | .inf s, .inf t => { bits := decInf (s != t) }
  | .inf s, .fin t d _ => if d == 0 then DRes.nan true else { bits := decInf (s != t) }
  | .fin s c _, .inf t => if c == 0 then DRes.nan true else { bits := decInf (s != t) }
  | .fin s c q, .fin t d r => roundDec rm (s != t) (c * d) (q + r) (q + r)

/-- a × b + c, rounded once (R160). -/
def decFma (rm : Rm) (a b c : DVal) : FRes :=
  let badProduct := match a, b with
    | .inf _, .fin _ n _ => n == 0
    | .fin _ m _, .inf _ => m == 0
    | _, _ => false
  if badProduct then DRes.nan true
  else if a.isNan || b.isNan || c.isNan then DRes.nan (a.isSnan || b.isSnan || c.isSnan)
  else
    match a, b, c with
    | .fin s m e, .fin t n d, .fin u k g => decSum rm (s != t) (m * n) (e + d) u k g
    | .fin .., .fin .., .inf u => { bits := decInf u }
    | _, _, .inf u => if (a.sign != b.sign) == u then { bits := decInf u } else DRes.nan true
    | _, _, _ => { bits := decInf (a.sign != b.sign) }

/-- a / b (R160). -/
def decDiv (rm : Rm) (a b : DVal) : FRes :=
  match a, b with
  | .nan s, y => DRes.nan (s || y.isSnan)
  | x, .nan s => DRes.nan (s || x.isSnan)
  | .inf _, .inf _ => DRes.nan true
  | .inf s, .fin t _ _ => { bits := decInf (s != t) }
  | .fin s _ _, .inf t => { bits := decPack (s != t) 0 (-398) }
  | .fin s c q, .fin t d r =>
    if d == 0 then
      if c == 0 then DRes.nan true else { bits := decInf (s != t), c := Conds.divZero }
    else if c == 0 then { bits := decPack (s != t) 0 (decClampExp (q - r)) }
    else
      let num := c * 10 ^ 40
      roundDec rm (s != t) (num / d) (q - r - 40) (q - r) (num % d != 0)

/-- XQUANT (R161). -/
def decQuant (rm : Rm) (a b : DVal) : FRes :=
  match a, b with
  | .nan s, y => DRes.nan (s || y.isSnan)
  | x, .nan s => DRes.nan (s || x.isSnan)
  | .inf s, .inf _ => { bits := decInf s }
  | .inf _, .fin .. => DRes.nan true
  | .fin .., .inf _ => DRes.nan true
  | .fin s c q, .fin _ _ r =>
    if c == 0 then { bits := decPack s 0 r }
    else if r ≤ q then
      if q - r ≤ 16 && c * 10 ^ (q - r).toNat ≤ decMax then { bits := decPack s (c * 10 ^ (q - r).toNat) r }
      else DRes.nan true
    else
      let (n, inexact) := if 18 < r - q then roundDiv rm s 1 100 else roundDiv rm s c (10 ^ (r - q).toNat)
      if decMax < n then DRes.nan true
      else { bits := decPack s n r, c := { nx := inexact } }

/-- The order of two values (R162). -/
def decOrd (a b : DVal) : Ord4 :=
  match a, b with
  | .nan _, _ => .unord
  | _, .nan _ => .unord
  | .inf s, .inf t => if s == t then .eq else if s then .lt else .gt
  | .inf s, .fin .. => if s then .lt else .gt
  | .fin .., .inf t => if t then .gt else .lt
  | .fin s c q, .fin t d r =>
    let e := if q ≤ r then q else r
    ordInt (signedFin s (c * 10 ^ (q - e).toNat)) (signedFin t (d * 10 ^ (r - e).toNat))

/-- Whether a is below b with −0 below +0 (R172). -/
def decBelow (a b : DVal) : Bool :=
  match decOrd a b with
  | .lt => true
  | .eq => (match a, b with | .fin _ 0 _, .fin _ 0 _ => a.sign && !b.sign | _, _ => false)
  | _ => false

/-- minimumNumber and maximumNumber by value on bit patterns; equal values give x (R171, R172). -/
def decMinMax (max : Bool) (x y : Nat) : FRes :=
  let a := decUnpack x
  let b := decUnpack y
  let c : Conds := { nv := a.isSnan || b.isSnan }
  let canon (v : DVal) : Nat := match v with
    | .nan _ => decNan
    | .inf s => decInf s
    | .fin s n q => decPack s n q
  if a.isNan && b.isNan then { bits := decNan, c := c }
  else if a.isNan then { bits := canon b, c := c }
  else if b.isNan then { bits := canon a, c := c }
  else { bits := canon (if (if max then decBelow a b else decBelow b a) then b else a), c := c }

/-- c × 10^q rounded to an integer, with whether it was inexact. -/
def decRoundInt (rm : Rm) (s : Bool) (c : Nat) (q : Int) : Nat × Bool :=
  if 0 ≤ q then (c * 10 ^ q.toNat, false)
  else if 18 < -q then roundDiv rm s (if c == 0 then 0 else 1) 100
  else roundDiv rm s c (10 ^ (-q).toNat)

/-- XRND (R164). -/
def decRnd (rm : Rm) (a : DVal) : FRes :=
  match a with
  | .nan s => DRes.nan s
  | .inf s => { bits := decInf s }
  | .fin s c q =>
    if 0 ≤ q then { bits := decPack s c q }
    else
      let (n, inexact) := decRoundInt rm s c q
      { bits := decPack s n 0, c := { nx := inexact } }

/-- XSCALEB (R165): a × 10^n at the preferred exponent qa + n. -/
def decScale (rm : Rm) (a : DVal) (n : Int) : FRes :=
  match a with
  | .nan s => DRes.nan s
  | .inf s => { bits := decInf s }
  | .fin s c q => roundDec rm s c (q + n) (q + n)

/-- An integer to d64 (R163). -/
def decOfInt (rm : Rm) (z : Int) : FRes := roundDec rm (z < 0) z.natAbs 0 0

/-- A binary datum to d64 (R163): an exact result takes the largest exponent not above 0 that represents it. -/
def decOfBin (rm : Rm) (a : FVal) : FRes :=
  match a with
  | .nan s => DRes.nan s
  | .inf s => { bits := decInf s }
  | .fin s m e =>
    if 0 ≤ e then roundDec rm s (m * 2 ^ e.toNat) 0 0
    else roundDec rm s (m * 5 ^ (-e).toNat) e 0

/-- d64 to a w-bit integer (R163). -/
def decToInt (signed : Bool) (w : Nat) (rm : Rm) (a : DVal) : Nat × Conds :=
  match a with
  | .nan _ => (0, Conds.invalid)
  | .inf s => (wrap w (if s then minOf signed w else maxOf signed w), Conds.invalid)
  | .fin s c q =>
    let (n, inexact) := decRoundInt rm s c q
    let z := signedFin s n
    if z < minOf signed w || maxOf signed w < z then
      (wrap w (clamp z (minOf signed w) (maxOf signed w)), Conds.invalid)
    else (wrap w z, { nx := inexact })

/-- d64 to a binary format, rounded once (R163). -/
def decToBin (f : BinFmt) (rm : Rm) (a : DVal) : FRes :=
  match a with
  | .nan s => .nan f s
  | .inf s => { bits := f.withSign s f.infBits }
  | .fin s c q =>
    if c == 0 then { bits := f.withSign s 0 }
    else if 0 ≤ q then roundFin f rm s (c * 10 ^ q.toNat) 0
    else quotFin f rm s c 0 (10 ^ (-q).toNat) 0

/-- The modifiers of a d64 source: its sign alone (R159). -/
def decModSign (neg abs : Bool) (x : Nat) : Nat :=
  let x := if abs then x % 2 ^ 63 else x
  if neg then (if 2 ^ 63 ≤ x then x - 2 ^ 63 else x + 2 ^ 63) else x

end Sys2Proof.Machine
end

