-- ==== Sys2Proof/Config.lean ====
section
/-!
DEFINITION. The constants that fix one Kreny (spec/01_device.md, spec/13_fabric_host_boot.md) and the free values: opaque
functions without a body, one for each value that the spec leaves open. Nothing can be proved of a free value.
-/
namespace Sys2Proof.Config

/-- Cores of the device (R5 to R11): 96, of which die 0 holds 0 to 47. -/
abbrev cores : Nat := 96
/-- Warp slots of a core (R25). -/
abbrev slotsPerCore : Nat := 128
/-- Local HBM in bytes (R11, R15): 384 GB, the fixed size of the part. -/
abbrev hbmBytes : Nat := 384000000000
/-- Lines of 128 bytes in a core's L1 of 128 KiB (R9). -/
abbrev l1Lines : Nat := 1024
/-- Lines of 128 bytes in a die's L2 of 64 MiB (R10). -/
abbrev l2Lines : Nat := 524288
/-- Bytes of one tile (R53). -/
abbrev tileBytes : Nat := 256
/-- Lane registers of a core (R19). -/
abbrev laneRegs : Nat := 131072
/-- Tiles of a core's scratchpad (R53). -/
abbrev scratchTiles : Nat := 6144
/-- Accumulator rows of a core (R62). -/
abbrev accRows : Nat := 512

/-- FREE VALUE (log 7): which translation an access uses between a page-table change and INVAL (R354), of State.free, the accessing
lane or engine, the page or the address bits of an entry above the leaf, and which cached entry is asked about; true is that one. -/
opaque oldTranslation : Nat → Nat → Nat → Nat → Bool
/-- FREE VALUE (log 70): by how many flits the send allowance of a class to a peer is more than one (R304 gives no number). -/
opaque spareFlits : Nat
/-- Flits of the send allowance of each class to each peer (R304): at least one (log 70). -/
def sendAllowance : Nat := spareFlits + 1

/-- FREE VALUE (log 24): a poisoned byte as the scheduler and the other agents of this device read it, to which the spec gives poison no
effect there: of State.free and the address. -/
opaque poisonedByte : Nat → Nat → BitVec 8

/-- FREE VALUE (log 55): the 32 bytes of an entry of an event overflow table, whose layout the spec does not give (R280): of the event
and the entry. -/
opaque eventEntry : Nat → Nat → BitVec 256

/-- FREE VALUE (log 3): the weight of a shortlist entry whose stored value is a NaN, which has no term (R298): of the elements taken and
the index. -/
opaque freeWeight : Nat → Nat → BitVec 8

/-- FREE VALUE (log 15): whether a certificate chain is one of a trust root (R319, R334 name TLS and do not define it): of the root and
the chain. -/
opaque chainsTo : List Byte → List Byte → Bool
/-- FREE VALUE (log 80): a dword of configuration space in the bits that R309 and R310 do not give: of its number. -/
opaque cfgFree : Nat → W32
/-- FREE VALUE (log 15): whether an image's public key and XMSS signature verify (R320 names the scheme and does not define it): of
the image's bytes. -/
opaque xmssValid : List Byte → Bool
/-- FREE VALUE (log 15): the version in an image's header, whose layout R320 does not give. -/
opaque imageVersion : List Byte → Word
/-- FREE VALUE (log 15): the rollback level in an image's header. -/
opaque imageLevel : List Byte → Nat
/-- FREE VALUE (log 15): the 64-byte SHAKE256 measurement of an image (R319 names the function and does not define it). -/
opaque shake256 : List Byte → BitVec 512
/-- FREE VALUE (log 3, log 8): a 64-bit value that the spec leaves open, one for each time of the timebase: by how much ERRB has
grown in hold-over (R290). -/
opaque freeWord : Nat → Word

end Sys2Proof.Config
end

