-- ==== Sys2Proof/Decode.lean ====
section
/-!
DEFINITION. The decoder and the encoder of spec/05_encoding_and_assembly.md R92 to R103, R110 and R111: from bytes to an
instruction, total, rejecting by step and cause; and from an instruction to its words.
-/
namespace Sys2Proof

/-! ### Fields -/

/-- The major opcode of a word. -/
def wordMajor (w : Word) : Nat := (w.extractLsb' 56 8).toNat

/-- The PX fields of a word (R103). -/
def Px.ofWord (w : Word) : Px :=
  { me := w.getLsbD 55, mp := w.extractLsb' 52 3, rm := w.extractLsb' 49 3, mz := w.getLsbD 48,
    e := w.extractLsb' 39 9, ximm := w.extractLsb' 0 24 }

/-- The header fields (R93). -/
def FmtH.ofWord (w : Word) : FmtH :=
  { count := w.extractLsb' 52 4, cls := w.extractLsb' 49 3, hwait := w.extractLsb' 33 16,
    barw := w.getLsbD 32, yh := w.getLsbD 31 }

/-- Format A (R97). -/
def FmtA.ofWord (px : Option Px) (w : Word) : FmtA :=
  { d := w.extractLsb' 41 9, a := w.extractLsb' 32 9, b := w.extractLsb' 23 9, c := w.extractLsb' 14 9,
    ty := w.extractLsb' 10 4, mod := w.extractLsb' 6 4, run := w.extractLsb' 2 4, px := px }

/-- Format I (R99). -/
def FmtI.ofWord (px : Option Px) (w : Word) : FmtI :=
  { d := w.extractLsb' 41 9, a := w.extractLsb' 32 9, imm := w.extractLsb' 0 32, px := px }

/-- Format M (R100). -/
def FmtM.ofWord (px : Option Px) (w : Word) : FmtM :=
  { d := w.extractLsb' 43 9, a := w.extractLsb' 34 9, b := w.extractLsb' 25 9, sz := w.extractLsb' 22 3,
    sp := w.extractLsb' 20 2, ord := w.extractLsb' 18 2, scope := w.extractLsb' 15 3, guard := w.extractLsb' 11 4,
    run := w.extractLsb' 7 4, disp := w.extractLsb' 0 7, px := px }

/-- Format E (R101). -/
def FmtE.ofWord (px : Option Px) (w : Word) : FmtE :=
  { h := w.extractLsb' 48 4, a := w.extractLsb' 39 9, b := w.extractLsb' 30 9, c := w.extractLsb' 21 9,
    d := w.extractLsb' 12 9, run := w.extractLsb' 8 4, flags := w.extractLsb' 0 8, px := px }

/-- Format B (R102). -/
def FmtB.ofWord (px : Option Px) (w : Word) : FmtB :=
  { guard := w.extractLsb' 48 4, u := w.getLsbD 47, disp := w.extractLsb' 0 40, px := px }

/-! ### Members (R110) -/

/-- CCTL by D[2:0] (R206); the other codes are no instruction. -/
def cctlOf (k : Nat) (w : FmtM) : Option Instr :=
  match k with
  | 0 => some (.cctlInv1 w)
  | 1 => some (.cctlInv1all w)
  | 2 => some (.cctlClean2 w)
  | 3 => some (.cctlFlush2 w)
  | _ => none

/-- COPY by MODE (R217); MODE 4 to 7 are no instruction. -/
def copyOf (k : Nat) (w : FmtE) : Option Instr :=
  match k with
  | 0 => some (.copyLocal w)
  | 1 => some (.copyRemote w)
  | 2 => some (.copyMulticast w)
  | 3 => some (.copyDrain w)
  | _ => none

/-- The members of major 0x10 in the order of R110. -/
def memberInt (fn : Nat) (w : FmtA) : Option Instr :=
  match fn with
  | 0 => some (.iadd w)
  | 1 => some (.isub w)
  | 2 => some (.imul w)
  | 3 => some (.imulh w)
  | 4 => some (.imad w)
  | 5 => some (.imin w)
  | 6 => some (.imax w)
  | 7 => some (.iabs w)
  | 8 => some (.ineg w)
  | 9 => some (.idiff w)
  | 10 => some (.icmp w)
  | 11 => some (.sel w)
  | 12 => some (.icvt w)
  | 13 => some (.idiv w)
  | 14 => some (.irem w)
  | _ => none

/-- The members of major 0x11 in the order of R110. -/
def memberImm (fn : Nat) (w : FmtI) : Option Instr :=
  match fn with
  | 0 => some (.iaddImm w)
  | 1 => some (.imulImm w)
  | 2 => some (.iminImm w)
  | 3 => some (.imaxImm w)
  | 4 => some (.icmpImm w)
  | 5 => some (.andImm w)
  | 6 => some (.orImm w)
  | 7 => some (.xorImm w)
  | 8 => some (.shlImm w)
  | 9 => some (.shrImm w)
  | 10 => some (.sarImm w)
  | 11 => some (.movi w)
  | _ => none

/-- The members of major 0x12 in the order of R110. -/
def memberLogic (fn : Nat) (w : FmtA) : Option Instr :=
  match fn with
  | 0 => some (.and w)
  | 1 => some (.or w)
  | 2 => some (.xor w)
  | 3 => some (.andn w)
  | 4 => some (.orn w)
  | 5 => some (.not w)
  | 6 => some (.lop3 w)
  | 7 => some (.shl w)
  | 8 => some (.shr w)
  | 9 => some (.sar w)
  | 10 => some (.rol w)
  | 11 => some (.ror w)
  | 12 => some (.fshl w)
  | 13 => some (.fshr w)
  | _ => none

/-- The members of major 0x13 in the order of R110. -/
def memberBits (fn : Nat) (w : FmtA) : Option Instr :=
  match fn with
  | 0 => some (.popc w)
  | 1 => some (.clz w)
  | 2 => some (.ctz w)
  | 3 => some (.fns w)
  | 4 => some (.brev w)
  | 5 => some (.bfx w)
  | 6 => some (.bfxs w)
  | 7 => some (.bfi w)
  | 8 => some (.pdep w)
  | 9 => some (.pext w)
  | 10 => some (.bperm w)
  | 11 => some (.gf2mm w)
  | 12 => some (.prmb w)
  | 13 => some (.mix64 w)
  | _ => none

/-- The members of major 0x14 in the order of R110. -/
def memberMove (fn : Nat) (w : FmtA) : Option Instr :=
  match fn with
  | 0 => some (.mov w)
  | 1 => some (.rdlane w)
  | 2 => some (.wrlane w)
  | 3 => some (.pand w)
  | 4 => some (.por w)
  | 5 => some (.pxor w)
  | 6 => some (.pnot w)
  | 7 => some (.pmov w)
  | _ => none

/-- The members of major 0x18 in the order of R110. -/
def memberFloat (fn : Nat) (w : FmtA) : Option Instr :=
  match fn with
  | 0 => some (.fadd w)
  | 1 => some (.fsub w)
  | 2 => some (.fmul w)
  | 3 => some (.ffma w)
  | 4 => some (.fmin w)
  | 5 => some (.fmax w)
  | 6 => some (.fcmp w)
  | 7 => some (.fclass w)
  | 8 => some (.fcvt w)
  | 9 => some (.frnd w)
  | 10 => some (.ftoi w)
  | 11 => some (.itof w)
  | 12 => some (.fscl w)
  | _ => none

/-- The members of major 0x19 in the order of R110. -/
def memberSpecial (fn : Nat) (w : FmtA) : Option Instr :=
  match fn with
  | 0 => some (.fdiv w)
  | 1 => some (.fsqrt w)
  | 2 => some (.frcp w)
  | 3 => some (.frsq w)
  | 4 => some (.fex2 w)
  | 5 => some (.flg2 w)
  | 6 => some (.fsin w)
  | 7 => some (.fcos w)
  | 8 => some (.ftanh w)
  | _ => none

/-- The members of major 0x1A in the order of R110. -/
def memberDecimal (fn : Nat) (w : FmtA) : Option Instr :=
  match fn with
  | 0 => some (.xadd w)
  | 1 => some (.xsub w)
  | 2 => some (.xmul w)
  | 3 => some (.xfma w)
  | 4 => some (.xdiv w)
  | 5 => some (.xquant w)
  | 6 => some (.xcmp w)
  | 7 => some (.xcvt w)
  | 8 => some (.xrnd w)
  | 9 => some (.xscaleb w)
  | _ => none

/-- The members of major 0x20 in the order of R110. -/
def memberCross (fn : Nat) (w : FmtA) : Option Instr :=
  match fn with
  | 0 => some (.shfl w)
  | 1 => some (.pushl w)
  | 2 => some (.vote w)
  | 3 => some (.red w)
  | 4 => some (.scan w)
  | 5 => some (.matchLanes w)
  | _ => none

/-- The members of major 0x28 in the order of R110. -/
def memberBranch (fn : Nat) (w : FmtB) : Option Instr :=
  match fn with
  | 0 => some (.br w)
  | 1 => some (.bru w)
  | 2 => some (.call w)
  | _ => none

/-- The members of major 0x29 in the order of R110. -/
def memberControl (fn : Nat) (w : FmtA) : Option Instr :=
  match fn with
  | 0 => some (.jmpi w)
  | 1 => some (.calli w)
  | 2 => some (.ret w)
  | 3 => some (.tcall w)
  | 4 => some (.tret w)
  | 5 => some (.exit w)
  | 6 => some (if w.c.getLsbD 0 then .barArrive w else .bar w)
  | 7 => some (.tbar w)
  | 8 => some (.yield w)
  | 9 => some (.sleep w)
  | _ => none

/-- The members of major 0x30 in the order of R110. -/
def memberFlow (fn : Nat) (w : FmtA) : Option Instr :=
  match fn with
  | 0 => some (.relabel w)
  | 1 => some (.ordrel w)
  | 2 => some (.ordskip w)
  | 3 => some (.hold w)
  | 4 => some (.flowkill w)
  | 5 => some (.enq w)
  | _ => none

/-- The members of major 0x38 in the order of R110. -/
def memberMemory (fn : Nat) (w : FmtM) : Option Instr :=
  match fn with
  | 0 => some (.ld w)
  | 1 => some (.st w)
  | 2 => some (.ldc w)
  | 3 => some (.pref w)
  | 4 => cctlOf (w.d.toNat % 8) w
  | _ => none

/-- The members of major 0x39 in the order of R110. -/
def memberTag (fn : Nat) (w : FmtM) : Option Instr :=
  match fn with
  | 0 => some (.twait w)
  | 1 => some (.tset w)
  | 2 => some (.tclr w)
  | 3 => some (.ttest w)
  | _ => none

/-- The members of major 0x3A in the order of R110. -/
def memberAtomic (fn : Nat) (w : FmtM) : Option Instr :=
  match fn with
  | 0 => some (.atom w)
  | 1 => some (.cas w)
  | _ => none

/-- The members of major 0x3B in the order of R110. -/
def memberFence (fn : Nat) (w : FmtM) : Option Instr :=
  match fn with
  | 0 => some (.fence w)
  | _ => none

/-- The members of major 0x40 in the order of R110. -/
def memberCopy (fn : Nat) (w : FmtE) : Option Instr :=
  match fn with
  | 0 => copyOf w.mode w
  | 1 => some (.tcopy w)
  | 2 => some (.wnst w)
  | 3 => some (.ringwait w)
  | _ => none

/-- The members of major 0x41 in the order of R110. -/
def memberMatrix (fn : Nat) (w : FmtE) : Option Instr :=
  match fn with
  | 0 => some (.mloop w)
  | 1 => some (if w.flags.getLsbD 0 then .mchainE w else .mchainB w)
  | 2 => some (.mzero w)
  | _ => none

/-- The members of major 0x42 in the order of R110. -/
def memberAcc (fn : Nat) (w : FmtE) : Option Instr :=
  match fn with
  | 0 => some (.acrd w)
  | 1 => some (.acwr w)
  | 2 => some (.acst w)
  | 3 => some (.acld w)
  | _ => none

/-- The members of major 0x43 in the order of R110. -/
def memberHandle (fn : Nat) (w : FmtE) : Option Instr :=
  match fn with
  | 0 => some (.wait w)
  | 1 => some (.htest w)
  | 2 => some (.hcancel w)
  | 3 => some (if w.flags.getLsbD 0 then .hmovImport w else .hmovExport w)
  | 4 => some (.ownpass w)
  | 5 => some (.owntake w)
  | _ => none

/-- The members of major 0x48 in the order of R110. -/
def memberEvent (fn : Nat) (w : FmtA) : Option Instr :=
  match fn with
  | 0 => some (.evwait w)
  | 1 => some (.evsig w)
  | 2 => some (.sigadd w)
  | 3 => some (.sigwait w)
  | 4 => some (.time w)
  | _ => none

/-- The members of major 0x50 in the order of R110. -/
def memberSystem (fn : Nat) (w : FmtA) : Option Instr :=
  match fn with
  | 0 => some (.trap w)
  | 1 => some (.bkpt w)
  | 2 => some (.rtt w)
  | 3 => some (.csrr w)
  | 4 => some (.csrw w)
  | _ => none
/-- The instruction that an assigned word names, its must-be-zero bits unread; none for an unassigned FN. -/
def parse (px : Option Px) (w : Word) : Option Instr :=
  let fn6 := (w.extractLsb' 50 6).toNat
  let fn4 := (w.extractLsb' 52 4).toNat
  match wordMajor w with
  | 0x02 => some (.clauseHeader (FmtH.ofWord w))
  | 0x03 => some (.nop { px := px })
  | 0x10 => memberInt fn6 (FmtA.ofWord px w)
  | 0x11 => memberImm fn6 (FmtI.ofWord px w)
  | 0x12 => memberLogic fn6 (FmtA.ofWord px w)
  | 0x13 => memberBits fn6 (FmtA.ofWord px w)
  | 0x14 => memberMove fn6 (FmtA.ofWord px w)
  | 0x18 => memberFloat fn6 (FmtA.ofWord px w)
  | 0x19 => memberSpecial fn6 (FmtA.ofWord px w)
  | 0x1A => memberDecimal fn6 (FmtA.ofWord px w)
  | 0x20 => memberCross fn6 (FmtA.ofWord px w)
  | 0x28 => memberBranch fn4 (FmtB.ofWord px w)
  | 0x29 => memberControl fn6 (FmtA.ofWord px w)
  | 0x30 => memberFlow fn6 (FmtA.ofWord px w)
  | 0x38 => memberMemory fn4 (FmtM.ofWord px w)
  | 0x39 => memberTag fn4 (FmtM.ofWord px w)
  | 0x3A => memberAtomic fn4 (FmtM.ofWord px w)
  | 0x3B => memberFence fn4 (FmtM.ofWord px w)
  | 0x40 => memberCopy fn4 (FmtE.ofWord px w)
  | 0x41 => memberMatrix fn4 (FmtE.ofWord px w)
  | 0x42 => memberAcc fn4 (FmtE.ofWord px w)
  | 0x43 => memberHandle fn4 (FmtE.ofWord px w)
  | 0x48 => memberEvent fn6 (FmtA.ofWord px w)
  | 0x50 => memberSystem fn6 (FmtA.ofWord px w)
  | _ => none

/-- The must-be-zero bits of a word's format, by its major (R93, R97, R102, R110). -/
def wordMbz (w : Word) : Bool :=
  match wordMajor w with
  | 0x02 => w.extractLsb' 0 31 == 0
  | 0x03 => w.extractLsb' 0 56 == 0
  | 0x28 => w.extractLsb' 40 7 == 0
  | 0x11 | 0x38 | 0x39 | 0x3A | 0x3B | 0x40 | 0x41 | 0x42 | 0x43 => true
  | _ => w.extractLsb' 0 2 == 0

/-! ### Decoding -/

/-- A word that R111 refuses before its operands are known: the step that fails, its cause, and the instruction the word
would be, for the check of its registers that step 3 makes in the issuing warp. -/
structure Reject where
  step  : Nat
  cause : Cause
  instr : Option Instr
  deriving DecidableEq, Repr

/-- Steps 3 to 5 of R111 for the instruction `i` that the words name; `mbz` says that their must-be-zero bits are 0. -/
def checked (i : Instr) (mbz : Bool) : Except Reject Instr :=
  match i.firstFault, mbz with
  | some (3, c), _ => .error { step := 3, cause := c, instr := some i }
  | _, false => .error { step := 4, cause := .reservedBits, instr := some i }
  | some (n, c), true => .error { step := n, cause := c, instr := some i }
  | none, true => .ok i

/-- One word, with the PX word before it if there is one (R96, R103, R111). -/
def decodeWords (px : Option Word) (w : Word) : Except Reject Instr :=
  if wordUnassigned w then .ok (.unassignedEncoding w)
  else if wordMajor w == 0x01 || (px.isSome && wordMajor w == 0x02) then
    .error { step := 2, cause := .clauseForm, instr := none }
  else
    match parse (px.map Px.ofWord) w with
    | none => .error { step := 3, cause := .illegal, instr := none }
    | some i =>
      checked i (wordMbz w && (match px with | none => true | some p => p.extractLsb' 24 15 == 0))

/-- The little-endian value of bytes (R3), the first at the lowest address. -/
def leNat : List Byte → Nat
  | [] => 0
  | b :: bs => b.toNat + 256 * leNat bs

/-- The n bytes of a value, least significant first (R3). -/
def leBytes : Nat → Nat → List Byte
  | 0, _ => []
  | n + 1, x => BitVec.ofNat 8 (x % 256) :: leBytes n (x / 256)

/-- The word in eight bytes. -/
def wordOf (bs : List Byte) : Word := BitVec.ofNat 64 (leNat bs)

/-- An instruction from bytes, with the bytes after it. Fewer bytes than the instruction has are refused (step 0). -/
def decodeBytes (bs : List Byte) : Except Reject (Instr × List Byte) :=
  let short : Except Reject (Instr × List Byte) := .error { step := 0, cause := .illegal, instr := none }
  if bs.length < 8 then short
  else
    let w := wordOf (bs.take 8)
    let rest := bs.drop 8
    if wordMajor w == 0x01 then
      if rest.length < 8 then short
      else (decodeWords (some w) (wordOf (rest.take 8))).map (fun i => (i, rest.drop 8))
    else (decodeWords none w).map (fun i => (i, rest))

/-- The bytes of the longest instruction, a PX word and its word, with the table's bits in them: bit 0 is the least
significant bit of the first word, and the second word's bits count on from 64. -/
def tableBytes (nbits w : Nat) : List Byte := leBytes 16 (w % 2 ^ nbits)

/-- The instruction that the decoder reads from the bits of an opcode-table row. -/
def decodeTableWord (nbits w : Nat) : Option Instr :=
  match decodeBytes (tableBytes nbits w) with
  | .ok (i, _) => some i
  | .error _ => none

/-! ### Encoding -/

/-- A format-A word. -/
def FmtA.toWord (opc fn : Nat) (w : FmtA) : Word :=
  BitVec.ofNat 8 opc ++ BitVec.ofNat 6 fn ++ w.d ++ w.a ++ w.b ++ w.c ++ w.ty ++ w.mod ++ w.run ++ 0#2
/-- A format-I word. -/
def FmtI.toWord (opc fn : Nat) (w : FmtI) : Word :=
  BitVec.ofNat 8 opc ++ BitVec.ofNat 6 fn ++ w.d ++ w.a ++ w.imm
/-- A format-M word. -/
def FmtM.toWord (opc fn : Nat) (w : FmtM) : Word :=
  BitVec.ofNat 8 opc ++ BitVec.ofNat 4 fn ++ w.d ++ w.a ++ w.b ++ w.sz ++ w.sp ++ w.ord ++ w.scope ++ w.guard ++ w.run ++ w.disp
/-- A format-E word. -/
def FmtE.toWord (opc fn : Nat) (w : FmtE) : Word :=
  BitVec.ofNat 8 opc ++ BitVec.ofNat 4 fn ++ w.h ++ w.a ++ w.b ++ w.c ++ w.d ++ w.run ++ w.flags
/-- A format-B word. -/
def FmtB.toWord (opc fn : Nat) (w : FmtB) : Word :=
  BitVec.ofNat 8 opc ++ BitVec.ofNat 4 fn ++ w.guard ++ BitVec.ofBool w.u ++ 0#7 ++ w.disp
/-- A header word. -/
def FmtH.toWord (w : FmtH) : Word :=
  0x02#8 ++ w.count ++ w.cls ++ w.hwait ++ BitVec.ofBool w.barw ++ BitVec.ofBool w.yh ++ 0#31
/-- A PX word. -/
def Px.toWord (p : Px) : Word :=
  0x01#8 ++ BitVec.ofBool p.me ++ p.mp ++ p.rm ++ BitVec.ofBool p.mz ++ p.e ++ 0#15 ++ p.ximm

/-- A word after its PX word. -/
def withPx (px : Option Px) (w : Word) : List Word :=
  match px with
  | none => [w]
  | some p => [p.toWord, w]

/-- The words of an instruction; the steps that are no words have none. -/
def encode : Instr → List Word
  | .clauseHeader w => [w.toWord]
  | .nop w => withPx w.px (0x03#8 ++ 0#56)
  | .iadd w => withPx w.px (w.toWord 0x10 0)
  | .isub w => withPx w.px (w.toWord 0x10 1)
  | .imul w => withPx w.px (w.toWord 0x10 2)
  | .imulh w => withPx w.px (w.toWord 0x10 3)
  | .imad w => withPx w.px (w.toWord 0x10 4)
  | .imin w => withPx w.px (w.toWord 0x10 5)
  | .imax w => withPx w.px (w.toWord 0x10 6)
  | .iabs w => withPx w.px (w.toWord 0x10 7)
  | .ineg w => withPx w.px (w.toWord 0x10 8)
  | .idiff w => withPx w.px (w.toWord 0x10 9)
  | .icmp w => withPx w.px (w.toWord 0x10 10)
  | .sel w => withPx w.px (w.toWord 0x10 11)
  | .icvt w => withPx w.px (w.toWord 0x10 12)
  | .idiv w => withPx w.px (w.toWord 0x10 13)
  | .irem w => withPx w.px (w.toWord 0x10 14)
  | .iaddImm w => withPx w.px (w.toWord 0x11 0)
  | .imulImm w => withPx w.px (w.toWord 0x11 1)
  | .iminImm w => withPx w.px (w.toWord 0x11 2)
  | .imaxImm w => withPx w.px (w.toWord 0x11 3)
  | .icmpImm w => withPx w.px (w.toWord 0x11 4)
  | .andImm w => withPx w.px (w.toWord 0x11 5)
  | .orImm w => withPx w.px (w.toWord 0x11 6)
  | .xorImm w => withPx w.px (w.toWord 0x11 7)
  | .shlImm w => withPx w.px (w.toWord 0x11 8)
  | .shrImm w => withPx w.px (w.toWord 0x11 9)
  | .sarImm w => withPx w.px (w.toWord 0x11 10)
  | .movi w => withPx w.px (w.toWord 0x11 11)
  | .and w => withPx w.px (w.toWord 0x12 0)
  | .or w => withPx w.px (w.toWord 0x12 1)
  | .xor w => withPx w.px (w.toWord 0x12 2)
  | .andn w => withPx w.px (w.toWord 0x12 3)
  | .orn w => withPx w.px (w.toWord 0x12 4)
  | .not w => withPx w.px (w.toWord 0x12 5)
  | .lop3 w => withPx w.px (w.toWord 0x12 6)
  | .shl w => withPx w.px (w.toWord 0x12 7)
  | .shr w => withPx w.px (w.toWord 0x12 8)
  | .sar w => withPx w.px (w.toWord 0x12 9)
  | .rol w => withPx w.px (w.toWord 0x12 10)
  | .ror w => withPx w.px (w.toWord 0x12 11)
  | .fshl w => withPx w.px (w.toWord 0x12 12)
  | .fshr w => withPx w.px (w.toWord 0x12 13)
  | .popc w => withPx w.px (w.toWord 0x13 0)
  | .clz w => withPx w.px (w.toWord 0x13 1)
  | .ctz w => withPx w.px (w.toWord 0x13 2)
  | .fns w => withPx w.px (w.toWord 0x13 3)
  | .brev w => withPx w.px (w.toWord 0x13 4)
  | .bfx w => withPx w.px (w.toWord 0x13 5)
  | .bfxs w => withPx w.px (w.toWord 0x13 6)
  | .bfi w => withPx w.px (w.toWord 0x13 7)
  | .pdep w => withPx w.px (w.toWord 0x13 8)
  | .pext w => withPx w.px (w.toWord 0x13 9)
  | .bperm w => withPx w.px (w.toWord 0x13 10)
  | .gf2mm w => withPx w.px (w.toWord 0x13 11)
  | .prmb w => withPx w.px (w.toWord 0x13 12)
  | .mix64 w => withPx w.px (w.toWord 0x13 13)
  | .mov w => withPx w.px (w.toWord 0x14 0)
  | .rdlane w => withPx w.px (w.toWord 0x14 1)
  | .wrlane w => withPx w.px (w.toWord 0x14 2)
  | .pand w => withPx w.px (w.toWord 0x14 3)
  | .por w => withPx w.px (w.toWord 0x14 4)
  | .pxor w => withPx w.px (w.toWord 0x14 5)
  | .pnot w => withPx w.px (w.toWord 0x14 6)
  | .pmov w => withPx w.px (w.toWord 0x14 7)
  | .fadd w => withPx w.px (w.toWord 0x18 0)
  | .fsub w => withPx w.px (w.toWord 0x18 1)
  | .fmul w => withPx w.px (w.toWord 0x18 2)
  | .ffma w => withPx w.px (w.toWord 0x18 3)
  | .fmin w => withPx w.px (w.toWord 0x18 4)
  | .fmax w => withPx w.px (w.toWord 0x18 5)
  | .fcmp w => withPx w.px (w.toWord 0x18 6)
  | .fclass w => withPx w.px (w.toWord 0x18 7)
  | .fcvt w => withPx w.px (w.toWord 0x18 8)
  | .frnd w => withPx w.px (w.toWord 0x18 9)
  | .ftoi w => withPx w.px (w.toWord 0x18 10)
  | .itof w => withPx w.px (w.toWord 0x18 11)
  | .fscl w => withPx w.px (w.toWord 0x18 12)
  | .fdiv w => withPx w.px (w.toWord 0x19 0)
  | .fsqrt w => withPx w.px (w.toWord 0x19 1)
  | .frcp w => withPx w.px (w.toWord 0x19 2)
  | .frsq w => withPx w.px (w.toWord 0x19 3)
  | .fex2 w => withPx w.px (w.toWord 0x19 4)
  | .flg2 w => withPx w.px (w.toWord 0x19 5)
  | .fsin w => withPx w.px (w.toWord 0x19 6)
  | .fcos w => withPx w.px (w.toWord 0x19 7)
  | .ftanh w => withPx w.px (w.toWord 0x19 8)
  | .xadd w => withPx w.px (w.toWord 0x1A 0)
  | .xsub w => withPx w.px (w.toWord 0x1A 1)
  | .xmul w => withPx w.px (w.toWord 0x1A 2)
  | .xfma w => withPx w.px (w.toWord 0x1A 3)
  | .xdiv w => withPx w.px (w.toWord 0x1A 4)
  | .xquant w => withPx w.px (w.toWord 0x1A 5)
  | .xcmp w => withPx w.px (w.toWord 0x1A 6)
  | .xcvt w => withPx w.px (w.toWord 0x1A 7)
  | .xrnd w => withPx w.px (w.toWord 0x1A 8)
  | .xscaleb w => withPx w.px (w.toWord 0x1A 9)
  | .shfl w => withPx w.px (w.toWord 0x20 0)
  | .pushl w => withPx w.px (w.toWord 0x20 1)
  | .vote w => withPx w.px (w.toWord 0x20 2)
  | .red w => withPx w.px (w.toWord 0x20 3)
  | .scan w => withPx w.px (w.toWord 0x20 4)
  | .matchLanes w => withPx w.px (w.toWord 0x20 5)
  | .br w => withPx w.px (w.toWord 0x28 0)
  | .bru w => withPx w.px (w.toWord 0x28 1)
  | .call w => withPx w.px (w.toWord 0x28 2)
  | .jmpi w => withPx w.px (w.toWord 0x29 0)
  | .calli w => withPx w.px (w.toWord 0x29 1)
  | .ret w => withPx w.px (w.toWord 0x29 2)
  | .tcall w => withPx w.px (w.toWord 0x29 3)
  | .tret w => withPx w.px (w.toWord 0x29 4)
  | .exit w => withPx w.px (w.toWord 0x29 5)
  | .bar w => withPx w.px (w.toWord 0x29 6)
  | .barArrive w => withPx w.px (w.toWord 0x29 6)
  | .tbar w => withPx w.px (w.toWord 0x29 7)
  | .yield w => withPx w.px (w.toWord 0x29 8)
  | .sleep w => withPx w.px (w.toWord 0x29 9)
  | .relabel w => withPx w.px (w.toWord 0x30 0)
  | .ordrel w => withPx w.px (w.toWord 0x30 1)
  | .ordskip w => withPx w.px (w.toWord 0x30 2)
  | .hold w => withPx w.px (w.toWord 0x30 3)
  | .flowkill w => withPx w.px (w.toWord 0x30 4)
  | .enq w => withPx w.px (w.toWord 0x30 5)
  | .ld w => withPx w.px (w.toWord 0x38 0)
  | .st w => withPx w.px (w.toWord 0x38 1)
  | .ldc w => withPx w.px (w.toWord 0x38 2)
  | .pref w => withPx w.px (w.toWord 0x38 3)
  | .cctlInv1 w => withPx w.px (w.toWord 0x38 4)
  | .cctlInv1all w => withPx w.px (w.toWord 0x38 4)
  | .cctlClean2 w => withPx w.px (w.toWord 0x38 4)
  | .cctlFlush2 w => withPx w.px (w.toWord 0x38 4)
  | .twait w => withPx w.px (w.toWord 0x39 0)
  | .tset w => withPx w.px (w.toWord 0x39 1)
  | .tclr w => withPx w.px (w.toWord 0x39 2)
  | .ttest w => withPx w.px (w.toWord 0x39 3)
  | .atom w => withPx w.px (w.toWord 0x3A 0)
  | .cas w => withPx w.px (w.toWord 0x3A 1)
  | .fence w => withPx w.px (w.toWord 0x3B 0)
  | .copyLocal w => withPx w.px (w.toWord 0x40 0)
  | .copyRemote w => withPx w.px (w.toWord 0x40 0)
  | .copyMulticast w => withPx w.px (w.toWord 0x40 0)
  | .copyDrain w => withPx w.px (w.toWord 0x40 0)
  | .tcopy w => withPx w.px (w.toWord 0x40 1)
  | .wnst w => withPx w.px (w.toWord 0x40 2)
  | .ringwait w => withPx w.px (w.toWord 0x40 3)
  | .mloop w => withPx w.px (w.toWord 0x41 0)
  | .mchainB w => withPx w.px (w.toWord 0x41 1)
  | .mchainE w => withPx w.px (w.toWord 0x41 1)
  | .mzero w => withPx w.px (w.toWord 0x41 2)
  | .acrd w => withPx w.px (w.toWord 0x42 0)
  | .acwr w => withPx w.px (w.toWord 0x42 1)
  | .acst w => withPx w.px (w.toWord 0x42 2)
  | .acld w => withPx w.px (w.toWord 0x42 3)
  | .wait w => withPx w.px (w.toWord 0x43 0)
  | .htest w => withPx w.px (w.toWord 0x43 1)
  | .hcancel w => withPx w.px (w.toWord 0x43 2)
  | .hmovExport w => withPx w.px (w.toWord 0x43 3)
  | .hmovImport w => withPx w.px (w.toWord 0x43 3)
  | .ownpass w => withPx w.px (w.toWord 0x43 4)
  | .owntake w => withPx w.px (w.toWord 0x43 5)
  | .evwait w => withPx w.px (w.toWord 0x48 0)
  | .evsig w => withPx w.px (w.toWord 0x48 1)
  | .sigadd w => withPx w.px (w.toWord 0x48 2)
  | .sigwait w => withPx w.px (w.toWord 0x48 3)
  | .time w => withPx w.px (w.toWord 0x48 4)
  | .trap w => withPx w.px (w.toWord 0x50 0)
  | .bkpt w => withPx w.px (w.toWord 0x50 1)
  | .rtt w => withPx w.px (w.toWord 0x50 2)
  | .csrr w => withPx w.px (w.toWord 0x50 3)
  | .csrw w => withPx w.px (w.toWord 0x50 4)
  | .unassignedEncoding w => [w]
  | .launch .. | .flowlaunch .. | .barrierAnd .. | .barrierOr .. | .copyPacket ..
  | .tickcfg .. | .tickcfgStop .. | .packetStart .. | .packetComplete .. | .barrierEvaluate .. | .queueExamine ..
  | .queueSlotMap .. | .timeSliceEnd _ | .placeWorkgroup _ | .preempt _ | .flowEntryTake .. | .packingDelayExpiry ..
  | .sleepExpiry .. | .signalPoll .. | .eventPoll .. | .engineQueueStart _ | .engineOperationComplete _
  | .arrivalAdmit _ | .remoteArrivalBeat _ | .tagWaitTimeout _ | .kstep .. | .matrixCommandPerform _
  | .winnowShortlist _ | .remoteRequest _ | .remoteStoreLine _ | .remoteResponse _ | .wcAgeing .. | .flitReceive _
  | .replayRequest .. | .channelSilence .. | .healthWindow .. | .healthReport _ | .linkUp _ | .darkLimitExpiry
  | .ingestFrame .. | .tickDue .. | .tickGraceExpiry .. | .ptpSync _ | .tbHoldover | .gleanerSweep | .glctlOnce
  | .samplerSample _ | .ringConsumedPoll _ | .uncorrectableError _ | .powerMeasure _ | .thermalTrip ..
  | .coolantFlowLow | .idleEntry | .powerOn _ | .resetRelease | .imageFetchComplete .. | .bootSourceRetry
  | .configRequest _ | .hostBar2Access _ | .doorbell _ | .registerWrite .. | .telemetrySend
  | .attach | .detach | .ctxcreate | .ctxdestroy | .faultring | .servring | .storelog | .savepool
  | .podform | .exportCtx | .bar2base | .hostatomic | .fabparam | .streamparam | .powercap
  | .powerstate | .telemetry | .rollback | .journalclr | .imgpiece | .imgdone | .ctxcsr | .devcsr
  | .resume | .redirect | .kill | .read | .write | .halt | .step | .resumeDbg | .trace | .breakpoint
  | .inval | .sethwm | .resumepage | .engresume | .engend | .endlaunch | .ctxsave | .ctxrestore
  | .chretire | .chrestore | .slreplay | .sldiscard | .podhold | .podset | .flowstate
  | .longLatencyResult .. | .copyUnit .. | .junctionTemperature .. | .coreClockCycle | .unassignedPacketType ..
  | .unassignedMessageOp => []

/-- The bytes of an instruction in memory (R3, R92). -/
def encodeBytes (i : Instr) : List Byte := (encode i).flatMap (fun w => leBytes 8 w.toNat)

/-- Whether an instruction is words of memory. -/
def Instr.isWord (i : Instr) : Bool := !(encode i).isEmpty

end Sys2Proof
end

