-- ==== Sys2Proof/Machine/State.lean ====
section
/-!
DEFINITION. The state of one Kreny as plain data: every piece of state that spec/ gives the machine, the model's own
fields (agenda, issue, free, turn, out), what a step can stop with, and the machine right after reset.
-/
namespace Sys2Proof.Machine

/-! ### Memory -/

/-- Bytes by address, rising, no entry 0: an unlisted byte reads as 0 (DESIGN CHOICE, log 5). -/
abbrev Memory := List Host.Cell

/-- A scalar or lane register with its poison bit (R44). -/
structure Reg (w : Nat) where
  val    : BitVec w
  poison : Bool := false
  deriving DecidableEq, Repr

/-- The spaces of R49. -/
inductive Space where
  | global | scratch | priv
  deriving DecidableEq, Repr

/-- Page kinds (R66). -/
inductive PageKind where
  | so | rc | uo
  deriving DecidableEq, Repr

/-- Where a page lies (R64). -/
inductive PageTarget where
  | hbm
  | host
  | peer (index : Nat)
  deriving DecidableEq, Repr

/-- A leaf as an access uses it (R64): the physical address of the 4 KiB page, the page's size as a power of 2, its kind, target
and rights. -/
structure Leaf where
  frame  : Nat
  size   : Nat := 12
  kind   : PageKind
  target : PageTarget
  repair : Bool
  x      : Bool
  w      : Bool
  rd     : Bool
  deriving DecidableEq, Repr

/-- A cached translation of one die (R354): the number of its page, of 4 KiB, 2 MiB or 1 GiB as its leaf says, and the leaf with the
frame of the whole page. -/
structure TlbEntry where
  die  : Nat
  ctx  : Nat
  page : Nat
  leaf : Leaf
  deriving DecidableEq, Repr

/-- A cached entry above the leaf (R354): its level, the address bits that it serves, and the entry. -/
structure NextEntry where
  die   : Nat
  ctx   : Nat
  level : Nat
  tag   : Nat
  entry : Word
  deriving DecidableEq, Repr

/-! ### Lanes (R16, R17, R42, R176, R180, R199) -/

/-- An item (R16, R28, R29, R296). -/
structure Item where
  label    : W32
  cls      : Nat
  seq      : W32
  payload  : W32
  dispatch : Nat
  tick     : Word := 0
  late     : Bool := false
  released : Bool := false
  deriving DecidableEq, Repr

/-- A clause that a lane stands in (R93, R95): its header's address, COUNT + 1 and CLASS. -/
structure Clause where
  hdr   : Word
  words : Nat
  cls   : Nat
  deriving DecidableEq, Repr

/-- What a parked lane's record says (R349); `recId` numbers the stop, and lanes of one record share it. -/
structure Park where
  recId  : Nat
  cause  : Cause
  kind   : Nat
  addr   : Word
  detail : Nat
  pc     : Word
  deriving DecidableEq, Repr

/-- The states of R17; a parked lane holds why. -/
inductive LaneSt where
  | active
  | waiting
  | parked (p : Park)
  | join
  | exclusion
  | exited
  | absent
  deriving DecidableEq, Repr

/-- A destination that an instruction writes: a lane register, a scalar register or a predicate. -/
inductive Dest where
  | lane (k : Nat)
  | scalar (k : Nat)
  | pred (k : Nat)
  deriving DecidableEq, Repr

/-- A memory side of an engine operation: scratchpad, as the origin workgroup and the byte there, or a virtual address. -/
inductive Ep where
  | scr (origin off : Nat)
  | glob (va : Word)
  deriving DecidableEq, Repr

/-- What a lane that has reached its instruction waits for (R286, R61, R184, R240, R241), with what tells whether the wait still holds
(R322). A tag wait holds the tile's scratch offset and the DETAIL, SUB apart, that its timeout would report (R352); bit 17 above it says
that it lasts while the tile is FILLING only. A wait for the scoreboard names the range, or none for an entry of its own; one for a queue
its number in the order load, store, matrix; one for an element its region. A wait for a result names the lane and the destinations, or
none where the word waits for results of its own lanes. One at a peer says whether a store waits for an entry of the buffer there. Waits
for an event or a signal say what would end them, and whether the scalar unit waits; one for a ring holds the slot and its PHASE. A wait for
stores to peers has the ADDR and DETAIL that their loss would report (R382), and bit 17 above it where they have to be sent only (R211); a wait for a page in repair names the page (R357). -/
inductive WaitOn where
  | tag (off detail : Nat)
  | handle (h : Nat)
  | scoreboard (range : Option (Ep × Nat))
  | queue (q : Nat)
  | element (row col rows cols : Nat)
  | result (of : Option (Nat × List Dest))
  | repair (page : Nat)
  | peer (p : Nat) (store : Bool)
  | event (e : Nat) (t : W32) (scal : Bool)
  | signal (key : Word) (cmp : Nat) (v : Word) (scal : Bool)
  | ring (va : Word) (phase : Nat)
  | barrier (gen : Nat)
  | drain (addr : Word) (detail : Nat)
  deriving DecidableEq, Repr

/-- A wait in progress: since when (R359), and whether the waiter sleeps until it is woken or polls (R279, R280). -/
structure Wait where
  on     : WaitOn
  since  : Nat
  asleep : Bool := false
  deriving DecidableEq, Repr

/-- An open run-on window of a lane (R106): the result it belongs to, the destinations it still covers and how many
instructions are left in it. -/
structure Window where
  res  : Nat
  dsts : List Dest
  left : Nat
  deriving DecidableEq, Repr

/-- What the debugger asks of a lane (R327, R351): the DETAIL of a stop that it takes at its next boundary, whether it
executes one instruction and then stops, whether its instructions are traced, the stop already reported at a join in which
it stays held afterwards, and whether it has been let past the breakpoint at its PC. -/
structure Debug where
  halt   : Option Nat := none
  step   : Bool := false
  trace  : Bool := false
  held   : Option Park := none
  passed : Bool := false
  deriving DecidableEq, Repr

/-- One lane of a warp. -/
structure Lane where
  v         : List (Reg 32)
  p         : List (Reg 1)
  pc        : Word
  st        : LaneSt
  clause    : Option Clause
  trapClause : Option Clause
  ret       : List Word
  spilled   : Nat
  teams     : List LaneMask
  inner     : LaneMask
  level     : Nat
  subs      : List Nat
  trapen    : W32
  fpstat    : W32
  decstat   : W32
  rmode     : W32
  trapcause : W32
  trappc    : Word
  trapaddr  : Word
  trapret   : Word
  handler   : Bool
  windows   : List Window
  item      : Option Item
  killed    : Bool
  wait      : Option Wait
  dbg       : Debug
  deriving DecidableEq, Repr

/-! ### Warps and workgroups -/

/-- A handle register (R48): invalid, or bound to an engine operation with its binding generation (R237). -/
inductive Handle where
  | invalid
  | bound (op gen : Nat)
  deriving DecidableEq, Repr

/-- A join record (R337). -/
structure JoinRec where
  level    : Nat
  members  : LaneMask
  returned : LaneMask
  deriving DecidableEq, Repr

/-- One write of a pending result: the lane (none for a scalar register), the destination and the value. -/
structure ResWrite where
  lane   : Option Nat
  dst    : Dest
  val    : Word
  poison : Bool
  deriving DecidableEq, Repr

/-- A pending long-latency result (R106): the lanes that wait on it and its writes. -/
structure Result where
  id     : Nat
  lanes  : LaneMask
  writes : List ResWrite
  deriving DecidableEq, Repr

/-- The last arrival of a warp at the workgroup barrier (R184): the generation, the BAR instruction's address, the
address after it, its form, and the lanes that have taken part in it. -/
structure BarArrival where
  gen    : Nat
  pc     : Word
  next   : Word
  arrive : Bool
  lanes  : LaneMask
  deriving DecidableEq, Repr

/-- One warp (R18 to R24, R42, R199). -/
structure Warp where
  slot    : Nat
  lanes   : List Lane
  s       : List (Reg 64)
  h       : List Handle
  nbv     : W32
  unifcnt : W32
  trapvec : Word
  sleep   : Option Nat
  chain   : Option Nat
  pendBar : Option Nat
  lastBar : Option BarArrival
  joins   : List JoinRec
  pslot   : Option Nat
  results : List Result
  nextRes : Nat
  rotate  : Bool
  deriving DecidableEq, Repr

/-- Whose arrival fills a tile (R59): an engine operation of this device, or a sender's copy. -/
inductive Filler where
  | op (id : Nat)
  | sender (peer copy : Nat)
  deriving DecidableEq, Repr

/-- The tag of a tile (R58, R59). -/
inductive Tag where
  | empty
  | filling (by_ : Filler) (left cc : Nat) (poison : Bool)
  | full (count : Nat)
  | poison
  deriving DecidableEq, Repr

/-- An open ownership window (R238): the workgroup of the buffer's origin, its first tile there and its tile count. -/
structure OwnWindow where
  slot   : Nat
  origin : Nat
  tile   : Nat
  count  : Nat
  deriving DecidableEq, Repr

/-- Where a workgroup stands: not yet placed, resident on a core, or saved (R25, R284). -/
inductive WgSt where
  | pending
  | resident
  | saved
  deriving DecidableEq, Repr

/-- The key of a packet: context, user queue, packet number. -/
structure PktKey where
  ctx : Nat
  q   : Nat
  num : Nat
  deriving DecidableEq, Repr

/-- A kernel descriptor as a packet took it (R273). -/
structure Kernel where
  entry    : Word
  data     : Word
  trapv    : Word
  scratch  : Nat
  lanes    : Nat
  regs     : Nat
  scalars  : Nat
  stages   : Nat
  producer : Nat
  fclass   : Nat
  deriving DecidableEq, Repr

/-- One workgroup (R24 to R27, R53 to R63, R184, R238, R266); `retired` says that its allocation and id have gone while other stages of
its column go on (R56). -/
structure Wg where
  wid      : Nat
  pkt      : PktKey
  linear   : Nat
  gx       : Nat
  gy       : Nat
  gz       : Nat
  stage    : Nat
  column   : Nat
  dispatch : Nat
  kernel   : Kernel
  flow     : Bool
  launchId : W32
  slotSz   : Nat
  core     : Nat
  st       : WgSt
  fresh    : Bool
  warps    : List Warp
  allocId  : W32
  tileBase : Nat
  tiles    : Nat
  data     : Memory
  tags     : List (Nat × Tag)
  out      : List OwnWindow
  wins     : List OwnWindow
  acc      : List (List W32)
  barGen   : Nat
  barHere  : List Nat
  reserve  : Option (Nat × Nat)
  retired  : Bool
  deriving DecidableEq, Repr

/-! ### Contexts, packets, queues (R268 to R285) -/

/-- A breakpoint of a context (R327, R347). -/
structure Breakpoint where
  slot  : Nat
  core  : Nat
  warp  : Nat
  lanes : LaneMask
  pc    : Word
  deriving DecidableEq, Repr

/-- A waiter on an event (R280): a lane, or the scalar unit of a warp with 64 for the lane (R239); or a barrier packet's entry. -/
inductive EventWaiter where
  | lane (wid warp lane : Nat)
  | packet (k : PktKey)
  deriving DecidableEq, Repr

/-- A registration on an event with its target, in the order of registration (R280): on chip, or in an entry of the context's overflow
table. -/
structure EventReg where
  event  : Nat
  target : W32
  waiter : EventWaiter
  entry  : Option Nat
  deriving DecidableEq, Repr

/-- A context (R268, R269, R199, R239, R215). -/
structure Context where
  num      : Nat
  priv     : Bool
  ptroot   : Word
  qtab     : Word
  qcount   : Nat
  tslice   : Nat
  cring    : Word
  crlen    : Nat
  tagto    : Nat
  privbase : Word
  privhwm  : W32
  tbudget  : W32
  copymode : W32
  evovf    : Word
  evovfn   : Nat
  events   : List (Nat × W32)
  evRegs   : List EventReg
  crNum    : List (Nat × Nat)
  breaks   : List Breakpoint
  saved    : Bool
  deriving DecidableEq, Repr

/-- A LAUNCH or FLOWLAUNCH in progress (R27, R30, R274, R275, R285): the items that fill its next warp, when the first of
them was packed, and the items that wait for their flow's exclusion. -/
structure Launch where
  flow    : Bool
  id      : Nat
  kernel  : Kernel
  args    : Word
  wgw     : Nat
  accRows : Nat
  slotSz  : Nat
  gx      : Nat
  gy      : Nat
  gz      : Nat
  next    : Nat
  firstDispatch : Nat
  fqd     : Word
  delay   : Nat
  budget  : Option Nat
  taken   : Nat
  closed  : Bool
  filling : List Item
  fillAt  : Nat
  parkedItems : List Item
  copymode : W32
  deriving DecidableEq, Repr

/-- The release ring of a launch (R274, R275): its context, base, slots and the count of records written to it. -/
structure RelRing where
  key   : PktKey
  ctx   : Nat
  base  : Word
  len   : Nat
  count : Nat
  deriving DecidableEq, Repr

/-- Entries of a label that FLOWKILL has dropped before they were taken (R193): those of a flow queue below an index. -/
structure KillMark where
  ctx   : Nat
  fqd   : Word
  label : W32
  below : Word
  deriving DecidableEq, Repr

/-- A barrier dependency entry (R276). -/
inductive BarDep where
  | unused
  | signal (addr : Word)
  | event (e : Nat) (target : W32)
  deriving DecidableEq, Repr

/-- What a packet does. -/
inductive PktBody where
  | launch (l : Launch)
  | barrier (all : Bool) (deps : List BarDep)
  | copy (op : Nat)
  | done
  deriving DecidableEq, Repr

/-- A packet that has been taken and has not completed (R270, R271): where it lies, whether it has started, whether it has aborted
while its items run on, how many of its signals stand in a watch list (R279), and an abort that is due and stalls at a page in repair, as
its ERR and cause (R278, R393). -/
structure Pkt where
  key     : PktKey
  csig    : Word
  tag     : W32
  bar     : Bool
  addr    : Nat
  started : Bool
  aborted : Bool
  watch   : Nat
  owes    : Option (Nat × Byte)
  body    : PktBody
  deriving DecidableEq, Repr

/-- The scheduler's own view of a user queue (R281, R282, R393). -/
structure Queue where
  ctx     : Nat
  q       : Nat
  blocked : Bool
  cls     : Nat
  ready   : Option Nat
  deriving DecidableEq, Repr

/-- A hardware queue slot in use (R281, R282); `due` are the workgroups of it that fitted nowhere when a slice ended for it as the next
holder. -/
structure Slot where
  slot   : Nat
  ctx    : Nat
  q      : Nat
  cls    : Nat
  since  : Nat
  holder : Bool
  due    : List Nat
  sliceEnd : Nat
  deriving DecidableEq, Repr

/-! ### Flows (R29 to R36, R300) -/

/-- What an ordered item has made of its release event (R33). -/
inductive Release where
  | none
  | skip
  | record (bytes : List Byte) (ring : PktKey)
  deriving DecidableEq, Repr

/-- An ordered item of a flow that has not been delivered or passed. -/
structure OrdItem where
  seq      : W32
  dispatch : Nat
  rel      : Release
  deriving DecidableEq, Repr

/-- An item of class 2 or 3 that holds or awaits its flow's exclusion (R32). -/
structure ExclItem where
  seq      : W32
  dispatch : Nat
  holds    : Bool
  deriving DecidableEq, Repr

/-- A flow of a context (R29): next sequence number, hold-back window, ordered items and exclusion, in sequence order. -/
structure Flow where
  ctx   : Nat
  label : W32
  next  : W32
  hold  : Nat
  items : List OrdItem
  excl  : List ExclItem
  deriving DecidableEq, Repr

/-- A tick stream (R294, R295). -/
structure Stream where
  ctx    : Nat
  id     : W32
  active : Bool
  t0     : Nat
  wbase  : Word
  fqd    : Word
  period : Nat
  grace  : Nat
  flow   : W32
  tsize  : Nat
  sink   : Nat
  wlog2  : Nat
  tpt    : Nat
  policy : Nat
  next   : Nat
  deriving DecidableEq, Repr

/-- Tick items offered to a flow queue descriptor and not yet taken into a launch (R295). -/
structure Offer where
  ctx  : Nat
  fqd  : Word
  item : Item
  deriving DecidableEq, Repr

/-- The running state of a winnow region (R297, R298, R392), by its physical address, with the context whose parts have named it last:
elements taken since arming, indices taken, and the running shortlist of values by index, NaN and poison seen. -/
structure Winnow where
  ctx    : Nat
  region : Nat
  taken  : Nat
  seen   : List Nat
  short  : List (Nat × W32)
  maxv   : W32
  nan    : Bool
  pois   : Bool
  deriving DecidableEq, Repr

/-! ### Engine operations (R212 to R238, R365, R373) -/

/-- A member of a multicast or the target of a remote copy (R218). -/
structure Member where
  peer  : Nat
  alloc : W32
  off   : Nat
  deriving DecidableEq, Repr

/-- A TCOPY's conversion (R222). -/
structure Convert where
  fmt    : Nat
  planes : Nat
  se     : Nat
  pitch  : Nat
  spitch : Nat
  scale  : Word
  panels : Nat
  deriving DecidableEq, Repr

/-- An operand ring of MLOOP (R227). -/
structure PanelRing where
  wp    : Nat
  step  : Nat
  start : Nat
  count : Nat
  base  : Nat
  ds    : Bool
  reads : Nat
  deriving DecidableEq, Repr

/-- An MLOOP's descriptor (R227). -/
structure MloopDesc where
  a      : PanelRing
  b      : PanelRing
  row0   : Nat
  col0   : Nat
  ksteps : Nat
  rowinc : Nat
  colinc : Nat
  kper   : Nat
  deriving DecidableEq, Repr

/-- What an engine operation does. A multicast holds the address of its table and its MAP until it has read the table (R218);
a member stands with its index. -/
inductive OpKind where
  | copy (dst src : Ep) (bytes cc : Nat)
  | remote (table : Option (Word × Nat)) (multi : Bool) (targets : List (Nat × Member)) (src : Ep) (bytes cc : Nat)
  | drain (peer : Nat)
  | tcopy (dst src : Ep) (c : Convert) (cc : Nat)
  | wnst (src : Ep) (last : Bool) (region : Word) (base count : Nat)
  | mloop (d : MloopDesc)
  | mzero (row col rows cols : Nat)
  | chain (opens : Bool)
  | acst (mem : Ep) (row col rows cols pitch fmt : Nat)
  | acld (mem : Ep) (row col rows cols pitch fmt : Nat)
  | ownpass (slot : Nat) (w : OwnWindow) (fromWindow : Option Nat)
  | owntake (slot : Nat)
  deriving DecidableEq, Repr

/-- The statuses of R216. -/
inductive OpStatus where
  | ok | partial_ | fault | cancelled | stale | unreachable | poisoned
  deriving DecidableEq, Repr

/-- A tag wait of an operation: since when, of which of its units, and on which tile of which allocation (R359); for an arrival, `no` is its
place among the arrivals that wait on tiles (R59). -/
structure TileWait where
  since  : Nat
  unit   : Nat
  origin : Nat
  tile   : Nat
  no     : Nat := 0
  deriving DecidableEq, Repr

/-- Where an operation stands. A save suspends one that has units left, and keeps one that waits for its record only (R373). -/
inductive OpSt where
  | queued
  | started
  | suspended
  | done
  | kept
  | ended
  deriving DecidableEq, Repr

/-- A failure of an operation, or of a multicast member: its status, FAULT and FADDR. -/
structure OpFail where
  status : OpStatus
  cause  : Byte
  addr   : Word
  deriving DecidableEq, Repr

/-- An engine operation. `home` is the core that issued it (R375), `units` are the units performed (16-byte units, elements or
k-steps), `sent` those of a remote copy whose beats have been sent, `begun` the tiles whose arrival has begun, `held` the missing
pages it has reported (R365), `waitAt` the wait on a tile that it reads and `destAt` the wait of its arrival into a tile (R59, R359),
`header` the winnow header that it took (R392), `awaits` the fabric tags that a drain marker waits for (R221), `fork` those of the
stores to peers that its issue comes after, once it has to know them (R255), `rowMarks` and `colMarks` the special rows and columns of
the regions (R89), `carry` the block values that await their pair under NBV 2 (R88), as m and e of m × 2^e. -/
structure Op where
  id     : Nat
  kind   : OpKind
  ctx    : Nat
  pkt    : PktKey
  core   : Nat
  wid    : Nat
  warp   : Nat
  slot   : Nat
  hidx   : Nat
  pc     : Word
  event  : Nat
  rnum   : Option Nat
  home   : Nat
  alloc  : W32
  st     : OpSt
  units  : List Nat
  sent   : List Nat
  begun  : List Nat
  bytes  : Nat
  pois   : Bool
  fail   : Option OpFail
  members : List (Nat × OpFail)
  held   : List Word
  waitAt : Option TileWait
  destAt : Option TileWait
  header : List Byte
  awaits : List Nat
  fork   : Option (List Nat)
  cancel : Bool
  rowMarks : List Nat
  colMarks : List Nat
  carry  : List (Int × Int)
  nbv    : W32
  chain  : Option Nat
  result : OpStatus
  fcause : Byte
  faddr  : Word
  deriving DecidableEq, Repr

/-! ### The fabric (R301 to R308, R378 to R384) -/

/-- A waiting arrival beat: at the ingress, which holds 256 of a sender, or still in the sender's allowance (R59, R304). `no` is its place
among the arrivals that wait on tiles. -/
structure Waiting where
  beat  : Beat
  since : Nat
  here  : Bool
  no    : Nat := 0
  deriving DecidableEq, Repr

/-- An update of a signal at a peer that the device's own agents make (R241, R271): its context, the export address, the operation of
R208 with its operand, and the time at which it was made (R355). -/
structure SignalAtom where
  ctx     : Nat
  peer    : Nat
  pa      : Nat
  opc     : BitVec 4
  operand : Word
  since   : Nat
  deriving DecidableEq, Repr

/-- A write-combining entry (R307): the contexts whose stores it holds, and the tag of its line once it has been sent. Lines that the
device's own agents write at a peer stand here too, with 96 for the core. -/
structure WcLine where
  core  : Nat
  peer  : Nat
  line  : Nat
  mask  : BitVec 128
  data  : List Byte
  since : Nat
  ctxs  : List Nat
  tag   : Option Nat
  deriving DecidableEq, Repr

/-- A remote request of a lane in flight (R306): the lane, its instruction's address, the address it asks, the DETAIL that its loss
would report (R352), whether the scalar unit asks for every executing lane, and the answer once it has come. Messages of an
engine operation stand here too, with the operation in place of the workgroup and a `warp` from 1000; those of the device's own agents
with the context in its place and a `warp` from 3000: reads, with their length for the lane, and 3999 for an update of a signal. -/
structure Remote where
  tag    : Nat
  peer   : Nat
  wid    : Nat
  warp   : Nat
  lane   : Nat
  pc     : Word
  addr   : Word
  detail : Nat := 0
  scal   : Bool := false
  answer : Option PeerAnswer
  deriving DecidableEq, Repr

/-- What the receiver of a channel keeps (R303, R378, R379), whether this device may send on it, whether the peer's receiver has retired
that direction, and whether it is dark for a pod change, when link-up keeps its score (R383). -/
structure Channel where
  peer    : Nat
  plane   : Nat
  up      : Bool
  sendUp  : Bool
  retired : Bool
  ver     : Nat
  health  : Nat
  expect  : Byte
  fails   : Nat
  fixed   : Nat
  replays : Nat
  lastSeq : Byte
  sent    : Nat
  sendRet : Bool
  dark    : Bool
  deriving DecidableEq, Repr

/-- A page of an export context in repair (R381). -/
structure Repair where
  ctx  : Nat
  page : Nat
  log  : List PeerLine
  deriving DecidableEq, Repr

/-- A PODSET that waits for its peers, with the map it keeps and the dark limit in ns, from each peer's hold on (R383, R384). -/
structure PodWait where
  keep  : BitVec 16
  done  : BitVec 16
  limit : Nat
  deriving DecidableEq, Repr

/-- The fabric's part of the state. `dropped` names copies, by sender and number, of which a beat has been dropped (R359), and
`spoilt` names arrivals, by copy, workgroup and tile, that a tile in POISON has taken or that a soft error has met (R59). `turn` counts
flits, which go over the channels in turn (R303), `atoms` holds the signal updates of the agents that are still to be sent, and `heldAt` says since when each held peer has been held (R383). -/
structure Fabric where
  podId    : W32
  index    : Nat
  members  : BitVec 16
  chans    : List Channel
  held     : BitVec 16
  heldAt   : List (Nat × Nat)
  podWait  : Option PodWait
  forming  : Option (BitVec 16)
  holding  : Bool
  exports  : List (Nat × Nat)
  arrivals : List Waiting
  wc       : List WcLine
  remote   : List Remote
  atoms    : List SignalAtom
  requests : List PeerRequest
  lines    : List PeerLine
  dropped  : List (Nat × Nat)
  spoilt   : List (Nat × Nat × Nat × Nat)
  repair   : List Repair
  nextTag  : Nat
  nextWait : Nat
  turn     : Nat
  ageing   : Nat
  threshold : Nat
  deriving DecidableEq, Repr

/-! ### Rings, time, observation, host port, boot and power -/

/-- A record ring of the driver (R348, R363, R380): base, length and vector once named, records posted, the consumed
count last read, and the records that wait for room, without their PHASE. -/
structure Ring where
  base   : Nat
  len    : Nat
  vector : Nat
  posted : Nat
  consumed : Nat
  waiting : List (List Byte)
  deriving DecidableEq, Repr

/-- The timebase (R288, R290), in units of 1/2200 ns, and what TBSTAT needs (log 8): `holdAt` is when hold-over began. -/
structure Time where
  tb       : Nat
  slew     : Int
  state    : Nat
  ever     : Bool
  port     : Bool
  errb     : BitVec 16
  good     : Nat
  lastSync : Nat
  holdAt   : Nat
  deriving DecidableEq, Repr

/-- Lanes that have executed in the current clock (R322): where, the instruction's address, which, and the warp's lanes that were
Active above it or Waiting at a convergence point meanwhile. -/
structure Executed where
  core  : Nat
  slot  : Nat
  pc    : Word
  lanes : LaneMask
  apart : LaneMask
  deriving DecidableEq, Repr

/-- Counters, Gleaner and sampler (R321 to R326). `regs` holds 0x100 to 0x177 in number order; `clocks` counts core clocks (R2);
`nextSweep` is a time of the timebase in its units, `sampleAt` a count of clocks; `nextSlot` is the warp slot at which a core's next
sample begins to look, and `sampling` are the cores that are sampled in the current clock. -/
structure Observe where
  regs     : List Word
  clocks   : Nat
  sweeps   : Nat
  nextSweep : Nat
  samples  : Nat
  nextSlot : List Nat
  sampleAt : List Nat
  sampling : List Nat
  executed : List Executed
  deriving DecidableEq, Repr

/-- The host port (R309 to R315, R317). `inval` holds the next message tag and the time at which the INVAL that is in progress dropped
its entries (R355). `inbox` holds the messages that have been sent and not answered, oldest first: with the sequence number of SEND,
or with none for one that came over the management port (R315, R334). -/
structure HostPort where
  msgIn    : Msg
  reply    : Msg
  rseq     : W32
  inbox    : List (Option W32 × Msg)
  stage    : Memory
  msix     : List Word
  pba      : List Bool
  bar2     : Nat
  atomics  : Bool
  attached : Option Nat
  cfg      : Memory
  ptpDomain : Nat
  ingestPort : Nat
  inval    : Option (Nat × Nat)
  ethPorts : Nat
  collector : Word × Word × Nat
  deriving DecidableEq, Repr

/-- An image source (R319). -/
inductive ImageSource where
  | https
  | host
  deriving DecidableEq, Repr

/-- The boot configuration in flash (R6, R319): image sources in order of preference, the management port's address, and the trust
root. -/
structure BootConfig where
  sources : List ImageSource
  port    : List Byte
  trust   : List Byte
  deriving DecidableEq, Repr

/-- An entry of the boot journal (R385). -/
structure JournalEntry where
  check   : W32
  start   : W32
  arg     : W32
  alt     : Nat
  outcome : Nat
  step    : Nat
  deriving DecidableEq, Repr

/-- What a start meets in the part and outside it (log 12): whether the journal can be read; the rates and the width of the PCIe link's
other end, and the highest rate and greatest width at which the link trains; whether the management port comes up, the stacks that
do not train at full rate and those that do not at 8 Gb/s, and whether the die-to-die links train. -/
structure Condition where
  flash : Bool
  rates : List Nat
  lanes : Nat
  rate  : Nat
  width : Nat
  port  : Bool
  weak  : BitVec 8
  dead  : BitVec 8
  dies  : Bool
  deriving DecidableEq, Repr

/-- Start-up (R319, R320, R385, R386): `order` holds the sources of this start, by their index in the configuration, and `left` those
that have not failed since the first was last tried. -/
structure Boot where
  part     : Condition
  config   : BootConfig
  step     : Nat
  stopped  : Bool
  ready    : Bool
  start    : W32
  alt      : List Nat
  journal  : List JournalEntry
  order    : List Nat
  left     : List Nat
  retryAt  : Option Nat
  image    : Memory
  fwver    : Word
  level    : Nat
  rollback : Nat
  measure  : BitVec 512
  rate     : Nat
  width    : Nat
  hbmSlow  : BitVec 8
  deriving DecidableEq, Repr

/-- A sample of the telemetry (R334): a measurement and the power state. -/
structure Sample where
  m      : Measurement
  pstate : Nat
  deriving DecidableEq, Repr

/-- Rails, power and temperature (R329 to R334): `passed` says that the average has passed the cap and has not fallen below it since
(R331); `samples` holds the telemetry of the last second, newest first, and `sendAt` when it is sent next. -/
structure Power where
  rails   : List Rail
  inReset : Bool
  pstate  : Nat
  idle    : Option Nat
  cap     : Nat
  watts   : List Nat
  passed  : Bool
  samples : List Sample
  sendAt  : Nat
  pacing  : Bool
  hot     : Bool
  tripped : Bool
  temp    : Nat
  deriving DecidableEq, Repr

/-! ### Inputs and outputs -/

/-- What the agenda names next (log 1): an event or message of the table, an issue of a warp, a write to host memory by the host, a
management message with its certificate chain over the management port (R334), a host read of BAR0, the condition of the part, the
contents of its flash, and a reset, with or without the rails going (log 12). -/
inductive Input where
  | ev (i : Instr)
  | issue (core slot : Nat)
  | hostMem (addr : Nat) (data : List Byte)
  | portMsg (chain : List Byte) (m : Msg)
  | hostRead (off n : Nat)
  | condition (p : Condition)
  | flash (c : BootConfig) (j : List JournalEntry)
  | restart (cold : Bool)
  deriving DecidableEq, Repr

/-- What the device has sent outside (log 4). -/
inductive Output where
  | msix (vector : Nat)
  | beat (peer : Nat) (b : Beat)
  | line (peer : Nat) (l : PeerLine)
  | request (peer : Nat) (r : PeerRequest)
  | response (peer : Nat) (r : PeerResponse)
  | marker (peer tag : Nat)
  | replay (peer plane : Nat) (seq : Byte)
  | resend (peer plane : Nat) (seq : Byte) (count : Nat)
  | moved (peer plane count onto : Nat)
  | health (peer plane score : Nat) (retired : Bool)
  | linkFrame (peer plane : Nat)
  | hostRead (bytes : List Byte)
  | config (value : Option W32)
  | portReply (reply : Msg)
  | telemetry (samples : List Sample)
  | mail (note : String)
  deriving DecidableEq, Repr

/-- The instruction that executes (log 2): the warp, the lanes that execute it, its address (that of its PX word), the
address of its word, and the word. -/
structure Issue where
  wid   : Nat
  warp  : Nat
  lanes : List Nat
  pc    : Word
  wpc   : Word
  word  : Word
  deriving DecidableEq, Repr

/-- An accumulator element (`sub` 5) or a register (`sub` 6) whose soft error has been reported (R362): `addr` is the ADDR of its
notification; `lane` is 0 for a scalar register, `warp` and `lane` are 0 for an element. -/
structure Told where
  wid  : Nat
  warp : Nat
  lane : Nat
  sub  : Nat
  addr : Nat
  deriving DecidableEq, Repr

/-- The memories behind the caches (R15, R64, R65, R354, R361). `poison` lists poisoned 16-byte granules of HBM by number,
`unfound` those whose error no access has found yet, each with its structure code, 1 or 2, and `told` the accumulator elements and
registers whose error has been reported and has not been written over since (R362). -/
structure MemState where
  hbm    : Memory
  poison : List Nat
  unfound : List (Nat × Nat)
  told   : List Told
  host   : Memory
  l1     : List (Nat × Nat)
  l2     : List (Nat × Bool)
  tlb    : List TlbEntry
  above  : List NextEntry
  badPte : List Nat
  badInstr : List Nat
  deriving DecidableEq, Repr

/-- The state of one Kreny. `hole` is the address at which the current step has left the HBM (log 14). -/
structure State where
  agenda   : List Input
  issue    : Option Issue
  hole     : Option Nat
  free     : Nat
  turn     : Nat
  out      : List Output
  mem      : MemState
  time     : Time
  obs      : Observe
  launches : Nat
  dispatch : Nat
  allocNext : List Nat
  allocWraps : List Nat
  nextWid  : Nat
  nextOp   : Nat
  nextRec  : Nat
  nextGen  : Nat
  ctxs     : List Context
  queues   : List Queue
  slots    : List Slot
  pkts     : List Pkt
  wgs      : List Wg
  ops      : List Op
  flows    : List Flow
  rings    : List RelRing
  kills    : List KillMark
  streams  : List Stream
  offers   : List Offer
  winnow   : List Winnow
  fring    : Option Ring
  sring    : Option Ring
  slog     : Option Ring
  pool     : Option (Nat × Nat)
  fab      : Fabric
  host     : HostPort
  boot     : Boot
  power    : Power
  deriving DecidableEq, Repr

/-! ### How a step can stop -/

/-- The machine stops. -/
inductive Fault where
  /-- Raised by an access beyond the 384 GB of local HBM that the part has (R11, R15): the spec gives no such memory.
  Safe (log 14). -/
  | hbmHole (addr : Nat)
  deriving DecidableEq, Repr

/-- No meaning. -/
inductive Refusal where
  /-- Raised by an arm of the dispatcher that has no meaning yet. Safe. -/
  | notModelled (mnemonic : String)
  deriving DecidableEq, Repr

/-! ### Reset -/

/-- HBM, host memory and caches right after reset: nothing listed (log 5, log 6, log 7). -/
def MemState.reset : MemState :=
  { hbm := [], poison := [], unfound := [], told := [], host := [], l1 := [], l2 := [], tlb := [], above := [], badPte := [], badInstr := [] }

/-- The timebase at reset: 0, free-running, never locked (R290, log 8). -/
def Time.reset : Time :=
  { tb := 0, slew := 0, state := 0, ever := false, port := false, errb := 0, good := 0, lastSync := 0, holdAt := 0 }

/-- Counters 0 at reset (R321); the other registers 0 (log 9). -/
def Observe.reset : Observe :=
  { regs := List.replicate 120 0, clocks := 0, sweeps := 0, nextSweep := 0, samples := 0, nextSlot := List.replicate 96 0,
    sampleAt := List.replicate 96 0, sampling := [], executed := [] }

/-- In no pod: index 0, no members (R301); defaults of R307 and R379. -/
def Fabric.reset : Fabric :=
  { podId := 0, index := 0, members := 0, chans := [], held := 0, heldAt := [], podWait := none, forming := none, holding := false,
    exports := [], arrivals := [], wc := [], remote := [], atoms := [], requests := [], lines := [], dropped := [], spoilt := [],
    repair := [], nextTag := 0, nextWait := 0, turn := 0, ageing := 1000, threshold := 256 }

/-- The host port at reset (log 11). Each MSI-X vector is masked: bit 0 of its Vector Control, bit 32 of its second word, is 1
(the reset value of PCI Express, PRESUMED, log 11). -/
def HostPort.reset : HostPort :=
  { msgIn := 0, reply := 0, rseq := 0, inbox := [], stage := [], msix := (List.replicate 2048 [0#64, 0x1_0000_0000#64]).flatten,
    pba := List.replicate 2048 false, bar2 := 0, atomics := false, attached := none, cfg := [], ptpDomain := 0,
    ingestPort := 0, inval := none, ethPorts := 0, collector := (0, 0, 0) }

/-- Start-up has not begun: step 0, not ready (R319); an empty journal, a boot configuration with HTTPS first, as R319 names the
sources, a fused counter of 0 and a part in order (log 12). -/
def Boot.reset : Boot :=
  { part := { flash := true, rates := [7, 6, 5], lanes := 16, rate := 7, width := 16, port := true, weak := 0, dead := 0, dies := true },
    config := { sources := [.https, .host], port := [], trust := [] }, step := 0, stopped := false, ready := false,
    start := 0, alt := List.replicate 8 0, journal := [],
    order := [], left := [], retryAt := none, image := [], fwver := 0, level := 0, rollback := 0, measure := 0,
    rate := 0, width := 0, hbmSlow := 0 }

/-- The default cap (R331); P1; every rail still to come up (log 11, log 12). -/
def Power.reset : Power :=
  { rails := [], inReset := true, pstate := 1, idle := none, cap := 1800, watts := [], passed := false, samples := [],
    sendAt := 0, pacing := false, hot := false, tripped := false, temp := 0 }

/-- The machine right after reset. Die 0 issues allocation id 1 first and die 1 id 2 (R55); the launch and dispatch
counts are 0 (R27, R29). -/
def State.reset : State :=
  { agenda := [], issue := none, hole := none, free := 0, turn := 0, out := [], mem := MemState.reset, time := Time.reset,
    obs := Observe.reset, launches := 0, dispatch := 0, allocNext := [1, 2], allocWraps := [0, 0], nextWid := 0,
    nextOp := 0, nextRec := 0, nextGen := 0, ctxs := [], queues := [], slots := [], pkts := [], wgs := [], ops := [],
    flows := [], rings := [], kills := [], streams := [], offers := [], winnow := [], fring := none, sring := none, slog := none, pool := none,
    fab := Fabric.reset, host := HostPort.reset, boot := Boot.reset, power := Power.reset }

end Sys2Proof.Machine
end

