-- ==== Sys2Proof/Machine/Ops.lean ====
section
/-!
DEFINITION. The named operations over memory, registers and lanes: bytes of the stores, the driver's record rings, lookups
and updates of warps and lanes, the table walk, stopping a lane, taking a user trap, and returning from one.
-/
namespace Sys2Proof.Machine

/-! ### Memory: a rising list of bytes, no entry 0 (log 5) -/

/-- The byte at an address. -/
def Memory.get : Memory → Nat → Byte
  | [], _ => 0
  | c :: m, a => if a < c.1 then 0 else if c.1 = a then c.2 else Memory.get m a

/-- One byte written; a 0 removes the entry. -/
def Memory.set : Memory → Nat → Byte → Memory
  | [], a, b => if b = 0 then [] else [(a, b)]
  | c :: m, a, b =>
    if a < c.1 then (if b = 0 then c :: m else (a, b) :: c :: m)
    else if c.1 = a then (if b = 0 then m else (a, b) :: m)
    else c :: Memory.set m a b

/-- n bytes from an address upwards. -/
def Memory.read (m : Memory) (a n : Nat) : List Byte := (List.range n).map (fun i => Memory.get m (a + i))

/-- Bytes written from an address upwards. -/
def Memory.write : Memory → Nat → List Byte → Memory
  | m, _, [] => m
  | m, a, b :: bs => Memory.write (Memory.set m a b) (a + 1) bs

/-- Every key of the memory is at least k, keys rise strictly, and no byte is 0. -/
def Memory.wfFrom : Nat → Memory → Bool
  | _, [] => true
  | k, c :: m => decide (k ≤ c.1) && decide (c.2 ≠ 0) && Memory.wfFrom (c.1 + 1) m

/-- The canonical form of a memory. -/
def Memory.wf (m : Memory) : Bool := Memory.wfFrom 0 m

/-! ### Small things -/

/-- A lane mask holds lane l. -/
def hasLane (m : LaneMask) (l : Nat) : Bool := m.getLsbD l
/-- The mask of a list of lanes. -/
def maskOf (ls : List Nat) : LaneMask := ls.foldl (fun m l => m ||| BitVec.ofNat 64 (2 ^ l)) 0
/-- The lanes of a mask, ascending. -/
def lanesOf (m : LaneMask) : List Nat := (List.range 64).filter (hasLane m)
/-- Bits [lo + n − 1 : lo] of a number. -/
def bitsOf (x lo n : Nat) : Nat := x / 2 ^ lo % 2 ^ n
/-- A record from its fields: lowest bit, width, value. -/
def packFields (fs : List (Nat × Nat × Nat)) : Nat := fs.foldl (fun acc f => acc + f.2.2 % 2 ^ f.2.1 * 2 ^ f.1) 0
/-- Whether [a, a + n) and [b, b + m) share a byte. -/
def overlaps (a n b m : Nat) : Bool := decide (a < b + m) && decide (b < a + n) && n != 0 && m != 0
/-- Whether [a, a + n) lies in [b, b + m). -/
def within (a n b m : Nat) : Bool := decide (b ≤ a) && decide (a + n ≤ b + m)
/-- ⌈a / b⌉. -/
def ceilDiv (a b : Nat) : Nat := (a + b - 1) / b
/-- The die of a core (R5): die 0 holds cores 0 to 47. -/
def dieOf (core : Nat) : Nat := core / 48
/-- Bytes, or 0s, cut or filled to length n. -/
def padTo (n : Nat) (bs : List Byte) : List Byte := (bs ++ List.replicate n 0).take n

/-- The end of every meaning: the next state, or the fault of an access beyond the HBM (log 14). -/
def finish (s : State) : Host.Outcome State Fault Refusal :=
  match s.hole with
  | none => .next s
  | some a => .fault (.hbmHole a)

/-! ### Counters (R321) and outputs -/

/-- System register 0x100 + k of the device grows by n. -/
def State.bumpBy (s : State) (reg n : Nat) : State :=
  { s with obs := { s.obs with regs := s.obs.regs.modify (reg - 0x100) (· + BitVec.ofNat 64 n) } }
/-- A counter grows by 1. -/
def State.bump (s : State) (reg : Nat) : State := s.bumpBy reg 1
/-- The channels on which this device may send to a peer, by their places in the list. -/
def Fabric.sendChans (f : Fabric) (q : Nat) : List Nat :=
  (List.range f.chans.length).filter (fun i => match f.chans[i]? with | some c => c.peer == q && c.sendUp | none => false)
/-- The channel that takes the next flit to a peer: the channels that are up take flits in turn (R303 says that traffic is spread and
not how: DESIGN CHOICE, log 77). -/
def Fabric.nextChan (f : Fabric) (q : Nat) : Option Nat := (f.sendChans q)[f.turn % max 1 (f.sendChans q).length]?
/-- n flits stand in a channel's replay buffer, which holds the last 128 (R378). -/
def Channel.send (n : Nat) (c : Channel) : Channel := { c with lastSeq := c.lastSeq + BitVec.ofNat 8 n, sent := min 128 (c.sent + n) }
/-- A flit leaves for a peer (R303, R378); FABTX counts it. -/
def State.flit (s : State) (q : Nat) : State :=
  let chans := match s.fab.nextChan q with | none => s.fab.chans | some i => s.fab.chans.modify i (Channel.send 1)
  { s with fab := { s.fab with chans := chans, turn := s.fab.turn + 1 } }.bump 0x126
/-- The value of a device register. -/
def State.devReg (s : State) (reg : Nat) : Word := (s.obs.regs[reg - 0x100]?).getD 0
/-- An output leaves the device (log 4). -/
def State.emit (s : State) (o : Output) : State := { s with out := s.out ++ [o] }
/-- The timebase in ns (R2, R288, log 8). -/
def State.now (s : State) : Nat := s.time.tb / 2200
/-- An interrupt is signalled (R309); a masked vector becomes pending (PCI Express, PRESUMED, log 11). -/
def State.msix (s : State) (v : Nat) : State :=
  if ((s.host.msix[2 * v + 1]?).getD 0).getLsbD 32 then { s with host := { s.host with pba := s.host.pba.set v true } }
  else s.emit (.msix v)

/-! ### Physical memory -/

/-- Whether a granule that [a, a + n) touches is poisoned (R361). -/
def MemState.erred (m : MemState) (a n : Nat) : Bool := m.poison.any (fun g => overlaps (16 * g) 16 a n)

/-- Bytes of HBM. -/
def State.hbmRead (s : State) (a n : Nat) : List Byte := Memory.read s.mem.hbm a n

/-- A region's row as arming leaves it (R392): nothing taken, M at −∞. -/
def Winnow.fresh (ctx region : Nat) : Winnow :=
  { ctx := ctx, region := region, taken := 0, seen := [], short := [], maxv := 0xFF800000, nan := false, pois := false }

/-- What a write of HBM does to the winnow regions that parts have named: a change of ARMED from 0 to 1 starts a new row, and TAKEN, which
software cannot write, stands at the count of the row (R297, R392, log 74). -/
def rearm (old : Memory) : List Winnow → Memory → Memory × List Winnow
  | [], m => (m, [])
  | x :: xs, m =>
    let starts := (Memory.get m x.region).getLsbD 0 && !(Memory.get old x.region).getLsbD 0
    let x := if starts then Winnow.fresh x.ctx x.region else x
    let r := rearm old xs (Memory.write m (x.region + 12) (leBytes 4 x.taken))
    (r.1, x :: r.2)

/-- Bytes written to HBM by one write: a granule that it covers whole is cleared of poison (R361), and so is an erred page-table entry
or instruction word (R356). An address beyond the part stops the step (log 14). -/
def State.hbmWrite (s : State) (a : Nat) (bs : List Byte) : State :=
  if Config.hbmBytes < a + bs.length then { s with hole := some a }
  else
    let keep := fun g => !within (16 * g) 16 a bs.length
    let r := rearm s.mem.hbm s.winnow (Memory.write s.mem.hbm a bs)
    let word := fun e => !within e 8 a bs.length
    { s with mem := { s.mem with hbm := r.1, poison := s.mem.poison.filter keep, unfound := s.mem.unfound.filter (fun g => keep g.1),
                                 badPte := s.mem.badPte.filter word, badInstr := s.mem.badInstr.filter word },
             winnow := r.2 }

/-- A record written in 8-byte units, its first 8 bytes last (R214, R246, R348), and counted (R321). -/
def State.hbmRecord (s : State) (a : Nat) (bs : List Byte) : State :=
  if Config.hbmBytes < a + bs.length then { s with hole := some a }
  else
    let r := rearm s.mem.hbm s.winnow (Memory.write s.mem.hbm a bs)
    { s with mem := { s.mem with hbm := r.1 }, winnow := r.2 }.bumpBy 0x125 bs.length

/-- A granule becomes poisoned. -/
def State.poisonGranules (s : State) (gs : List Nat) : State :=
  { s with mem := { s.mem with poison := s.mem.poison ++ gs.filter (fun g => !s.mem.poison.elem g) } }

/-- Bytes of host memory (R64, R65). -/
def State.hostRead (s : State) (a n : Nat) : List Byte := Memory.read s.mem.host a n
/-- Bytes written to host memory. -/
def State.hostWrite (s : State) (a : Nat) (bs : List Byte) : State :=
  { s with mem := { s.mem with host := Memory.write s.mem.host a bs } }

/-! ### Caches (R9, R10, R65, log 6) -/

/-- The lines of 128 bytes that [a, a + n) touches. -/
def linesOf (a n : Nat) : List Nat := (List.range ((a + n - 1) / 128 - a / 128 + 1)).map (· + a / 128)

/-- A list without the elements of a kind beyond the first n of them. -/
def keepFirst {α : Type} (p : α → Bool) : Nat → List α → List α
  | _, [] => []
  | n, x :: xs =>
    if p x then (match n with | 0 => keepFirst p 0 xs | n + 1 => x :: keepFirst p n xs)
    else x :: keepFirst p n xs

/-- The die that owns the HBM stack of a line: stacks lie one after another in the physical address space (DESIGN CHOICE, log 6). -/
def lineDie (line : Nat) : Nat := if 128 * line < Config.hbmBytes / 2 then 0 else 1

/-- A line comes into the L2 of the die that owns its stack, most recent first; 64 MiB of lines stay there. A store leaves it dirty. -/
def MemState.fill2 (m : MemState) (line : Nat) (dirty : Bool) : MemState :=
  let old := m.l2.any (fun x => x.1 == line && x.2)
  { m with l2 := keepFirst (fun x => lineDie x.1 == lineDie line) Config.l2Lines
                   ((line, dirty || old) :: m.l2.filter (fun x => x.1 != line)) }

/-- A line comes into a core's L1, most recent first; 128 KiB of lines stay there. -/
def MemState.fill1 (m : MemState) (core line : Nat) : MemState :=
  { m with l1 := keepFirst (fun x => x.1 == core) Config.l1Lines ((core, line) :: m.l1.filter (fun x => x != (core, line))) }

/-- An access fills the L2, and a load of a core its L1 too, which is write-through (R65). -/
def State.fillLines (s : State) (core : Option Nat) (dirty : Bool) (lines : List Nat) : State :=
  { s with mem := lines.foldl (fun m line =>
      match core with
      | some c => (m.fill2 line dirty).fill1 c line
      | none => m.fill2 line dirty) s.mem }

/-- A record of the device itself in local HBM, which fills the L2 of the stack's die (R10, R65, R348). -/
def State.ringRecord (s : State) (a : Nat) (bs : List Byte) : State := (s.hbmRecord a bs).fillLines none true (linesOf a bs.length)

/-! ### Record rings (R348, R363, R380) -/

/-- PHASE of record x (R215, R348). -/
def phaseOf (x len : Nat) : Nat := (x / len + 1) % 2

/-- A record's bytes with its PHASE bit. -/
def withPhase (bs : List Byte) (x len : Nat) : List Byte :=
  match bs with
  | [] => []
  | b :: r => (b ||| BitVec.ofNat 8 (phaseOf x len)) :: r

/-- A record with the time of its posting in TIME, which a fault and a service record have in their last 8 bytes (R349, R364); a
store-log entry has none (R380). -/
def withTime (slot : Nat) (bs : List Byte) (now : Nat) : List Byte := if slot == 64 then bs.take 56 ++ leBytes 8 now else bs

/-- The records that wait, posted in order while there is room. -/
def ringDrain (slot : Nat) : List (List Byte) → State → Ring → State × Ring
  | [], s, r => (s, { r with waiting := [] })
  | b :: bs, s, r =>
    if r.posted < r.consumed + r.len then
      ringDrain slot bs
        ((s.ringRecord (r.base + slot * (r.posted % r.len)) (withTime slot (withPhase (padTo slot b) r.posted r.len) s.now)).msix r.vector)
        { r with posted := r.posted + 1 }
    else (s, { r with waiting := b :: bs })

/-- A record for the driver, posted when there is room and kept until then. -/
def ringPost (slot : Nat) (s : State) (r : Ring) (bs : List Byte) : State × Ring :=
  ringDrain slot (r.waiting ++ [bs]) s r

/-- A fault record or notification is posted (R348). Before the driver has named a ring there is no place for it. -/
def State.postFault (s : State) (bs : List Byte) : State :=
  match s.fring with
  | none => s
  | some r => let (s, r) := ringPost 64 s r bs; { s with fring := some r }

/-- A service record is posted (R363). -/
def State.postService (s : State) (bs : List Byte) : State :=
  match s.sring with
  | none => s
  | some r => let (s, r) := ringPost 64 s r bs; { s with sring := some r }

/-- Whether a service record could be posted at once (R348, R363). -/
def State.serviceRoom (s : State) : Bool := s.sring.all (fun r => r.waiting.isEmpty && decide (r.posted < r.consumed + r.len))

/-- A store-log entry is posted (R380). -/
def State.postStoreLog (s : State) (bs : List Byte) : State :=
  match s.slog with
  | none => s
  | some r => let (s, r) := ringPost 256 s r bs; { s with slog := some r }

/-! ### Lookups and updates -/

/-- A workgroup. -/
def State.wg? (s : State) (wid : Nat) : Option Wg := s.wgs.find? (fun g => g.wid == wid)
/-- Every workgroup changed. -/
def State.mapWgs (s : State) (f : Wg → Wg) : State := { s with wgs := s.wgs.map f }
/-- One workgroup changed. -/
def State.mapWg (s : State) (wid : Nat) (f : Wg → Wg) : State :=
  { s with wgs := s.wgs.map (fun g => if g.wid == wid then f g else g) }
/-- A warp of a workgroup changed. -/
def Wg.mapWarp (g : Wg) (k : Nat) (f : Warp → Warp) : Wg := { g with warps := g.warps.modify k f }
/-- A lane of a warp changed. -/
def Warp.mapLane (w : Warp) (l : Nat) (f : Lane → Lane) : Warp := { w with lanes := w.lanes.modify l f }
/-- Several lanes of a warp changed. -/
def Warp.mapLanes (w : Warp) (ls : List Nat) (f : Lane → Lane) : Warp := ls.foldl (fun w l => w.mapLane l f) w
/-- A warp. -/
def State.warp? (s : State) (wid k : Nat) : Option Warp := (s.wg? wid).bind (fun g => g.warps[k]?)
/-- A warp changed. -/
def State.mapWarp (s : State) (wid k : Nat) (f : Warp → Warp) : State := s.mapWg wid (fun g => g.mapWarp k f)
/-- A lane. -/
def State.lane? (s : State) (wid k l : Nat) : Option Lane := (s.warp? wid k).bind (fun w => w.lanes[l]?)
/-- A lane changed. -/
def State.mapLane (s : State) (wid k l : Nat) (f : Lane → Lane) : State := s.mapWarp wid k (fun w => w.mapLane l f)
/-- A context. -/
def State.ctx? (s : State) (n : Nat) : Option Context := s.ctxs.find? (fun c => c.num == n)
/-- A context changed. -/
def State.mapCtx (s : State) (n : Nat) (f : Context → Context) : State :=
  { s with ctxs := s.ctxs.map (fun c => if c.num == n then f c else c) }
/-- An engine operation. -/
def State.op? (s : State) (id : Nat) : Option Op := s.ops.find? (fun o => o.id == id)
/-- An engine operation changed. -/
def State.mapOp (s : State) (id : Nat) (f : Op → Op) : State :=
  { s with ops := s.ops.map (fun o => if o.id == id then f o else o) }
/-- A packet in progress. -/
def State.pkt? (s : State) (k : PktKey) : Option Pkt := s.pkts.find? (fun p => p.key == k)
/-- A packet changed. -/
def State.mapPkt (s : State) (k : PktKey) (f : Pkt → Pkt) : State :=
  { s with pkts := s.pkts.map (fun p => if p.key == k then f p else p) }
/-- The resident workgroup and warp index of a core's warp slot. -/
def State.slot? (s : State) (core slot : Nat) : Option (Nat × Nat) :=
  s.wgs.findSome? (fun g =>
    if g.st == .resident && g.core == core then
      (g.warps.findIdx? (fun w => w.slot == slot)).map (fun k => (g.wid, k))
    else none)

/-- A lane that has an item and has not exited (R17). -/
def Lane.live (x : Lane) : Bool := x.st != .exited && x.st != .absent
/-- A lane's stop, if it is parked by one. -/
def Lane.park? (x : Lane) : Option Park := match x.st with | .parked p => some p | _ => none
/-- The lanes of a warp, numbered. -/
def Warp.numbered (w : Warp) : List (Nat × Lane) := (List.range w.lanes.length).zip w.lanes
/-- Whether a lane of the warp is live. -/
def Warp.live (w : Warp) : Bool := w.lanes.any Lane.live
/-- Every lane of a context's workgroups. -/
def State.ctxLanes (s : State) (ctx : Nat) : List Lane :=
  (s.wgs.filter (fun g => g.pkt.ctx == ctx)).flatMap (fun g => g.warps.flatMap (fun w => w.lanes))

/-! ### Registers and pending results (R106) -/

/-- A register written. -/
def Lane.put (x : Lane) (d : Dest) (v : Word) (p : Bool) : Lane :=
  match d with
  | .lane k => { x with v := x.v.set k { val := v.setWidth 32, poison := p } }
  | .pred k => if k < 7 then { x with p := x.p.set k { val := v.setWidth 1, poison := p } } else x
  | .scalar _ => x

/-- A register of a warp written; a scalar register has no lane. p7 discards writes (R42). -/
def Warp.put (w : Warp) (l : Option Nat) (d : Dest) (v : Word) (p : Bool) : Warp :=
  match d, l with
  | .scalar k, _ => { w with s := w.s.set k { val := v, poison := p } }
  | _, some l => w.mapLane l (fun x => x.put d v p)
  | _, none => w

/-- One write of a result. -/
def Warp.apply (w : Warp) (x : ResWrite) : Warp := w.put x.lane x.dst x.val x.poison

/-- Whether a write of a result belongs to lane l: its own registers, or a scalar that lane l waits for. -/
def ResWrite.for (x : ResWrite) (l : Nat) : Bool := x.lane == some l || x.lane == none

/-- Every pending result of a lane is written, and its windows close (R106). -/
def Warp.settleLane (w : Warp) (l : Nat) : Warp :=
  let mine := w.results.filter (fun r => hasLane r.lanes l)
  let w := mine.foldl (fun w r => (r.writes.filter (fun x => x.for l)).foldl Warp.apply w) w
  let results := w.results.map (fun r =>
    if hasLane r.lanes l then
      { r with lanes := r.lanes &&& ~~~maskOf [l], writes := r.writes.filter (fun x => !x.for l) }
    else r)
  let w := { w with results := results.filter (fun r => r.lanes != 0) }
  w.mapLane l (fun x => { x with windows := [] })

/-- The pending results of a lane that exits are discarded (R183). -/
def Warp.dropResults (w : Warp) (l : Nat) : Warp :=
  let results := w.results.map (fun r =>
    { r with lanes := r.lanes &&& ~~~maskOf [l], writes := r.writes.filter (fun x => x.lane != some l) })
  let w := { w with results := results.filter (fun r => r.lanes != 0) }
  w.mapLane l (fun x => { x with windows := [] })

/-- A write inside a window stands, and the result that was to come for that register is discarded (R106, R341). -/
def Warp.override (w : Warp) (l : Nat) (d : Dest) : Warp :=
  match w.lanes[l]? with
  | none => w
  | some x =>
    let hit := x.windows.filter (fun y => y.dsts.elem d)
    if hit.isEmpty then w
    else
      let ids := hit.map (fun y => y.res)
      let results := w.results.map (fun r =>
        if ids.elem r.id then { r with writes := r.writes.filter (fun z => !(z.dst == d && z.for l)) } else r)
      let w := { w with results := results }
      w.mapLane l (fun x => { x with windows := x.windows.map (fun y => { y with dsts := y.dsts.filter (· != d) }) })

/-- Whether lane l must wait for a result before its next instruction: one whose window is over (R106). -/
def Warp.mustWait (w : Warp) (l : Nat) : Bool :=
  w.results.any (fun r => hasLane r.lanes l &&
    !(match w.lanes[l]? with | none => false | some x => x.windows.any (fun y => y.res == r.id)))

/-! ### Translation (R64, R354) -/

/-- What a walk finds: a leaf, a stop with its cause and SUB (R352), or an address beyond the part. -/
inductive Xl where
  | ok (leaf : Leaf)
  | stop (c : Cause) (sub : Nat)
  | hole (a : Nat)
  deriving DecidableEq, Repr

/-- A leaf entry at a level, for an address (R64): reserved KIND or TARGET and a misaligned FRAME are PROTECTION, but every access
to a page in repair stalls, whatever else its leaf holds (R357). -/
def leafOf (e : Word) (shift va peer : Nat) : Xl :=
  let frame := (e.extractLsb' 12 40).toNat * 4096
  let kind := (e.extractLsb' 62 2).toNat
  let target := (e.extractLsb' 60 2).toNat
  if !e.getLsbD 6 && (frame % 2 ^ shift != 0 || kind == 3 || target == 3) then .stop .protection 0
  else .ok { frame := frame + va % 2 ^ shift / 4096 * 4096
             size := shift
             kind := if kind == 0 then .so else if kind == 1 then .rc else .uo
             target := if target == 0 then .hbm else if target == 1 then .host else .peer peer
             repair := e.getLsbD 6, x := e.getLsbD 3, w := e.getLsbD 2, rd := e.getLsbD 1 }

/-- The table that an entry above the leaf points to. -/
def nextTable (e : Word) : Nat := (e.extractLsb' 12 40).toNat * 4096

/-- Whether an entry at a level is a leaf (R64). -/
def isLeaf (level : Nat) (e : Word) : Bool := level == 4 || (level != 1 && e.getLsbD 7)

/-- The shifts of the four levels (R64). -/
def walkShifts : List Nat := [39, 30, 21, 12]

/-- The entry above the leaf that memory holds at an address, if a walk goes on through it. -/
def upperEntry (m : MemState) (level ea : Nat) : Option Word :=
  let e := wordOf (Memory.read m.hbm ea 8)
  if Config.hbmBytes < ea + 8 || m.badPte.elem ea || m.erred ea 8 || !e.getLsbD 0 || e.getLsbD 7 || level == 4 then none else some e

/-- The walk from a table, over the shifts of the levels that remain (R64). `old` gives the cached entry above the leaf that is used
at a level in place of memory's, when that is another (R354). -/
def walk (m : MemState) (old : Nat → Nat → Option Word → Option Word) (va : Nat) : List Nat → Nat → Nat → Xl
  | [], level, _ => .stop .xlateMiss level
  | sh :: rest, level, table =>
    let ea := table + 8 * (va / 2 ^ sh % 512)
    match old level (va / 2 ^ sh) (upperEntry m level ea) with
    | some e => walk m old va rest (level + 1) (nextTable e)
    | none =>
      if Config.hbmBytes < ea + 8 then .hole ea
      else if m.badPte.elem ea || m.erred ea 8 then .stop .memUncorrectable 7
      else
        let e := wordOf (Memory.read m.hbm ea 8)
        if !e.getLsbD 0 then .stop .xlateMiss level
        else if level == 1 && e.getLsbD 7 then .stop .protection 0
        else if isLeaf level e then leafOf e sh va (e.extractLsb' 56 4).toNat
        else walk m old va rest (level + 1) (nextTable e)

/-- The entries above the leaf that a walk of the tables in memory passes, as level, address bits and entry (R354). -/
def walkPath (m : MemState) (va : Nat) : List Nat → Nat → Nat → List (Nat × Nat × Word)
  | [], _, _ => []
  | sh :: rest, level, table =>
    let e := wordOf (Memory.read m.hbm (table + 8 * (va / 2 ^ sh % 512)) 8)
    if !e.getLsbD 0 || isLeaf level e then []
    else (level, va / 2 ^ sh, e) :: walkPath m va rest (level + 1) (nextTable e)

/-- The root table of a context. -/
def Context.root (c : Context) : Nat := c.ptroot.toNat / 4096 * 4096

/-- The cached entry above the leaf that an agent uses at a level in place of `now`, which memory holds, if it uses another: any that
INVAL has not dropped (R354, log 7). -/
def State.oldEntry (s : State) (die who : Nat) (ctx : Context) (level tag : Nat) (now : Option Word) : Option Word :=
  ((s.mem.above.filter (fun t => t.die == die && t.ctx == ctx.num && t.level == level && t.tag == tag)).zipIdx.find? (fun t =>
    now != some t.1.entry && Config.oldTranslation s.free who tag (level + 4 * t.2))).map (·.1.entry)

/-- Where an address lies in a page, in bytes down to its 4 KiB page. -/
def Leaf.offset (f : Leaf) (va : Nat) : Nat := va % 2 ^ f.size / 4096 * 4096

/-- A cached leaf, whose frame is that of its whole page, as an access to an address uses it. -/
def TlbEntry.leafAt (t : TlbEntry) (va : Nat) : Leaf := { t.leaf with frame := t.leaf.frame + t.leaf.offset va }

/-- Whether a cached leaf serves an address of a context on a die: any of its page, of 4 KiB, 2 MiB or 1 GiB (R354). -/
def TlbEntry.serves (t : TlbEntry) (die ctx va : Nat) : Bool := t.die == die && t.ctx == ctx && t.page == va / 2 ^ t.leaf.size

/-- The translation of a page as an agent of a die uses it: the walk's, or another one that is cached and that INVAL has not dropped
(R354, log 7); a page that was seen in repair stays so until INVAL (R357). `who` tells agents of one step apart. All of an access that
lies in one page uses one entry. -/
def State.translate (s : State) (die who : Nat) (ctx : Context) (va : Nat) : Xl :=
  let new := walk s.mem (s.oldEntry die who ctx) va walkShifts 1 ctx.root
  let cached := s.mem.tlb.zipIdx.filter (fun t => t.1.serves die ctx.num va)
  match cached.find? (fun t => t.1.leaf.repair) with
  | some t => .ok (t.1.leafAt va)
  | none =>
    match cached.find? (fun t => .ok (t.1.leafAt va) != new && Config.oldTranslation s.free who t.1.page (4 + 4 * t.2)) with
    | some t => .ok (t.1.leafAt va)
    | none => new

/-- A leaf in use is cached, and so are the valid entries above it, which its walk has read from HBM (R321, R354). -/
def State.cacheLeaf (s : State) (die ctx va : Nat) (leaf : Leaf) : State :=
  let t : TlbEntry :=
    { die := die, ctx := ctx, page := va / 2 ^ leaf.size, leaf := { leaf with frame := leaf.frame - leaf.offset va } }
  let walked := match s.ctx? ctx with
    | none => []
    | some c => walkPath s.mem va walkShifts 1 c.root
  let path : List NextEntry := walked.map (fun e => { die := die, ctx := ctx, level := e.1, tag := e.2.1, entry := e.2.2 })
  let s := { s with mem := { s.mem with above := path.filter (fun e => !s.mem.above.elem e) ++ s.mem.above } }
  if s.mem.tlb.elem t then s
  else { s.bumpBy 0x124 (8 * (path.length + 1)) with mem := { s.mem with tlb := t :: s.mem.tlb } }

/-- An access of an agent stalls at a page in repair: the leaf that it has met stays cached, so that the stall ends only after INVAL
(R357). -/
def State.sawRepair (s : State) (die who : Nat) (c : Context) (va n : Nat) : State :=
  [va, va + n - 1].foldl (fun s a =>
    match s.translate die who c a with
    | .ok f => if f.repair then s.cacheLeaf die c.num a f else s
    | _ => s) s

/-- The accesses of R352; an update of a signal and a read that waits for one need both rights (R241). -/
inductive AccKind where
  | load | store | atomic | fetch | signal | await
  deriving DecidableEq, Repr

/-- ACC of R352. -/
def AccKind.code : AccKind → Nat
  | .load | .await => 0
  | .store => 1
  | .atomic | .signal => 2
  | .fetch => 3

/-- The right that an access needs (R64, R241). -/
def Leaf.allows (f : Leaf) : AccKind → Bool
  | .load => f.rd
  | .store | .atomic => f.w
  | .fetch => f.x
  | .signal | .await => f.rd && f.w

/-- One page's part of an access, translated. -/
structure Part where
  va   : Nat
  n    : Nat
  leaf : Leaf
  deriving DecidableEq, Repr

/-- The physical address of a part. -/
def Part.pa (p : Part) : Nat := p.leaf.frame + p.va % 4096

/-- What the checks of an access give. -/
inductive Acc where
  | ok (ps : List Part)
  | stop (c : Cause) (addr : Nat) (sub : Nat)
  | wait (o : WaitOn)
  | hole (a : Nat)
  deriving DecidableEq, Repr

/-- Whether an export page of a context has stores in the log that have not been replayed (R253, R381). -/
def State.logged (s : State) (ctx page : Nat) : Bool := s.fab.repair.any (fun r => r.ctx == ctx && r.page == page)

/-- One part: an address above 48 bits is PROTECTION; a page in repair stalls every access, whatever its rights (R357), and so does
one with logged stores (R253); a right that the leaf lacks is PROTECTION (R64, R92). -/
def State.checkPart (s : State) (die who : Nat) (ctx : Context) (k : AccKind) (va n : Nat) : Acc :=
  if 2 ^ 48 ≤ va then .stop .protection va 0
  else if s.logged ctx.num (va / 4096) then .wait (.repair (va / 4096))
  else
    match s.translate die who ctx va with
    | .stop c sub => .stop c va sub
    | .hole a => .hole a
    | .ok f =>
      if f.repair then .wait (.repair (va / 4096))
      else if !f.allows k then .stop .protection va 0
      else if f.target == .hbm && decide (Config.hbmBytes < f.frame + va % 4096 + n) then .hole (f.frame + va % 4096)
      else .ok [{ va := va, n := n, leaf := f }]

/-- An access of at most one page of bytes: one part, or two that are both checked before either is performed (R67). -/
def State.checkRange (s : State) (die who : Nat) (ctx : Context) (k : AccKind) (va n : Nat) : Acc :=
  let n1 := 4096 - va % 4096
  if n ≤ n1 then s.checkPart die who ctx k va n
  else
    match s.checkPart die who ctx k va n1 with
    | .ok ps =>
      match s.checkPart die who ctx k ((va + n1) % 2 ^ 64) (n - n1) with
      | .ok qs => .ok (ps ++ qs)
      | r => r
    | r => r

/-! ### Stops (R113, R342 to R350) -/

/-- Why a lane stops: a user trap, a terminal fault, a resumable park. -/
inductive Stop where
  | trap (c : Cause) (cond : BitVec 5) (addr : Word) (ret : Option Word) (detail : Nat)
  | fault (c : Cause) (addr : Word) (detail : Nat)
  | park (c : Cause) (addr : Word) (detail : Nat)
  deriving DecidableEq, Repr

/-- A use of poison (R109): a user trap with TRAPEN bit 17 set, otherwise a terminal fault; DETAIL says which use (R350). -/
def poisonStop (x : Lane) (detail : Nat) : Stop :=
  if x.trapen.getLsbD 17 then .trap .poisonUse 0 0 none detail else .fault .poisonUse 0 detail

/-- TAKING AN EXCEPTION (R196): the lane's results are written and its windows close, TRAPCAUSE, TRAPPC, TRAPADDR and TRAPRET
are set, the in-handler state is set, the clause is kept for RTT, and the PC is TRAPVEC. -/
def Warp.enterTrap (w : Warp) (l : Nat) (c : Cause) (cond : BitVec 5) (addr pc ret : Word) : Warp :=
  let w := w.settleLane l
  w.mapLane l (fun x =>
    { x with
      trapcause := cond.setWidth 32 <<< 16 ||| c.code.setWidth 32, trappc := pc, trapaddr := addr, trapret := ret,
      handler := true, trapClause := x.clause, clause := none, pc := w.trapvec, st := .active, wait := none })

/-- RETURN FROM AN EXCEPTION (R197): the in-handler state clears, the PC is TRAPRET, and the lane stands in the clause that holds
TRAPPC again. That is the clause of the trap's entry, whatever the handler has written to TRAPPC, since no word says in which clause
it lies (DESIGN CHOICE, log 82). -/
def Lane.leaveTrap (x : Lane) : Lane :=
  { x with handler := false, pc := x.trapret, clause := x.trapClause, trapClause := none, wait := none }

/-- Whether a stop is taken in the lane's handler (R113, R342). -/
def Stop.enters (st : Stop) (w : Warp) (l : Nat) : Bool :=
  match st, w.lanes[l]? with
  | .trap .., some x => w.trapvec != 0 && !x.handler
  | _, _ => false

/-- The cause, KIND, ADDR and DETAIL of the record of a stop that parks (R342, R350). -/
def Stop.record (st : Stop) : Cause × Nat × Word × Nat :=
  match st with
  | .trap c cond addr _ detail => (c, 0, addr, if c == .arithBin || c == .arithDec then cond.toNat else detail)
  | .fault c addr detail => (c, 0, addr, detail)
  | .park c addr detail => (c, 1, addr, detail)

/-- The causes whose records share a page (R353). -/
def causeSharesPage (c : Cause) : Bool :=
  c == .xlateMiss || c == .protection || c == .privateGrowth || c == .remoteFault

/-- The causes of R352, whose DETAIL has SHARED. -/
def causeIsMemory (c : Cause) : Bool :=
  causeSharesPage c || c == .align || c == .kindStraddle || c == .tagTimeout || c == .peerUnreachable || c == .memUncorrectable

/-- The space and the 4 KiB page that a record of a memory cause names: SP of R352 and ADDR. A scratch offset lies in no page. -/
def pageNamed (cause : Cause) (addr : Word) (detail : Nat) : Option (Nat × Nat) :=
  if causeIsMemory cause && bitsOf detail 2 2 != 1 then some (bitsOf detail 2 2, addr.toNat / 4096) else none

/-- Whether an unresolved record of the context names the page (R353). -/
def State.sharedPage (s : State) (ctx : Nat) (page : Option (Nat × Nat)) : Bool :=
  page.isSome && (s.ctxLanes ctx).any (fun x =>
    match x.park? with
    | some p => pageNamed p.cause p.addr p.detail == page
    | none => false)

/-- A fault record (R349), its PHASE left 0. -/
def recordBytes (s : State) (g : Wg) (w : Warp) (lanes : LaneMask) (low : Lane) (pc addr : Word) (cause : Byte)
    (kind detail : Nat) (scal : Bool) : List Byte :=
  let item := low.item
  leBytes 64 (packFields [(448, 64, s.now), (384, 64, pc.toNat), (320, 64, addr.toNat),
    (256, 64, (item.map (·.dispatch)).getD g.dispatch), (192, 64, lanes.toNat),
    (160, 32, (item.map (·.label.toNat)).getD 0), (128, 32, (item.map (·.seq.toNat)).getD 0),
    (96, 32, ((s.pkt? g.pkt).map (·.tag.toNat)).getD 0), (80, 16, g.pkt.ctx), (64, 16, detail), (57, 7, g.core),
    (50, 7, w.slot), (45, 5, low.level), (44, 1, scal.toNat), (43, 1, low.handler.toNat), (40, 3, kind),
    (8, 8, cause.toNat)])

/-- A lane parks: what it waited for and a step that it was making are over (R327, R342). -/
def Lane.parkWith (p : Park) (x : Lane) : Lane := { x with st := .parked p, wait := none, dbg := { x.dbg with step := false } }

/-- The lanes of one record stop: they park under one record number, and the record is posted (R346, R349). -/
def State.parkGroup (s : State) (wid k : Nat) (lanes : List Nat) (pc addr : Word) (cause : Cause) (kind detail : Nat)
    (scal : Bool) : State :=
  match s.wg? wid, s.warp? wid k, lanes with
  | some g, some w, l :: _ =>
    let detail := if s.sharedPage g.pkt.ctx (pageNamed cause addr detail) then detail ||| 0x80 else detail
    let p : Park := { recId := s.nextRec, cause := cause, kind := kind, addr := addr, detail := detail, pc := pc }
    match w.lanes[l]? with
    | none => s
    | some low =>
      ({ s with nextRec := s.nextRec + 1 }.mapWarp wid k
        (fun w => w.mapLanes lanes (Lane.parkWith p))).postFault
        (recordBytes s g w (maskOf lanes) low pc addr cause.code kind detail scal)
  | _, _, _ => s

/-- Whether two stops stand in one record (R349, R353). -/
def sameRecord (a b : Cause × Nat × Word × Nat) : Bool :=
  a.1 == b.1 && a.2.1 == b.2.1 && a.2.2.2 == b.2.2.2 &&
  (if causeSharesPage a.1 then a.2.2.1.toNat / 4096 == b.2.2.1.toNat / 4096 else a.2.2.1 == b.2.2.1)

/-- The lowest address of a group. -/
def lowAddr (g : List (Nat × (Cause × Nat × Word × Nat))) (d : Word) : Word :=
  g.foldl (fun a x => if x.2.2.2.1.toNat < a.toNat then x.2.2.2.1 else a) d

/-- One record for each distinct combination among the stopping lanes, the lowest lane's first (R349). The list shortens by
at least one lane each time. -/
def State.parkAll (wid k : Nat) (pc : Word) (scal : Bool) :
    Nat → List (Nat × (Cause × Nat × Word × Nat)) → State → State
  | 0, _, s => s
  | _, [], s => s
  | fuel + 1, x :: xs, s =>
    let mine := x :: xs.filter (fun y => scal || sameRecord x.2 y.2)
    let rest := xs.filter (fun y => !(scal || sameRecord x.2 y.2))
    State.parkAll wid k pc scal fuel rest
      (s.parkGroup wid k (mine.map (·.1)) pc (lowAddr mine x.2.2.2.1) x.2.1 x.2.2.1 x.2.2.2.2 scal)

/-- Lanes of one execution stop: user traps enter the handler, the others park with their records. -/
def State.stopLanes (s : State) (wid k : Nat) (pc next : Word) (scal : Bool) (stops : List (Nat × Stop)) : State :=
  match s.warp? wid k with
  | none => s
  | some w =>
    let traps := stops.filter (fun x => x.2.enters w x.1)
    let parks := stops.filter (fun x => !x.2.enters w x.1)
    let s := traps.foldl (fun s x =>
      match x.2 with
      | .trap c cond addr ret _ => s.mapWarp wid k (fun w => w.enterTrap x.1 c cond addr pc (ret.getD next))
      | _ => s) s
    State.parkAll wid k pc scal parks.length (parks.map (fun x => (x.1, x.2.record))) s

/-- A notification of a soft error (R362): a record that stops no lane. -/
def State.notify (s : State) (ctx core slot : Nat) (addr sub : Nat) : State :=
  s.postFault (leBytes 64 (packFields [(448, 64, s.now), (320, 64, addr), (80, 16, ctx), (64, 16, sub * 256), (57, 7, core),
    (50, 7, slot), (8, 8, Cause.memUncorrectable.code.toNat)]))

/-- Whether a reported error still stands: nothing has written the element or register since (R362). An element that reads as the
canonical NaN, and a register whose poison bit is set, count as not written (DESIGN CHOICE, log 79). -/
def State.stands (s : State) (t : Told) : Bool :=
  match s.wg? t.wid with
  | none => false
  | some g =>
    if t.sub == 5 then ((g.acc[t.addr / 256]?).bind (fun r => r[t.addr % 256]?)) == some 0x7FC00000
    else
      (g.warps[t.warp]?).any (fun w =>
        if t.addr < 0x100 then ((w.lanes[t.lane]?).bind (fun x => x.v[t.addr]?)).any (·.poison)
        else if t.addr < 0x140 then (w.s[t.addr - 0x100]?).any (·.poison)
        else ((w.lanes[t.lane]?).bind (fun x => x.p[t.addr - 0x140]?)).any (·.poison))

/-- Reported errors that have been written over are forgotten. -/
def State.forgetTold (s : State) : State := { s with mem := { s.mem with told := s.mem.told.filter s.stands } }

/-- The finding of an error in an element or a register is reported, unless it has been and still stands (R362). -/
def State.tell (s : State) (ctx core slot : Nat) (t : Told) : State :=
  if s.mem.told.elem t then s else { s with mem := { s.mem with told := s.mem.told ++ [t] } }.notify ctx core slot t.addr t.sub

/-- An access finds the errors of the granules that it touches: one notification each, with its virtual address and its structure
code (R362). -/
def State.findErrors (s : State) (ctx core slot : Nat) (ps : List Part) : State :=
  ps.foldl (fun s p =>
    if p.leaf.target == .hbm then
      (s.mem.unfound.filter (fun g => overlaps (16 * g.1) 16 p.pa p.n)).foldl (fun s g =>
        { s with mem := { s.mem with unfound := s.mem.unfound.filter (· != g) } }.notify ctx core slot
          (p.va / 4096 * 4096 + 16 * g.1 % 4096) g.2) s
    else s) s

/-- What an access by a physical address of HBM does besides its bytes: it finds errors, each notified with context 0xFFFF, core and warp
slot 0 and its physical address (DESIGN CHOICE, log 50), it fills the L2 (R10), and it is counted (R321). -/
def State.physUsed (s : State) (store : Bool) (a n : Nat) : State :=
  let found := s.mem.unfound.filter (fun g => overlaps (16 * g.1) 16 a n)
  let s := found.foldl (fun s g => s.notify 0xFFFF 0 0 (16 * g.1) g.2)
    { s with mem := { s.mem with unfound := s.mem.unfound.filter (fun g => !found.elem g) } }
  (s.bumpBy (if store then 0x125 else 0x124) n).fillLines none store (linesOf a n)

end Sys2Proof.Machine
end

