-- ==== Sys2Proof/Machine/Operands.lean ====
section
/-!
DEFINITION. Operand forms (spec/05_encoding_and_assembly.md R104), reading a source and writing a destination with their
poison bits, guards and masks, the frame of a lane instruction (R113, R114, R122), and how its results are committed.
-/
namespace Sys2Proof.Machine

/-! ### The instruction that executes -/

/-- The current issue with what it stands in: workgroup, warp index and warp, context, executing lanes, the instruction's
address, the address of its word, and the word. -/
structure Cx where
  wid   : Nat
  k     : Nat
  g     : Wg
  w     : Warp
  ctx   : Context
  lanes : List Nat
  pc    : Word
  wpc   : Word
  word  : Word
  deriving DecidableEq, Repr

/-- The address after the instruction's word. -/
def Cx.next (cx : Cx) : Word := cx.wpc + 8
/-- The lowest executing lane. -/
def Cx.low (cx : Cx) : Nat := cx.lanes.headD 0
/-- ILLEGAL found when the instruction executes: ADDR is the word, DETAIL its major opcode and step 3 (R111, R350). -/
def Cx.illegal (cx : Cx) : Stop := .fault .illegal cx.word (256 * wordMajor cx.word + 3)
/-- An executing lane. -/
def Cx.lane? (cx : Cx) (l : Nat) : Option Lane := cx.w.lanes[l]?

/-- The current issue. -/
def State.cx? (s : State) : Option Cx :=
  match s.issue with
  | none => none
  | some i =>
    match s.wg? i.wid with
    | none => none
    | some g =>
      match g.warps[i.warp]?, s.ctx? g.pkt.ctx with
      | some w, some c =>
        some { wid := i.wid, k := i.warp, g := g, w := w, ctx := c, lanes := i.lanes, pc := i.pc, wpc := i.wpc,
               word := i.word }
      | _, _ => none

/-- A meaning over the current issue. An instruction that no lane executes changes nothing. -/
def withCx (s : State) (f : Cx → State) : Host.Outcome State Fault Refusal :=
  match s.cx? with
  | none => finish s
  | some cx => finish (f cx)

/-! ### Reading (R43 to R46, R104, R106) -/

/-- A value with its poison bit (R44). -/
structure Val where
  v : Word
  p : Bool := false
  deriving DecidableEq, Repr

/-- A register of a lane inside an open window (R106). -/
def Lane.windowed (x : Lane) (d : Dest) : Bool := x.windows.any (fun y => y.dsts.elem d)

/-- Lane register k. -/
def Lane.reg (x : Lane) (k : Nat) : Val :=
  match x.v[k]? with
  | none => { v := 0 }
  | some r => { v := r.val.setWidth 64, p := r.poison || x.windowed (.lane k) }

/-- The pair k, k + 1 (R43). -/
def Lane.pair (x : Lane) (k : Nat) : Val :=
  let a := x.reg k
  let b := x.reg (k + 1)
  { v := a.v ||| b.v <<< 32, p := a.p || b.p }

/-- A predicate; p7 reads true (R42). -/
def Lane.pred (x : Lane) (k : Nat) : Val :=
  if k == 7 then { v := 1 }
  else
    match x.p[k]? with
    | none => { v := 0 }
    | some r => { v := r.val.setWidth 64, p := r.poison || x.windowed (.pred k) }

/-- Scalar register k as the given lane reads it. -/
def Warp.scalar (w : Warp) (x : Lane) (k : Nat) : Val :=
  match w.s[k]? with
  | none => { v := 0 }
  | some r => { v := r.val, p := r.poison || x.windowed (.scalar k) }

/-- The sign-extended imm7 of a code. -/
def Code.imm (c : Code) : Int := signedOf 7 c.toNat

/-- An imm7 as a value of a type (R104). -/
def immVal (t : BitVec 4) (c : Code) : Word :=
  let z := Code.imm c
  if t.toNat ≤ 7 then ofElems t ((elems t).map (fun _ => wrap (elemBits t) z))
  else if t == 14 then BitVec.ofNat 64 (decOfInt .rne z).bits
  else ofElems t ((elems t).map (fun _ => (fOfI (fmtOf t) .rne z).bits))

/-- The rank of lane l in a team: how many of its lanes lie below (R37). -/
def rankIn (m : LaneMask) (l : Nat) : Nat := ((lanesOf m).filter (fun j => decide (j < l))).length
/-- The lowest lane of a team. -/
def lowestOf (m : LaneMask) : Nat := (lanesOf m).headD 0

/-- A special of lane l (R104): a 32-bit or 64-bit value, zero-extended. -/
def special (s : State) (cx : Cx) (l : Nat) (x : Lane) (n : Nat) : Word :=
  let item := fun (f : Item → Nat) => BitVec.ofNat 64 ((x.item.map f).getD 0)
  match n with
  | 0 => BitVec.ofNat 64 l
  | 1 => BitVec.ofNat 64 cx.k
  | 2 => (BitVec.ofNat 32 cx.g.linear).setWidth 64
  | 3 => BitVec.ofNat 64 cx.g.core
  | 4 => BitVec.ofNat 64 cx.g.stage
  | 5 => cx.g.launchId.setWidth 64
  | 6 => item (fun i => i.label.toNat)
  | 7 => item (fun i => i.cls)
  | 8 => item (fun i => i.seq.toNat)
  | 9 => item (fun i => i.payload.toNat)
  | 10 => BitVec.ofNat 64 (64 * x.level + lowestOf x.inner)
  | 11 => BitVec.ofNat 64 (rankIn x.inner l)
  | 12 => BitVec.ofNat 64 (lanesOf x.inner).length
  | 13 => BitVec.ofNat 64 (x.subs.headD 0)
  | 14 => (x.item.map (·.tick)).getD 0
  | 15 => item (fun i => i.late.toNat)
  | 16 => cx.pc
  | 17 => BitVec.ofNat 64 cx.w.lanes.length
  | 18 => BitVec.ofNat 64 s.fab.index
  | 19 => BitVec.ofNat 64 cx.g.gx
  | 20 => BitVec.ofNat 64 cx.g.gy
  | 21 => BitVec.ofNat 64 cx.g.gz
  | _ => 0

/-- read(l, f, T) of R113: operand code c in lane l as type t. A 32-bit type reads the low 32 bits, and
f16 and bf16 ignore bits [31:16] (R70). -/
def readOp (s : State) (cx : Cx) (l : Nat) (t : BitVec 4) (c : Code) : Val :=
  match cx.lane? l with
  | none => { v := 0 }
  | some x =>
    if Code.isLane c then
      let r := if tyWide t then x.pair c.toNat else x.reg c.toNat
      { r with v := cut t r.v }
    else if Code.isScalar c then
      let r := cx.w.scalar x (c.toNat - 0x100)
      { r with v := cut t r.v }
    else if Code.isImm c then { v := immVal t c }
    else { v := cut t (special s cx l x (c.toNat - 0x140)) }
where
  cut (t : BitVec 4) (v : Word) : Word :=
    if tyWide t then v else if t == 9 || t == 10 then v &&& 0xFFFF else v &&& 0xFFFFFFFF

/-- A source of an instruction that executes on the scalar unit: inside the window of any executing lane it is poisoned. -/
def readUni (s : State) (cx : Cx) (t : BitVec 4) (c : Code) : Val :=
  let r := readOp s cx cx.low t c
  { r with p := r.p || cx.lanes.any (fun l => (readOp s cx l t c).p) }

/-- A lane's value of an operand, or the one value of the scalar unit. -/
def readAt (s : State) (cx : Cx) (su : Bool) (l : Nat) (t : BitVec 4) (c : Code) : Val :=
  if su then readUni s cx t c else readOp s cx l t c

/-- Any source is poisoned (R44). -/
def anyPoison (vs : List Val) : Bool := vs.any (·.p)
/-- The value of source i. -/
def argv (vs : List Val) (i : Nat) : Word := ((vs[i]?).map (·.v)).getD 0

/-! ### Writing (R43, R46, R122) -/

/-- The value a scalar register takes from a result (R46): i32 is sign-extended, other 32-bit types zero-extended. -/
def scalarFill (t : BitVec 4) (v : Word) : Word :=
  if tyWide t then v else if t == 0 then (v.setWidth 32).signExtend 64 else v &&& 0xFFFFFFFF

/-- write(l, f, T, x, p) of R113 as the registers it writes. -/
def destWrites (l : Nat) (c : Code) (t : BitVec 4) (v : Word) (p : Bool) : List ResWrite :=
  if Code.isScalar c then [{ lane := none, dst := .scalar (c.toNat - 0x100), val := scalarFill t v, poison := p }]
  else if Code.isLane c then
    if tyWide t then
      [{ lane := some l, dst := .lane c.toNat, val := v &&& 0xFFFFFFFF, poison := p },
       { lane := some l, dst := .lane (c.toNat + 1), val := v >>> 32, poison := p }]
    else [{ lane := some l, dst := .lane c.toNat, val := v &&& 0xFFFFFFFF, poison := p }]
  else []

/-- A predicate destination, named in the low bits of its field. -/
def predWrites (l : Nat) (c : Code) (b : Bool) (p : Bool) : List ResWrite :=
  [{ lane := some l, dst := .pred (c.toNat % 8), val := if b then 1 else 0, poison := p }]

/-! ### What an execution does in each lane -/

/-- The part of an instruction in one lane: nothing but its count, its writes and flags, a stop, a wait. -/
inductive LaneOut where
  | skip
  | write (ws : List ResWrite) (fp dec : BitVec 5)
  | stop (st : Stop)
  | wait (on : WaitOn) (asleep : Bool)
  deriving DecidableEq, Repr

/-- A lane completes an instruction: it moves on, its windows count the instruction, its wait is over (R106). -/
def Lane.advance (x : Lane) (next : Word) : Lane :=
  { x with pc := next, wait := none,
           windows := (x.windows.map (fun y => { y with left := y.left - 1 })).filter (fun y => y.left != 0) }

/-- Whether two waits of one execution are one wait: the same one, or a tag wait over several tiles, which is timed from its
beginning whichever of its tiles is the first unready one (R359). -/
def WaitOn.goesOn : WaitOn → WaitOn → Bool
  | .tag .., .tag .. => true
  | a, b => a == b

/-- A lane stops in a wait; a wait that goes on keeps its start (R359). -/
def Lane.stall (x : Lane) (now : Nat) (on : WaitOn) (asleep : Bool) : Lane :=
  let since := match x.wait with
    | some y => if y.on.goesOn on then y.since else now
    | none => now
  { x with wait := some { on := on, since := since, asleep := asleep } }

/-- The lanes that must wait are marked, and nothing else happens but that a leaf in repair is remembered (R357). -/
def State.stall (s : State) (cx : Cx) (ws : List (Nat × WaitOn × Bool)) : State :=
  (ws.foldl (fun s x => match x.2.1 with
      | .repair p => (s.sawRepair (dieOf cx.g.core) x.1 cx.ctx (4096 * p) 1).sawRepair 0 1000 cx.ctx (4096 * p) 1
      | _ => s) s).mapWarp cx.wid cx.k (fun w => ws.foldl (fun w x => w.mapLane x.1 (fun y => y.stall s.now x.2.1 x.2.2)) w)

/-- The registers an instruction writes, with the overriding of open windows (R106, R341). -/
def Warp.writeAll (w : Warp) (l : Nat) (ws : List ResWrite) : Warp :=
  ws.foldl (fun w x => (w.override l x.dst).apply x) w

/-- Sticky flags of a lane (R76). -/
def Lane.addFlags (x : Lane) (fp dec : BitVec 5) : Lane :=
  { x with fpstat := x.fpstat ||| fp.setWidth 32, decstat := x.decstat ||| dec.setWidth 32 }

/-- One completed lane of a short instruction. -/
def Warp.commitShort (next : Word) (w : Warp) (o : Nat × LaneOut) : Warp :=
  match o.2 with
  | .write ws fp dec => (w.writeAll o.1 ws).mapLane o.1 (fun x => (x.addFlags fp dec).advance next)
  | .skip => w.mapLane o.1 (fun x => x.advance next)
  | _ => w

/-- One completed lane of a long-latency instruction: its window opens, and what it overrides is dropped (R106). A lane that the mask
excludes opens a window when MZ is 1, since its destination is written, and none when MZ is 0 (DEDUCED, log 69). -/
def Warp.commitLong (next : Word) (id run : Nat) (w : Warp) (o : Nat × LaneOut) : Warp :=
  match o.2 with
  | .write ws fp dec =>
    let w := ws.foldl (fun w x => w.override o.1 x.dst) w
    w.mapLane o.1 (fun x =>
      let x := (x.addFlags fp dec).advance next
      if run == 0 || ws.isEmpty then x
      else { x with windows := x.windows ++ [{ res := id, dsts := ws.map (·.dst), left := run }] })
  | .skip => w.mapLane o.1 (fun x => x.advance next)
  | _ => w

/-- The writes of an execution, a scalar destination once (R122). -/
def collectWrites (outs : List (Nat × LaneOut)) : List ResWrite :=
  let all := outs.flatMap (fun o => match o.2 with | .write ws _ _ => ws | _ => [])
  all.filter (fun x => x.lane != none) ++ ((all.find? (fun x => x.lane == none)).toList)

/-- The lanes that complete with writes. -/
def writingLanes (outs : List (Nat × LaneOut)) : List Nat :=
  outs.filterMap (fun o => match o.2 with | .write (_ :: _) _ _ => some o.1 | _ => none)

/-- The lanes that wait for the result of an execution: those that it writes in, or every executing lane when it writes a scalar
register, which they share (R106, R122). -/
def resultLanes (outs : List (Nat × LaneOut)) : List Nat :=
  if (collectWrites outs).any (fun x => x.lane == none) then outs.map (·.1) else writingLanes outs

/-- The waits of an execution. -/
def waitsOf (outs : List (Nat × LaneOut)) : List (Nat × WaitOn × Bool) :=
  outs.filterMap (fun o => match o.2 with | .wait on a => some (o.1, on, a) | _ => none)

/-- The stops of an execution. -/
def stopsOf (outs : List (Nat × LaneOut)) : List (Nat × Stop) :=
  outs.filterMap (fun o => match o.2 with | .stop st => some (o.1, st) | _ => none)

/-- The warp after the lanes that complete: results at once, or pending until LONG_LATENCY_RESULT. -/
def Warp.commit (w : Warp) (next : Word) (long : Bool) (run : Nat) (outs : List (Nat × LaneOut)) : Warp :=
  if long then
    let id := w.nextRes
    let ls := resultLanes outs
    let w := outs.foldl (Warp.commitLong next id run) w
    if ls.isEmpty then w
    else
      { w with nextRes := id + 1,
               results := w.results ++ [{ id := id, lanes := maskOf ls, writes := collectWrites outs }] }
  else outs.foldl (Warp.commitShort next) w

/-- A stop as the fault that it is where no handler takes it (R342). -/
def Stop.fallen (st : Stop) : Stop :=
  match st with
  | .trap .. => .fault st.record.1 st.record.2.2.1 st.record.2.2.2
  | st => st

/-- The lowest stop of an execution that parks its lane. -/
def parkedBy (w : Warp) (outs : List (Nat × LaneOut)) : Option Stop :=
  (stopsOf outs).findSome? (fun o => if o.2.enters w o.1 then none else some o.2.fallen)

/-- What each executing lane does: on the scalar unit a fault of one lane parks every executing lane, and nothing is written (R342). -/
def scalarFault (w : Warp) (scal : Bool) (outs : List (Nat × LaneOut)) : List (Nat × LaneOut) :=
  match scal, parkedBy w outs with
  | true, some st => outs.map (fun o => (o.1, .stop st))
  | _, _ => outs

/-- An execution ends: if a lane must wait, no lane has executed; otherwise lanes complete or stop (R114, R342). -/
def State.commit (s : State) (cx : Cx) (scal long : Bool) (run : Nat) (outs : List (Nat × LaneOut)) : State :=
  match waitsOf outs with
  | x :: xs => s.stall cx (x :: xs)
  | [] =>
    let outs := scalarFault cx.w scal outs
    (s.mapWarp cx.wid cx.k (fun w => w.commit cx.next long run outs)).stopLanes cx.wid cx.k cx.pc cx.next scal (stopsOf outs)

/-- Whether a part of an execution is a wait. -/
def LaneOut.waits : LaneOut → Bool
  | .wait .. => true
  | _ => false

/-- An execution ends in each lane on its own (R239): those that must wait stall, and the others complete or stop. -/
def State.commitEach (s : State) (cx : Cx) (scal long : Bool) (run : Nat) (outs : List (Nat × LaneOut)) : State :=
  let ws := waitsOf outs
  let s := if ws.isEmpty then s else s.stall cx ws
  let done := outs.filter (fun o => !o.2.waits)
  if done.isEmpty then s else s.commit { cx with lanes := done.map (·.1) } scal long run done

/-! ### Guards, masks, rounding (R74, R75, R98, R107, R108) -/

/-- guard_ok and mask_ok of R113: proceed, the guard fails, the mask excludes, or a use of poison. -/
inductive Gate where
  | pass
  | guarded
  | masked
  | poison
  deriving DecidableEq, Repr

/-- The guard of a lane: bit 3 inverts predicate [2:0] (R98). -/
def gateGuard (x : Lane) (g : BitVec 4) : Gate :=
  let p := x.pred (g.toNat % 8)
  if p.p then .poison else if (p.v == 1) != g.getLsbD 3 then .pass else .guarded

/-- The mask of a PX word (R107). -/
def gateMask (x : Lane) (px : Option Px) : Gate :=
  match px with
  | none => .pass
  | some p =>
    if !p.me then .pass
    else
      let q := x.pred p.mp.toNat
      if q.p then .poison else if q.v == 1 then .pass else .masked

/-- Guard first, then mask (R114). -/
def gate (x : Lane) (g : BitVec 4) (px : Option Px) : Gate :=
  match gateGuard x g with
  | .pass => gateMask x px
  | r => r

/-- MZ of the PX word: a masked destination is written 0 (R107). -/
def zeroing (px : Option Px) : Bool := match px with | none => false | some p => p.mz

/-- rm_of(l): the attribute of a lane (R74, R75). -/
def rmOf (x : Lane) (dec : Bool) (px : Option Px) : Rm :=
  match px with
  | none => .rne
  | some p =>
    if p.rm.toNat == 5 then Rm.ofCode (if dec then x.rmode.extractLsb' 4 3 else x.rmode.extractLsb' 0 3) else Rm.ofCode p.rm

/-! ### The frame of R114 -/

/-- A result: its value with poison, the conditions of its elements, and whether it divided an integer by zero. -/
structure AluRes where
  r    : Val
  cs   : List Conds := []
  div0 : Bool := false
  deriving DecidableEq, Repr

/-- A plain result: any poisoned source poisons it (R44). -/
def plainRes (vs : List Val) (y : Word) (cs : List Conds := []) : AluRes := { r := { v := y, p := anyPoison vs }, cs := cs }

/-- An entry in the frame of R114: destination, type, sources with the types they are read as, predicate sources that are no
uses, guard, and the entry's function of the source values, the predicates last. -/
structure Entry where
  dst    : Code
  ty     : BitVec 4
  toPred : Bool := false
  srcs   : List (Code × BitVec 4)
  preds  : List Nat := []
  guard  : BitVec 4 := 0b0111
  dec    : Bool := false
  fn     : Rm → List Val → AluRes

/-- Conditions of all elements. -/
def joinConds (cs : List Conds) : Conds := cs.foldl Conds.join Conds.none

/-- TRAPADDR of an arithmetic trap: the flags of element e in bits [5e + 4 : 5e] (R344). -/
def elemFlags (cs : List Conds) : Word :=
  BitVec.ofNat 64 ((cs.zipIdx).foldl (fun acc c => acc + c.1.flags.toNat * 2 ^ (5 * c.2)) 0)

/-- The enables of a lane for binary or decimal conditions (R200). -/
def Lane.enables (x : Lane) (dec : Bool) : BitVec 5 := if dec then x.trapen.extractLsb' 8 5 else x.trapen.extractLsb' 0 5

/-- raise(l, c) of R113, R129, R344: the writes with their flags, or the trap that the lane has enabled. -/
def raiseOut (x : Lane) (dec : Bool) (a : AluRes) (ws : List ResWrite) : LaneOut :=
  if a.div0 && x.trapen.getLsbD 1 then .stop (.trap .intDivzero 0 0 none 0)
  else
    let c := joinConds a.cs
    let cond := if a.div0 then 0 else c.cond (x.enables dec)
    if cond != 0 then .stop (.trap (if dec then .arithDec else .arithBin) cond (elemFlags a.cs) none 0)
    else if dec then .write ws 0 c.flags
    else .write ws c.flags 0

/-- The registers that a result writes in lane l. -/
def Entry.writes (e : Entry) (l : Nat) (v : Val) : List ResWrite :=
  if e.toPred then predWrites l e.dst (v.v.getLsbD 0) v.p else destWrites l e.dst e.ty v.v v.p

/-- The entry's result from the operands of lane l, or of the scalar unit. -/
def Entry.eval (e : Entry) (s : State) (cx : Cx) (su : Bool) (px : Option Px) (l : Nat) (x : Lane) : AluRes :=
  e.fn (rmOf x e.dec px)
    ((e.srcs.map (fun c => readAt s cx su l c.2 c.1)) ++ e.preds.map (fun k => x.pred k))

/-- The frame in one lane (R114). -/
def Entry.lane (e : Entry) (s : State) (cx : Cx) (px : Option Px) (l : Nat) : LaneOut :=
  match cx.lane? l with
  | none => .skip
  | some x =>
    match gate x e.guard px with
    | .poison => .stop (poisonStop x 3)
    | .guarded => .skip
    | .masked => if zeroing px then .write (e.writes l { v := 0 }) 0 0 else .skip
    | .pass =>
      let a := e.eval s cx false px l x
      raiseOut x e.dec a (e.writes l a.r)

/-- What a result of the scalar unit does in an executing lane: it raises its conditions and writes its own destination (R122). -/
def Entry.uniLane (e : Entry) (cx : Cx) (a : AluRes) (l : Nat) : LaneOut :=
  match cx.lane? l with
  | none => .skip
  | some x =>
    match gateGuard x e.guard with
    | .pass => raiseOut x e.dec a (e.writes l a.r)
    | _ => .skip

/-- On the scalar unit the result is computed once, from the lowest executing lane's attributes (R122). -/
def Entry.uni (e : Entry) (s : State) (cx : Cx) (px : Option Px) : List (Nat × LaneOut) :=
  match cx.lane? cx.low with
  | none => []
  | some low =>
    let a := e.eval s cx true px cx.low low
    cx.lanes.map (fun l => (l, e.uniLane cx a l))

/-- A lane-family instruction (R114, R122). -/
def laneOp (i : Instr) (e : Entry) (s : State) : Host.Outcome State Fault Refusal :=
  let f := form i
  withCx s (fun cx =>
    let outs := if f.scalarUnit then e.uni s cx f.px else cx.lanes.map (fun l => (l, e.lane s cx f.px l))
    s.commit cx f.scalarUnit f.long f.run.toNat outs)

end Sys2Proof.Machine
end

