-- ==== Sys2Proof/Machine/Access.lean ====
section
/-!
DEFINITION. Where an access of a lane lies and what it reads and writes: addresses (spec/08_ref_memory_engines.md R202), the
spaces of spec/03_memory_spaces.md R49 to R67, tile tags, the range scoreboard, peer pages with their remote requests and
the write-combining buffer (spec/13_fabric_host_boot.md R305 to R307).
-/
namespace Sys2Proof.Machine

/-! ### Scratchpad (R53, R58, R238) -/

/-- Where a scratch range of a workgroup lies: the origin workgroup and the byte in its allocation; none when it passes the
end, has been passed on, or lies in a window that is not open. -/
def Wg.scratch (g : Wg) (off n : Nat) : Option (Nat × Nat) :=
  if off < 2 ^ 24 then
    if off + n ≤ 256 * g.tiles && !g.out.any (fun o => overlaps off n (256 * o.tile) (256 * o.count)) then some (g.wid, off)
    else none
  else
    match g.wins.find? (fun w => w.slot + 1 == off / 2 ^ 24) with
    | none => none
    | some w => if off % 2 ^ 24 + n ≤ 256 * w.count then some (w.origin, 256 * w.tile + off % 2 ^ 24) else none

/-- The tag of a tile. -/
def Wg.tag (g : Wg) (t : Nat) : Tag := ((g.tags.find? (fun x => x.1 == t)).map (·.2)).getD .empty
/-- A tag set. -/
def Wg.setTag (g : Wg) (t : Nat) (v : Tag) : Wg :=
  let rest := g.tags.filter (fun x => x.1 != t)
  { g with tags := if v == .empty then rest else rest ++ [(t, v)] }
/-- The tag of a tile of a workgroup. -/
def State.tag (s : State) (wid t : Nat) : Tag := ((s.wg? wid).map (fun g => g.tag t)).getD .empty
/-- STATE of R58. -/
def Tag.state : Tag → Nat
  | .empty => 0
  | .filling .. => 1
  | .full _ => 2
  | .poison => 3
/-- The tag value of R58. -/
def Tag.value : Tag → Nat
  | .full n => 4 * (n - 1) + 2
  | t => t.state
/-- A tile is being filled. -/
def Tag.isFilling (t : Tag) : Bool := t.state == 1
/-- A consuming read may go on (R59). -/
def Tag.ready (t : Tag) : Bool := t.state == 2 || t.state == 3
/-- The tiles of a byte range. -/
def tilesOf (off n : Nat) : List Nat := if n == 0 then [] else (List.range ((off + n - 1) / 256 - off / 256 + 1)).map (· + off / 256)
/-- A tile is consumed once (R59). -/
def Wg.consume (g : Wg) (t : Nat) : Wg :=
  match g.tag t with
  | .full n => g.setTag t (if n ≤ 1 then .empty else .full (n - 1))
  | _ => g

/-- Bytes written into an allocation. -/
def State.scrWrite (s : State) (wid off : Nat) (bs : List Byte) : State :=
  s.mapWg wid (fun g => { g with data := Memory.write g.data off bs })
/-- Bytes of an allocation. -/
def State.scrRead (s : State) (wid off n : Nat) : List Byte := ((s.wg? wid).map (fun g => Memory.read g.data off n)).getD []

/-! ### The range scoreboard (R68, R69, R233) -/

/-- The bytes that a memory side of a rows × pitch layout bounds. -/
def spanBytes (rows pitch row : Nat) : Nat := if rows == 0 then 0 else (rows - 1) * pitch + row

/-- The scoreboard entry of an operation: its memory range (R68, R233). -/
def OpKind.board : OpKind → Option (Ep × Nat)
  | .copy dst _ n _ => some (dst, n)
  | .tcopy dst _ c _ => some (dst, 256 * (if c.fmt == 8 then 26 else 3 * c.planes + 2) * c.panels)
  | .acst m _ _ rows cols pitch fmt | .acld m _ _ rows cols pitch fmt =>
    some (m, spanBytes rows pitch (cols * (if fmt == 0 then 4 else 2)))
  | _ => none

/-- The entries of a core. -/
def State.board (s : State) (core : Nat) : List Op := s.ops.filter (fun o => o.core == core && o.st != .ended && o.kind.board.isSome)

/-- Whether an entry covers a scratch range. -/
def Op.hitsScr (o : Op) (origin off n : Nat) : Bool :=
  match o.kind.board with
  | some (.scr w b, m) => w == origin && overlaps off n b m
  | _ => false
/-- Whether an entry covers a global range of its context. -/
def Op.hitsGlob (o : Op) (ctx va n : Nat) : Bool :=
  match o.kind.board with
  | some (.glob b, m) => o.ctx == ctx && overlaps va n b.toNat m
  | _ => false

/-! ### Peers (R303, R305 to R307) -/

/-- A peer is reachable: a channel each way is up (R303). -/
def State.reachable (s : State) (p : Nat) : Bool :=
  s.fab.members.getLsbD p && p != s.fab.index && s.fab.chans.any (fun c => c.peer == p && c.up) &&
  s.fab.chans.any (fun c => c.peer == p && c.sendUp)
/-- A peer is held for a pod change (R383). -/
def State.heldPeer (s : State) (p : Nat) : Bool := s.fab.held.getLsbD p

/-- One entry of a core's write-combining buffer is sent (R307). -/
def State.sendLine (s : State) (e : WcLine) : State :=
  let tag := s.fab.nextTag
  let wc := s.fab.wc.map (fun y => if y == e then { y with tag := some tag } else y)
  let fab := { s.fab with wc := wc, nextTag := tag + 1 }
  ({ s with fab := fab }.flit e.peer).emit
    (.line e.peer { sender := s.fab.index, tag := tag, addr := BitVec.ofNat 64 (128 * e.line), mask := e.mask, data := e.data, poison := false })

/-- A message in the arrival class: a beat into a tile (R304). -/
def Remote.arrives (r : Remote) : Bool := decide (1000 ≤ r.warp) && decide (r.warp < 2000)

/-- The messages of this device to a peer that it has not answered, of one class: arrival beats, or requests, store lines and beats
to pages (R304). -/
def State.inFlight (s : State) (p : Nat) (arrival : Bool) : Nat :=
  (s.fab.remote.filter (fun r => r.peer == p && r.answer.isNone && r.arrives == arrival)).length +
  (if arrival then 0 else (s.fab.wc.filter (fun e => e.peer == p && e.tag.isSome)).length)

/-- Whether the send allowance of a class of traffic to a peer has a flit left: it is returned with the answer (R304, log 70). -/
def State.allowed (s : State) (p : Nat) (arrival : Bool) : Bool := decide (s.inFlight p arrival < Config.sendAllowance)

/-- A core's entry for a line of a peer. -/
def WcLine.onLine (e : WcLine) (core peer line : Nat) : Bool := e.core == core && e.peer == peer && e.line == line

/-- Whether an entry can be sent: its peer is not held (R383), the allowance is there (R304), and no earlier stores of the core to the
line are under way, since nothing keeps order among channels (R250, R253, R303). -/
def State.sendable (s : State) (e : WcLine) : Bool :=
  !s.heldPeer e.peer && s.allowed e.peer false && !s.fab.wc.any (fun y => y.onLine e.core e.peer e.line && y.tag.isSome)

/-- An entry is sent, if it can be. -/
def State.trySend (s : State) (e : WcLine) : State := if s.sendable e then s.sendLine e else s

/-- The unsent entries that a condition names are sent; those that cannot be stay (R304, R383). -/
def State.drainWc (s : State) (p : WcLine → Bool) : State :=
  (s.fab.wc.filter (fun e => e.tag == none && p e)).foldl State.trySend s

/-- A core's buffer holds nothing unsent or unacknowledged. -/
def State.wcQuiet (s : State) (core : Nat) : Bool := !s.fab.wc.any (fun e => e.core == core)

/-- The bytes of a store entered into a line. -/
def WcLine.merge (e : WcLine) (off : Nat) (bs : List Byte) : WcLine :=
  (bs.zipIdx).foldl (fun e b =>
    { e with mask := e.mask ||| BitVec.ofNat 128 (2 ^ (off + b.2)), data := e.data.set (off + b.2) b.1 }) e

/-- A core's unsent entry for a line of a peer. -/
def WcLine.isFor (e : WcLine) (core peer line : Nat) : Bool := e.onLine core peer line && e.tag == none

/-- The unsent entries of a core, oldest first. -/
def State.unsent (s : State) (core : Nat) : List WcLine := s.fab.wc.filter (fun e => e.core == core && e.tag == none)

/-- Whether stores of a core wait for entries: more than 64 are taken (R307). -/
def State.wcOver (s : State) (core : Nat) : Bool := decide (core < Config.cores) && decide (64 < (s.unsent core).length)

/-- While more than 64 entries of a core are taken, the oldest that can be sent leaves (R307). -/
def State.shed (core : Nat) : Nat → State → State
  | 0, s => s
  | n + 1, s =>
    if !s.wcOver core then s
    else match (s.unsent core).find? s.sendable with
      | some e => State.shed core n (s.sendLine e)
      | none => s

/-- A request of this device's own agents to update a signal at a peer is sent: `warp` 3999, with the context in place of the workgroup. -/
def State.sendAtom (s : State) (a : SignalAtom) : State :=
  let tag := s.fab.nextTag
  let r : Remote := { tag := tag, peer := a.peer, wid := a.ctx, warp := 3999, lane := 0, pc := 0, addr := BitVec.ofNat 64 a.pa, answer := none }
  ({ s with fab := { s.fab with remote := s.fab.remote ++ [r], nextTag := tag + 1 } }.flit a.peer).emit
    (.request a.peer { sender := s.fab.index, tag := tag, addr := BitVec.ofNat 64 a.pa, bytes := 8, what := .atom a.opc a.operand })

/-- Updates of signals at peers leave in order, each when the lines of its context's agents have been performed (R271, R303) and the
allowance is there (R304); one to a peer that can no longer be reached is lost. -/
def State.sendAtoms : List SignalAtom → State → State
  | [], s => s
  | a :: rest, s =>
    let mine := fun (e : WcLine) => Config.cores ≤ e.core && e.ctxs.elem a.ctx
    if s.heldPeer a.peer || (s.reachable a.peer && (s.fab.wc.any mine || !s.allowed a.peer false)) then
      { s with fab := { s.fab with atoms := a :: rest } }
    else State.sendAtoms rest (if s.reachable a.peer then s.sendAtom a else s)

/-- What waits to be sent leaves as far as it can: full lines, the lines and signal updates of the device's own agents, and the oldest
entry of a buffer in which more than 64 are taken (R307). -/
def State.resend (s : State) : State :=
  let s := s.drainWc (fun e => e.mask == BitVec.allOnes 128 || Config.cores ≤ e.core)
  let s := (s.fab.wc.map (·.core)).foldl (fun s core => State.shed core (s.unsent core).length s) s
  State.sendAtoms s.fab.atoms { s with fab := { s.fab with atoms := [] } }

/-- One line's bytes of a relaxed store enter the buffer (R307); an entry notes every context whose stores it holds (R382). A line that
needs an entry while all 64 are taken sends the oldest; where none can be sent, it waits for its entry in the list (DESIGN CHOICE, log
85). -/
def State.wcStore (s : State) (core ctx peer pa : Nat) (bs : List Byte) : State :=
  let line := pa / 128
  let mine := fun (e : WcLine) => e.isFor core peer line
  let s :=
    if s.fab.wc.any mine then s
    else
      { s with fab := { s.fab with wc := s.fab.wc ++
          [{ core := core, peer := peer, line := line, mask := 0, data := List.replicate 128 0, since := s.now, ctxs := [],
             tag := none }] } }
  let enter := fun (e : WcLine) => { e.merge (pa % 128) bs with ctxs := if e.ctxs.elem ctx then e.ctxs else e.ctxs ++ [ctx] }
  let s := { s with fab := { s.fab with wc := s.fab.wc.map (fun e => if mine e then enter e else e) } }
  State.shed core 1 (s.drainWc (fun e => mine e && e.mask == BitVec.allOnes 128))

/-- What a lane asks of a peer: a read, a read-modify-write, or a store sent alone (R306, R307). -/
inductive Ask where
  | access (what : PeerAccess)
  | line (bs : List Byte)
  deriving DecidableEq, Repr

/-- The request of a lane's instruction for an address, if it has been sent. -/
def State.remoteOf (s : State) (wid k l : Nat) (pc : Word) (va : Nat) : Option Remote :=
  s.fab.remote.find? (fun r => r.wid == wid && r.warp == k && r.lane == l && r.pc == pc && r.addr.toNat == va)

/-- A request is sent (R304, R306). -/
def State.ask (s : State) (cx : Cx) (l : Nat) (scal : Bool) (detail peer : Nat) (p : Part) (a : Ask) : State :=
  let tag := s.fab.nextTag
  let r : Remote :=
    { tag := tag, peer := peer, wid := cx.wid, warp := cx.k, lane := l, pc := cx.pc, addr := BitVec.ofNat 64 p.va, detail := detail,
      scal := scal, answer := none }
  let s := { s with fab := { s.fab with remote := s.fab.remote ++ [r], nextTag := tag + 1 } }.flit peer
  match a with
  | .access what =>
    s.emit (.request peer { sender := s.fab.index, tag := tag, addr := BitVec.ofNat 64 p.pa, bytes := p.n, what := what })
  | .line bs =>
    let e : WcLine := { core := 0, peer := peer, line := p.pa / 128, mask := 0, data := List.replicate 128 0, since := 0,
                        ctxs := [], tag := none }
    let e := e.merge (p.pa % 128) bs
    s.emit (.line peer { sender := s.fab.index, tag := tag, addr := BitVec.ofNat 64 (128 * e.line), mask := e.mask, data := e.data, poison := false })

/-- The answers that an instruction of a lane has used are forgotten. -/
def State.forget (s : State) (wid k : Nat) (lanes : List Nat) : State :=
  let keep := fun (r : Remote) => !(r.wid == wid && r.warp == k && lanes.elem r.lane)
  { s with fab := { s.fab with remote := s.fab.remote.filter keep } }

/-! ### Addresses (R49, R100, R202) -/

/-- The address of a format-M word in lane l; its poison is that of base and index. `tag` and `atomic` words have no
displacement of their own meaning in DISP7 when `disp` is false. -/
def addrOf (s : State) (cx : Cx) (su : Bool) (l : Nat) (w : FmtM) (disp : Bool) : Val :=
  let base := readAt s cx su l (if Code.isLane w.a && w.sp != 0 then 1 else 3) w.a
  let idx := readAt s cx su l 0 w.b
  let z := BitVec.ofNat 64 (szBytes w.sz)
  let d : Word :=
    if disp then
      match w.px with
      | none => w.disp.signExtend 64
      | some p => (p.ximm ++ w.disp).signExtend 64
    else 0
  { v := base.v + (idx.v.setWidth 32).signExtend 64 * z + d * z, p := base.p || idx.p }

/-- Where an access lies, or what stops or delays it. -/
inductive Loc where
  | mem (ps : List Part)
  | scr (origin off : Nat)
  | stop (st : Stop)
  | wait (on : WaitOn)
  | hole (a : Nat)
  deriving DecidableEq, Repr

/-- DETAIL of R352, SHARED left to the record. -/
def memDetail (sub sz sp acc : Nat) : Nat := 256 * sub + 16 * sz + 4 * sp + acc

/-- The stop of a memory cause: XLATE_MISS, PRIVATE_GROWTH, TAG_TIMEOUT, REMOTE_FAULT and PEER_UNREACHABLE are resumable
(R342). -/
def memStop (c : Cause) (addr : Word) (detail : Nat) : Stop :=
  if c == .xlateMiss || c == .privateGrowth || c == .tagTimeout || c == .remoteFault || c == .peerUnreachable then
    .park c addr detail
  else .fault c addr detail

/-- Bytes of the private region of a context (R51). -/
def privateSpan : Nat := 12288 * 64 * 2 ^ 20

/-- The address of a byte of the private slot of a warp's lane (R50). -/
def privAt (c : Context) (g : Wg) (w : Warp) (l off : Nat) : Nat := c.privbase.toNat + (w.pslot.getD 0 * 64 + l) * g.slotSz + off

/-- The address of a byte of lane l's private slot (R50). -/
def slotAddr (cx : Cx) (l off : Nat) : Nat := privAt cx.ctx cx.g cx.w l off

/-- The ADDR of a record about a virtual address: the private offset where DETAIL names private space (R352). -/
def namedAddr (c : Context) (g : Wg) (w : Warp) (l detail va : Nat) : Word :=
  BitVec.ofNat 64 (if bitsOf detail 2 2 == 2 then va - privAt c g w l 4096 else va)

/-- Whether n bytes lie in one page: the leaf of the first byte, of 4 KiB, 2 MiB or 1 GiB, holds the last byte too (R64, R67). What
does not translate is taken for a page of 4 KiB (DESIGN CHOICE, log 71). -/
def State.onePage (s : State) (die who : Nat) (ctx : Context) (va n : Nat) : Bool :=
  let size := match s.translate die who ctx va with | .ok f => f.size | _ => 12
  va / 2 ^ size == (va + n - 1) / 2 ^ size

/-- The stop of an access whose table walk has met an uncorrectable error: SUB 7, SZ 3 and SP 0, so that ADDR is the virtual address
(R352, R354; for a private access DEDUCED, log 84). -/
def walkStop (va : Nat) (k : AccKind) : Stop := memStop .memUncorrectable (BitVec.ofNat 64 va) (memDetail 7 3 0 k.code)

/-- The checks of R202 on an access of `sz` bytes 2^sz at an address in a space, in the order of R49, R51, R53 and R64; `atomic` asks
for natural alignment (R67, R209). Peer leaves have FRAME bits [51:48] zero (R305). -/
def State.locate (s : State) (cx : Cx) (l : Nat) (sp sz : Nat) (k : AccKind) (atomic : Bool) (addr : Word) : Loc :=
  let z := 2 ^ sz
  let a := addr.toNat
  let fail := fun c (x : Nat) sub => Loc.stop (memStop c (BitVec.ofNat 64 x) (memDetail sub sz sp k.code))
  let ofAcc := fun (r : Acc) (back : Nat → Nat) =>
    match r with
    | .ok ps =>
      if ps.any (fun p => (match p.leaf.target with | .peer _ => true | _ => false) && 2 ^ 48 ≤ p.pa) then
        fail .protection a 0
      else .mem ps
    | .stop c x sub => if sub == 7 then .stop (walkStop x k) else fail c (back x) sub
    | .wait o => .wait o
    | .hole x => .hole x
  if sp == 1 then
    if a % z != 0 then fail .align a 0
    else
      match cx.g.scratch a z with
      | none => fail .protection a 0
      | some (o, off) =>
        if (s.board cx.g.core).any (fun y => y.hitsScr o off z) then .wait (.scoreboard (some (.scr o off, z))) else .scr o off
  else if sp == 2 then
    if a ≥ 2 ^ 63 || 4096 + a + z > cx.g.slotSz then fail .protection a 0
    else if 4096 + a + z > cx.ctx.privhwm.toNat then fail .privateGrowth a 0
    else
      let va := slotAddr cx l (4096 + a)
      ofAcc (s.checkRange (dieOf cx.g.core) l cx.ctx k va z) (fun x => a + (x - va))
  else
    if atomic && a % z != 0 then fail (if s.onePage (dieOf cx.g.core) l cx.ctx a z then .align else .kindStraddle) a 0
    else if overlaps a z cx.ctx.privbase.toNat privateSpan then fail .protection a 0
    else
      match ofAcc (s.checkRange (dieOf cx.g.core) l cx.ctx k a z) id with
      | .mem ps => if (s.board cx.g.core).any (fun y => y.hitsGlob cx.ctx.num a z) then .wait (.scoreboard (some (.glob addr, z))) else .mem ps
      | r => r

/-! ### Peer parts of a lane's access -/

/-- What a part of an access to a peer page still needs: nothing, a stop, a wait, or a request. -/
inductive PeerNeed where
  | none
  | stop (st : Stop)
  | wait
  | drain (peer line : Nat)
  | send (peer : Nat) (p : Part)
  deriving DecidableEq, Repr

/-- The stop of a remote access whose DETAIL has no SUB yet (R305, R306, R352). -/
def peerStop (cx : Cx) (l : Nat) (c : Cause) (sub detail : Nat) (p : Part) : Stop :=
  memStop c (namedAddr cx.ctx cx.g cx.w l detail p.va) (256 * sub + detail)

/-- The peer of a part that lies at one. -/
def Part.peer? (p : Part) : Option Nat := match p.leaf.target with | .peer q => some q | _ => none

/-- The lines of 128 bytes that a part touches. -/
def Part.lines (p : Part) : List Nat := linesOf p.pa p.n

/-- The state of one part of an access to a peer: a store that gathers in the buffer asks nothing, and any other access asks the
peer and waits for its answer, once the buffer's entries of its lines are drained (R306). -/
def State.peerNeed (s : State) (cx : Cx) (l : Nat) (gather : Bool) (detail : Nat) (p : Part) : PeerNeed :=
  let gone := .stop (peerStop cx l .peerUnreachable 0 detail p)
  match p.leaf.target with
  | .peer q =>
    if gather then
      if s.heldPeer q then .wait
      else if !s.reachable q then gone
      else if s.wcOver cx.g.core then .wait
      else .none
    else
    match s.remoteOf cx.wid cx.k l cx.pc p.va with
    | some r =>
      match r.answer with
      | none => if s.reachable q || s.heldPeer q then .wait else gone
      | some (.fault c) => .stop (peerStop cx l .remoteFault c.toNat detail p)
      | some .stale => gone
      | some _ => .none
    | none =>
      if s.heldPeer q then .wait
      else if !s.reachable q then gone
      else
        match p.lines.find? (fun line => s.fab.wc.any (fun e => e.onLine cx.g.core q line)) with
        | some line => .drain q line
        | none => .send q p
  | _ => .none

/-- Whether a location has a part on an SO page. -/
def Loc.isSo : Loc → Bool
  | .mem ps => ps.any (fun p => p.leaf.kind == .so)
  | _ => false

/-- Whether an access must first drain the core's write-combining buffer: a release of pod or system scope, and an access to an
SO page, which comes after every earlier access of its lane (R66, R253, R307). In scratchpad the scope is at most the workgroup
(R244). -/
def drainsFirst (ord scope : Nat) (loc : Loc) : Bool :=
  match loc with
  | .mem ps => loc.isSo || ((ord == 2 || ord == 3) && 4 ≤ scope && ps.any (fun p => p.leaf.kind == .rc))
  | _ => false

/-- The effect of a need on the state: a request leaves when the allowance is there (R304), a line is drained. -/
def State.meet (s : State) (cx : Cx) (l : Nat) (scal : Bool) (detail : Nat) (what : Part → Ask) (n : PeerNeed) : State :=
  match n with
  | .send q p => if s.allowed q false then s.ask cx l scal detail q p (what p) else s
  | .drain q line => s.drainWc (fun e => e.onLine cx.g.core q line)
  | _ => s

/-! ### Bytes with poison -/

/-- A byte as read, with poison (R59, R249, R361). -/
abbrev PByte := Byte × Bool

/-- The bytes of a part that lies on this device or the host. -/
def State.ownBytes (s : State) (p : Part) : List PByte :=
  match p.leaf.target with
  | .hbm => (s.hbmRead p.pa p.n).zipIdx.map (fun b => (b.1, s.mem.erred (p.pa + b.2) 1))
  | .host => (s.hostRead p.pa p.n).map (fun b => (b, false))
  | .peer _ => List.replicate p.n (0, false)

/-- The bytes of a part as lane l's instruction reads them: those that have been read already stand in an answer. -/
def State.partBytes (s : State) (cx : Cx) (l : Nat) (p : Part) : List PByte :=
  match (s.remoteOf cx.wid cx.k l cx.pc p.va).bind (·.answer) with
  | some (.data bs po) => (padTo p.n bs).map (fun b => (b, po))
  | _ => s.ownBytes p

/-- The bytes of an access: a tile in FILLING or POISON gives its bytes poisoned (R59, R203). -/
def State.locBytes (s : State) (cx : Cx) (l : Nat) (loc : Loc) (n : Nat) : List PByte :=
  match loc with
  | .mem ps => ps.flatMap (fun p => s.partBytes cx l p)
  | .scr o off =>
    (s.scrRead o off n).zipIdx.map (fun b => (b.1, let t := (s.tag o ((off + b.2) / 256)).state; t == 1 || t == 3))
  | _ => []

/-- The number in bytes as read. -/
def pval (bs : List PByte) : Val := { v := BitVec.ofNat 64 (leNat (bs.map (·.1))), p := bs.any (·.2) }

/-- The register writes of a load (R203): one, two or four lane registers, or a scalar register. -/
def loadWrites (l : Nat) (d : Code) (bs : List PByte) : List ResWrite :=
  if Code.isScalar d then
    let v := pval bs
    [{ lane := none, dst := .scalar (d.toNat - 0x100), val := v.v, poison := v.p }]
  else
    (List.range ((bs.length + 3) / 4)).map (fun i =>
      let v := pval ((bs.drop (4 * i)).take 4)
      { lane := some l, dst := .lane (d.toNat + i), val := v.v, poison := v.p })

/-! ### Performing -/

/-- Local HBM that caches hold (R65). -/
def Part.cached (p : Part) : Bool := p.leaf.target == .hbm && p.leaf.kind != .so

/-- Parts in use on a die: their translations are cached, and their lines where the pages may be (R10, R65, R354). -/
def State.cacheParts (s : State) (die ctx : Nat) (l1 : Option Nat) (store : Bool) (ps : List Part) : State :=
  ps.foldl (fun s p =>
    let s := s.cacheLeaf die ctx p.va p.leaf
    if p.cached then s.fillLines l1 store p.lines else s) s

/-- The HBM traffic of parts is counted (R321). -/
def State.countParts (s : State) (store : Bool) (ps : List Part) : State :=
  s.bumpBy (if store then 0x125 else 0x124) (((ps.filter (fun p => p.leaf.target == .hbm)).map (·.n)).foldl (· + ·) 0)

/-- Parts in use: cached, counted, and their errors found by the warp slot of a core (R65, R321, R354, R362). -/
def State.useParts (s : State) (die ctx core slot : Nat) (l1 : Option Nat) (store : Bool) (ps : List Part) : State :=
  ((s.cacheParts die ctx l1 store ps).countParts store ps).findErrors ctx core slot ps

/-- The parts of a lane's access in use; a load fills the core's L1 too. -/
def State.touch (s : State) (cx : Cx) (store : Bool) (ps : List Part) : State :=
  s.useParts (dieOf cx.g.core) cx.ctx.num cx.g.core cx.w.slot (if store then none else some cx.g.core) store ps

/-- Bytes written to a part. What has an answer has been written already: a peer's bytes that were sent alone, and a lower part that
had to come first (R67). -/
def State.partWrite (s : State) (cx : Cx) (l : Nat) (alone : Bool) (p : Part) (bs : List Byte) : State :=
  if (s.remoteOf cx.wid cx.k l cx.pc p.va).isSome then s
  else
    match p.leaf.target with
    | .hbm => s.hbmWrite p.pa bs
    | .host => s.hostWrite p.pa bs
    | .peer q =>
      if alone then s
      else
        let n1 := 128 - p.pa % 128
        let s := s.wcStore cx.g.core cx.ctx.num q p.pa (bs.take n1)
        if bs.length ≤ n1 then s else s.wcStore cx.g.core cx.ctx.num q (p.pa + n1) (bs.drop n1)

/-- Bytes written over the parts of an access, in address order. -/
def State.partsWrite (s : State) (cx : Cx) (l : Nat) (alone : Bool) : List Part → List Byte → State
  | [], _ => s
  | p :: ps, bs => State.partsWrite (s.partWrite cx l alone p (bs.take p.n)) cx l alone ps (bs.drop p.n)

/-- Bytes written at a location. -/
def State.locWrite (s : State) (cx : Cx) (l : Nat) (alone : Bool) (loc : Loc) (bs : List Byte) : State :=
  match loc with
  | .mem ps => (s.partsWrite cx l alone ps bs).touch cx true ps
  | .scr o off => s.scrWrite o off bs
  | _ => s

/-- A read touches its parts. -/
def State.locTouch (s : State) (cx : Cx) (loc : Loc) : State :=
  match loc with
  | .mem ps => s.touch cx false ps
  | _ => s

/-- The first tile of a scratch range in one of the given conditions, as the lane's own offset rounded down (R352). -/
def firstTile (s : State) (o off n : Nat) (a : Nat) (p : Tag → Bool) : Option Nat :=
  ((tilesOf off n).find? (fun t => p (s.tag o t))).map (fun t => (a + 256 * t - off) / 256 * 256)

end Sys2Proof.Machine
end

