-- ==== Sys2Proof/Machine/Memory.lean ====
section
/-!
DEFINITION. Families 0x38 to 0x3B: loads, stores, consuming loads, cache hints, tags, atomics and fences
(spec/08_ref_memory_engines.md R201 to R211).
-/
namespace Sys2Proof.Machine

/-! ### One shape for the members that access memory -/

/-- A lane's part before anything is performed: decided, or an address and where it lies. -/
abbrev MemPlan := Nat × Except LaneOut (Word × Loc)

/-- The lanes of an instruction as memory sees them: on the scalar unit, the lowest executing lane alone (R46, log 19). -/
def actors (cx : Cx) (su : Bool) : List Nat := if su then [cx.low] else cx.lanes

/-- What the scalar unit did, in lane l: its lane registers are written in every executing lane, and a poisoned source is a use
in each of them (R46, R341). -/
def LaneOut.for (o : LaneOut) (cx : Cx) (l : Nat) : LaneOut :=
  match o with
  | .write ws fp dec => .write (ws.map (fun x => if x.lane == none then x else { x with lane := some l })) fp dec
  | .stop (.trap .poisonUse _ _ _ d) | .stop (.fault .poisonUse _ d) =>
    match cx.lane? l with
    | some x => .stop (poisonStop x d)
    | none => .skip
  | o => o

/-- A tag or drain wait of the scalar unit says so above the bits of DETAIL. -/
def LaneOut.scalarWait : LaneOut → LaneOut
  | .wait (.tag t d) b => .wait (.tag t (d ||| 0x10000)) b
  | .wait (.drain a d) b => .wait (.drain a (d ||| 0x10000)) b
  | o => o

/-- The parts of all executing lanes from those of the actors. -/
def spreadOuts (cx : Cx) (su : Bool) (outs : List (Nat × LaneOut)) : List (Nat × LaneOut) :=
  if su then
    match outs with
    | [] => []
    | o :: _ => cx.lanes.map (fun l => (l, (o.2.for cx l).scalarWait))
  else outs

/-- The address beyond the part that a plan reaches, if one does. -/
def planHole (plan : List MemPlan) : Option Nat :=
  plan.findSome? (fun p => match p.2 with | .ok (_, .hole a) => some a | _ => none)

/-- How a member of this shape differs from the others: whether an access drains first, whether it gathers, its size, space and ACC
codes, what it asks of a peer, what more it waits for, its effect in one lane, and whether each lane ends on its own (R239). -/
structure MemOp where
  drains  : Loc → Bool
  gather  : Loc → Bool := fun _ => false
  sz      : Nat
  sp      : Nat := 0
  acc     : Nat
  what    : Nat → Part → Ask
  holds   : State → Nat → Word → Loc → Option LaneOut
  perform : State → Nat → Word → Loc → State × LaneOut
  each    : Bool := false

/-- A part cut at its lines of 128 bytes. -/
def Part.split (p : Part) : List Part :=
  let n := 128 - p.pa % 128
  if p.n ≤ n then [p] else [{ p with n := n }, { p with va := p.va + n, n := p.n - n }]

/-- Whether a part lies at a peer. -/
def Part.atPeer (p : Part) : Bool := match p.leaf.target with | .peer _ => true | _ => false

/-- The parts as they are asked for: a store that is sent alone goes line by line (R307). -/
def MemOp.asks (m : MemOp) (loc : Loc) (ps : List Part) : List Part :=
  if m.acc == 1 && !m.gather loc then ps.flatMap (fun p => if p.atPeer then p.split else [p]) else ps

/-- DETAIL of an access, SUB apart. -/
def MemOp.detail (m : MemOp) : Nat := memDetail 0 m.sz m.sp m.acc

/-- The wait of an access that drains first; it holds what the loss of the lines would report (R352, R382). -/
def MemOp.drainWait (m : MemOp) (a : Word) : LaneOut := .wait (.drain a m.detail) false

/-- A lower part is performed before the upper one is asked for (R67): what it read, or that it has been written, is kept as an
answer. -/
def State.early (s : State) (cx : Cx) (l : Nat) (p : Part) (a : Ask) : State :=
  let bs := s.ownBytes p
  let done : State × PeerAnswer := match a with
    | .line new => (s.partWrite cx l false p new, .ack)
    | .access _ => (s, .data (bs.map (·.1)) (bs.any (·.2)))
  let r : Remote := { tag := s.fab.nextTag, peer := s.fab.index, wid := cx.wid, warp := cx.k, lane := l, pc := cx.pc,
                      addr := BitVec.ofNat 64 p.va, answer := some done.2 }
  { done.1 with fab := { done.1.fab with remote := done.1.fab.remote ++ [r], nextTag := s.fab.nextTag + 1 } }

/-- Requests leave for the parts of a lane's access in address order (R306). Where a part is SO, each waits for those before it, and
a part of this device is performed before a peer's is asked for (R67, R254). -/
def MemOp.send (m : MemOp) (cx : Cx) (scal : Bool) (l : Nat) (loc : Loc) : List Part → State → State
  | [], s => s
  | p :: rest, s =>
    let need := fun (q : Part) => s.peerNeed cx l (m.gather loc) m.detail q
    let asks := match rest.head?.map need with | some (.send q _) => s.allowed q false | _ => false
    match need p with
    | .none =>
      m.send cx scal l loc rest
        (if loc.isSo && asks && !p.atPeer && (s.remoteOf cx.wid cx.k l cx.pc p.va).isNone then s.early cx l p (m.what l p) else s)
    | n =>
      let s := s.meet cx l scal m.detail (m.what l) n
      if loc.isSo then s else m.send cx scal l loc rest s

/-- Buffers are drained and requests sent as a lane's access needs (R306, R307). -/
def MemOp.prepare (m : MemOp) (s : State) (cx : Cx) (scal : Bool) (l : Nat) (loc : Loc) : State :=
  match loc with
  | .stop _ | .wait _ | .hole _ => s
  | _ =>
    if m.drains loc && !s.wcQuiet cx.g.core then s.drainWc (fun e => e.core == cx.g.core)
    else
      match loc with
      | .mem ps => m.send cx scal l loc (m.asks loc ps) s
      | _ => s

/-- Whether a lane's access can be performed now: none, or the stop or wait that comes first. -/
def MemOp.status (m : MemOp) (s : State) (cx : Cx) (l : Nat) (a : Word) (loc : Loc) : Option LaneOut :=
  match loc with
  | .stop st => some (.stop st)
  | .wait on => some (.wait on false)
  | .hole _ => none
  | .scr .. => if m.drains loc && !s.wcQuiet cx.g.core then some (m.drainWait a) else none
  | .mem ps =>
    if m.drains loc && !s.wcQuiet cx.g.core then some (m.drainWait a)
    else
      (m.asks loc ps).findSome? (fun p =>
        match s.peerNeed cx l (m.gather loc) m.detail p with
        | .stop st => some (LaneOut.stop st)
        | .wait | .drain .. | .send .. => some (.wait (.peer (p.peer?.getD 16) (m.gather loc)) false)
        | .none => none)

/-- The plan of a lane once its buffers and answers are looked at. -/
def MemOp.decide (m : MemOp) (s : State) (cx : Cx) (p : MemPlan) : MemPlan :=
  match p.2 with
  | .ok (a, loc) =>
    match m.status s cx p.1 a loc with
    | some o => (p.1, .error o)
    | none => match m.holds s p.1 a loc with | some o => (p.1, .error o) | none => p
  | _ => p

/-- The lanes that go on are performed in ascending order (R204, R209). -/
def MemOp.performAll (m : MemOp) : List MemPlan → State → State × List (Nat × LaneOut)
  | [], s => (s, [])
  | (l, .error o) :: ps, s =>
    let r := m.performAll ps s
    (r.1, (l, o) :: r.2)
  | (l, .ok (a, loc)) :: ps, s =>
    let x := m.perform s l a loc
    let r := m.performAll ps x.1
    (r.1, (l, x.2) :: r.2)

/-- The lanes whose answers are used up: all but those that wait for a peer. -/
def answeredLanes (outs : List (Nat × LaneOut)) : List Nat :=
  (outs.filter (fun o => match o.2 with | .wait (.peer ..) _ => false | _ => true)).map (·.1)

/-- The whole of a memory instruction: checks of every lane, then requests and drains, then waits, then the accesses. Stores that
would overfill the write-combining buffer wait for an entry (R307). -/
def MemOp.run (m : MemOp) (s : State) (cx : Cx) (su long : Bool) (run : Nat) (plan : List MemPlan) : State :=
  match planHole plan with
  | some a => { s with hole := some a }
  | none =>
    let s := plan.foldl (fun s p => match p.2 with | .ok (_, loc) => m.prepare s cx su p.1 loc | _ => s) s
    let plan := plan.map (m.decide s cx)
    let decided := plan.filterMap (fun p => match p.2 with | .error o => some (p.1, o) | _ => none)
    if !m.each && waitsOf decided != [] then s.commit cx su long run (spreadOuts cx su decided)
    else
      let r := m.performAll plan s
      let outs := spreadOuts cx su r.2
      if m.each then (r.1.forget cx.wid cx.k (answeredLanes outs)).commitEach cx su long run outs
      else (r.1.forget cx.wid cx.k cx.lanes).commit cx su long run outs

/-- The plan of a lane whose gate passes: poison of its data, poison of its address, and where the access lies. -/
def planAt (x : Lane) (l : Nat) (data : Bool) (a : Val) (loc : Word → Loc) : MemPlan :=
  if data then (l, .error (.stop (poisonStop x 2)))
  else if a.p then (l, .error (.stop (poisonStop x 1)))
  else (l, .ok (a.v, loc a.v))

/-! ### Loads and stores -/

/-- The plan of a load: a masked lane makes no access (R107). -/
def loadPlan (s : State) (cx : Cx) (su : Bool) (w : FmtM) (l : Nat) : MemPlan :=
  match cx.lane? l with
  | none => (l, .error .skip)
  | some x =>
    match gateMask x w.px with
    | .poison => (l, .error (.stop (poisonStop x 3)))
    | .masked =>
      (l, .error (if zeroing w.px then .write (loadWrites l w.d (List.replicate (szBytes w.sz) (0, false))) 0 0 else .skip))
    | _ =>
      planAt x l false (addrOf s cx su l w true)
        (fun a => s.locate cx l w.sp.toNat w.sz.toNat .load false a)

/-- LD (R203). -/
def execLd (w : FmtM) (s : State) : Host.Outcome State Fault Refusal :=
  let su := (form (.ld w)).scalarUnit
  withCx s (fun cx =>
    MemOp.run
      { drains := fun loc => drainsFirst 0 0 loc, sz := w.sz.toNat, sp := w.sp.toNat, acc := 0, what := fun _ _ => .access .load,
        holds := fun _ _ _ _ => none,
        perform := fun s l _ loc =>
          (s.locTouch cx loc, .write (loadWrites l w.d (s.locBytes cx l loc (szBytes w.sz))) 0 0) }
      s cx su true w.run.toNat ((actors cx su).map (loadPlan s cx su w)))

/-- The data of a store: the low bytes of a register, pair, quadruple or scalar register, with poison (R204). -/
def storeData (s : State) (cx : Cx) (su : Bool) (l : Nat) (w : FmtM) : List Byte × Bool :=
  let lo := readAt s cx su l (if w.sz.toNat ≤ 2 then 1 else 3) w.d
  let hi : Val := if w.sz == 4 then readAt s cx su l 3 (w.d + 2) else { v := 0 }
  (leBytes (szBytes w.sz) (lo.v.toNat + hi.v.toNat * 2 ^ 64), lo.p || hi.p)

/-- A tile that is being filled holds a write of size sz back (R59). -/
def fillingHold (s : State) (a : Word) (loc : Loc) (sz acc : Nat) (n : Nat := 2 ^ sz) : Option LaneOut :=
  match loc with
  | .scr o off => (firstTile s o off n a.toNat Tag.isFilling).map (fun t => .wait (.tag t (memDetail 0 sz 1 acc ||| 0x20000)) false)
  | _ => none

/-- The guard of ST, ATOM and CAS (R108), then the plan of the access. -/
def guardedPlan (s : State) (cx : Cx) (su : Bool) (w : FmtM) (l : Nat) (data : Bool) (disp : Bool) (k : AccKind) : MemPlan :=
  match cx.lane? l with
  | none => (l, .error .skip)
  | some x =>
    match gateGuard x w.guard with
    | .poison => (l, .error (.stop (poisonStop x 3)))
    | .pass =>
      planAt x l data (addrOf s cx su l w disp)
        (fun a => s.locate cx l w.sp.toNat w.sz.toNat k (k == .atomic) a)
    | _ => (l, .error .skip)

/-- The bytes of a store that fall in a part. -/
def sliceFor (a : Word) (p : Part) (bs : List Byte) : List Byte := (bs.drop (p.va - a.toNat)).take p.n

/-- ST (R204). -/
def execSt (w : FmtM) (s : State) : Host.Outcome State Fault Refusal :=
  let su := (form (.st w)).scalarUnit
  withCx s (fun cx =>
    let drains := fun loc => w.sp != 2 && drainsFirst w.ord.toNat w.scope.toNat loc
    let plan := (actors cx su).map (fun l => guardedPlan s cx su w l (storeData s cx su l w).2 true .store)
    let addr := fun l => (addrOf s cx su l w true).v
    MemOp.run
      { drains := drains, gather := fun loc => !drains loc, sz := w.sz.toNat, sp := w.sp.toNat, acc := 1,
        what := fun l p => .line (sliceFor (addr l) p (storeData s cx su l w).1),
        holds := fun s _ a loc => fillingHold s a loc w.sz.toNat 1,
        perform := fun s l _ loc => (s.locWrite cx l (drains loc) loc (storeData s cx su l w).1, .write [] 0 0) }
      s cx su false 0 plan)

/-! ### Consuming loads (R205) -/

/-- The tiles that an instruction's lanes touch, once each. -/
def planTiles (plan : List MemPlan) (n : Nat) : List (Nat × Nat) :=
  (plan.flatMap (fun p =>
    match p.2 with
    | .ok (_, .scr o off) => (tilesOf off n).map (fun t => (o, t))
    | _ => [])).foldl (fun acc t => if acc.elem t then acc else acc ++ [t]) []

/-- The first unready tile among the lanes, as its lane names it. -/
def firstUnready (s : State) (plan : List MemPlan) (n : Nat) (p : Tag → Bool) : Option Nat :=
  plan.findSome? (fun q =>
    match q.2 with
    | .ok (a, .scr o off) => firstTile s o off n a.toNat p
    | _ => none)

/-- A lane of LDC or TWAIT waits until every lane's tiles are ready; its wait names its own tile if that is not (R60, R207). -/
def jointHold (s : State) (plan : List MemPlan) (sz n : Nat) (a : Word) (loc : Loc) : Option LaneOut :=
  let bad := fun (t : Tag) => !t.ready
  match firstUnready s plan n bad with
  | none => none
  | some t =>
    match loc with
    | .scr o off => some (.wait (.tag ((firstTile s o off n a.toNat bad).getD t) (memDetail 0 sz 1 0)) false)
    | _ => some (.wait (.tag t (memDetail 0 sz 1 0)) false)

/-- LDC (R60, R205): reads together, then consumes each tile once. -/
def execLdc (w : FmtM) (s : State) : Host.Outcome State Fault Refusal :=
  let su := (form (.ldc w)).scalarUnit
  withCx s (fun cx =>
    let plan := (actors cx su).map (loadPlan s cx su w)
    let n := szBytes w.sz
    let s1 := MemOp.run
      { drains := fun _ => false, sz := w.sz.toNat, acc := 0, what := fun _ _ => .access .load,
        holds := fun s _ a loc => jointHold s plan w.sz.toNat n a loc,
        perform := fun s l _ loc => (s, .write (loadWrites l w.d (s.locBytes cx l loc n)) 0 0) }
      s cx su true w.run.toNat plan
    if (planHole plan).isSome || (firstUnready s plan n (fun t => !t.ready)).isSome ||
       plan.any (fun p => match p.2 with | .ok (_, .wait _) => true | _ => false) then s1
    else (planTiles plan n).foldl (fun s t => s.mapWg t.1 (fun g => g.consume t.2)) s1)

/-! ### Cache hints (R206) -/

/-- The line of local HBM that a hint's address names, where it may be cached (R65, R206). -/
def State.hintLine (s : State) (cx : Cx) (l : Nat) (a : Word) : Option Nat :=
  if overlaps a.toNat 1 cx.ctx.privbase.toNat privateSpan then none
  else
    match s.checkPart (dieOf cx.g.core) l cx.ctx .load a.toNat 1 with
    | .ok (p :: _) => if p.leaf.target == .hbm && p.leaf.kind != .so then some (p.pa / 128) else none
    | _ => none

/-- A hint in every acting lane: an address that does not translate is ignored (R206). -/
def hintOp (i : Instr) (w : FmtM) (f : Nat → Nat → MemState → MemState) (s : State) : Host.Outcome State Fault Refusal :=
  let su := (form i).scalarUnit
  withCx s (fun cx =>
    let outs := (actors cx su).map (fun l =>
      match cx.lane? l with
      | none => (l, LaneOut.skip)
      | some x => (l, if (addrOf s cx su l w true).p then .stop (poisonStop x 1) else .skip))
    let s := outs.foldl (fun s o =>
      if o.2 == .skip then
        match s.hintLine cx o.1 (addrOf s cx su o.1 w true).v with
        | some line => { s with mem := f cx.g.core line s.mem }
        | none => s
      else s) s
    s.commit cx su false 0 (spreadOuts cx su outs))

/-- PREF (R206): level l1 fills L1 and L2, level l2 fills L2. -/
def execPref (w : FmtM) (s : State) : Host.Outcome State Fault Refusal :=
  hintOp (.pref w) w (fun core line m =>
    if w.d.toNat % 4 == 0 then (m.fill2 line false).fill1 core line else m.fill2 line false) s
/-- CCTL.inv1 (R206). -/
def execCctlInv1 (w : FmtM) (s : State) : Host.Outcome State Fault Refusal :=
  hintOp (.cctlInv1 w) w (fun core line m => { m with l1 := m.l1.filter (fun x => x != (core, line)) }) s
/-- CCTL.inv1all (R206). -/
def execCctlInv1all (w : FmtM) (s : State) : Host.Outcome State Fault Refusal :=
  hintOp (.cctlInv1all w) w (fun core _ m => { m with l1 := m.l1.filter (fun x => x.1 != core) }) s
/-- CCTL.clean2 (R206). -/
def execCctlClean2 (w : FmtM) (s : State) : Host.Outcome State Fault Refusal :=
  hintOp (.cctlClean2 w) w (fun _ line m => { m with l2 := m.l2.map (fun x => if x.1 == line then (line, false) else x) }) s
/-- CCTL.flush2 (R206). -/
def execCctlFlush2 (w : FmtM) (s : State) : Host.Outcome State Fault Refusal :=
  hintOp (.cctlFlush2 w) w (fun _ line m => { m with l2 := m.l2.filter (fun x => x.1 != line) }) s

/-! ### Tags (R207) -/

/-- The plan of a tag instruction: the tile of the byte, with no alignment check. -/
def tagPlan (s : State) (cx : Cx) (w : FmtM) (l : Nat) : MemPlan :=
  match cx.lane? l with
  | none => (l, .error .skip)
  | some x =>
    planAt x l false (addrOf s cx false l w true) (fun a =>
      match cx.g.scratch a.toNat 1 with
      | none => .stop (memStop .protection a (memDetail 0 w.sz.toNat 1 0))
      | some (o, off) => .scr o (off / 256 * 256))

/-- The shape of the tag instructions. -/
def tagOp (w : FmtM) (s : State) (cx : Cx) (holds : State → Nat → Word → Loc → Option LaneOut)
    (perform : State → Nat → Loc → State × LaneOut) : State :=
  MemOp.run
    { drains := fun _ => false, sz := w.sz.toNat, acc := 0, what := fun _ _ => .access .load,
      holds := fun s l a loc => holds s l (a &&& ~~~0xFF) loc, perform := fun s l _ loc => perform s l loc }
    s cx false false 0 (cx.lanes.map (tagPlan s cx w))

/-- TWAIT (R207). -/
def execTwait (w : FmtM) (s : State) : Host.Outcome State Fault Refusal :=
  withCx s (fun cx =>
    let plan := (cx.lanes.map (tagPlan s cx w)).map (fun p =>
      match p.2 with | .ok (a, loc) => (p.1, Except.ok (a &&& ~~~0xFF, loc)) | _ => p)
    tagOp w s cx (fun s _ a loc => jointHold s plan w.sz.toNat 1 a loc) (fun s _ _ => (s, .write [] 0 0)))

/-- TSET (R207): a count from 1 to 8. -/
def execTset (w : FmtM) (s : State) : Host.Outcome State Fault Refusal :=
  withCx s (fun cx =>
    let n := fun l => (readOp s cx l 1 w.d).v.toNat
    tagOp w s cx
      (fun s l a loc => if n l == 0 || 8 < n l then some (.stop cx.illegal) else fillingHold s a loc w.sz.toNat 0 1)
      (fun s l loc =>
        match loc with
        | .scr o off => (s.mapWg o (fun g => g.setTag (off / 256) (.full (n l))), .write [] 0 0)
        | _ => (s, .skip)))

/-- TCLR (R207): a POISON tile is zeroed too. -/
def execTclr (w : FmtM) (s : State) : Host.Outcome State Fault Refusal :=
  withCx s (fun cx =>
    tagOp w s cx (fun s _ a loc => fillingHold s a loc w.sz.toNat 0 1)
      (fun s _ loc =>
        match loc with
        | .scr o off =>
          let s := if (s.tag o (off / 256)).state == 3 then s.scrWrite o off (List.replicate 256 0) else s
          (s.mapWg o (fun g => g.setTag (off / 256) .empty), .write [] 0 0)
        | _ => (s, .skip)))

/-- TTEST (R58, R207). -/
def execTtest (w : FmtM) (s : State) : Host.Outcome State Fault Refusal :=
  withCx s (fun cx =>
    tagOp w s cx (fun _ _ _ _ => none)
      (fun s l loc =>
        match loc with
        | .scr o off => (s, .write (destWrites l w.d 1 (BitVec.ofNat 64 (s.tag o (off / 256)).value) false) 0 0)
        | _ => (s, .skip)))

/-! ### Atomics (R208 to R210) -/

/-- The operation of R208 on z-byte values: memory's and the operand's. -/
def atomFn (opc sz m d : Nat) : Nat :=
  let w := 8 * 2 ^ sz
  let less := fun (x y : Nat) => decide (signedOf w x < signedOf w y)
  match opc with
  | 0 => (m + d) % 2 ^ w
  | 1 => if less d m then d else m
  | 2 => if less m d then d else m
  | 3 => if d < m then d else m
  | 4 => if m < d then d else m
  | 5 => m &&& d
  | 6 => m ||| d
  | 7 => m ^^^ d
  | 8 => d
  | _ =>
    let f := if sz == 2 then fmtF32 else fmtF64
    (fAdd f .rne (unpack f m) (unpack f d)).bits

/-- Whether a location may not be written by an atomic: an error, or a POISON tile (R209). -/
def State.locBad (s : State) (loc : Loc) (n : Nat) : Bool :=
  match loc with
  | .mem ps => ps.any (fun p => p.leaf.target == .hbm && s.mem.erred p.pa p.n)
  | .scr o off => (tilesOf off n).any (fun t => (s.tag o t).state == 3)
  | _ => false

/-- Whether a location lies at a peer, where its read-modify-write has been performed. -/
def Loc.atPeer : Loc → Bool
  | .mem ps => ps.any (fun p => match p.leaf.target with | .peer _ => true | _ => false)
  | _ => false

/-- One indivisible read-modify-write in one lane: the old value, poisoned where nothing is written. -/
def State.rmw (s : State) (cx : Cx) (l : Nat) (loc : Loc) (n : Nat) (f : Nat → Option Nat) : State × Val :=
  let bad := s.locBad loc n
  let m := pval (s.locBytes cx l loc n)
  let old : Val := { m with p := m.p || bad }
  if bad || loc.atPeer then (s.locTouch cx loc, old)
  else
    match f m.v.toNat with
    | none => (s.locTouch cx loc, old)
    | some y => ((s.locTouch cx loc).locWrite cx l false loc (leBytes n y), old)

/-- The type of a value of an atomic. -/
def szTy (sz : BitVec 3) : BitVec 4 := if sz == 3 then 3 else 1

/-- An atomic on a host page raises PROTECTION unless PCIe has the operation and the driver has declared AtomicOps (R313). -/
def hostAtomic (s : State) (loc : Loc) (has : Bool) (a : Word) (sz sp : Nat) : Option LaneOut :=
  match loc with
  | .mem ps =>
    if ps.any (fun p => p.leaf.target == .host) && !(has && s.host.atomics) then
      some (.stop (memStop .protection a (memDetail 0 sz sp 2)))
    else none
  | _ => none

/-- ATOM (R209). -/
def execAtom (w : FmtM) (s : State) : Host.Outcome State Fault Refusal :=
  let su := (form (.atom w)).scalarUnit
  let nr := w.disp.getLsbD 4
  let opc := w.disp.toNat % 16
  withCx s (fun cx =>
    let d := fun l => readAt s cx su l (szTy w.sz) w.d
    MemOp.run
      { drains := fun loc => drainsFirst w.ord.toNat w.scope.toNat loc, sz := w.sz.toNat, sp := w.sp.toNat, acc := 2,
        what := fun l _ => .access (.atom (BitVec.ofNat 4 opc) (d l).v),
        holds := fun s _ a loc =>
          (hostAtomic s loc (opc == 0 || opc == 8) a w.sz.toNat w.sp.toNat).orElse (fun _ => fillingHold s a loc w.sz.toNat 2),
        perform := fun s l _ loc =>
          let r := s.rmw cx l loc (szBytes w.sz) (fun m => some (atomFn opc w.sz.toNat m (d l).v.toNat))
          (r.1, .write (if nr then [] else destWrites l w.d (szTy w.sz) r.2.v r.2.p) 0 0) }
      s cx su (!nr) w.run.toNat
      ((actors cx su).map (fun l => guardedPlan s cx su w l (d l).p false .atomic)))

/-- CAS (R210). -/
def execCas (w : FmtM) (s : State) : Host.Outcome State Fault Refusal :=
  withCx s (fun cx =>
    let step : Code := if w.sz == 3 then 2 else 1
    let exp := fun l => readOp s cx l (szTy w.sz) w.d
    let new := fun l => readOp s cx l (szTy w.sz) (w.d + step)
    MemOp.run
      { drains := fun loc => drainsFirst w.ord.toNat w.scope.toNat loc, sz := w.sz.toNat, sp := w.sp.toNat, acc := 2,
        what := fun l _ => .access (.cas (exp l).v (new l).v),
        holds := fun s _ a loc =>
          (hostAtomic s loc true a w.sz.toNat w.sp.toNat).orElse (fun _ => fillingHold s a loc w.sz.toNat 2),
        perform := fun s l _ loc =>
          let r := s.rmw cx l loc (szBytes w.sz) (fun m => if m == (exp l).v.toNat then some (new l).v.toNat else none)
          (r.1, .write (destWrites l w.d (szTy w.sz) r.2.v r.2.p) 0 0) }
      s cx false true w.run.toNat
      (cx.lanes.map (fun l => guardedPlan s cx false w l ((exp l).p || (new l).p) false .atomic)))

/-! ### Fences (R211) -/

/-- FENCE: accesses are performed in order as they execute (log 13), so only the buffer of stores to peers has to drain: every entry has
been sent when an acquire goes on, and been acknowledged when a release does. -/
def execFence (w : FmtM) (s : State) : Host.Outcome State Fault Refusal :=
  withCx s (fun cx =>
    let wide := 4 ≤ w.scope.toNat
    let s := if wide then s.drainWc (fun e => e.core == cx.g.core) else s
    let waits := fun (detail : Nat) => s.commit cx false false 0 (cx.lanes.map (fun l => (l, .wait (.drain 0 detail) false)))
    if wide && w.ord != 1 && !s.wcQuiet cx.g.core then waits 0
    else if wide && s.unsent cx.g.core != [] then waits 0x20000
    else s.commit cx false false 0 (cx.lanes.map (fun l => (l, .skip))))

end Sys2Proof.Machine
end

