-- ==== Sys2Proof/Machine/Matrix.lean ====
section
/-!
DEFINITION. The accumulator store and the arithmetic of a k-step (spec/03_memory_spaces.md R62, R63, spec/04_numbers.md R82 to
R90, spec/08 R229): panels, block values, special markers and the drain.
-/
namespace Sys2Proof.Machine

/-! ### The accumulator (R62, R63) -/

/-- Elements of a region changed, by their place in it. -/
def accMap (acc : List (List W32)) (row col rows cols : Nat) (f : Nat → Nat → W32 → W32) : List (List W32) :=
  acc.zipIdx.map (fun (xs, i) =>
    if row ≤ i && i < row + rows then
      xs.zipIdx.map (fun (x, j) => if col ≤ j && j < col + cols then f (i - row) (j - col) x else x)
    else xs)

/-- One element. -/
def Wg.accAt (g : Wg) (row col : Nat) : W32 := ((g.acc[row]?).bind (fun xs => xs[col]?)).getD 0

/-- A region changed in a workgroup. -/
def State.accMap (s : State) (wid row col rows cols : Nat) (f : Nat → Nat → W32 → W32) : State :=
  s.mapWg wid (fun g => { g with acc := Machine.accMap g.acc row col rows cols f })

/-- Whether two regions share an element. -/
def regionsMeet (r c rs cs r' c' rs' cs' : Nat) : Bool := overlaps r rs r' rs' && overlaps c cs c' cs'

/-- Regions of an MLOOP (R227): r names the place of its k-steps r × KPER onwards. -/
def MloopDesc.regions (d : MloopDesc) : Nat := ceilDiv d.ksteps d.kper
/-- The row of region r. -/
def MloopDesc.row (d : MloopDesc) (r : Nat) : Nat := d.row0 + r * d.rowinc
/-- The column of region r. -/
def MloopDesc.col (d : MloopDesc) (r : Nat) : Nat := d.col0 + r * d.colinc
/-- Tiles of a slot (R228). -/
def PanelRing.stride (p : PanelRing) : Nat := if p.ds then 26 else 3 * p.wp + 2
/-- The slot of k-step j: its byte offset. -/
def PanelRing.slotAt (p : PanelRing) (j : Nat) : Nat := p.base + 256 * p.stride * ((p.start + j * p.step) % p.count)
/-- The tiles of k-step j's slot. -/
def PanelRing.tiles (p : PanelRing) (j : Nat) : List Nat := (List.range p.stride).map (· + p.slotAt j / 256)
/-- The tile of the slot at which the exponent panel begins (R84). -/
def PanelRing.expTile (p : PanelRing) : Nat := if p.ds then 24 else 3 * p.wp
/-- P − 1 of R86, 0 for DS. -/
def PanelRing.shift (p : PanelRing) : Int := if p.ds then 0 else p.reads - 1

/-! ### Panels (R82 to R84) -/

/-- One term of a DS8 weight: a sign bit and three exponent bits. -/
def dsTerm (n : Nat) : Int := if n % 8 == 7 then 0 else if 8 ≤ n % 16 then -(2 ^ (n % 8) : Nat) else (2 ^ (n % 8) : Nat)
/-- A DS8 weight (R82). -/
def dsWeight (c : Nat) : Int := dsTerm (c / 16) + dsTerm c

/-- Element (i, k) of a panel: the planes read, the last of them the sign, or a weight. -/
def PanelRing.elem (p : PanelRing) (m : Memory) (off i k : Nat) : Int :=
  if p.ds then dsWeight (Memory.get m (off + 48 * i + k)).toNat
  else
    signedOf p.reads ((List.range p.reads).foldl (fun n j =>
      n + (if (Memory.get m (off + 768 * j + 6 * i + k / 8)).getLsbD (k % 8) then 2 ^ j else 0)) 0)

/-- The exponent byte of block b of row i. -/
def PanelRing.exp (p : PanelRing) (m : Memory) (off i b : Nat) : Nat :=
  (Memory.get m (off + 256 * p.expTile + 4 * i + b)).toNat

/-- A row's three blocks: exponents and elements. -/
def PanelRing.rowOf (p : PanelRing) (m : Memory) (off i : Nat) : List (Nat × List Int) :=
  (List.range 3).map (fun b => (p.exp m off i b, (List.range 16).map (fun k => p.elem m off i (16 * b + k))))

/-- The 128 rows of a slot. -/
def PanelRing.rows (p : PanelRing) (m : Memory) (off : Nat) : List (List (Nat × List Int)) :=
  (List.range 128).map (p.rowOf m off)

/-- The bytes of row i within the slot that a k-step reads: planes or codes, and exponents. -/
def PanelRing.rowBytes (p : PanelRing) (i : Nat) : List (Nat × Nat) :=
  (256 * p.expTile + 4 * i, 4) ::
    (if p.ds then [(48 * i, 48)] else (List.range p.reads).map (fun j => (768 * j + 6 * i, 6)))

/-- The rows of a slot that are marked (R89): a special exponent byte, or a byte in a POISON tile. -/
def PanelRing.marks (p : PanelRing) (g : Wg) (off : Nat) : List Nat :=
  let bad := (List.range p.stride).filter (fun t => (g.tag (off / 256 + t)).state == 3)
  (List.range 128).filter (fun i =>
    (List.range 3).any (fun b => p.exp g.data off i b == 0xFF) ||
    bad.any (fun t => (p.rowBytes i).any (fun x => overlaps x.1 x.2 (256 * t) 256)))

/-! ### Accumulation (R86 to R88) -/

/-- A block's value m × 2^e. -/
def blockValue (pa pb : Int) (a b : Nat × List Int) : Int × Int :=
  ((a.2.zip b.2).foldl (fun z x => z + x.1 * x.2) 0, (a.1 : Int) - 127 - pa + ((b.1 : Int) - 127 - pb))

/-- The exact sum of two values. -/
def sumValue (x y : Int × Int) : Int × Int :=
  let e := min x.2 y.2
  (x.1 * (2 ^ (x.2 - e).toNat : Nat) + y.1 * (2 ^ (y.2 - e).toNat : Nat), e)

/-- A value rounded to binary32 and added (R86). -/
def accAdd (x : W32) (v : Int × Int) : W32 :=
  let add := (roundFin fmtF32 .rne (v.1 < 0) v.1.natAbs v.2).bits
  BitVec.ofNat 32 (fAdd fmtF32 .rne (unpack fmtF32 x.toNat) (unpack fmtF32 add)).bits

/-- The values of NBV 2 taken two by two; one may be left over. -/
def addPairs (x : W32) : List (Int × Int) → W32 × Option (Int × Int)
  | [] => (x, none)
  | [v] => (x, some v)
  | v :: u :: vs => addPairs (accAdd x (sumValue v u)) vs

/-- One element after a k-step under NBV 0 or 1, or under NBV 2 with the value that awaited its pair. -/
def stepElem (ver2 : Bool) (x : W32) (carry : Option (Int × Int)) (vs : List (Int × Int)) : W32 × Option (Int × Int) :=
  if ver2 then addPairs x (carry.toList ++ vs) else (vs.foldl accAdd x, none)

/-- A region of the accumulator, row by row. -/
def accRegion (acc : List (List W32)) (row col rows cols : Nat) : List (List W32) :=
  ((acc.drop row).take rows).map (fun xs => (xs.drop col).take cols)

/-- The elements of a region written back. -/
def accStore (acc : List (List W32)) (row col : Nat) (ys : List (List W32)) : List (List W32) :=
  accMap acc row col ys.length (ys.headD []).length (fun i j x => ((ys[i]?).bind (fun r => r[j]?)).getD x)

/-- One k-step over a region (R229): the new elements and what awaits a pair. -/
def kstepRegion (d : MloopDesc) (ver2 : Bool) (m : Memory) (j : Nat) (xs : List (List W32)) (carry : List (Int × Int)) :
    List (List (W32 × Option (Int × Int))) :=
  let a := d.a.rows m (d.a.slotAt j)
  let b := d.b.rows m (d.b.slotAt j)
  (xs.zip a).zipIdx.map (fun ((row, ra), i) =>
    (row.zip b).zipIdx.map (fun ((x, rb), n) =>
      stepElem ver2 x (carry[128 * i + n]?) ((ra.zip rb).map (fun y => blockValue d.a.shift d.b.shift y.1 y.2))))

/-- Whether an operation's k-steps follow NBV 2. -/
def Op.paired (o : Op) : Bool := o.nbv.toNat % 4 == 2

/-- The region of an operation's last performed k-step. -/
def Op.lastRegion (o : Op) (d : MloopDesc) : Nat := (o.units.length - 1) / d.kper

/-- The drain (R88, R90): a value that has found no pair is added alone, then marked elements become the canonical NaN. -/
def State.drainMloop (s : State) (o : Op) (d : MloopDesc) : State :=
  let s :=
    if o.carry.isEmpty then s
    else
      let r := o.lastRegion d
      s.accMap o.wid (d.row r) (d.col r) 128 128 (fun i n x =>
        match o.carry[128 * i + n]? with | some v => accAdd x v | none => x)
  (List.range d.regions).foldl (fun s r =>
    s.accMap o.wid (d.row r) (d.col r) 128 128 (fun i n x =>
      if o.rowMarks.elem (128 * r + i) || o.colMarks.elem (128 * r + n) then 0x7FC00000 else x)) s

end Sys2Proof.Machine
end

