-- ==== Sys2Proof/Machine/Engine.lean ====
section
/-!
DEFINITION. What engines and queues share (spec/08_ref_memory_engines.md R212 to R216, R234 to R239, spec/21 R363 to R368):
accesses of the device's own agents, events and signals, service and completion records, the queues of a core, and how an
engine operation ends.
-/
namespace Sys2Proof.Machine

/-! ### Accesses of the scheduler, the sequencer and the engines (R393) -/

/-- What an agent's access gives: the bytes read or nothing more, a cause with its address, a stall at a page in repair,
or an address beyond the part. -/
inductive Got where
  | bytes (bs : List Byte)
  | fail (c : Cause) (addr : Nat)
  | stall
  | hole (a : Nat)
  deriving DecidableEq, Repr

/-- The checks of an agent's access (R64, R393): a peer page's FRAME is limited (R305), and a peer that is held stalls the access
while one that cannot be reached ends it (R382, R383). -/
def State.agentCheck (s : State) (ctx : Context) (k : AccKind) (va n : Nat) : Acc :=
  match s.checkRange 0 1000 ctx k va n with
  | .ok ps =>
    if ps.any (fun p => p.peer?.isSome && decide (2 ^ 48 ≤ p.pa)) then .stop .protection va 0
    else if ps.any (fun p => p.peer?.any s.heldPeer) then .wait (.peer 16 false)
    else if ps.any (fun p => p.peer?.any (fun q => !s.reachable q)) then .stop .peerUnreachable va 0
    else .ok ps
  | r => r

/-- The bytes of parts that lie on this device or the host, as memory holds them. -/
def State.partsRead (s : State) (ps : List Part) : List Byte := ps.flatMap (fun p => (s.ownBytes p).map (·.1))

/-- An agent's read of a peer's page, `who` telling the agents apart: the request in flight or its answer. -/
def State.agentAsked (s : State) (who : Nat) (ctx : Context) (p : Part) : Option Remote :=
  s.fab.remote.find? (fun r => r.warp == 3000 + who && r.wid == ctx.num && r.peer == p.peer?.getD 16 && r.lane == p.n && r.addr.toNat == p.va)

/-- The bytes of a part as an agent reads them. Poisoned bytes have no value that the spec gives an agent: a free value (log 24). A peer's
bytes come with its answer. -/
def State.agentPart (s : State) (who : Nat) (ctx : Context) (p : Part) : Got :=
  let free := fun (i : Nat) => Config.poisonedByte s.free (p.va + i)
  if p.peer?.isNone then .bytes ((s.ownBytes p).zipIdx.map (fun b => if b.1.2 then free b.2 else b.1.1))
  else
    match (s.agentAsked who ctx p).bind (·.answer) with
    | some (.data bs po) => .bytes (if po then (List.range p.n).map free else padTo p.n bs)
    | some (.fault _) => .fail .remoteFault p.va
    | some _ => .fail .peerUnreachable p.va
    | none => .stall

/-- What the parts of one read give together. -/
def joinGot : List Got → Got
  | [] => .bytes []
  | .bytes xs :: r => match joinGot r with | .bytes ys => .bytes (xs ++ ys) | g => g
  | g :: _ => g

/-- A read by an agent in a context. -/
def State.agentRead (s : State) (who : Nat) (ctx : Context) (va n : Nat) : Got :=
  match s.agentCheck ctx .load va n with
  | .ok ps => joinGot (ps.map (s.agentPart who ctx))
  | .stop c a _ => .fail c a
  | .wait _ => .stall
  | .hole a => .hole a

/-- A read of an agent is over: what it touched is cached and counted, errors are found, and answers of peers are used up (R65, R321, R354,
R362). The scheduler's accesses name core 0 and warp slot 0. -/
def State.agentUsed (s : State) (who : Nat) (ctx : Context) (va n : Nat) (core slot : Nat := 0) : State :=
  match s.agentCheck ctx .load va n with
  | .ok ps =>
    let s := s.useParts 0 ctx.num core slot none false ps
    { s with fab := { s.fab with remote := s.fab.remote.filter (fun r =>
        !(ps.any (fun p => p.peer?.isSome && s.agentAsked who ctx p == some r))) } }
  | _ => s

/-- Whether the agents' own writes to lines of a part at a peer, or updates of signals there, are still to be performed (R250, R303). -/
def State.linesBusy (s : State) (q : Nat) (p : Part) : Bool :=
  s.fab.wc.any (fun e => Config.cores ≤ e.core && e.peer == q && p.lines.elem e.line) ||
  s.fab.atoms.any (fun a => a.peer == q && p.lines.elem (a.pa / 128)) ||
  s.fab.remote.any (fun r => r.warp == 3999 && r.peer == q && p.lines.elem (r.addr.toNat / 128))

/-- A part of an agent's read at a peer is asked for, once, when the allowance is there (R304, R306). -/
def State.agentAsk (s : State) (who : Nat) (ctx : Context) (p : Part) : State :=
  match p.peer? with
  | none => s
  | some q =>
    if (s.agentAsked who ctx p).isSome || !s.allowed q false || s.linesBusy q p then s
    else
      let tag := s.fab.nextTag
      let r : Remote :=
        { tag := tag, peer := q, wid := ctx.num, warp := 3000 + who, lane := p.n, pc := 0, addr := BitVec.ofNat 64 p.va, answer := none }
      ({ s with fab := { s.fab with remote := s.fab.remote ++ [r], nextTag := tag + 1 } }.flit q).emit
        (.request q { sender := s.fab.index, tag := tag, addr := BitVec.ofNat 64 p.pa, bytes := p.n, what := .load })

/-- An agent's access that stalls waits: a page in repair that it has met stays so (R357), and a peer is asked for its bytes. -/
def State.agentWait (s : State) (who : Nat) (ctx : Context) (va n : Nat) : State :=
  match s.agentCheck ctx .load va n with
  | .ok ps => ps.foldl (fun s p => s.agentAsk who ctx p) s
  | .wait _ => s.sawRepair 0 1000 ctx va n
  | _ => s

/-- A read by an agent with all that it does: it is over, or it waits. -/
def State.agentGet (s : State) (who : Nat) (ctx : Context) (va n : Nat) (core slot : Nat := 0) : State × Got :=
  match s.agentRead who ctx va n with
  | .bytes bs => (s.agentUsed who ctx va n core slot, .bytes bs)
  | .stall => (s.agentWait who ctx va n, .stall)
  | g => (s, g)

/-- Reads that an agent needs together: all are over, or those that stall wait. The flag says that they stall. -/
def State.agentGets (s : State) (who : Nat) (ctx : Context) (reads : List (Nat × Nat)) : State × Bool :=
  if reads.any (fun r => s.agentRead who ctx r.1 r.2 == .stall) then (reads.foldl (fun s r => s.agentWait who ctx r.1 r.2) s, true)
  else (reads.foldl (fun s r => s.agentUsed who ctx r.1 r.2) s, false)

/-- A line of bytes is to be written at a peer for a context, and leaves as soon as it can (R304). -/
def State.lineOut (s : State) (ctx q pa : Nat) (bs : List Byte) : State :=
  (s.wcStore Config.cores ctx q pa bs).drainWc (fun e => e.core == Config.cores)

/-- Bytes written over parts in 8-byte units (R246); those of a peer leave line by line. -/
def State.partsRecord (s : State) (ctx : Nat) : List Part → List Byte → State
  | [], _ => s
  | p :: ps, bs =>
    let mine := bs.take p.n
    let n := 128 - p.pa % 128
    let s :=
      match p.leaf.target with
      | .hbm => s.hbmRecord p.pa mine
      | .host => s.hostWrite p.pa mine
      | .peer q =>
        if p.n ≤ n then s.lineOut ctx q p.pa mine else (s.lineOut ctx q p.pa (mine.take n)).lineOut ctx q (p.pa + n) (mine.drop n)
    State.partsRecord s ctx ps (bs.drop p.n)

/-- A write by an agent in a context, which names a core and a warp slot for the errors that it finds. -/
def State.agentWrite (s : State) (ctx : Context) (va : Nat) (bs : List Byte) (core slot : Nat := 0) : State × Got :=
  match s.agentCheck ctx .store va bs.length with
  | .ok ps => (((s.partsRecord ctx.num ps bs).cacheParts 0 ctx.num none true ps).findErrors ctx.num core slot ps, .bytes [])
  | .stop c a _ => (s, .fail c a)
  | .wait _ => (s, .stall)
  | .hole a => ({ s with hole := some a }, .hole a)

/-! ### Events (R239, R240, R280) -/

/-- The count of an event. -/
def Context.event (c : Context) (e : Nat) : W32 := ((c.events.find? (fun x => x.1 == e)).map (·.2)).getD 0
/-- Count c reaches t (R239). -/
def reaches (c t : W32) : Bool := (c - t).toNat < 2 ^ 31
/-- The count set; 0 is the count of an event that is not listed. -/
def Context.setEvent (c : Context) (e : Nat) (v : W32) : Context :=
  let rest := c.events.filter (fun x => x.1 != e)
  { c with events := if v == 0 then rest else (e, v) :: rest }

/-- The lanes that a registration wakes: the lane that it names, or those that wait with the scalar unit (R239, R280). -/
def State.waitersOf (s : State) (wid k l e : Nat) (t : W32) : List Nat :=
  match s.warp? wid k with
  | none => []
  | some w => (w.numbered.filter (fun x =>
      match x.2.wait with
      | some { on := .event e' t' scal, .. } => e' == e && t' == t && (if l < 64 then x.1 == l && !scal else scal)
      | _ => false)).map (·.1)

/-- A lane's sleep ends: it evaluates its instruction again. -/
def Lane.rouse (x : Lane) : Lane := { x with wait := x.wait.map (fun w => { w with asleep := false }) }

/-- Whether a barrier packet waits for event e with a target (R276). -/
def Pkt.waitsEvent (p : Pkt) (e : Nat) (t : W32) : Bool :=
  match p.body with
  | .barrier _ deps => p.started && deps.any (fun d => match d with | .event e' t' => e' == e && t' == t | _ => false)
  | _ => false

/-- A barrier packet that has been woken is evaluated at once: its evaluation comes next (R279, R280). -/
def State.wakePkt (s : State) (k : PktKey) : State := { s with agenda := .ev (.barrierEvaluate k.ctx k.q k.num) :: s.agenda }

/-- A registration whose waiter the count wakes. -/
def State.wakesReg (s : State) (e : Nat) (v : W32) (r : EventReg) : Bool :=
  r.event == e && reaches v r.target &&
  (match r.waiter with
   | .lane wid k l => !(s.waitersOf wid k l e r.target).isEmpty
   | .packet k => s.pkts.any (fun p => p.key == k && p.waitsEvent e r.target))

/-- What the registrations of lanes wake. -/
def State.rouseReg (s : State) (r : EventReg) : State :=
  match r.waiter with
  | .lane wid k l => s.mapWarp wid k (fun w => w.mapLanes (s.waitersOf wid k l r.event r.target) Lane.rouse)
  | .packet _ => s

/-- An event grows by n; the waiters whose target it reaches wake in the order of registration, and their registrations go (R240,
R280). -/
def State.evAdd (s : State) (ctx e : Nat) (n : W32) : State :=
  if e == 0 then s
  else
    match s.ctx? ctx with
    | none => s
    | some c =>
      let v := c.event e + n
      let woken := c.evRegs.filter (s.wakesReg e v)
      let s := s.mapCtx ctx (fun c => { c.setEvent e v with evRegs := c.evRegs.filter (fun r => !woken.elem r) })
      let s := woken.foldl State.rouseReg s
      (woken.reverse).foldl (fun s r => match r.waiter with | .packet k => s.wakePkt k | .lane .. => s) s

/-- Registrations in the on-chip event table of a die, over all contexts. -/
def State.evTable (s : State) (die : Nat) : Nat :=
  (s.ctxs.flatMap (fun c => c.evRegs.filter (fun r => r.event % 2 == die && r.entry == none))).length

/-- The lowest free entry of a context's overflow table, of 128 entries a page (R268, R280). -/
def Context.overflow (c : Context) : Option Nat :=
  (List.range (c.evRegs.length + 1)).find? (fun i => decide (i < 128 * c.evovfn) && !c.evRegs.any (fun r => r.entry == some i))

/-- A waiter is registered in the table of its event's die, or beyond 4,096 in an entry of 32 bytes of the context's overflow table,
whose layout the spec does not give (a free value, log 55); without room, or where the entry cannot be written, it polls (R239, R280).
-/
def State.evRegister (s : State) (ctx e : Nat) (t : W32) (w : EventWaiter) : State :=
  match s.ctx? ctx with
  | none => s
  | some c =>
    let add := fun (s : State) (i : Option Nat) =>
      s.mapCtx ctx (fun c => { c with evRegs := c.evRegs ++ [{ event := e, target := t, waiter := w, entry := i }] })
    if c.evRegs.any (fun r => r.event == e && r.target == t && r.waiter == w) then s
    else if s.evTable (e % 2) < 4096 then add s none
    else
      match c.overflow with
      | none => s
      | some i =>
        match s.agentWrite c (c.evovf.toNat + 32 * i) (leBytes 32 (Config.eventEntry e i).toNat) with
        | (s, .bytes _) => add s (some i)
        | _ => s

/-- Whether a waiter is registered on an event with a target. -/
def State.registered (s : State) (ctx e : Nat) (t : W32) (w : EventWaiter) : Bool :=
  (s.ctx? ctx).any (fun c => c.evRegs.any (fun r => r.event == e && r.target == t && r.waiter == w))

/-- The registrations of a warp's lanes that wait no longer go (R280). -/
def State.dropRegs (s : State) (ctx wid k : Nat) : State :=
  let idle := fun (r : EventReg) =>
    match r.waiter with
    | .lane wid' k' l => wid' == wid && k' == k && (s.waitersOf wid k l r.event r.target).isEmpty
    | .packet _ => false
  s.mapCtx ctx (fun c => { c with evRegs := c.evRegs.filter (fun r => !idle r) })

/-! ### Signals (R241, R271, R278, R279) -/

/-- What names a signal on this device: the physical address, with its target. -/
def Part.sigKey (p : Part) : Word :=
  BitVec.ofNat 64 (p.pa + (match p.leaf.target with | .hbm => 0 | .host => 2 ^ 60 | .peer q => 2 ^ 61 + q * 2 ^ 56))

/-- What names the signal of an address in a context. -/
def State.keyOf (s : State) (ctx va : Nat) : Option Word :=
  match (s.ctx? ctx).map (fun c => s.agentCheck c .signal va 8) with
  | some (.ok [p]) => some p.sigKey
  | _ => none

/-- The signals of dependency entries. -/
def signalsOf (deps : List BarDep) : List Word := deps.filterMap (fun d => match d with | .signal a => some a | _ => none)

/-- Whether a barrier packet watches a signal (R276, R279). -/
def State.watches (s : State) (key : Word) (p : Pkt) : Bool :=
  match p.body with
  | .barrier _ deps => p.started && ((signalsOf deps).take p.watch).any (fun a => s.keyOf p.key.ctx a.toNat == some key)
  | _ => false

/-- A signal's watchers, lanes and barrier packets, wake at once (R241, R279). -/
def State.wakeSignal (s : State) (key : Word) : State :=
  let pkts := s.pkts.filter (s.watches key)
  let s := s.mapWgs (fun g => { g with warps := g.warps.map (fun w => { w with lanes := w.lanes.map (fun x =>
      match x.wait with
      | some { on := .signal a .., .. } => if a == key then x.rouse else x
      | _ => x) }) })
  (pkts.reverse).foldl (fun s p => s.wakePkt p.key) s

/-- Whether a lane's wait for a signal is watched, and then whether the scalar unit waits. -/
def Lane.watch? (x : Lane) : Option Bool :=
  match x.wait with
  | some { on := .signal _ _ _ scal, asleep := true, .. } => some scal
  | _ => none

/-- The watches of a warp: one for each lane, and one for each instruction of the scalar unit, which waits once (R239). -/
def Warp.watchCount (w : Warp) : Nat :=
  let pcs := (w.lanes.filter (fun x => x.watch? == some true)).map (·.pc)
  (w.lanes.filter (fun x => x.watch? == some false)).length +
    (pcs.foldl (fun (ps : List Word) p => if ps.elem p then ps else ps ++ [p]) []).length

/-- The watches of a die (R279): those of lanes that sleep on its cores, and for die 0 those of barrier packets (DESIGN CHOICE: the spec
does not say which die watches for a packet, log 67). -/
def State.watchCount (s : State) (die : Nat) : Nat :=
  let lanes := (s.wgs.filter (fun g => g.st == .resident && dieOf g.core == die)).foldl (fun n g =>
    g.warps.foldl (fun n w => n + w.watchCount) n) 0
  if die == 0 then s.pkts.foldl (fun n p => n + p.watch) lanes else lanes

/-- The scheduler's indivisible update of a signal at system scope (R271, R278), by an operation of R208, and what it met (R393). A
signal on a host page needs AtomicOps (R313), one at a peer is updated there, and an erred granule is left as it is (R209). -/
def State.sigUpdate (s : State) (ctx : Context) (va : Nat) (opc : BitVec 4) (d : Word) : State × Got :=
  match s.agentCheck ctx .signal va 8 with
  | .ok ps =>
    match ps with
    | [p] =>
      match p.leaf.target with
      | .peer q =>
        let a : SignalAtom := { ctx := ctx.num, peer := q, pa := p.pa, opc := opc, operand := d, since := s.now }
        ({ s with fab := { s.fab with atoms := s.fab.atoms ++ [a] } }.resend, .bytes [])
      | t =>
        let used := s.useParts 0 ctx.num 0 0 none false ps
        if t == .host && !s.host.atomics then (s, .fail .protection va)
        else if t == .hbm && s.mem.erred p.pa 8 then (used, .bytes [])
        else
          let new := leBytes 8 (atomFn opc.toNat 3 (leNat (s.partsRead ps)) d.toNat)
          (((used.partsRecord ctx.num ps new).cacheParts 0 ctx.num none true ps).wakeSignal p.sigKey, .bytes [])
    | _ => (s, .fail .align va)
  | .stop c a _ => (s, .fail c a)
  | .wait _ => (s, .stall)
  | .hole a => ({ s with hole := some a }, .hole a)

/-! ### Service records (R364) -/

/-- A service record, its PHASE left 0. -/
def serviceRecord (time : Nat) (addr num pcx : Nat) (tag : W32) (q ctx sub : Nat) (cause : Byte) (core warp hidx op typ : Nat) :
    List Byte :=
  leBytes 64 (packFields [(448, 64, time), (384, 64, addr), (320, 64, num), (256, 64, pcx), (224, 32, tag.toNat), (208, 16, q),
    (192, 16, ctx), (88, 8, sub), (80, 8, cause.toNat), (73, 7, core), (66, 7, warp), (62, 4, hidx), (58, 4, op), (4, 4, typ)])

/-! ### Kinds and queues (R213, R216, R226, R266) -/

/-- OP of R216; the kinds without it post no record. -/
def OpKind.code : OpKind → Option Nat
  | .copy .. => some 0
  | .remote _ multi .. => some (if multi then 2 else 1)
  | .drain _ => some 3
  | .tcopy .. => some 4
  | .wnst .. => some 5
  | .acst .. => some 6
  | .acld .. => some 7
  | _ => none

/-- The queues of a core. -/
inductive EngQueue where
  | load | store | matrix | own
  deriving DecidableEq, Repr

/-- The number of a queue in a lane's wait. -/
def EngQueue.num : EngQueue → Nat
  | .load => 0 | .store => 1 | .matrix => 2 | .own => 3

/-- Where a kind is queued (R213, R226). -/
def OpKind.queue : OpKind → EngQueue
  | .copy (.scr ..) .. | .tcopy .. => .load
  | .copy (.glob _) .. | .remote .. | .drain _ | .wnst .. => .store
  | .mloop _ | .mzero .. | .chain _ | .acst .. | .acld .. => .matrix
  | .ownpass .. | .owntake _ => .own

/-- An operation is in progress. -/
def Op.running (o : Op) : Bool := o.st != .ended
/-- An operation that stands in its queue: not ended, and not taken out of it by a save (R373). -/
def Op.inQueue (o : Op) : Bool := o.st != .ended && o.st != .suspended && o.st != .kept
/-- The entries that a workgroup has reserved (R266). -/
def State.reserveOf (s : State) (wid : Nat) : Option (Nat × Nat) := (s.wg? wid).bind (fun g => g.reserve)

/-- Whether two operations stand in one queue (R213): one core, one kind of queue, and for copies one workgroup's reserved
entries or the common ones (R266). -/
def State.sameQueue (s : State) (a b : Op) : Bool :=
  a.core == b.core && a.kind.queue == b.kind.queue && a.inQueue && b.inQueue &&
  (a.kind.queue == .matrix ||
   (if (s.reserveOf a.wid).isSome then a.wid == b.wid else (s.reserveOf b.wid).isNone))

/-- The operations ahead of one in its queue. -/
def State.ahead (s : State) (o : Op) : List Op := s.ops.filter (fun p => p.id < o.id && s.sameQueue p o)

/-- Whether a queue of the core has an entry for a workgroup (R213, R226, R266). Common operations that stand in entries which a workgroup
has reserved since stay there (DESIGN CHOICE, log 92). -/
def State.queueRoom (s : State) (core wid : Nat) (q : EngQueue) : Bool :=
  let mine := s.ops.filter (fun p => p.core == core && p.kind.queue == q && p.inQueue)
  match q with
  | .own => true
  | .matrix => mine.length < 64
  | _ =>
    match s.reserveOf wid with
    | some (ld, st) => (mine.filter (fun p => p.wid == wid)).length < (if q == .load then ld else st)
    | none =>
      let held := s.wgs.foldl (fun n g =>
        if g.st == .resident && g.core == core then
          match g.reserve with
          | some (ld, st) => n + (if q == .load then ld else st)
          | none => n
        else n) 0
      (mine.filter (fun p => (s.reserveOf p.wid).isNone)).length < 16 - held

/-- The regions that a command writes. -/
def OpKind.accWrites : OpKind → List (Nat × Nat × Nat × Nat)
  | .mloop d => (List.range d.regions).map (fun r => (d.row r, d.col r, 128, 128))
  | .mzero row col rows cols | .acld _ row col rows cols _ _ => [(row, col, rows, cols)]
  | _ => []

/-- Whether a command of the workgroup that writes an element of a region has not yet written it (R63, R232). -/
def State.accBusy (s : State) (wid row col rows cols : Nat) : Bool :=
  s.ops.any (fun o => o.wid == wid && (o.st == .queued || o.st == .started || o.st == .suspended) &&
    o.kind.accWrites.any (fun r => regionsMeet row col rows cols r.1 r.2.1 r.2.2.1 r.2.2.2))

/-! ### Completion records (R214 to R216) -/

/-- STATUS of R216. -/
def OpStatus.code : OpStatus → Nat
  | .ok => 0 | .partial_ => 1 | .fault => 2 | .cancelled => 3 | .stale => 4 | .unreachable => 5 | .poisoned => 6

/-- A completion record. -/
def Op.record (o : Op) (now phase : Nat) : List Byte :=
  let failmap := o.members.foldl (fun n m => n ||| 2 ^ m.1) 0
  leBytes 32 (packFields [(208, 48, now), (192, 16, o.event), (128, 64, o.faddr.toNat),
    (96, 16, match o.kind with | .remote _ true .. => failmap | _ => 0), (64, 32, o.bytes), (32, 32, o.alloc.toNat),
    (25, 7, o.slot), (24, 1, phase), (20, 4, o.kind.code.getD 0), (16, 4, o.hidx), (8, 8, o.fcause.toNat),
    (0, 8, o.result.code)])

/-- Where record x of a core's ring in a context lies (R215). -/
def Context.recordAt (c : Context) (core x : Nat) : Nat := c.cring.toNat + 32 * (c.crlen * core + x % c.crlen)

/-! ### How an operation ends (R236, R365 to R368) -/

/-- The tiles of an operation's allocation that it has left in FILLING become POISON (R236, R366). -/
def State.spoil (s : State) (id : Nat) : State :=
  { s with wgs := s.wgs.map (fun g => { g with tags := g.tags.map (fun t =>
      match t.2 with
      | .filling (.op i) _ _ _ => if i == id then (t.1, .poison) else t
      | _ => t) }) }

/-- The operations whose records wait: those of R214; the others end when their last write is made (R226). -/
def OpKind.recorded (k : OpKind) : Bool := k.code.isSome

/-- An operation has performed its last unit or stopped: its status stands, and it ends at once or waits for its record. -/
def State.settle (s : State) (id : Nat) (r : OpStatus) (c : Byte) (a : Word) : State :=
  s.mapOp id (fun o => { o with st := if o.kind.recorded then .done else .ended, result := r, fcause := c, faddr := a,
                                waitAt := none, destAt := none, held := [] })

/-- A failure stops an operation (R367). -/
def State.failOp (s : State) (id : Nat) (r : OpStatus) (c : Cause) (a : Word) : State :=
  (s.spoil id).settle id r c.code a

/-- A fabric tag of an operation's beat, marker or request: the entries of Fabric.remote that name warp 1000 and more belong to
operations, those from 2000 on to its reads and writes of peer pages, and those from 3000 on to no operation. -/
def Remote.ofOp (r : Remote) (id : Nat) : Bool := 1000 ≤ r.warp && r.warp < 3000 && r.wid == id
/-- The beats of an operation that await their acknowledgement. -/
def State.outstanding (s : State) (id : Nat) : List Remote := s.fab.remote.filter (fun r => r.ofOp id && r.answer.isNone)

/-- The lowest-numbered failed member of a multicast. -/
def Op.lowest (o : Op) : Option (Nat × OpFail) :=
  o.members.foldl (fun a b => match a with | none => some b | some x => if b.1 < x.1 then some b else a) none

/-- The status of a remote copy or multicast that is over: a failure of its own source, table or target stands before those of
members (R219, R220, R367). -/
def Op.remoteResult (o : Op) : OpStatus × Byte × Word :=
  match o.fail, o.lowest, o.kind with
  | some f, _, _ => (f.status, f.cause, f.addr)
  | none, some (_, f), .remote _ true ts _ _ _ =>
    (if o.members.length < ts.length then .partial_ else f.status, f.cause, f.addr)
  | none, _, _ => if o.pois then (.poisoned, 0, 0) else (.ok, 0, 0)

/-- BYTES of a multicast: what every member that has not failed has been sent. -/
def Op.remoteBytes (o : Op) : Nat :=
  match o.kind with
  | .remote _ true ts _ _ _ => if o.members.length < ts.length then 16 * o.sent.length else 0
  | _ => o.bytes

/-- A remote copy ends when nothing of it is on the fabric and it has no more to send, or has been cancelled (R219, R236). -/
def State.endRemote (s : State) (id : Nat) : State :=
  match s.op? id with
  | none => s
  | some o =>
    match o.kind with
    | .remote table multi ts _ n _ =>
      let isOver : Bool := o.cancel || o.fail.isSome ||
        (table.isNone && ((multi && o.members.length == ts.length) || o.sent.length == n / 16))
      if (o.st == .started || o.st == .suspended || (o.st == .queued && o.cancel)) && isOver && (s.outstanding id).isEmpty then
        let r : OpStatus × Byte × Word := if o.cancel then (.cancelled, 0, 0) else o.remoteResult
        (s.mapOp id (fun o => { o with bytes := o.remoteBytes })).settle id r.1 r.2.1 r.2.2
      else s
    | _ => s

/-- Whether an operation has performed everything and only its record is left. -/
def Op.over (o : Op) : Bool := o.st == .done || o.st == .kept || o.st == .ended

/-- A cancel is taken at one instant (R236, R368): a remote copy ends when what it has sent has been answered, another operation at once.
A pass withdrawn leaves its range to the passer, which still holds it. A drain marker ends as CANCELLED too (log 90). -/
def State.cancelOp (s : State) (id : Nat) : State :=
  match s.op? id with
  | none => s
  | some o =>
    if o.over then s
    else
      match o.kind with
      | .remote .. => (s.mapOp id (fun o => { o with cancel := true, held := [], waitAt := none })).endRemote id
      | .chain _ => s
      | .mloop d => (s.drainMloop o d).settle id .cancelled 0 0
      | _ => (s.spoil id).settle id .cancelled 0 0

/-- What an answered beat says to its operation: warp 1000 + m names member m, the lane its unit. -/
def Op.answered (o : Op) (r : Remote) : Op :=
  let m := r.warp - 1000
  let multi := match o.kind with | .remote _ b .. => b | _ => false
  let bad := fun (st : OpStatus) (c : Byte) =>
    let f : OpFail := { status := st, cause := c, addr := r.addr }
    if multi then { o with members := if o.members.any (fun x => x.1 == m) then o.members else o.members ++ [(m, f)] }
    else { o with fail := some (o.fail.getD f) }
  let good := fun (p : Bool) =>
    { o with units := o.units ++ [r.lane], bytes := if multi then o.bytes else o.bytes + 16, pois := o.pois || p }
  match r.answer with
  | some .ack => good false
  | some (.data _ p) => good p
  | some .stale => bad .stale 0
  | some (.fault c) => bad .fault c
  | none => o

/-- Whether an answer says that a beat has been written (R321). -/
def Remote.written (r : Remote) : Bool := match r.answer with | some .ack | some (.data ..) => true | _ => false

/-- Answers to the beats of remote copies are taken, and the copies that are over end; one that has ended takes no more. -/
def State.takeAnswers (s : State) : State :=
  let mine := fun (r : Remote) => r.answer.isSome && 1000 ≤ r.warp && r.warp < 2000 &&
    (match s.op? r.wid with | some { kind := .remote .., .. } => true | _ => false)
  let got := s.fab.remote.filter mine
  let s := { s with fab := { s.fab with remote := s.fab.remote.filter (fun r => !mine r) } }
  got.foldl (fun s r =>
    let s := if r.written then s.bumpBy 0x123 16 else s
    (s.mapOp r.wid (fun o => if o.over then o else o.answered r)).endRemote r.wid) s

/-- Whether a copy may write at peer p: a member or target p, a map that holds p, or a global destination. -/
def OpKind.mayReach : OpKind → Nat → Bool
  | .copy (.glob _) .., _ => true
  | .remote (some (_, map)) .., p => map.testBit p
  | .remote none multi ts .., p => ts.any (fun t => (if multi then t.1 else t.2.peer) == p)
  | _, _ => false

/-- A drain marker ends when everything that its core sent to the peer before it has been performed or has failed, and the
marker itself has been answered (R221). -/
def State.endDrain (s : State) (id : Nat) : State :=
  match s.op? id with
  | none => s
  | some o =>
    match o.kind with
    | .drain p =>
      let left := s.fab.wc.any (fun e => match e.tag with | some t => o.awaits.elem t | none => false) ||
        s.fab.remote.any (fun r => o.awaits.elem r.tag && r.answer.isNone && !r.ofOp id) ||
        s.ops.any (fun a => a.id < id && a.home == o.home && !a.over && a.kind.mayReach p)
      let marker := s.fab.remote.find? (fun r => r.ofOp id)
      if o.st != .started || left then s
      else if marker.isNone then s.settle id .unreachable Cause.peerUnreachable.code 0
      else
        match marker.bind (·.answer) with
        | none => s
        | some _ =>
          ({ s with fab := { s.fab with remote := s.fab.remote.filter (fun r => !r.ofOp id) } }).settle id .ok 0 0
    | _ => s

/-! ### Ownership (R238) -/

/-- The workgroup that a pass goes to: the next stage of the same column. -/
def State.successor (s : State) (g : Wg) : Option Wg :=
  s.wgs.find? (fun h => h.pkt == g.pkt && h.column == g.column && h.stage == (g.stage + 1) % g.kernel.stages)

/-- The allocation that a beat or a remote copy names: live or saved, and not retired (R56). -/
def State.allocOf (s : State) (id : W32) : Option Wg := s.wgs.find? (fun g => g.allocId == id && g.st != .pending && !g.retired)

/-- The target's device: PEER, or the member's own number (R218). -/
def targetPeer (multi : Bool) (t : Nat × Member) : Nat := if multi then t.1 else t.2.peer

/-- Whether a copy, a conversion or an accumulator store writes into a range of an allocation of this device. A multicast to this
device that has not read its table might. -/
def State.writesInto (s : State) (o : Op) (origin off n : Nat) : Bool :=
  match o.kind with
  | .copy .. | .tcopy .. | .acst .. => o.hitsScr origin off n
  | .remote (some (_, map)) .. => map.testBit s.fab.index
  | .remote none multi ts _ bytes _ =>
    ts.any (fun t => targetPeer multi t == s.fab.index && overlaps t.2.off bytes off n &&
      (match s.allocOf t.2.alloc with | some g => g.wid == origin | none => false))
  | _ => false

/-- Whether a copy of the passer with a destination in the buffer is in flight (R238, R267). -/
def State.passBusy (s : State) (passer : Nat) (w : OwnWindow) : Bool :=
  s.ops.any (fun o => o.running && o.wid == passer && s.writesInto o w.origin (256 * w.tile) (256 * w.count))

/-- A pass that can be taken now, with the take that it meets: OWNPASS and OWNTAKE of one slot, the slot free, no copy in
flight, in the order of issue. -/
def State.passReady (s : State) (o : Op) : Option (Nat × Wg) :=
  match o.kind, s.wg? o.wid with
  | .ownpass slot w _, some g =>
    if o.st != .queued || s.passBusy o.wid w then none
    else
      match s.successor g with
      | none => none
      | some h =>
        if h.wins.any (fun x => x.slot == slot) then none
        else
          (s.ops.find? (fun t => t.st == .queued && t.wid == h.wid && (match t.kind with | .owntake k => k == slot | _ => false))).map
            (fun t => (t.id, h))
  | _, _ => none

/-- The buffer changes hands: it leaves the passer, and the taker's window opens on it, or its own range returns. -/
def State.handOver (s : State) (o : Op) (take : Nat) (h : Wg) : State :=
  match o.kind with
  | .ownpass slot w fromWindow =>
    let s := s.mapWg o.wid (fun g =>
      match fromWindow with
      | some k => { g with wins := g.wins.filter (fun x => x.slot != k) }
      | none => { g with out := g.out ++ [w] })
    let s := s.mapWg h.wid (fun g =>
      if w.origin == g.wid then { g with out := g.out.filter (fun x => !(x.tile == w.tile && x.count == w.count)) }
      else { g with wins := g.wins ++ [{ w with slot := slot }] })
    (s.settle o.id .ok 0 0).settle take .ok 0 0
  | _ => s

/-- Passes that can be taken are taken, earliest first. -/
def State.settlePasses : Nat → State → State
  | 0, s => s
  | fuel + 1, s =>
    match s.ops.findSome? (fun o => (s.passReady o).map (fun t => (o, t))) with
    | none => s
    | some (o, t, h) => State.settlePasses fuel (s.handOver o t h)

/-! ### Handles (R48, R234, R237) -/

/-- The four states of a handle: invalid, pending, or left pending with STATUS and FAULT. -/
inductive HandleSt where
  | invalid
  | pending
  | left (status : OpStatus) (fault : Byte)
  deriving DecidableEq, Repr

/-- The state of a handle. -/
def State.handleSt (s : State) (h : Handle) : HandleSt :=
  match h with
  | .invalid => .invalid
  | .bound id _ =>
    match s.op? id with
    | none => .left .ok 0
    | some o => if o.running then .pending else .left o.result o.fcause

/-- An operation that some handle or packet still names. -/
def State.named (s : State) (id : Nat) : Bool :=
  s.wgs.any (fun g => g.warps.any (fun w => w.h.any (fun h => match h with | .bound i _ => i == id | .invalid => false))) ||
  s.pkts.any (fun p => p.body == .copy id)

/-- Ended operations that nothing names are forgotten. -/
def State.dropOps (s : State) : State := { s with ops := s.ops.filter (fun o => o.running || s.named o.id) }

end Sys2Proof.Machine
end

