-- ==== Sys2Proof/Machine/Flow.lean ====
section
/-!
DEFINITION. The flow sequencer (spec/02_execution_model.md R20, R27 to R36, spec/12_streams_time_sampling.md R300): how a
warp starts, sequence and dispatch numbers, exclusion, release events and their delivery, and packing items into warps.
-/
namespace Sys2Proof.Machine

/-! ### Starting a warp (R18, R20, R199) -/

/-- An item's lane at its start, or an absent lane. -/
def Lane.start (k : Kernel) (root : LaneMask) (it : Option Item) : Lane :=
  { v := List.replicate (8 * ((k.regs + 7) / 8)) { val := 0 }, p := List.replicate 7 { val := 0 }, pc := k.entry,
    st := if it.isSome then .active else .absent, clause := none, trapClause := none, ret := [], spilled := 0,
    teams := [root], inner := root, level := 0, subs := [], trapen := 0, fpstat := 0, decstat := 0, rmode := 0,
    trapcause := 0, trappc := 0, trapaddr := 0, trapret := 0, handler := false, windows := [], item := it, killed := false,
    wait := none, dbg := {} }

/-- The scalar registers at entry: the data section, the arguments, zeros (R20, R387). -/
def startScalars (k : Kernel) (args : Word) : List (Reg 64) :=
  (List.range k.scalars).map (fun i => { val := if i == 0 then k.data else if i == 1 then args else 0 })

/-- A warp that has not been placed. -/
def Warp.start (k : Kernel) (args : Word) (items : List (Option Item)) : Warp :=
  let root := maskOf ((items.zipIdx).filterMap (fun x => if x.1.isSome then some x.2 else none))
  { slot := 0, lanes := items.map (Lane.start k root), s := startScalars k args, h := List.replicate 16 .invalid, nbv := 0,
    unifcnt := 0, trapvec := k.trapv, sleep := none, chain := none, pendBar := none, lastBar := none, joins := [],
    pslot := none, results := [], nextRes := 0, rotate := false }

/-- A workgroup that has not been placed (R24, R53, R62). -/
def Wg.start (wid : Nat) (p : PktKey) (l : Launch) (linear stage column dispatch : Nat) (xyz : Nat × Nat × Nat) (flow : Bool)
    (warps : List Warp) : Wg :=
  { wid := wid, pkt := p, linear := linear, gx := xyz.1, gy := xyz.2.1, gz := xyz.2.2, stage := stage, column := column,
    dispatch := dispatch, kernel := l.kernel, flow := flow, launchId := BitVec.ofNat 32 l.id, slotSz := l.slotSz, core := 0,
    st := .pending, fresh := true, retired := false, warps := warps, allocId := 0, tileBase := 0, tiles := (l.kernel.scratch + 255) / 256,
    data := [], tags := [], out := [], wins := [],
    acc := List.replicate l.accRows (List.replicate 256 0), barGen := 0, barHere := [], reserve := none }

/-- The items of a grid warp (R27): lane l of warp w has item w × W + l, in class 0 under the launch identifier. -/
def gridItems (l : Launch) (w dispatch : Nat) : List (Option Item) :=
  (List.range l.kernel.lanes).map (fun i =>
    some { label := BitVec.ofNat 32 l.id, cls := 0, seq := 0, payload := BitVec.ofNat 32 (w * l.kernel.lanes + i),
           dispatch := dispatch })

/-! ### Launches and flows -/

/-- The launch of a packet. -/
def Pkt.launch? (p : Pkt) : Option Launch := match p.body with | .launch l => some l | _ => none
/-- A packet's launch changed. -/
def State.mapLaunch (s : State) (k : PktKey) (f : Launch → Launch) : State :=
  s.mapPkt k (fun p => match p.body with | .launch l => { p with body := .launch (f l) } | _ => p)

/-- A flow of a context (R29). -/
def State.flow? (s : State) (ctx : Nat) (label : W32) : Option Flow :=
  s.flows.find? (fun f => f.ctx == ctx && f.label == label)
/-- A flow that has not been used: numbering from 0, window 0, nothing held (R29, R300). -/
def Flow.fresh (ctx : Nat) (label : W32) : Flow := { ctx := ctx, label := label, next := 0, hold := 0, items := [], excl := [] }
/-- A flow changed; it is created at its first use. -/
def State.mapFlow (s : State) (ctx : Nat) (label : W32) (f : Flow → Flow) : State :=
  match s.flow? ctx label with
  | some _ => { s with flows := s.flows.map (fun x => if x.ctx == ctx && x.label == label then f x else x) }
  | none => { s with flows := s.flows ++ [f (Flow.fresh ctx label)] }

/-- Whether a class is ordered, and whether it is atomic (R31). -/
def ordered (cls : Nat) : Bool := cls % 2 == 1
/-- Whether a class takes the exclusion (R31, R32). -/
def atomicClass (cls : Nat) : Bool := 2 ≤ cls

/-- An item joins a flow at the tail: it takes the next sequence number, owes a release event if it is ordered, and stands in
line for the exclusion if it is atomic (R29, R31, R32, R35). -/
def State.joinFlow (s : State) (ctx : Nat) (label : W32) (cls dispatch : Nat) : State × W32 :=
  let seq := ((s.flow? ctx label).map (·.next)).getD 0
  (s.mapFlow ctx label (fun f =>
    { f with next := f.next + 1,
             items := if ordered cls then f.items ++ [{ seq := seq, dispatch := dispatch, rel := .none }] else f.items,
             excl := if atomicClass cls then f.excl ++ [{ seq := seq, dispatch := dispatch, holds := false }] else f.excl }), seq)

/-- Whether an atomic item stands first in line (R32). -/
def Flow.first (f : Flow) (seq : W32) (dispatch : Nat) : Bool :=
  match f.excl with
  | e :: _ => e.seq == seq && e.dispatch == dispatch
  | [] => false

/-! ### Delivery (R34, R275, R300) -/

/-- The page that holds back the next n records of a ring, in repair or at a peer that is held (R357, R383, log 25): that of one of their
slots or of the delivered count. -/
def State.ringHold (s : State) (k : PktKey) (n : Nat) : Option Nat :=
  match s.rings.find? (fun r => r.key == k) with
  | none => none
  | some r =>
    match s.ctx? r.ctx with
    | none => none
    | some c =>
      let slots : List (Nat × Nat) := (List.range n).map (fun i => (r.base.toNat + 64 * ((r.count + i) % r.len), 64))
      (slots ++ [(r.base.toNat + 64 * r.len, 8)]).findSome? (fun (a : Nat × Nat) =>
        match s.agentCheck c .store a.1 a.2 with | .wait _ => some (a.1 / 4096) | _ => none)

/-- A record goes to its launch's ring, and the delivered count after it. Bytes whose page does not take them are lost, and the
record counts (log 25). -/
def State.deliver (s : State) (k : PktKey) (bs : List Byte) : State :=
  match s.rings.find? (fun r => r.key == k) with
  | none => s
  | some r =>
    match s.ctx? r.ctx with
    | none => s
    | some c =>
      let s := (s.agentWrite c (r.base.toNat + 64 * (r.count % r.len)) (padTo 64 bs)).1
      let s := (s.agentWrite c (r.base.toNat + 64 * r.len) (leBytes 8 (r.count + 1))).1
      { s with rings := s.rings.map (fun x => if x.key == k then { x with count := x.count + 1 } else x) }

/-- What the head of a flow gives: nothing yet, a skip, or a record that is no longer withheld: the ordered items of the next h
sequence numbers have all made their release event (R300). -/
def Flow.head (f : Flow) : Option (Option (List Byte × PktKey)) :=
  match f.items with
  | [] => none
  | i :: rest =>
    match i.rel with
    | .none => none
    | .skip => some none
    | .record bs k =>
      let after := rest.take f.hold
      if after.length == f.hold && after.all (fun j => j.rel != .none) then some (some (bs, k)) else none

/-- Every record that the flow's head frees is delivered, in sequence order (R34); delivery stalls at a page in repair (R357). -/
def State.drainFlow (ctx : Nat) (label : W32) : Nat → State → State
  | 0, s => s
  | fuel + 1, s =>
    match s.flow? ctx label with
    | none => s
    | some f =>
      match f.head with
      | none => s
      | some out =>
        match out.bind (fun x => s.ringHold x.2 1), s.ctx? ctx with
        | some p, some c => s.sawRepair 0 1000 c (4096 * p) 1
        | _, _ =>
          let s := s.mapFlow ctx label (fun f => { f with items := f.items.drop 1 })
          let s := match out with | none => s | some (bs, k) => s.deliver k bs
          State.drainFlow ctx label fuel s

/-- The whole of a flow's ordered items is fuel enough. -/
def State.drain (s : State) (ctx : Nat) (label : W32) : State :=
  match s.flow? ctx label with
  | none => s
  | some f => State.drainFlow ctx label f.items.length s

/-- Deliveries of a context that stalled at a page in repair are tried again, after its translations have changed (R357). -/
def State.drainAll (s : State) (ctx : Nat) : State :=
  (s.flows.filter (fun f => f.ctx == ctx)).foldl (fun s f => s.drain ctx f.label) s

/-- An ordered item's release event (R33). -/
def State.release (s : State) (ctx : Nat) (label : W32) (seq : W32) (dispatch : Nat) (r : Release) : State :=
  (s.mapFlow ctx label (fun f =>
    { f with items := f.items.map (fun i => if i.seq == seq && i.dispatch == dispatch && i.rel == .none then { i with rel := r } else i) })).drain
    ctx label

/-! ### Packing (R30) -/

/-- The launch's next warp starts with the items that fill it; lanes left over are absent. -/
def State.startFlowWarp (s : State) (k : PktKey) : State :=
  match (s.pkt? k).bind Pkt.launch? with
  | none => s
  | some l =>
    match l.filling with
    | [] => s
    | it :: _ =>
      let items := (List.range l.kernel.lanes).map (fun i => l.filling[i]?)
      let low := l.filling.foldl (fun n x => min n x.dispatch) it.dispatch
      let g := Wg.start s.nextWid k l l.next 0 l.next low (0, 0, 0) true [Warp.start l.kernel l.args items]
      ({ s with nextWid := s.nextWid + 1, wgs := s.wgs ++ [g] }).mapLaunch k (fun l => { l with next := l.next + 1, filling := [] })

/-- An item is packed: it takes the next lane of the warp that is filling, which starts when it is full, or at once when there is
no packing delay. -/
def State.packItem (s : State) (k : PktKey) (it : Item) : State :=
  match (s.pkt? k).bind Pkt.launch? with
  | none => s
  | some l =>
    let s := s.mapLaunch k (fun l =>
      { l with filling := l.filling ++ [it], fillAt := if l.filling.isEmpty then s.now else l.fillAt })
    if l.filling.length + 1 == l.kernel.lanes || l.delay == 0 then s.startFlowWarp k else s

/-! ### Exclusion (R32, R35) -/

/-- The exclusion passes to the first item in line: a lane that is parked for it goes on, an item that waits to be dispatched is
packed. An item that is neither is being dispatched or has not come to its RELABEL's end. -/
def State.passExcl (s : State) (ctx : Nat) (label : W32) : State :=
  match s.flow? ctx label with
  | none => s
  | some f =>
    match f.excl with
    | [] => s
    | e :: _ =>
      if e.holds then s
      else
        let mine := fun (x : Item) => x.label == label && x.seq == e.seq && x.dispatch == e.dispatch
        let took := s.mapFlow ctx label (fun f =>
          { f with excl := match f.excl with | [] => [] | e :: es => { e with holds := true } :: es })
        match s.pkts.find? (fun p => p.key.ctx == ctx &&
            (match p.launch? with | some l => l.parkedItems.any mine | none => false)) with
        | some p =>
          match p.launch?.bind (fun l => l.parkedItems.find? mine) with
          | some it =>
            (took.mapLaunch p.key (fun l => { l with parkedItems := l.parkedItems.filter (fun x => !mine x) })).packItem p.key it
          | none => s
        | none =>
          let waits := fun (g : Wg) (x : Lane) =>
            g.pkt.ctx == ctx && x.st == .exclusion && (match x.item with | some it => mine it | none => false)
          if s.wgs.any (fun g => g.warps.any (fun w => w.lanes.any (waits g))) then
            { took with wgs := took.wgs.map (fun g => { g with warps := g.warps.map (fun w => { w with lanes := w.lanes.map (fun x =>
                if waits g x then { x with st := .active } else x) }) }) }
          else s

/-- An item gives up its place in line or its exclusion, which passes on (R32). -/
def State.giveExcl (s : State) (ctx : Nat) (label : W32) (seq : W32) (dispatch : Nat) : State :=
  (s.mapFlow ctx label (fun f =>
    { f with excl := f.excl.filter (fun e => !(e.seq == seq && e.dispatch == dispatch)) })).passExcl ctx label

/-- A taken entry becomes an item of its launch: packed, or kept back for its flow's exclusion (R29, R30, R32). -/
def State.enrol (s : State) (k : PktKey) (it : Item) : State :=
  if atomicClass it.cls then
    match s.flow? k.ctx it.label with
    | none => s
    | some f =>
      if f.first it.seq it.dispatch then
        (s.mapFlow k.ctx it.label (fun f =>
          { f with excl := match f.excl with | [] => [] | e :: es => { e with holds := true } :: es })).packItem k it
      else s.mapLaunch k (fun l => { l with parkedItems := l.parkedItems ++ [it] })
  else s.packItem k it

/-! ### What an item leaves when it exits (R33, R183) -/

/-- An item that ends: an implicit skip if it is ordered and has not released, and its exclusion passes on. Grid items and
killed items leave nothing. -/
def State.endItem (s : State) (g : Wg) (x : Lane) : State :=
  match x.item with
  | none => s
  | some it =>
    if !g.flow || x.killed then s
    else
      let s := if ordered it.cls && !it.released then s.release g.pkt.ctx it.label it.seq it.dispatch .skip else s
      if atomicClass it.cls then s.giveExcl g.pkt.ctx it.label it.seq it.dispatch else s

end Sys2Proof.Machine
end

