-- ==== Sys2Proof/Machine/Teams.lean ====
section
/-!
DEFINITION. Lanes that leave and meet again (spec/07_ref_control_teams_flows.md R176 to R184, spec/16 R336, spec/17 R337): the
return stack and the team-mask stack with their private memory, joins, exits, the workgroup barrier, and retirement.
-/
namespace Sys2Proof.Machine

/-! ### A lane's private slot (R50, R176, R180) -/

/-- The address of a byte of lane l's private slot. -/
def slotByte (ctx : Context) (g : Wg) (w : Warp) (l off : Nat) : Nat :=
  ctx.privbase.toNat + (w.pslot.getD 0 * 64 + l) * g.slotSz + off
/-- Spill entry k of the return stack. -/
def spillAt (ctx : Context) (g : Wg) (w : Warp) (l k : Nat) : Nat := slotByte ctx g w l (256 + 8 * k)
/-- The entry of a level of the team-mask stack. -/
def maskAt (ctx : Context) (g : Wg) (w : Warp) (l k : Nat) : Nat := slotByte ctx g w l (8 * k)

/-- Whether 8 bytes of the slot can be written now. -/
def State.slotCheck (s : State) (ctx : Context) (va : Nat) : Got :=
  match s.agentCheck ctx .store va 8 with
  | .ok _ => .bytes []
  | .stop .. => .fail .callstackSpill 0
  | .wait _ => .stall
  | .hole a => .hole a

/-- Frames on the return stack. -/
def Lane.depth (x : Lane) : Nat := x.ret.length + x.spilled
/-- CALLSTACK_SPILL: DETAIL is the depth (R350). -/
def Lane.stackStop (x : Lane) : Stop := .fault .callstackSpill 0 x.depth
/-- TEAM_DEPTH: DETAIL is the team level (R350). -/
def Lane.teamStop (x : Lane) : Stop := .fault .teamDepth 0 x.level

/-- Whether a lane can push a frame (R176). -/
def State.canPush (s : State) (cx : Cx) (l : Nat) (x : Lane) : Got :=
  if x.ret.length < 4 then .bytes []
  else if 480 ≤ x.spilled then .fail .callstackSpill 0
  else s.slotCheck cx.ctx (spillAt cx.ctx cx.g cx.w l x.spilled)

/-- A frame (R176). -/
def frameOf (team : Bool) (ra : Word) : Word := (ra &&& 0x0000FFFFFFFFFFF8) ||| (if team then 0x8000000000000000 else 0)
/-- A frame pushed by TCALL. -/
def isTeamFrame (f : Word) : Bool := f.getLsbD 63
/-- RADDR. -/
def frameAddr (f : Word) : Word := f &&& 0x0000FFFFFFFFFFF8

/-- A frame pushed: with four on chip, the oldest goes to the next spill entry (R176). -/
def State.pushFrame (s : State) (cx : Cx) (l : Nat) (x : Lane) (f : Word) : State :=
  if x.ret.length < 4 then s.mapLane cx.wid cx.k l (fun x => { x with ret := f :: x.ret })
  else
    let s := (s.agentWrite cx.ctx (spillAt cx.ctx cx.g cx.w l x.spilled) (leBytes 8 ((x.ret[3]?).getD 0).toNat) cx.g.core cx.w.slot).1
    s.mapLane cx.wid cx.k l (fun x => { x with ret := f :: x.ret.take 3, spilled := x.spilled + 1 })

/-- A reload of the newest spill entry, when there is room and one is left (R176), and what the read does. What cannot be read is left
for the next pop, and a poisoned frame is a free value (DEDUCED, logs 24 and 27). -/
def State.refill (s : State) (ctx : Context) (g : Wg) (w : Warp) (l : Nat) (x : Lane) : State × Lane :=
  if x.spilled == 0 || 4 ≤ x.ret.length then (s, x)
  else
    match s.agentGet 7 ctx (spillAt ctx g w l (x.spilled - 1)) 8 g.core w.slot with
    | (s, .bytes bs) => (s, { x with ret := x.ret ++ [wordOf bs], spilled := x.spilled - 1 })
    | (s, _) => (s, x)

/-- The newest frame popped, and the stack refilled. -/
def State.popFrame (s : State) (ctx : Context) (g : Wg) (w : Warp) (l : Nat) (x : Lane) : State × Lane :=
  s.refill ctx g w l { x with ret := x.ret.drop 1 }

/-! ### Levels (R180) -/

/-- A new innermost level. -/
def Lane.openLevel (x : Lane) (m : LaneMask) (sub : Nat) : Lane :=
  { x with inner := m, level := x.level + 1, teams := if x.level + 1 < 8 then x.teams ++ [m] else x.teams, subs := sub :: x.subs }

/-- The innermost level closed: the caller's mask is on chip, or is reloaded from memory for a level from 9 (R180), with what the read
does. -/
def State.closeLevel (s : State) (ctx : Context) (g : Wg) (w : Warp) (l : Nat) (x : Lane) : State × Option Lane :=
  let k := x.level
  let teams := if k < 8 then x.teams.take k else x.teams
  if k ≤ 8 then (s, some { x with level := k - 1, teams := teams, inner := (teams[k - 1]?).getD 0, subs := x.subs.drop 1 })
  else
    match s.agentGet 7 ctx (maskAt ctx g w l (k - 1)) 8 g.core w.slot with
    | (s, .bytes bs) => (s, some { x with level := k - 1, inner := wordOf bs, subs := x.subs.drop 1 })
    | (s, _) => (s, none)

/-- The reload of a lane's mask at its join, when it has to wait (R357): the context and the address. -/
def State.maskWait (s : State) (wid k l : Nat) : Option (Context × Nat) :=
  match s.wg? wid, s.warp? wid k, s.lane? wid k l with
  | some g, some w, some x =>
    (s.ctx? g.pkt.ctx).bind (fun ctx =>
      let a := maskAt ctx g w l (x.level - 1)
      if 8 < x.level && s.agentRead 7 ctx a 8 == .stall then some (ctx, a) else none)
  | _, _, _ => none

/-! ### Joins (R182, R337) -/

/-- A lane counts as returned in every open join that it belongs to. -/
def Warp.markReturned (w : Warp) (l : Nat) : Warp :=
  { w with joins := w.joins.map (fun j =>
      if hasLane j.members l then { j with returned := j.returned ||| maskOf [l] } else j) }

/-- A lane leaves a join: it pops its frame and its level and goes on at RADDR; a stepped lane stays held there (R351). A lane whose
mask cannot be reloaded faults with CALLSTACK_SPILL (DEDUCED, log 27). -/
def State.leaveJoin (s : State) (wid k l : Nat) : State :=
  match s.wg? wid, s.warp? wid k, s.lane? wid k l with
  | some g, some w, some x =>
    match s.ctx? g.pkt.ctx with
    | none => s
    | some ctx =>
      match s.closeLevel ctx g w l x with
      | (s, none) => s.stopLanes wid k x.pc x.pc false [(l, x.stackStop)]
      | (s, some y) =>
        let z := s.popFrame ctx g w l y
        let st := match x.dbg.held with | some p => LaneSt.parked p | none => .active
        z.1.mapLane wid k l (fun _ =>
          { z.2 with pc := frameAddr ((x.ret.head?).getD 0), clause := none, wait := none, st := st,
                     dbg := { z.2.dbg with held := none } })
  | _, _, _ => s

/-- The lanes of a join that go on when it completes: those parked at it. -/
def Warp.joined (w : Warp) (j : JoinRec) : List Nat :=
  (lanesOf j.members).filter (fun l => match w.lanes[l]? with | some x => x.st == .join && x.level == j.level | none => false)

/-- A join whose RETURNED equals MEMBERS. -/
def JoinRec.full (j : JoinRec) : Bool := j.returned == j.members

/-- Joins whose lanes have all returned wait for the masks that their lanes reload (R357). -/
def State.awaitMasks (s : State) (wid k : Nat) : State :=
  match s.warp? wid k with
  | none => s
  | some w =>
    ((w.joins.filter JoinRec.full).flatMap w.joined).foldl (fun s l =>
      match s.maskWait wid k l with
      | some (ctx, a) => s.agentWait 7 ctx a 8
      | none => s) s

/-- Joins whose RETURNED equals MEMBERS complete, innermost first: all their lanes together, once no reload of a mask waits (R182,
R357). -/
def State.settleJoins (wid k : Nat) : Nat → State → State
  | 0, s => s
  | fuel + 1, s =>
    match s.warp? wid k with
    | none => s
    | some w =>
      match w.joins.find? (fun j => j.full && (w.joined j).all (fun l => (s.maskWait wid k l).isNone)) with
      | none => s.awaitMasks wid k
      | some j =>
        let s := s.mapWarp wid k (fun w => { w with joins := w.joins.filter (· != j) })
        State.settleJoins wid k fuel ((w.joined j).foldl (fun s l => s.leaveJoin wid k l) s)

/-- Joins of a resident workgroup that waited for a mask are looked at again. -/
def State.retryJoins (s : State) (wid : Nat) : State :=
  match s.wg? wid with
  | none => s
  | some g => if g.st == .resident then (List.range g.warps.length).foldl (fun s k => State.settleJoins wid k 64 s) s else s

/-- Joins of every resident workgroup that waited are looked at again: a page may be out of repair, or a peer may have answered. -/
def State.retryAllJoins (s : State) : State := (s.wgs.map (·.wid)).foldl State.retryJoins s

/-! ### The workgroup barrier (R184) -/

/-- A lane of an arrival goes on after the BAR. -/
def Lane.passBar (next : Word) (x : Lane) : Lane :=
  { x.advance next with st := .active, dbg := if x.dbg.step then { x.dbg with step := false, halt := some 2 } else x.dbg }

/-- The lanes that wait in a generation go on. -/
def Warp.passBar (w : Warp) (gen : Nat) : Warp :=
  match w.lastBar with
  | none => w
  | some b =>
    { w with lanes := w.lanes.map (fun x =>
        match x.st, x.wait with
        | .waiting, some { on := .barrier n, .. } => if n == gen then x.passBar b.next else x
        | _, _ => x) }

/-- The generation completes when every warp that has a lane not exited has arrived. -/
def Wg.settleBarrier (g : Wg) : Wg :=
  let live := (List.range g.warps.length).filter (fun k => match g.warps[k]? with | some w => w.live | none => false)
  if g.barHere.isEmpty || live.isEmpty || !live.all (fun k => g.barHere.elem k) then g
  else { g with warps := g.warps.map (fun w => w.passBar g.barGen), barGen := g.barGen + 1, barHere := [] }

/-! ### Exit (R183) -/

/-- A lane becomes Exited: its pending results are discarded, and it counts as returned at its joins. -/
def Warp.exitLane (w : Warp) (l : Nat) : Warp :=
  ((w.dropResults l).markReturned l).mapLane l (fun x => { x with st := .exited, wait := none, dbg := {} })

/-- Lanes exit in ascending order, each with its item's end; then joins and the barrier are looked at again. -/
def State.exitLanes (s : State) (wid k : Nat) (lanes : List Nat) : State :=
  let s := lanes.foldl (fun s l =>
    match s.wg? wid, s.lane? wid k l with
    | some g, some x =>
      if x.live then
        ((s.endItem g x).mapWarp wid k (fun w => w.exitLane l)).dropRegs g.pkt.ctx wid k
      else s
    | _, _ => s) s
  (State.settleJoins wid k 64 s).mapWg wid Wg.settleBarrier

/-! ### Retirement (R25, R26, R56, R183) -/

/-- Whether a warp has retired: every lane has exited and nothing that it issued is pending. -/
def State.warpDone (s : State) (wid k : Nat) (w : Warp) : Bool := !w.live && !s.ops.any (fun o => o.wid == wid && o.warp == k && o.running)

/-- Whether a workgroup's items have exited and its operations have completed. -/
def State.wgDone (s : State) (g : Wg) : Bool :=
  g.warps.all (fun w => !w.live) && !s.ops.any (fun o => o.wid == g.wid && o.running)

/-- Whether a workgroup leaves: its whole column is done (R26). -/
def State.leaves (s : State) (g : Wg) : Bool :=
  (s.wgs.filter (fun h => h.pkt == g.pkt && h.column == g.column)).all (fun h => s.wgDone h)

/-- The answer to a beat: to its sender over the fabric, or to this device's own operation (R219). -/
def State.answerBeat (s : State) (b : Beat) (a : PeerAnswer) : State :=
  if b.sender == s.fab.index then
    { s with fab := { s.fab with remote := s.fab.remote.map (fun r => if r.tag == b.tag then { r with answer := some a } else r) } }
  else (s.flit b.sender).emit (.response b.sender { tag := b.tag, answer := a })

/-- Beats that wait in a sender's allowance come to the ingress while it holds fewer than 256 of that sender; there they are the last
that have reached their tiles (R304). Time does not run for a saved allocation (R57). -/
def State.promote (s : State) : State :=
  let stamp := fun (x : Waiting) => match s.allocOf x.beat.alloc with | some g => if g.st == .saved then 0 else s.now | none => s.now
  let here := s.fab.arrivals.filter (·.here)
  let r := (s.fab.arrivals.filter (fun x => !x.here)).foldl (fun (r : List Waiting × List Waiting × Nat) x =>
    if (r.1.filter (fun y => y.beat.sender == x.beat.sender)).length < 256 then
      (r.1 ++ [{ x with here := true, since := stamp x, no := r.2.2 }], r.2.1, r.2.2 + 1)
    else (r.1, r.2.1 ++ [x], r.2.2)) (here, [], s.fab.nextWait)
  { s with fab := { s.fab with arrivals := r.1 ++ r.2.1, nextWait := r.2.2 } }

/-- Waiting beats are dropped, each with its report. -/
def State.dropBeats (s : State) (p : Waiting → Bool) (a : PeerAnswer) : State :=
  let s := (s.fab.arrivals.filter p).foldl (fun s x => s.answerBeat x.beat a) s
  State.promote { s with fab := { s.fab with arrivals := s.fab.arrivals.filter (fun x => !p x) } }

/-- Workgroups that are done retire: their ids go and the beats that wait for them are dropped as stale (R56). A column leaves when all
of it is done (R26), and operations that nothing names are forgotten. -/
def State.tidy (s : State) : State :=
  let s := (s.ops.filter (fun o => o.st == .started)).foldl (fun s o => s.endDrain o.id) s.takeAnswers
  let s := State.settlePasses s.ops.length s
  let done := s.wgs.filter (fun g => !g.retired && g.st != .pending && s.wgDone g)
  let s := if done.isEmpty then s
    else (s.dropBeats (fun x => done.any (fun g => g.allocId == x.beat.alloc)) .stale).mapWgs (fun g =>
      if done.any (fun h => h.wid == g.wid) then { g with retired := true } else g)
  let gone := s.wgs.filter (fun g => s.leaves g)
  if gone.isEmpty then s.dropOps
  else ({ s with wgs := s.wgs.filter (fun g => !gone.any (fun h => h.wid == g.wid)) }).takeAnswers.dropOps

/-- Lanes end as by KILL or ENDLAUNCH: as by EXIT, with no report (R347, R370). -/
def State.killLanes (s : State) (wid k : Nat) (lanes : List Nat) : State := s.exitLanes wid k lanes

end Sys2Proof.Machine
end

