-- ==== Sys2Proof/Machine/EngineOps.lean ====
section
/-!
DEFINITION. Families 0x40 to 0x43: the issue of copies, conversions, winnow parts and matrix commands, the accumulator moves, and
handles (spec/08_ref_memory_engines.md R201, R212 to R238).
-/
namespace Sys2Proof.Machine

/-! ### The frame of an engine word (R201, R48) -/

/-- What an engine word's checks give: a stop of every executing lane, a wait, an address beyond the part, or an operation
with its event. -/
inductive EngPlan where
  | stop (f : Lane → Stop)
  | wait (on : WaitOn)
  | hole (a : Nat)
  | issue (kind : OpKind) (event : Nat)

/-- Every executing lane stops. -/
def State.stopAll (s : State) (cx : Cx) (f : Lane → Stop) : State :=
  s.commit cx false false 0 (cx.lanes.filterMap (fun l => (cx.lane? l).map (fun x => (l, LaneOut.stop (f x)))))
/-- Every executing lane waits. -/
def State.waitAll (s : State) (cx : Cx) (on : WaitOn) : State := s.stall cx (cx.lanes.map (fun l => (l, on, false)))
/-- Every executing lane goes on. -/
def State.passAll (s : State) (cx : Cx) : State := s.commit cx false false 0 (cx.lanes.map (fun l => (l, flowOn)))
where
  flowOn : LaneOut := .write [] 0 0

/-- A uniform operand of an engine word. -/
def engOp (s : State) (cx : Cx) (t : BitVec 4) (c : Code) : Val := readUni s cx t c
/-- A poisoned engine operand (R109, R350). -/
def engPoison : EngPlan := .stop (fun x => poisonStop x 5)
/-- ILLEGAL of an operand's value. -/
def engIllegal (cx : Cx) : EngPlan := .stop (fun _ => cx.illegal)
/-- BAD_TYPE of an operand's value, with step 5 of R111 (R85, R350). -/
def engBadType (cx : Cx) : EngPlan := .stop (fun _ => .fault .badType cx.word (256 * wordMajor cx.word + 5))
/-- A memory cause of an engine word's own operands. -/
def engMem (c : Cause) (addr : Word) (sz sp acc : Nat) : EngPlan := .stop (fun _ => .fault c addr (memDetail 0 sz sp acc))
/-- HANDLE_INVALID: DETAIL is the handle's index (R350). -/
def handleStop (h : Nat) (_ : Lane) : Stop := .fault .handleInvalid 0 h

/-- Handle h of a warp. -/
def Warp.handle (w : Warp) (h : Nat) : Handle := (w.h[h]?).getD .invalid

/-- A handle bound to an operation, with the next binding generation (R237). -/
def State.bind (s : State) (wid k h id : Nat) : State :=
  { s with nextGen := (s.nextGen + 1) % 2 ^ 30 }.mapWarp wid k (fun w => { w with h := w.h.set h (.bound id s.nextGen) })

/-- The next record number of a core in a context (R215). -/
def Context.recordNum (c : Context) (core : Nat) : Nat := ((c.crNum.find? (fun x => x.1 == core)).map (·.2)).getD 0
/-- A record number is taken. -/
def Context.takeRecord (c : Context) (core : Nat) : Context :=
  { c with crNum := (core, c.recordNum core + 1) :: c.crNum.filter (fun x => x.1 != core) }

/-- A new operation of the warp, queued; with a handle unless it is a chain marker. -/
def State.issueOp (s : State) (cx : Cx) (h : Option Nat) (kind : OpKind) (event : Nat) : State :=
  let id := s.nextOp
  let rnum := if kind.recorded then some (cx.ctx.recordNum cx.g.core) else none
  let o : Op :=
    { id := id, kind := kind, ctx := cx.ctx.num, pkt := cx.g.pkt, core := cx.g.core, wid := cx.wid, warp := cx.k,
      slot := cx.w.slot, hidx := h.getD 0, pc := cx.pc, event := event, rnum := rnum, home := cx.g.core, alloc := cx.g.allocId, st := .queued,
      units := [], sent := [], begun := [], bytes := 0, pois := false, fail := none, members := [], held := [], waitAt := none, destAt := none, header := [],
      awaits := [], fork := none, cancel := false, rowMarks := [], colMarks := [], carry := [], nbv := cx.w.nbv,
      chain := if cx.w.nbv.toNat % 4 == 0 then cx.w.chain else none, result := .ok, fcause := 0, faddr := 0 }
  let s := { s with nextOp := id + 1, ops := s.ops ++ [o] }
  let s := if rnum.isSome then s.mapCtx cx.ctx.num (fun c => c.takeRecord cx.g.core) else s
  match h with
  | none => s
  | some h => s.bind cx.wid cx.k h id

/-- An engine word (R201, R213, R68): a pending handle is waited for, then the checks, the scoreboard and the queue. -/
def State.engine (s : State) (cx : Cx) (h : Option Nat) (plan : EngPlan) : State :=
  let busy : Bool := match h with | some h => s.handleSt (cx.w.handle h) == .pending | none => false
  if busy then s.waitAll cx (.handle (h.getD 0))
  else
    match plan with
    | .stop f => s.stopAll cx f
    | .wait on => s.waitAll cx on
    | .hole a => { s with hole := some a }
    | .issue kind ev =>
      if kind.board.isSome && 32 ≤ (s.board cx.g.core).length then s.waitAll cx (.scoreboard none)
      else if !s.queueRoom cx.g.core cx.wid kind.queue then s.waitAll cx (.queue kind.queue.num)
      else (s.issueOp cx h kind ev).passAll cx

/-- The producer's right to issue copies (R212). -/
def Cx.producer (cx : Cx) : Bool := cx.k == (if cx.g.flow then 0 else cx.g.kernel.producer)
/-- COPY_RIGHTS. -/
def engRights : EngPlan := .stop (fun _ => .fault .copyRights 0 0)

/-- A memory side in scratch, as its origin and byte; or PROTECTION. -/
def scrSide (cx : Cx) (off : Word) (n acc : Nat) (k : Ep → EngPlan) : EngPlan :=
  match cx.g.scratch off.toNat n with
  | some (o, b) => k (.scr o b)
  | none => engMem .protection off 4 1 acc

/-- A memory side of either space. -/
def memSide (cx : Cx) (scr : Bool) (a : Word) (n acc : Nat) (k : Ep → EngPlan) : EngPlan :=
  if scr then scrSide cx a n acc k else k (.glob a)

/-! ### COPY (R217 to R221) -/

/-- The event-and-map operand. -/
def copyEvent (s : State) (cx : Cx) (w : FmtE) : Val := if w.d == 0 then { v := 0 } else engOp s cx 1 w.d

/-- The member that a remote destination names (R218); bits [59:53] are ignored (DESIGN CHOICE, log 89). -/
def Member.ofWord (x : Word) : Member :=
  { peer := bitsOf x.toNat 60 4, alloc := x.setWidth 32, off := bitsOf x.toNat 32 21 }

/-- The plan of a copy in MODE 0 to 2. -/
def copyPlan (s : State) (cx : Cx) (w : FmtE) : EngPlan :=
  let a := engOp s cx 3 w.a
  let b := engOp s cx 3 w.b
  let n := engOp s cx 1 w.c
  let d := copyEvent s cx w
  let bytes := n.v.toNat
  let ev := bitsOf d.v.toNat 0 16
  let map := bitsOf d.v.toNat 16 16
  if !cx.producer then engRights
  else if anyPoison [a, b, n, d] then engPoison
  else if bytes % 16 != 0 || 2 ^ 24 < bytes || (w.mode != 2 && map != 0) then engIllegal cx
  else if b.v.toNat % 16 != 0 then engMem .align b.v 4 w.sscr.toNat 0
  else
    let source := memSide cx w.sscr b.v bytes 0
    match w.mode with
    | 0 =>
      if a.v.toNat % 16 != 0 then engMem .align a.v 4 w.dscr.toNat 1
      else source (fun src => memSide cx w.dscr a.v bytes 1 (fun dst => .issue (.copy dst src bytes (w.cc + 1)) ev))
    | 1 =>
      let m := Member.ofWord a.v
      if m.off % 16 != 0 then engMem .align (BitVec.ofNat 64 m.off) 4 1 1
      else source (fun src => .issue (.remote none false [(0, m)] src bytes (w.cc + 1)) ev)
    | _ =>
      if a.v.toNat % 8 != 0 then engMem .align a.v 3 0 0
      else source (fun src => .issue (.remote (some (a.v, map)) true [] src bytes (w.cc + 1)) ev)

/-- COPY to scratchpad or global memory of this device's pages (R219). -/
def execCopyLocal (w : FmtE) (s : State) : Host.Outcome State Fault Refusal :=
  withCx s (fun cx => s.engine cx (some w.h.toNat) (copyPlan s cx w))
/-- COPY to a peer's scratchpad (R219). -/
def execCopyRemote (w : FmtE) (s : State) : Host.Outcome State Fault Refusal :=
  withCx s (fun cx => s.engine cx (some w.h.toNat) (copyPlan s cx w))
/-- COPY to the members of a map (R220). -/
def execCopyMulticast (w : FmtE) (s : State) : Host.Outcome State Fault Refusal :=
  withCx s (fun cx => s.engine cx (some w.h.toNat) (copyPlan s cx w))

/-- The drain marker (R221). -/
def execCopyDrain (w : FmtE) (s : State) : Host.Outcome State Fault Refusal :=
  withCx s (fun cx => s.engine cx (some w.h.toNat) (
    let p := engOp s cx 1 w.a
    let d := copyEvent s cx w
    if !cx.producer then engRights
    else if anyPoison [p, d] then engPoison
    else if 15 < p.v.toNat || bitsOf d.v.toNat 16 16 != 0 then engIllegal cx
    else .issue (.drain p.v.toNat) (bitsOf d.v.toNat 0 16)))

/-! ### TCOPY, WNST, RINGWAIT (R222 to R225) -/

/-- Bits of a source element by FMT (R222). -/
def fmtBits (fmt : Nat) : Nat := match fmt with | 2 | 4 => 4 | 5 | 6 => 16 | 7 => 32 | _ => 8
/-- The bytes of a row of n panels' elements. -/
def Convert.rowBytes (c : Convert) : Nat := 48 * c.panels * fmtBits c.fmt / 8
/-- Tiles of one panel (R223). -/
def Convert.tiles (c : Convert) : Nat := if c.fmt == 8 then 26 else 3 * c.planes + 2

/-- The descriptor of a TCOPY; its "—" bits are ignored (DESIGN CHOICE, log 89). -/
def Convert.ofWords (x y : Word) (n : Nat) : Convert :=
  { fmt := bitsOf x.toNat 0 4, planes := bitsOf x.toNat 8 4 + 1, se := bitsOf x.toNat 16 8, pitch := bitsOf x.toNat 32 32,
    spitch := bitsOf y.toNat 48 16, scale := BitVec.ofNat 64 (bitsOf y.toNat 0 48), panels := n }

/-- TCOPY (R222, R223). -/
def execTcopy (w : FmtE) (s : State) : Host.Outcome State Fault Refusal :=
  withCx s (fun cx => s.engine cx (some w.h.toNat) (
    let a := engOp s cx 3 w.a
    let b := engOp s cx 3 w.b
    let x := engOp s cx 3 w.c
    let y := engOp s cx 3 (w.c + 1)
    let n := engOp s cx 1 w.d
    let c := Convert.ofWords x.v y.v n.v.toNat
    if !cx.producer then engRights
    else if anyPoison [a, b, x, y, n] then engPoison
    else if 8 < c.fmt || c.panels == 0 || 256 < c.panels then engIllegal cx
    else if c.fmt == 8 && c.planes != 1 then engBadType cx
    else if a.v.toNat % 256 != 0 then engMem .align a.v 4 1 1
    else
      scrSide cx a.v (256 * c.tiles * c.panels) 1 (fun dst =>
        memSide cx w.sscr b.v (spanBytes 128 c.pitch c.rowBytes) 0 (fun src => .issue (.tcopy dst src c (w.cc + 1)) 0))))

/-- The region of a WNST: a mapped page must be local HBM (R224). -/
def regionPlan (s : State) (cx : Cx) (region : Word) (next : EngPlan) : EngPlan :=
  if 2 ^ 48 ≤ region.toNat then engMem .protection region 2 0 1
  else
    match s.translate (dieOf cx.g.core) 1000 cx.ctx region.toNat with
    | .ok f => if f.target == .hbm then next else engMem .protection region 2 0 1
    | .hole a => .hole a
    | .stop .. => next

/-- WNST (R224). -/
def execWnst (w : FmtE) (s : State) : Host.Outcome State Fault Refusal :=
  withCx s (fun cx => s.engine cx (some w.h.toNat) (
    let a := engOp s cx 3 w.a
    let b := engOp s cx 3 w.b
    let base := engOp s cx 1 w.c
    let n := engOp s cx 1 w.d
    if !cx.producer then engRights
    else if anyPoison [a, b, base, n] then engPoison
    else if n.v.toNat == 0 || 16384 < n.v.toNat then engIllegal cx
    else if b.v.toNat % 4096 != 0 then engMem .align b.v 2 0 1
    else
      regionPlan s cx b.v
        (memSide cx w.sscr a.v (4 * n.v.toNat) 0 (fun src =>
          .issue (.wnst src (w.flags.getLsbD 4) b.v base.v.toNat n.v.toNat) 0))))

/-- RINGWAIT (R225): the slot's first 8 bytes, once their PHASE bit, bit 24 of the record (R216), is the one asked for. -/
def execRingwait (w : FmtE) (s : State) : Host.Outcome State Fault Refusal :=
  withCx s (fun cx =>
    let a := engOp s cx 3 w.a
    let ph := engOp s cx 1 w.b
    if a.p || ph.p then s.stopAll cx (fun x => poisonStop x 5)
    else if 1 < ph.v.toNat then s.stopAll cx (fun _ => cx.illegal)
    else if a.v.toNat % 32 != 0 then s.stopAll cx (fun _ => memStop .align a.v (memDetail 0 3 0 0))
    else
      MemOp.run
        { drains := fun loc => drainsFirst 0 0 loc, sz := 3, acc := 0, what := fun _ _ => .access .load,
          holds := fun s l _ loc =>
            if bitsOf (pval (s.locBytes cx l loc 8)).v.toNat 24 1 == ph.v.toNat then none else some (.wait (.ring a.v ph.v.toNat) false),
          perform := fun s l _ loc =>
            let v := pval (s.locBytes cx l loc 8)
            (s.locTouch cx loc, .write (destWrites l w.d 3 v.v v.p) 0 0) }
        s cx false true w.run.toNat (cx.lanes.map (fun l => (l, .ok (a.v, s.locate cx l 0 3 .load false a.v)))))

/-! ### Matrix commands (R226 to R231, R233) -/

/-- The reserved bits of an MLOOP descriptor, and what else makes it ILLEGAL (R228). -/
def mloopIllegal (x y z u : Nat) : Bool :=
  let ring := fun (r : Nat) (ds : Bool) (pm1 : Nat) =>
    let wp := bitsOf r 56 5
    bitsOf r 61 3 != 0 || bitsOf r 21 11 != 0 || bitsOf r 32 8 == 0 ||
    (if ds then pm1 != 1 else wp == 0 || 16 < wp || wp < pm1 + 1)
  let k := bitsOf z 0 13
  ring x (z.testBit 24) (bitsOf z 16 4) || ring y (z.testBit 25) (bitsOf z 20 4) ||
  bitsOf z 56 8 != 0 || bitsOf z 41 7 != 0 || bitsOf z 26 6 != 0 || bitsOf z 13 3 != 0 ||
  bitsOf u 40 24 != 0 || bitsOf u 25 7 != 0 || bitsOf u 13 3 != 0 || k == 0 || 4096 < k || k < bitsOf u 0 13

/-- A ring of the descriptor. -/
def PanelRing.ofWord (r : Nat) (ds : Bool) (pm1 : Nat) : PanelRing :=
  { wp := bitsOf r 56 5, step := bitsOf r 48 8, start := bitsOf r 40 8, count := bitsOf r 32 8, base := bitsOf r 0 21, ds := ds,
    reads := pm1 + 1 }

/-- The descriptor in four registers (R227). -/
def MloopDesc.ofWords (x y z u : Nat) : MloopDesc :=
  { a := PanelRing.ofWord x (z.testBit 24) (bitsOf z 16 4), b := PanelRing.ofWord y (z.testBit 25) (bitsOf z 20 4),
    row0 := bitsOf z 32 9, col0 := bitsOf z 48 8, ksteps := bitsOf z 0 13, rowinc := bitsOf u 16 9, colinc := bitsOf u 32 8,
    kper := if bitsOf u 0 13 == 0 then bitsOf z 0 13 else bitsOf u 0 13 }

/-- A region of the workgroup's accumulator (R63). -/
def accFits (g : Wg) (row col rows cols : Nat) : Bool := decide (row + rows ≤ g.acc.length) && decide (col + cols ≤ 256)

/-- MLOOP (R228). -/
def execMloop (w : FmtE) (s : State) : Host.Outcome State Fault Refusal :=
  withCx s (fun cx => s.engine cx (some w.h.toNat) (
    let r := fun (i : Nat) => engOp s cx 3 (w.a + BitVec.ofNat 9 i)
    let n := fun i => (r i).v.toNat
    let d := MloopDesc.ofWords (n 0) (n 1) (n 2) (n 3)
    let bad := fun (p : PanelRing) => (cx.g.scratch p.base (256 * p.stride * p.count)).isNone
    if anyPoison [r 0, r 1, r 2, r 3] then engPoison
    else if mloopIllegal (n 0) (n 1) (n 2) (n 3) then engIllegal cx
    else if d.a.base % 256 != 0 then engMem .align (BitVec.ofNat 64 d.a.base) 4 1 0
    else if d.b.base % 256 != 0 then engMem .align (BitVec.ofNat 64 d.b.base) 4 1 0
    else if [d.row0, d.col0, d.rowinc, d.colinc].any (fun x => x % 16 != 0) then engMem .align 0 2 0 1
    else if bad d.a then engMem .protection (BitVec.ofNat 64 d.a.base) 4 1 0
    else if bad d.b then engMem .protection (BitVec.ofNat 64 d.b.base) 4 1 0
    else if (List.range d.regions).any (fun r => !accFits cx.g (d.row r) (d.col r) 128 128) then engMem .protection 0 2 0 1
    else .issue (.mloop d) 0))

/-- A chain marker (R230): the warp's chain is named by the operation that opens it. -/
def chainOp (opens : Bool) (s : State) : Host.Outcome State Fault Refusal :=
  withCx s (fun cx =>
    if cx.w.chain.isSome == opens then s.stopAll cx (fun _ => cx.illegal)
    else if !s.queueRoom cx.g.core cx.wid .matrix then s.waitAll cx (.queue EngQueue.matrix.num)
    else
      ((s.issueOp cx none (.chain opens) 0).mapWarp cx.wid cx.k (fun w =>
        { w with chain := if opens then some s.nextOp else none })).passAll cx)

/-- MCHAIN.b (R230). -/
def execMchainB (_ : FmtE) (s : State) : Host.Outcome State Fault Refusal := chainOp true s
/-- MCHAIN.e (R230). -/
def execMchainE (_ : FmtE) (s : State) : Host.Outcome State Fault Refusal := chainOp false s

/-- MZERO (R231). -/
def execMzero (w : FmtE) (s : State) : Host.Outcome State Fault Refusal :=
  withCx s (fun cx => s.engine cx (some w.h.toNat) (
    let a := engOp s cx 1 w.a
    let b := engOp s cx 1 w.b
    let c := engOp s cx 1 w.c
    let d := engOp s cx 1 w.d
    let row := a.v.toNat
    let col := b.v.toNat
    let rows := c.v.toNat
    let cols := d.v.toNat
    if anyPoison [a, b, c, d] then engPoison
    else if rows % 16 != 0 || rows == 0 || 512 < rows || cols % 16 != 0 || cols == 0 || 256 < cols then engIllegal cx
    else if row % 16 != 0 || col % 16 != 0 then engMem .align 0 2 0 1
    else if !accFits cx.g row col rows cols then engMem .protection 0 2 0 1
    else .issue (.mzero row col rows cols) 0))

/-- ACST and ACLD (R233); bits [31:28] of D are ignored (DESIGN CHOICE, log 89). -/
def accCopy (w : FmtE) (s : State) (store : Bool) : Host.Outcome State Fault Refusal :=
  withCx s (fun cx => s.engine cx (some w.h.toNat) (
    let a := engOp s cx 3 w.a
    let b := engOp s cx 1 w.b
    let c := engOp s cx 1 w.c
    let d := engOp s cx 1 w.d
    let fmt := w.flags.toNat % 4
    let rows := 16 * (bitsOf w.flags.toNat 4 4 + 1)
    let cols := 16 * (bitsOf d.v.toNat 24 4 + 1)
    let pitch := bitsOf d.v.toNat 0 24
    let row := b.v.toNat
    let col := c.v.toNat
    let width := cols * (if fmt == 0 then 4 else 2)
    if anyPoison [a, b, c, d] then engPoison
    else if pitch % 16 != 0 || pitch < width then engIllegal cx
    else if row % 16 != 0 || col % 16 != 0 then engMem .align 0 2 0 store.toNat
    else if !accFits cx.g row col rows cols then engMem .protection 0 2 0 store.toNat
    else
      memSide cx (w.flags.getLsbD 2) a.v (spanBytes rows pitch width) store.toNat (fun m =>
        .issue (if store then .acst m row col rows cols pitch fmt else .acld m row col rows cols pitch fmt) 0)))

/-- ACST (R233). -/
def execAcst (w : FmtE) (s : State) : Host.Outcome State Fault Refusal := accCopy w s true
/-- ACLD (R233). -/
def execAcld (w : FmtE) (s : State) : Host.Outcome State Fault Refusal := accCopy w s false

/-! ### Lanes and the accumulator (R232) -/

/-- The frame of ACRD and ACWR, with ACC of their faults (R352). -/
def accLanes (w : FmtE) (s : State) (acc : Nat) (f : Cx → Nat → Nat → Nat → State) : Host.Outcome State Fault Refusal :=
  withCx s (fun cx =>
    let a := engOp s cx 1 w.a
    let b := engOp s cx 1 w.b
    let c := engOp s cx 1 w.c
    let row := a.v.toNat
    let col := b.v.toNat
    let n := c.v.toNat
    let width := cx.w.lanes.length
    if anyPoison [a, b, c] then s.stopAll cx (fun x => poisonStop x 5)
    else if n == 0 || 16 < n || 8 * ((cx.g.kernel.regs + 7) / 8) < w.d.toNat + n then s.stopAll cx (fun _ => cx.illegal)
    else if row % 16 != 0 || col % 16 != 0 then s.stopAll cx (fun _ => .fault .align 0 (memDetail 0 2 0 acc))
    else if !accFits cx.g row col width n then s.stopAll cx (fun _ => .fault .protection 0 (memDetail 0 2 0 acc))
    else if s.accBusy cx.wid row col width n then s.waitAll cx (.element row col width n)
    else f cx row col n)

/-- ACRD (R232): lane l reads row row0 + l. -/
def execAcrd (w : FmtE) (s : State) : Host.Outcome State Fault Refusal :=
  accLanes w s 0 (fun cx row col n =>
    s.commit cx false true w.run.toNat (cx.lanes.map (fun l =>
      (l, .write ((List.range n).map (fun i =>
        { lane := some l, dst := .lane (w.d.toNat + i), val := (cx.g.accAt (row + l) (col + i)).setWidth 64, poison := false })) 0 0))))

/-- ACWR (R232): lane l writes row row0 + l, unless one of its registers is poisoned. -/
def execAcwr (w : FmtE) (s : State) : Host.Outcome State Fault Refusal :=
  accLanes w s 1 (fun cx row col n =>
    let vals := fun l => (List.range n).map (fun i => readOp s cx l 1 (w.d + BitVec.ofNat 9 i))
    let outs := cx.lanes.filterMap (fun l => (cx.lane? l).map (fun x =>
      (l, if anyPoison (vals l) then LaneOut.stop (poisonStop x 5) else .write [] 0 0)))
    let s := outs.foldl (fun s o =>
      match o.2 with
      | .write .. => s.accMap cx.wid (row + o.1) col 1 n (fun _ i _ => (argv (vals o.1) i).setWidth 32)
      | _ => s) s
    s.commit cx false false 0 outs)

/-! ### Handles (R234 to R237) -/

/-- An instruction over a handle that must not be invalid. -/
def withHandle (w : FmtE) (s : State) (f : Cx → HandleSt → State) : Host.Outcome State Fault Refusal :=
  withCx s (fun cx =>
    match s.handleSt (cx.w.handle w.h.toNat) with
    | .invalid => s.stopAll cx (handleStop w.h.toNat)
    | st => f cx st)

/-- WAIT (R234). -/
def execWait (w : FmtE) (s : State) : Host.Outcome State Fault Refusal :=
  withHandle w s (fun cx st =>
    match st with
    | .left r c =>
      let v := BitVec.ofNat 64 (r.code + 256 * c.toNat)
      if w.flags.getLsbD 0 then
        s.commit cx false true w.run.toNat (cx.lanes.map (fun l => (l, .write (destWrites l w.d 1 v false) 0 0)))
      else s.passAll cx
    | _ => s.waitAll cx (.handle w.h.toNat))

/-- HTEST (R235). -/
def execHtest (w : FmtE) (s : State) : Host.Outcome State Fault Refusal :=
  withHandle w s (fun cx st =>
    s.commit cx false false 0 (cx.lanes.map (fun l => (l, .write (predWrites l w.d (st != .pending) false) 0 0))))

/-- HCANCEL (R236). -/
def execHcancel (w : FmtE) (s : State) : Host.Outcome State Fault Refusal :=
  withHandle w s (fun cx _ =>
    let s := match cx.w.handle w.h.toNat with | .bound id _ => s.cancelOp id | .invalid => s
    (s.passAll cx).tidy)

/-- A token (R237). -/
def handleToken (gen core slot h : Nat) : Word := BitVec.ofNat 64 (packFields [(18, 30, gen), (11, 7, core), (4, 7, slot), (0, 4, h)])

/-- HMOV export (R237): the token goes to the scalar register that A names. -/
def execHmovExport (w : FmtE) (s : State) : Host.Outcome State Fault Refusal :=
  withHandle w s (fun cx _ =>
    let gen := match cx.w.handle w.h.toNat with | .bound _ g => g | .invalid => 0
    let v := handleToken gen cx.g.core cx.w.slot w.h.toNat
    s.commit cx false true w.run.toNat (cx.lanes.map (fun l => (l, .write (destWrites l w.a 3 v false) 0 0))))

/-- The operation that a token names, if the handle that it was made from still holds it. -/
def State.tokenOp (s : State) (core : Nat) (t : Word) : Option Nat :=
  if bitsOf t.toNat 11 7 != core % 128 then none
  else
    match s.slot? core (bitsOf t.toNat 4 7) with
    | none => none
    | some (wid, k) =>
      match s.warp? wid k with
      | none => none
      | some w =>
        match w.handle (bitsOf t.toNat 0 4) with
        | .bound id gen => if gen == bitsOf t.toNat 18 30 then some id else none
        | .invalid => none

/-- HMOV import (R237). A handle that is pending is waited for first (R201). A poisoned token raises HANDLE_INVALID, by R237, where R109
would have POISON_USE of every operand (DESIGN CHOICE, log 76). -/
def execHmovImport (w : FmtE) (s : State) : Host.Outcome State Fault Refusal :=
  withCx s (fun cx =>
    let t := engOp s cx 3 w.a
    let h := w.h.toNat
    if s.handleSt (cx.w.handle h) == .pending then s.waitAll cx (.handle h)
    else
      match (if t.p then none else s.tokenOp cx.g.core t.v) with
      | none => s.stopAll cx (handleStop h)
      | some id => (s.bind cx.wid cx.k h id).passAll cx)

/-! ### Ownership (R238) -/

/-- The plan of OWNPASS: a range of the workgroup's own allocation, or the whole buffer of an open window. -/
def passPlan (s : State) (cx : Cx) (w : FmtE) : EngPlan :=
  let a := engOp s cx 1 w.a
  let b := engOp s cx 1 w.b
  let c := engOp s cx 1 w.c
  let off := a.v.toNat
  let n := b.v.toNat
  let slot := c.v.toNat
  if anyPoison [a, b, c] then engPoison
  else if 15 < slot || cx.g.kernel.stages == 1 then engIllegal cx
  else if off % 256 != 0 || n % 256 != 0 then engMem .align a.v 4 1 1
  else if off < 2 ^ 24 then
    match cx.g.scratch off n with
    | none => engMem .protection a.v 4 1 1
    | some _ => .issue (.ownpass slot { slot := slot, origin := cx.wid, tile := off / 256, count := n / 256 } none) 0
  else
    match cx.g.wins.find? (fun x => 2 ^ 24 * (x.slot + 1) == off && 256 * x.count == n) with
    | none => engMem .protection a.v 4 1 1
    | some x => .issue (.ownpass slot { x with slot := slot } (some x.slot)) 0

/-- OWNPASS (R238). -/
def execOwnpass (w : FmtE) (s : State) : Host.Outcome State Fault Refusal :=
  withCx s (fun cx => (s.engine cx (some w.h.toNat) (passPlan s cx w)).tidy)

/-- OWNTAKE (R238). -/
def execOwntake (w : FmtE) (s : State) : Host.Outcome State Fault Refusal :=
  withCx s (fun cx => (s.engine cx (some w.h.toNat) (
    let c := engOp s cx 1 w.c
    if c.p then engPoison
    else if 15 < c.v.toNat then engIllegal cx
    else .issue (.owntake c.v.toNat) 0)).tidy)

end Sys2Proof.Machine
end

