-- ==== Sys2Proof/Machine/Units.lean ====
section
/-!
DEFINITION. What an engine reads and writes unit by unit (spec/04_numbers.md R81 to R85, spec/08_ref_memory_engines.md R219 to R223,
R233, spec/03 R59, spec/21 R359, R365): sources, arrivals, holds, conversions, and beats that reach this device's tiles.
-/
namespace Sys2Proof.Machine

/-! ### Stopping and holding (R365, R367) -/

/-- An operation ends with a failure; a remote copy first awaits what it has sent. -/
def State.unitFail (s : State) (o : Op) (st : OpStatus) (c : Byte) (a : Word) : State :=
  match o.kind with
  | .remote .. =>
    (s.mapOp o.id (fun o => { o with fail := some (o.fail.getD { status := st, cause := c, addr := a }) })).endRemote o.id
  | _ => (s.spoil o.id).settle o.id st c a

/-- A missing page is reported once (R365): NUM is the record that the operation will post, or a COPY packet's number. -/
def State.holdUnit (s : State) (o : Op) (va acc : Nat) : State :=
  let low := fun (x : Word) => if x.toNat / 4096 == va / 4096 && decide (va < x.toNat) then BitVec.ofNat 64 va else x
  if o.held.any (fun x => x.toNat / 4096 == va / 4096) then s.mapOp o.id (fun o => { o with held := o.held.map low })
  else
    let tag := ((s.pkt? o.pkt).map (·.tag)).getD 0
    (s.mapOp o.id (fun o => { o with held := o.held ++ [BitVec.ofNat 64 va] })).postService
      (serviceRecord s.now va (o.rnum.getD o.pkt.num) o.pc.toNat tag o.pkt.q o.ctx (memDetail 0 4 0 acc) Cause.xlateMiss.code o.core
        o.slot o.hidx (o.kind.code.getD 0) 1)

/-- Whether a tile that an operation waits to read still holds it: a source that is being filled, or a panel that is not ready. -/
def State.waitHolds (s : State) (o : Op) (x : TileWait) : Bool :=
  match o.kind with
  | .mloop _ => !(s.tag x.origin x.tile).ready
  | _ => (s.tag x.origin x.tile).isFilling

/-- The wait of unit u to read a tile begins. The operation's wait goes on while its tile holds it, and a unit that finds another of its
tiles unready goes on with the same wait (R359). -/
def State.waitTile (s : State) (o : Op) (u origin t : Nat) : State :=
  let start := fun (since : Nat) =>
    s.mapOp o.id (fun o => { o with waitAt := some { since := since, unit := u, origin := origin, tile := t } })
  match o.waitAt with
  | some x => if s.waitHolds o x then s else start (if x.unit == u then x.since else s.now)
  | none => start s.now

/-- The wait of an operation's arrival into a tile begins, unless it waits there already; time does not run for a saved allocation (R57,
R59). -/
def State.waitDest (s : State) (o : Op) (origin t : Nat) : State :=
  let since := match s.wg? origin with | some g => if g.st == .saved then 0 else s.now | none => s.now
  if o.destAt.any (fun x => x.origin == origin && x.tile == t) then s
  else
    { s with fab := { s.fab with nextWait := s.fab.nextWait + 1 } }.mapOp o.id (fun o =>
      { o with destAt := some { since := since, unit := 0, origin := origin, tile := t, no := s.fab.nextWait } })

/-- The stores to peers that come before an operation's issue (R255): the issuing core's buffer drains, and the operation reaches a peer
once those lines have been performed. -/
def State.forked (s : State) (o : Op) : State × Bool :=
  match o.fork with
  | some ts => (s, !s.fab.wc.any (fun e => match e.tag with | some t => ts.elem t | none => false))
  | none =>
    let s := s.drainWc (fun e => e.core == o.home)
    if s.unsent o.home != [] then (s, false)
    else
      let ts := s.fab.wc.filterMap (fun e => if e.core == o.home then e.tag else none)
      (s.mapOp o.id (fun o => { o with fork := some ts }), ts.isEmpty)

/-! ### Sources (R59, R219, R361) -/

/-- What a read of a unit's source gives: bytes with poison, or what the unit waits for, holds on or fails with. -/
inductive Src where
  | bytes (bs : List PByte)
  | tag (origin tile : Nat)
  | miss (va : Nat)
  | stall
  | repair (va : Nat)
  | fail (st : OpStatus) (c : Byte) (addr : Nat)
  | ask (peer : Nat) (p : Part)
  | hole (a : Nat)
  deriving DecidableEq, Repr

/-- The bytes of several reads, or the first thing that one of them needs. -/
def joinSrc : List Src → Src
  | [] => .bytes []
  | .bytes xs :: r => match joinSrc r with | .bytes ys => .bytes (xs ++ ys) | x => x
  | x :: _ => x

/-- The request of a unit to a peer page, 2000 for a read and 2001 for a write. -/
def State.unitAsk (s : State) (o : Op) (u who va : Nat) : Option Remote :=
  s.fab.remote.find? (fun r => r.wid == o.id && r.warp == who && r.lane == u && r.addr.toNat == va)

/-- The source bytes of one part. -/
def State.srcPart (s : State) (o : Op) (u : Nat) (p : Part) : Src :=
  match p.leaf.target with
  | .hbm => .bytes ((s.hbmRead p.pa p.n).zipIdx.map (fun b => (b.1, s.mem.erred (p.pa + b.2) 1)))
  | .host => .bytes ((s.hostRead p.pa p.n).map (fun b => (b, false)))
  | .peer q =>
    match s.unitAsk o u 2000 p.va with
    | some r =>
      match r.answer with
      | none => if s.reachable q || s.heldPeer q then .stall else .fail .unreachable Cause.peerUnreachable.code p.va
      | some (.data bs po) => .bytes ((padTo p.n bs).map (fun b => (b, po)))
      | some (.fault c) => .fail .fault c p.va
      | some _ => .fail .unreachable Cause.peerUnreachable.code p.va
    | none =>
      if s.heldPeer q then .stall
      else if s.reachable q then .ask q p
      else .fail .unreachable Cause.peerUnreachable.code p.va

/-- Where a range meets a page that the operation has reported missing: it is held until the driver resumes the operation (R365,
R366). -/
def Op.heldIn (o : Op) (va n : Nat) : Option Nat :=
  let last := (va + n - 1) / 4096
  if o.held.any (fun x => x.toNat / 4096 == va / 4096) then some va
  else if o.held.any (fun x => x.toNat / 4096 == last) then some (4096 * last)
  else none

/-- The checks of an engine's access to a global range: the private region and a peer leaf's FRAME are PROTECTION (R51, R305). -/
def State.unitCheck (s : State) (o : Op) (c : Context) (k : AccKind) (va n : Nat) : Acc :=
  if overlaps va n c.privbase.toNat privateSpan then .stop .protection va 0
  else if let some a := o.heldIn va n then .stop .xlateMiss a 0
  else
    match s.checkRange (dieOf o.core) 1001 c k va n with
    | .ok ps =>
      if ps.any (fun p => (match p.leaf.target with | .peer _ => true | _ => false) && decide (2 ^ 48 ≤ p.pa)) then .stop .protection va 0
      else .ok ps
    | r => r

/-- A global range read. -/
def State.globSrc (s : State) (o : Op) (c : Context) (u va n : Nat) : Src :=
  match s.unitCheck o c .load va n with
  | .ok ps => joinSrc (ps.map (s.srcPart o u))
  | .stop .xlateMiss a _ => .miss a
  | .stop cause a _ => .fail .fault cause.code a
  | .wait (.repair p) => .repair (4096 * p)
  | .wait _ => .stall
  | .hole a => .hole a

/-- A scratch range read: a tile in FILLING is waited for, and a POISON tile gives poisoned bytes. -/
def State.scrSrc (s : State) (origin off n : Nat) : Src :=
  match (tilesOf off n).find? (fun t => (s.tag origin t).isFilling) with
  | some t => .tag origin t
  | none => .bytes ((s.scrRead origin off n).zipIdx.map (fun b => (b.1, (s.tag origin ((off + b.2) / 256)).state == 3)))

/-- Bytes at an offset of a memory side. -/
def State.epSrc (s : State) (o : Op) (c : Context) (u : Nat) (e : Ep) (off n : Nat) : Src :=
  match e with
  | .scr w b => s.scrSrc w (b + off) n
  | .glob va => s.globSrc o c u (va.toNat + off) n

/-- A range in use: translations and lines are cached, errors found are reported and HBM traffic is counted (R65, R321, R354, R362). -/
def State.unitTouch (s : State) (o : Op) (c : Context) (store : Bool) (va n : Nat) : State :=
  match s.unitCheck o c (if store then .store else .load) va n with
  | .ok ps =>
    s.useParts (dieOf o.core) c.num o.core o.slot none store ps
  | _ => s

/-- A memory side in use. -/
def State.epTouch (s : State) (o : Op) (c : Context) (store : Bool) (e : Ep) (off n : Nat) : State :=
  match e with
  | .scr .. => s
  | .glob va => s.unitTouch o c store (va.toNat + off) n

/-- A request of an operation leaves for a peer, after the stores that came before its issue (R255) and when the allowance is there
(R304). -/
def State.sendAsk (s : State) (o : Op) (u who peer : Nat) (p : Part) (out : Nat → Output) : State :=
  match s.forked o with
  | (s, false) => s
  | (s, true) =>
    if !s.allowed peer false then s
    else
      let tag := s.fab.nextTag
      let r : Remote := { tag := tag, peer := peer, wid := o.id, warp := who, lane := u, pc := 0, addr := BitVec.ofNat 64 p.va,
                          answer := none }
      ({ s with fab := { s.fab with remote := s.fab.remote ++ [r], nextTag := tag + 1 } }.flit peer).emit (out tag)

/-- A source that is not bytes: what the unit does instead. -/
def State.srcNeed (s : State) (o : Op) (u : Nat) (x : Src) : State :=
  match x with
  | .bytes _ | .stall => s
  | .repair va => match s.ctx? o.ctx with | some c => s.sawRepair (dieOf o.core) 1001 c va 1 | none => s
  | .tag w t => s.waitTile o u w t
  | .miss va => s.holdUnit o va 0
  | .fail st c a => s.unitFail o st c (BitVec.ofNat 64 a)
  | .ask q p =>
    s.sendAsk o u 2000 q p (fun tag =>
      .request q { sender := s.fab.index, tag := tag, addr := BitVec.ofNat 64 p.pa, bytes := p.n, what := .load })
  | .hole a => { s with hole := some a }

/-- The peer requests of a unit that has been performed are forgotten. -/
def State.dropAsks (s : State) (id u : Nat) : State :=
  { s with fab := { s.fab with remote := s.fab.remote.filter (fun r => !(r.ofOp id && 2000 ≤ r.warp && r.lane == u)) } }

/-! ### Arrivals of an operation of this device (R59, R213) -/

/-- The scratch ranges that an operation writes, with their workgroup and its consume count. -/
def OpKind.dest : OpKind → Option (Nat × List (Nat × Nat) × Nat)
  | .copy (.scr w b) _ n cc => some (w, [(b, n)], cc)
  | .tcopy (.scr w b) _ c cc => some (w, [(b, 256 * c.tiles * c.panels)], cc)
  | .acst (.scr w b) _ _ rows cols pitch fmt =>
    some (w, (List.range rows).map (fun i => (b + i * pitch, cols * (if fmt == 0 then 4 else 2))), 1)
  | _ => none

/-- How many bytes ranges share. -/
def shared (a n b m : Nat) : Nat := min (a + n) (b + m) - max a b
/-- How many bytes of a tile an operation writes. -/
def OpKind.cover (k : OpKind) (t : Nat) : Nat :=
  match k.dest with
  | some (_, rs, _) => rs.foldl (fun n r => n + shared r.1 r.2 (256 * t) 256) 0
  | none => 0
/-- The consume count of an operation's arrivals. -/
def OpKind.count (k : OpKind) : Nat := match k.dest with | some (_, _, cc) => cc | none => 1

/-- Whether an earlier operation of the queue writes a tile whose arrival it has not begun. -/
def State.arrivalAhead (s : State) (o : Op) (origin t : Nat) : Bool :=
  (s.ahead o).any (fun a => a.st != .done && !a.begun.elem t &&
    (match a.kind.dest with | some (w, _, _) => w == origin && a.kind.cover t != 0 | none => false))

/-- Whether a beat that reached the tile before place `before` waits at the ingress. -/
def State.beatAhead (s : State) (origin t before : Nat) : Bool :=
  (s.wg? origin).any (fun g => !g.retired &&
    s.fab.arrivals.any (fun a => a.here && a.beat.alloc == g.allocId && a.beat.off / 256 == t && decide (a.no < before)))

/-- Whether an arrival of an operation of this device waits that reached the tile before place `before`. -/
def State.localAhead (s : State) (origin t before : Nat) : Bool :=
  s.ops.any (fun p => p.st == .started && p.destAt.any (fun x => x.origin == origin && x.tile == t && decide (x.no < before)))

/-- Whether an operation's arrival may begin in a tile: nothing that has reached the tile before it waits, and the tile is EMPTY or
POISON (R59). -/
def State.arrivalFree (s : State) (o : Op) (origin t : Nat) : Bool :=
  let no := match o.destAt with | some x => if x.origin == origin && x.tile == t then x.no else s.fab.nextWait | none => s.fab.nextWait
  !s.beatAhead origin t no && !s.localAhead origin t no &&
  ((s.tag origin t).state == 0 || (s.tag origin t).state == 3)

/-- An arrival into one tile begins, if it has not, or waits; none while it waits. -/
def State.beginArrival (s : State) (o : Op) (origin t : Nat) : State × Bool :=
  if o.begun.elem t then (s, true)
  else if s.arrivalAhead o origin t then (s, false)
  else if !s.arrivalFree o origin t then (s.waitDest o origin t, false)
  else
    let start := fun (s : State) => s.mapOp o.id (fun o => { o with begun := o.begun ++ [t], destAt := none })
    if (s.tag origin t).state == 3 && o.kind.cover t != 256 then (start (s.mapOp o.id (fun o => { o with pois := true })), true)
    else (start (s.mapWg origin (fun g => g.setTag t (.filling (.op o.id) (o.kind.cover t) o.kind.count false))), true)

/-- Every tile of a unit's destination. -/
def State.beginAll (s : State) (id origin : Nat) : List Nat → State × Bool
  | [] => (s, true)
  | t :: ts =>
    match s.op? id with
    | none => (s, false)
    | some o =>
      match s.beginArrival o origin t with
      | (s, true) => State.beginAll s id origin ts
      | r => r

/-- n bytes of an arrival have been written into a tile; the last makes it FULL, or POISON. -/
def Wg.landed (g : Wg) (by_ : Filler) (t n : Nat) (poison : Bool) : Wg :=
  match g.tag t with
  | .filling f left cc p =>
    if f == by_ then
      if left ≤ n then g.setTag t (if p || poison then .poison else .full cc)
      else g.setTag t (.filling f (left - n) cc (p || poison))
    else g
  | _ => g

/-- A unit's bytes arrive in an allocation. An arrival whose tile has become POISON reports POISONED. -/
def State.arrive (s : State) (id origin off : Nat) (bs : List Byte) (poison : Bool) : State :=
  let ts := tilesOf off bs.length
  let bad := ts.any (fun t => (s.tag origin t).state == 3)
  let s := (s.scrWrite origin off bs).mapWg origin (fun g =>
    ts.foldl (fun g t => g.landed (.op id) t (shared off bs.length (256 * t) 256) poison) g)
  s.mapOp id (fun o => { o with pois := o.pois || poison || bad })

/-! ### Writing to global memory (R219) -/

/-- What one part of a write still needs. -/
inductive DstNeed where
  | ready
  | stall
  | fail (st : OpStatus) (c : Byte)
  | send (peer : Nat)
  deriving DecidableEq, Repr

/-- A part of a write to a peer is sent as a line and acknowledged; other parts need nothing. -/
def State.dstNeed (s : State) (o : Op) (u : Nat) (p : Part) : DstNeed :=
  match p.leaf.target with
  | .peer q =>
    match s.unitAsk o u 2001 p.va with
    | some r =>
      match r.answer with
      | none => if s.reachable q || s.heldPeer q then .stall else .fail .unreachable Cause.peerUnreachable.code
      | some (.fault c) => .fail .fault c
      | some .stale => .fail .unreachable Cause.peerUnreachable.code
      | some _ => .ready
    | none =>
      if s.heldPeer q then .stall
      else if s.reachable q then .send q
      else .fail .unreachable Cause.peerUnreachable.code
  | _ => .ready

/-- The lines of a unit that a peer has not been sent leave. -/
def State.sendLines (s : State) (o : Op) (u va : Nat) (bs : List PByte) (ps : List Part) : State :=
  ps.foldl (fun s p =>
    match s.dstNeed o u p with
    | .send q =>
      let mine := (bs.drop (p.va - va)).take p.n
      let e : WcLine := { core := 0, peer := q, line := p.pa / 128, mask := 0, data := List.replicate 128 0, since := 0,
                          ctxs := [], tag := none }
      let e := e.merge (p.pa % 128) (mine.map (·.1))
      s.sendAsk o u 2001 q p (fun tag =>
        .line q { sender := s.fab.index, tag := tag, addr := BitVec.ofNat 64 (128 * e.line), mask := e.mask, data := e.data,
                  poison := mine.any (·.2) })
    | _ => s) s

/-- Poisoned bytes written to local HBM poison their granules (R219). -/
def State.poisonOver (s : State) (p : Part) (bs : List PByte) : State :=
  let gs := (bs.zipIdx.filter (fun b => b.1.2)).map (fun b => (p.pa + b.2) / 16)
  if p.leaf.target == .hbm then s.poisonGranules (gs.foldl (fun acc g => if acc.elem g then acc else acc ++ [g]) []) else s

/-- A unit's bytes written to global memory: performed, or what it waits for. -/
def State.globDst (s : State) (o : Op) (c : Context) (u va : Nat) (bs : List PByte) : State × Bool :=
  match s.unitCheck o c .store va bs.length with
  | .stop .xlateMiss a _ => (s.holdUnit o a 1, false)
  | .stop cause a _ => (s.unitFail o .fault cause.code (BitVec.ofNat 64 a), false)
  | .wait _ => (s.sawRepair (dieOf o.core) 1001 c va bs.length, false)
  | .hole a => ({ s with hole := some a }, false)
  | .ok ps =>
    let ls := ps.flatMap (fun p => match p.leaf.target with | .peer _ => p.split | _ => [p])
    match ls.findSome? (fun p => match s.dstNeed o u p with | .fail st cause => some (st, cause, p.va) | _ => none) with
    | some (st, cause, a) => (s.unitFail o st cause (BitVec.ofNat 64 a), false)
    | none =>
      if ls.all (fun p => s.dstNeed o u p == .ready) then
        let s := ls.foldl (fun s p =>
          let mine := (bs.drop (p.va - va)).take p.n
          match p.leaf.target with
          | .hbm => (s.hbmWrite p.pa (mine.map (·.1))).poisonOver p mine
          | .host => s.hostWrite p.pa (mine.map (·.1))
          | .peer _ => s) s
        ((s.unitTouch o c true va bs.length).mapOp o.id (fun o => { o with pois := o.pois || bs.any (·.2) }), true)
      else (s.sendLines o u va bs ls, false)

/-- A unit's bytes written at an offset of a memory side: done, or not yet. -/
def State.epDst (s : State) (o : Op) (c : Context) (u : Nat) (e : Ep) (off : Nat) (bs : List PByte) : State × Bool :=
  match e with
  | .glob va => s.globDst o c u (va.toNat + off) bs
  | .scr w b =>
    match s.beginAll o.id w (tilesOf (b + off) bs.length) with
    | (s, true) => (s.arrive o.id w (b + off) (bs.map (·.1)) (bs.any (·.2)), true)
    | r => r

/-- Whether an arrival of a copy waits on its tile: it then holds the copy in the engine (R59). -/
def State.arrivalHolds (s : State) (o : Op) : Bool := o.destAt.any (fun x => !s.arrivalFree o x.origin x.tile)

/-- The tag wait of a unit ends when the unit is performed; another unit's completion does not end it (R359). -/
def Op.clearWait (o : Op) (u : Nat) : Op :=
  if o.waitAt.any (fun x => x.unit == u) then { o with waitAt := none } else o

/-- A unit has been performed: it is counted, and the operation ends with its last unit. -/
def State.unitDone (s : State) (id u n total : Nat) : State :=
  let s := (s.dropAsks id u).mapOp id (fun o => { o.clearWait u with units := o.units ++ [u], bytes := o.bytes + n })
  match s.op? id with
  | none => s
  | some o => if o.units.length == total then s.settle id (if o.pois then .poisoned else .ok) 0 0 else s

/-- The tile of a unit whose source page is missing: its arrival begins, if it can at once, and then it stays FILLING (R365). -/
def State.beginHeld (s : State) (o : Op) (e : Ep) (off n : Nat) (x : Src) : State :=
  match e, x with
  | .scr w b, .miss _ =>
    match s.beginAll o.id w (tilesOf (b + off) n) with
    | (t, true) => t
    | _ => s
  | _, _ => s

/-! ### COPY, local (R219) -/

/-- One 16-byte unit of a local copy. -/
def State.copyUnit (s : State) (o : Op) (c : Context) (u : Nat) (dst src : Ep) (n : Nat) : State :=
  match s.epSrc o c u src (16 * u) 16 with
  | .bytes bs =>
    match s.epDst o c u dst (16 * u) bs with
    | (s, true) => ((s.epTouch o c false src (16 * u) 16).bumpBy 0x123 16).unitDone o.id u 16 (n / 16)
    | (s, false) => s
  | x => (s.beginHeld o dst (16 * u) 16 x).srcNeed o u x

/-! ### TCOPY (R81, R85, R222, R223) -/

/-- A source element m × 2^e; none for a NaN or an infinity. -/
def decodeElem (fmt se x : Nat) : Option (Int × Int) :=
  let sg := fun (neg : Bool) (m : Nat) => if neg then -(m : Int) else m
  let mini := fun (eb mb bias : Nat) =>
    let ex := x / 2 ^ mb % 2 ^ eb
    let m := x % 2 ^ mb
    (sg (x / 2 ^ (eb + mb) % 2 == 1) (if ex == 0 then m else 2 ^ mb + m), (max ex 1 : Int) - bias - mb)
  let wide := fun (f : BinFmt) => match unpack f x with | .fin s m e => some (sg s m, e) | _ => none
  match fmt with
  | 0 => if x % 128 == 127 then none else some (mini 4 3 7)
  | 1 => if x / 4 % 32 == 31 then none else some (mini 5 2 15)
  | 2 => if se == 255 then none else let v := mini 2 1 1; some (v.1, v.2 + se - 127)
  | 3 => some (signedOf 8 x, (se : Int) - 127)
  | 4 => some (signedOf 4 x, (se : Int) - 127)
  | 5 => wide fmtBf16
  | 6 => wide fmtF16
  | _ => wide fmtF32

/-- e(v) of R85 for a value that is not 0. -/
def valueExp (v : Int × Int) : Int := v.2 + bitLen (if v.1 < 0 then v.1.natAbs - 1 else v.1.natAbs)

/-- A block of 16 decoded values as an exponent byte and P-bit elements, and whether it is special (R85). -/
def encodeBlock (p : Nat) (vs : List (Option (Int × Int))) : Nat × List Int × Bool :=
  match allSome vs with
  | none => (255, List.replicate 16 0, true)
  | some xs =>
    let es := (xs.filter (fun v => v.1 != 0)).map valueExp
    match es with
    | [] => (0, List.replicate 16 0, false)
    | e :: rest =>
      let big := 127 + rest.foldl max e
      let ex : Int := if big < 0 then 0 else if 254 < big then 254 else big
      (ex.toNat, xs.map (fun v =>
        let r := (roundInt .rne (v.1 < 0) v.1.natAbs (v.2 + (127 + p - 1 - ex))).1
        let m : Int := if v.1 < 0 then -(r : Int) else r
        max (-(2 ^ (p - 1) : Nat)) (min m (2 ^ (p - 1) - 1))), false)
where
  allSome : List (Option (Int × Int)) → Option (List (Int × Int))
    | [] => some []
    | none :: _ => none
    | some v :: r => (allSome r).map (v :: ·)

/-- Where the scale byte of block b of row i of panel j lies (R223). -/
def Convert.scaleAt (d : Convert) (j i b : Nat) : Nat :=
  d.scale.toNat + i * d.spitch + (48 * j + 16 * b) / (if d.fmt == 2 then 32 else 16)

/-- The source bytes of block b of row i of panel j: its elements, then its scale byte where the format has one. -/
def State.blockSrc (s : State) (o : Op) (c : Context) (u : Nat) (src : Ep) (d : Convert) (j i b : Nat) : Src :=
  let kk := 48 * j + 16 * b
  let elems := s.epSrc o c u src (i * d.pitch + kk * fmtBits d.fmt / 8) (2 * fmtBits d.fmt)
  if d.fmt == 2 || d.fmt == 8 then
    joinSrc [elems, s.globSrc o c u (d.scaleAt j i b) 1]
  else elems

/-- The decoded elements of a block. -/
def decodeBlock (d : Convert) (bs : List Byte) : List (Option (Int × Int)) :=
  let z := fmtBits d.fmt
  let n := leNat (bs.take (2 * z))
  let se := if d.fmt == 2 then leNat ((bs.drop (2 * z)).take 1) else d.se
  (List.range 16).map (fun k => decodeElem d.fmt se (bitsOf n (z * k) z))

/-- Where byte w of a panel comes from: its row, its block, and the plane and byte of the block (a plane), the place of a code, or
the exponent; none is a byte that TCOPY writes 0 (R84). -/
inductive PanelByte where
  | plane (i b j half : Nat)
  | code (i b k : Nat)
  | exp (i b : Nat)
  | zero
  deriving DecidableEq, Repr

/-- The content of byte w of a panel. -/
def Convert.byteAt (d : Convert) (w : Nat) : PanelByte :=
  let top := if d.fmt == 8 then 6144 else 768 * d.planes
  if top ≤ w then if (w - top) % 4 == 3 then .zero else .exp ((w - top) / 4) ((w - top) % 4)
  else if d.fmt == 8 then .code (w / 48) (w % 48 / 16) (w % 16)
  else .plane (w % 768 / 6) (w % 6 / 2) (w / 768) (w % 2)

/-- The block of a byte. -/
def PanelByte.block : PanelByte → Option (Nat × Nat)
  | .plane i b _ _ | .code i b _ | .exp i b => some (i, b)
  | .zero => none

/-- The byte itself, from its block's source bytes. -/
def Convert.byteOf (d : Convert) (x : PanelByte) (bs : List Byte) : Byte :=
  let enc := encodeBlock d.planes (decodeBlock d bs)
  match x with
  | .zero => 0
  | .code _ _ k => (bs[k]?).getD 0
  | .exp _ _ => if d.fmt == 8 then (bs[16]?).getD 0 else BitVec.ofNat 8 enc.1
  | .plane _ _ j half =>
    BitVec.ofNat 8 ((List.range 8).foldl (fun n t =>
      n + (if (((enc.2.1[8 * half + t]?).getD 0) % (2 ^ d.planes : Nat)).toNat.testBit j then 2 ^ t else 0)) 0)

/-- The blocks' bytes, or the first thing that a read of one needs. -/
def gather (f : Nat × Nat → Src) : List (Nat × Nat) → Except Src (List ((Nat × Nat) × List PByte))
  | [] => .ok []
  | x :: r =>
    match f x with
    | .bytes bs => match gather f r with | .ok ys => .ok ((x, bs) :: ys) | e => e
    | y => .error y

/-- One 16-byte unit of TCOPY's destination. A special block makes the record POISONED; DS8 blocks are copied, so that a scale of 0xFF
marks rows where they are consumed and not here (R85, R89, log 47). -/
def State.tcopyUnit (s : State) (o : Op) (c : Context) (u : Nat) (dst src : Ep) (d : Convert) : State :=
  let size := 256 * d.tiles
  let j := 16 * u / size
  let what := (List.range 16).map (fun i => d.byteAt (16 * u % size + i))
  let blocks := (what.filterMap PanelByte.block).foldl (fun acc x => if acc.elem x then acc else acc ++ [x]) []
  match gather (fun x => s.blockSrc o c u src d j x.1 x.2) blocks with
  | .error x => (s.beginHeld o dst (16 * u) 16 x).srcNeed o u x
  | .ok got =>
    let bytes := fun (x : PanelByte) => ((x.block.bind (fun k => got.find? (fun g => g.1 == k))).map (·.2)).getD []
    let bs := what.map (fun x => (d.byteOf x ((bytes x).map (·.1)), (bytes x).any (·.2)))
    let special := d.fmt != 8 && got.any (fun g => (encodeBlock d.planes (decodeBlock d (g.2.map (·.1)))).2.2)
    match s.epDst o c u dst (16 * u) bs with
    | (s, false) => s
    | (s, true) =>
      let s := blocks.foldl (fun s x =>
        let s := s.epTouch o c false src (x.1 * d.pitch + (48 * j + 16 * x.2) * fmtBits d.fmt / 8) (2 * fmtBits d.fmt)
        if d.fmt == 2 || d.fmt == 8 then s.unitTouch o c false (d.scaleAt j x.1 x.2) 1 else s) s
      ((s.mapOp o.id (fun o => { o with pois := o.pois || special })).bumpBy 0x123 16).unitDone o.id u 16 (size * d.panels / 16)

/-! ### ACST and ACLD (R233) -/

/-- Bytes of an element in memory. -/
def accSize (fmt : Nat) : Nat := if fmt == 0 then 4 else 2
/-- The format of an element in memory. -/
def accFmt (fmt : Nat) : BinFmt := if fmt == 1 then fmtBf16 else if fmt == 2 then fmtF16 else fmtF32

/-- One 16-byte unit of ACST. -/
def State.acstUnit (s : State) (o : Op) (c : Context) (u : Nat) (mem : Ep) (row col rows cols pitch fmt : Nat) : State :=
  let z := accSize fmt
  let per := cols * z / 16
  let i := u / per
  let off := i * pitch + 16 * (u % per)
  match s.wg? o.wid with
  | none => s
  | some g =>
    let bs := (List.range (16 / z)).flatMap (fun n =>
      let x := (g.accAt (row + i) (col + u % per * (16 / z) + n)).toNat
      leBytes z (if fmt == 0 then (if (unpack fmtF32 x).isNan then fmtF32.nanBits else x) else
        let y := unpack fmtF32 x
        if y.isNan then (accFmt fmt).nanBits else (fCvt (accFmt fmt) fmtF32 .rne x).bits))
    match s.epDst o c u mem off (bs.map (fun b => (b, false))) with
    | (s, false) => s
    | (s, true) => s.unitDone o.id u 16 (rows * per)

/-- One 16-byte unit of ACLD. -/
def State.acldUnit (s : State) (o : Op) (c : Context) (u : Nat) (mem : Ep) (row col rows cols pitch fmt : Nat) : State :=
  let z := accSize fmt
  let per := cols * z / 16
  let i := u / per
  let off := i * pitch + 16 * (u % per)
  match s.epSrc o c u mem off 16 with
  | .bytes bs =>
    let elem := fun (n : Nat) =>
      let v := (bs.drop (z * n)).take z
      if v.any (·.2) then (0x7FC00000 : W32)
      else if fmt == 0 then BitVec.ofNat 32 (leNat (v.map (·.1)))
      else BitVec.ofNat 32 (fCvt fmtF32 (accFmt fmt) .rne (leNat (v.map (·.1)))).bits
    let s := s.accMap o.wid (row + i) (col + u % per * (16 / z)) 1 (16 / z) (fun _ n _ => elem n)
    ((s.epTouch o c false mem off 16).mapOp o.id (fun o => { o with pois := o.pois || bs.any (·.2) })).unitDone o.id u 16 (rows * per)
  | x => s.srcNeed o u x

/-! ### Beats at this device (R56, R57, R59, R219, R359, R360) -/

/-- A beat of an arrival that a POISON tile has taken as it was: its later beats only write. -/
def State.onPoison (s : State) (b : Beat) (wid t : Nat) : Bool := s.fab.spoilt.elem (b.sender, b.copy, wid, t)

/-- A beat is written into its tile, if the tile takes it now (R59). -/
def State.admitBeat (s : State) (g : Wg) (b : Beat) : Option State :=
  let t := b.off / 256
  let by_ : Filler := .sender b.sender b.copy
  let write := fun (s : State) (poisoned : Bool) =>
    ((s.scrWrite g.wid b.off b.data).mapWg g.wid (fun g => g.landed by_ t b.data.length b.poison)).answerBeat b
      (if poisoned then .data [] true else .ack)
  let fill := s.mapWg g.wid (fun g => g.setTag t (.filling by_ b.total b.cc false))
  if s.onPoison b g.wid t then some (write s true)
  else
    match g.tag t with
    | .filling f .. => if f == by_ then some (write s false) else none
    | .empty => some (write fill false)
    | .poison =>
      if b.total == 256 then some (write fill false)
      else some (write { s with fab := { s.fab with spoilt := s.fab.spoilt ++ [(b.sender, b.copy, g.wid, t)] } } true)
    | .full _ => none

/-- Whether a beat belongs to an arrival that has begun: nothing then holds it (R59). -/
def State.begunBeat (s : State) (g : Wg) (b : Beat) : Bool :=
  let t := b.off / 256
  s.onPoison b g.wid t || (match g.tag t with | .filling f .. => f == .sender b.sender b.copy | _ => false)

/-- Whether an earlier beat waits for the tile already. -/
def tileQueue (g : Wg) (t : Nat) (before : List Waiting) : Bool :=
  before.any (fun a => a.here && a.beat.alloc == g.allocId && a.beat.off / 256 == t)

/-- The beats of a sender that wait at the ingress (R304). -/
def State.ingress (s : State) (sender : Nat) : Nat := (s.fab.arrivals.filter (fun a => a.here && a.beat.sender == sender)).length

/-- A beat reaches the device (R219): it is dropped with its report, written, or waits: at the ingress, or in its sender's allowance
behind 256 beats of the same sender (R304). The time of a wait for a saved allocation starts on its resumption (R57). -/
def State.receive (s : State) (b : Beat) : State :=
  match s.allocOf b.alloc with
  | none => s.answerBeat b .stale
  | some g =>
    let full := decide (256 ≤ s.ingress b.sender)
    let wait := { s with fab := { s.fab with nextWait := s.fab.nextWait + 1, arrivals := s.fab.arrivals ++
      [{ beat := b, since := if g.st == .saved then 0 else s.now, here := !full, no := s.fab.nextWait }] } }
    if 256 * g.tiles < b.off + b.data.length then s.answerBeat b (.fault Cause.protection.code)
    else if s.fab.dropped.elem (b.sender, b.copy) then s.answerBeat b (.fault Cause.tagTimeout.code)
    else if g.st == .saved || full || (!s.begunBeat g b &&
        (tileQueue g (b.off / 256) s.fab.arrivals || s.localAhead g.wid (b.off / 256) s.fab.nextWait)) then wait
    else (s.admitBeat g b).getD wait

/-! ### COPY, remote and multicast (R219, R220) -/

/-- Where a target's bytes go: whether it is this device, and whether it can be reached. -/
inductive Way where
  | own | fabric | stall | gone
  deriving DecidableEq, Repr

/-- The way to a device of the pod. -/
def State.way (s : State) (p : Nat) : Way :=
  if p == s.fab.index then .own else if s.heldPeer p then .stall else if s.reachable p then .fabric else .gone

/-- One beat of a unit leaves for a target. -/
def State.sendBeat (s : State) (o : Op) (u : Nat) (multi : Bool) (n cc : Nat) (bs : List PByte) (t : Nat × Member) : State :=
  if o.members.any (fun m => m.1 == t.1) then s
  else
    let off := t.2.off + 16 * u
    let tag := s.fab.nextTag
    let b : Beat :=
      { sender := s.fab.index, tag := tag, copy := o.id, alloc := t.2.alloc, off := off, cc := cc,
        total := shared t.2.off n (off / 256 * 256) 256, poison := bs.any (·.2), data := bs.map (·.1) }
    let r : Remote := { tag := tag, peer := targetPeer multi t, wid := o.id, warp := 1000 + t.1, lane := u, pc := 0,
                        addr := BitVec.ofNat 64 off, answer := none }
    let sent := { s with fab := { s.fab with remote := s.fab.remote ++ [r], nextTag := tag + 1 } }
    let lost : OpFail := { status := .unreachable, cause := Cause.peerUnreachable.code, addr := 0 }
    match s.way (targetPeer multi t) with
    | .own => sent.receive b
    | .fabric => (sent.flit (targetPeer multi t)).emit (.beat (targetPeer multi t) b)
    | .stall => s
    | .gone =>
      s.mapOp o.id (fun o =>
        if multi then { o with members := o.members ++ [(t.1, lost)] } else { o with fail := some (o.fail.getD lost) })

/-- One 16-byte unit of a remote copy: its beats leave for every target that has not failed, after the stores that came before its issue
(R256) and when every target's arrival allowance has room (R304, R308). -/
def State.remoteUnit (s : State) (o : Op) (c : Context) (u : Nat) (multi : Bool) (ts : List (Nat × Member)) (src : Ep) (n cc : Nat) :
    State :=
  let blocked := fun (s : State) => ts.any (fun t => !o.members.any (fun m => m.1 == t.1) &&
    (match s.way (targetPeer multi t) with | .stall => true | .fabric => !s.allowed (targetPeer multi t) true | _ => false))
  if o.cancel || o.fail.isSome || o.sent.elem u || blocked s then s
  else
    match s.forked o with
    | (s, false) => s
    | (s, true) =>
    match s.epSrc o c u src (16 * u) 16 with
    | .bytes bs =>
      let s := ts.foldl (fun s t => match s.op? o.id with | some o => s.sendBeat o u multi n cc bs t | none => s)
        (s.epTouch o c false src (16 * u) 16)
      let s := (s.dropAsks o.id u).mapOp o.id (fun o =>
        { o.clearWait u with sent := o.sent ++ [u], pois := o.pois || bs.any (·.2) })
      (s.takeAnswers).endRemote o.id
    | x => s.srcNeed o u x

/-- A multicast reads its table (R218): the entries of the members that MAP names, once, at its start (log 46). An entry's OFFSET is
taken as it stands: R218 makes it a multiple of 16 and names no cause for another (DESIGN CHOICE, log 75). -/
def State.readTable (s : State) (o : Op) (c : Context) (a : Word) (map : Nat) (src : Ep) (n cc : Nat) : State :=
  match s.globSrc o c 0 a.toNat 128 with
  | .bytes bs =>
    let ts := ((List.range 16).filter (fun i => map.testBit i)).map (fun i =>
      (i, Member.ofWord (wordOf (((bs.map (·.1)).drop (8 * i)).take 8))))
    (((s.dropAsks o.id 0).unitTouch o c false a.toNat 128).mapOp o.id (fun o =>
      { o with kind := .remote none true ts src n cc })).endRemote o.id
  | x => s.srcNeed o 0 x

end Sys2Proof.Machine
end

