-- ==== Sys2Proof/Machine/EngineUnits.lean ====
section
/-!
DEFINITION. The rows of the engines' own moves (spec/08_ref_memory_engines.md R213 to R233, spec/12 R297 to R299, spec/21 R359,
R365): queue start, units, arrivals, timeouts, matrix commands, k-steps, the Winnower's shortlist, and completion.
-/
namespace Sys2Proof.Machine

/-! ### The Winnower (R224, R297, R298, R392) -/

/-- Where the header's page lies: the region's physical address. -/
inductive HeaderAt where
  | at_ (pa : Nat)
  | need (x : Src)
  deriving DecidableEq, Repr

/-- The region of a part, for the Winnower's reads and writes of its header. -/
def State.headerAt (s : State) (o : Op) (c : Context) (region : Word) : HeaderAt :=
  match s.unitCheck o c .load region.toNat 64, s.unitCheck o c .store region.toNat 64 with
  | .ok [p], .ok _ => if p.leaf.target == .hbm then .at_ p.pa else .need (.fail .fault Cause.protection.code region.toNat)
  | .stop .xlateMiss a _, _ | _, .stop .xlateMiss a _ => .need (.miss a)
  | .stop cause a _, _ | _, .stop cause a _ => .need (.fail .fault cause.code a)
  | .hole a, _ | _, .hole a => .need (.hole a)
  | _, _ => .need (.repair region.toNat)

/-- The limits of the header's fields (R297). -/
def headerOk (h : List Byte) : Bool :=
  let scale := unpack fmtF32 (bitsOf (leNat h) 192 32)
  let positive := match scale with | .fin false m _ => m != 0 | _ => false
  (leNat h).testBit 0 && positive && 1 ≤ bitsOf (leNat h) 224 32 && bitsOf (leNat h) 224 32 ≤ 1048576 &&
  1 ≤ bitsOf (leNat h) 152 8 && bitsOf (leNat h) 152 8 ≤ 64 && bitsOf (leNat h) 128 21 % 256 == 0

/-- The first page of the row storage that is mapped to anything but local HBM (R297); a page that is missing or in repair holds the
units that need it. -/
def State.rowPages (s : State) (o : Op) (c : Context) (region : Word) (vocab : Nat) : Option Nat :=
  (List.range (ceilDiv (4 * vocab) 4096)).findSome? (fun i =>
    let va := region.toNat + 4096 + 4096 * i
    match s.translate (dieOf o.core) 1001 c va with
    | .ok f => if f.target == .hbm then none else some va
    | _ => none)

/-- A region's row. -/
def State.winnow? (s : State) (ctx pa : Nat) : Winnow := (s.winnow.find? (fun x => x.region == pa)).getD (Winnow.fresh ctx pa)

/-- The row changed. -/
def State.setWinnow (s : State) (x : Winnow) : State := { s with winnow := x :: s.winnow.filter (fun y => y.region != x.region) }

/-- Whether fp32 value x is larger than y; zeros are equal, and neither is a NaN. -/
def f32Less (y x : W32) : Bool := fOrd (unpack fmtF32 y.toNat) (unpack fmtF32 x.toNat) == .lt
/-- Whether two fp32 values are equal, zeros of both signs too. -/
def f32Same (x y : W32) : Bool := !f32Less x y && !f32Less y x

/-- An entry enters a shortlist: values descend, ties go to the lower index, and an index keeps its larger value (R298). -/
def insertShort (i : Nat) (x : W32) (xs : List (Nat × W32)) : List (Nat × W32) :=
  match xs.find? (fun y => y.1 == i) with
  | some y => if f32Less y.2 x then place (xs.filter (fun y => y.1 != i)) else xs
  | none => place xs
where
  place : List (Nat × W32) → List (Nat × W32)
    | [] => [(i, x)]
    | y :: ys => if f32Less y.2 x || (f32Same x y.2 && decide (i < y.1)) then (i, x) :: y :: ys else y :: place ys

/-- One element is taken. -/
def Winnow.take (w : Winnow) (i : Nat) (x : W32) (poisoned : Bool) : Winnow :=
  let w := { w with taken := w.taken + 1, seen := if w.seen.elem i then w.seen else i :: w.seen, pois := w.pois || poisoned }
  if (unpack fmtF32 x.toNat).isNan then { w with nan := true }
  else
    { w with short := (insertShort i x w.short).take 64,
             maxv := if f32Less w.maxv x || (f32Same x w.maxv && x == 0) then x else w.maxv }

/-- Where element i of a region's row lies (R297). -/
def rowAt (region : Word) (i : Nat) : Nat := region.toNat + 4096 + 4 * i

/-- Whether parts lie in local HBM, where a winnow region must lie (R297). -/
def inHbm (ps : List Part) : Bool := ps.all (fun p => p.leaf.target == .hbm)

/-- One element of a part: row storage, filter, and TAKEN of the header. -/
def State.winnowUnit (s : State) (o : Op) (c : Context) (u : Nat) (src : Ep) (region : Word) (base count : Nat) : State :=
  match s.epSrc o c u src (4 * u) 4 with
  | .bytes bs =>
    let poisoned := bs.any (·.2)
    let x : W32 := if poisoned then 0x7FC00000 else BitVec.ofNat 32 (leNat (bs.map (·.1)))
    let va := rowAt region (base + u)
    match s.headerAt o c region, s.unitCheck o c .store va 4 with
    | .need x, _ => s.srcNeed o u x
    | .at_ _, .stop .xlateMiss a _ => s.holdUnit o a 1
    | .at_ _, .stop cause a _ => s.unitFail o .fault cause.code (BitVec.ofNat 64 a)
    | .at_ _, .wait _ => s.sawRepair (dieOf o.core) 1001 c va 4
    | .at_ _, .hole a => { s with hole := some a }
    | .at_ pa, .ok ps =>
      if !inHbm ps then s.unitFail o .fault Cause.protection.code (BitVec.ofNat 64 va)
      else
      let row := (s.winnow? c.num pa).take (base + u) x poisoned
      let s := ps.foldl (fun s p => s.hbmWrite p.pa (leBytes 4 x.toNat)) (s.setWinnow row)
      let s := ((s.hbmWrite (pa + 12) (leBytes 4 row.taken)).unitTouch o c true va 4).unitTouch o c true (region.toNat + 12) 4
      let s := s.epTouch o c false src (4 * u) 4
      let s := s.mapOp o.id (fun o => { o with pois := o.pois || poisoned })
      (s.bumpBy 0x123 4).unitDone o.id u 4 (match o.kind with | .wnst _ true .. => count + 1 | _ => count)
  | x => s.srcNeed o u x

/-- A part is taken (R297): its header is read and checked, or it ends with FAULT and takes nothing. A poisoned header is a poisoned
source (R219, R361). -/
def State.winnowStart (s : State) (o : Op) (c : Context) (region : Word) (base count : Nat) : State :=
  match s.headerAt o c region with
  | .need x => s.srcNeed o 0 x
  | .at_ pa =>
    let h := s.hbmRead pa 64
    if !headerOk h then s.unitFail o .fault Cause.illegal.code region
    else if bitsOf (leNat h) 224 32 < base + count then s.unitFail o .fault Cause.protection.code region
    else
      match s.rowPages o c region (bitsOf (leNat h) 224 32) with
      | some va => s.unitFail o .fault Cause.protection.code (BitVec.ofNat 64 va)
      | none =>
        let row := { s.winnow? c.num pa with ctx := c.num }
        (((s.setWinnow row).hbmWrite (pa + 12) (leBytes 4 row.taken)).unitTouch o c false region.toNat 64).mapOp
          o.id (fun o => { o with st := .started, header := h, held := [], pois := o.pois || s.mem.erred pa 64 })

/-- A term of the sum, before rounding: 2^1000 times its value, with a power of two, and whether it is exact; none when it is 0. -/
def termOf (x m scale : W32) : Option (Nat × Int × Bool) :=
  if f32Same x m then some (1, 0, true)
  else
    match unpack fmtF32 x.toNat, unpack fmtF32 m.toNat, unpack fmtF32 scale.toNat with
    | .fin sx mx ex, .fin sm mm em, .fin _ ms es =>
      let d := alignSum sx mx ex (!sm) mm em
      let a := d.1.natAbs * ms
      let e := d.2 + es
      if 0 ≤ e + bitLen a - 13 then none
      else
        let v := fxOf a e
        let n := (v + fxOne - 1) / fxOne
        let r := n * fxOne - v
        some (if r == 0 then (1, -(n : Int), true) else (fxExp (r * fxLn2 / fxOne), -(n : Int) - fxBits, false))
    | _, _, _ => none

/-- A term rounded once to fp32. -/
def termF32 (x m scale : W32) : Nat :=
  match termOf x m scale with
  | none => 0
  | some (v, e, exact) => (roundFin fmtF32 .rne false v e (!exact)).bits

/-- The weight of a term: 255 t rounded (R298). -/
def weightOf (x m scale : W32) : Nat :=
  match termOf x m scale with
  | none => 0
  | some (v, e, exact) => (roundInt .rne false (if exact then 2 * 255 * v else 2 * 255 * v + 1) (e - 1)).1

/-- The weight of a shortlist entry, from the value that the row storage holds at its index; where that is a NaN there is no term, and
the spec gives no weight: a free value (log 3). -/
def entryWeight (w : Winnow) (row : List (Nat × W32)) (scale : W32) (i : Nat) : Nat :=
  match row.find? (fun x => x.1 == i) with
  | some (_, x) => if (unpack fmtF32 x.toNat).isNan then (Config.freeWeight w.taken i).toNat else weightOf x w.maxv scale
  | none => (Config.freeWeight w.taken i).toNat

/-- The normalising sum over the taken indices with their stored values (R298). -/
def winnowSum (m scale : W32) (row : List (Nat × W32)) : Nat :=
  let add := fun (a : Nat) (b : Nat) => (fAdd fmtF32 .rne (unpack fmtF32 a) (unpack fmtF32 b)).bits
  let mine := row.filter (fun x => !(unpack fmtF32 x.2.toNat).isNan)
  let channel := fun (k : Nat) => (mine.filter (fun x => x.1 % 32 == k)).foldl (fun a x => add a (termF32 x.2 m scale)) 0
  (List.range 32).foldl (fun a k => add a (channel k)) 0

/-- An index inserted in ascending order. -/
def insertIdx (x : Nat × W32) : List (Nat × W32) → List (Nat × W32)
  | [] => [x]
  | y :: ys => if x.1 ≤ y.1 then x :: y :: ys else y :: insertIdx x ys

/-- The shortlist record (R299). -/
def shortRecord (w : Winnow) (k : Nat) (scale : W32) (row : List (Nat × W32)) : List Byte :=
  let xs := w.short.take k
  let fields := xs.zipIdx.flatMap (fun x =>
    [(1536 + 8 * x.2, 8, entryWeight w row scale x.1.1), (1280 + 4 * x.2, 4, x.1.1 / 2 ^ 16), (256 + 16 * x.2, 16, x.1.1)])
  leBytes 256 (packFields ([(104, 8, w.nan.toNat + 2 * w.pois.toNat), (96, 8, xs.length), (64, 32, w.taken),
    (32, 32, winnowSum w.maxv scale row), (0, 32, w.maxv.toNat)] ++ fields))

/-- The stored row over the taken indices and whether some of it reads poisoned, or what a read of it needs. A poisoned value counts as
a NaN, as a poisoned element does (R298, R361). -/
def State.rowOf (s : State) (o : Op) (c : Context) (region : Word) (is : List Nat) : Except Src (List (Nat × W32) × Bool) :=
  is.foldl (fun r i =>
    match r with
    | .error x => .error x
    | .ok (xs, p) =>
      let va := rowAt region i
      match s.globSrc o c 0 va 4, s.unitCheck o c .load va 4 with
      | .bytes bs, .ok ps =>
        if !inHbm ps then .error (.fail .fault Cause.protection.code va)
        else if bs.any (·.2) then .ok (insertIdx (i, 0x7FC00000) xs, true)
        else .ok (insertIdx (i, BitVec.ofNat 32 (leNat (bs.map (·.1)))) xs, p)
      | x, _ => .error x) (.ok ([], false))

/-- The LAST part is over: ARMED clears, and its status stands. -/
def State.winnowEnd (s : State) (o : Op) (pa : Nat) (st : OpStatus) (c : Byte) (a : Word) : State :=
  (s.hbmWrite pa [Memory.get s.mem.hbm pa &&& 0xFE]).settle o.id st c a

/-- The shortlist record is delivered as an arrival (R298), or waits for its tile. -/
def State.deliverShort (s : State) (o : Op) (pa : Nat) (bs : List Byte) : State :=
  let h := leNat o.header
  let off := bitsOf h 128 21
  match s.allocOf (BitVec.ofNat 32 (bitsOf h 160 32)) with
  | none => s.winnowEnd o pa .stale 0 0
  | some g =>
    let t := off / 256
    if 256 * g.tiles < off + 256 then s.winnowEnd o pa .fault Cause.protection.code (BitVec.ofNat 64 off)
    else if g.st == .saved || !s.arrivalFree o g.wid t then s.waitDest o g.wid t
    else
      ((s.scrWrite g.wid off bs).mapWg g.wid (fun g => g.setTag t (.full (bitsOf h 149 3 + 1)))).winnowEnd o pa
        (if o.pois then .poisoned else .ok) 0 0

/-- WINNOW_SHORTLIST (R298, R299): a LAST part whose elements are taken, after the warp's earlier parts for the region. -/
def execWinnowShortlist (id : Nat) (s : State) : Host.Outcome State Fault Refusal :=
  match s.op? id with
  | none => finish s
  | some o =>
    match o.kind, s.ctx? o.ctx with
    | .wnst _ true region _ count, some c =>
      let before := s.ops.any (fun p => p.id < id && p.wid == o.wid && p.warp == o.warp &&
        (p.st == .queued || p.st == .started || p.st == .suspended) &&
        (match p.kind with | .wnst _ _ r _ _ => r == region | _ => false))
      if o.st != .started || o.units.length != count || before then finish s
      else
        match s.headerAt o c region with
        | .need x => finish (s.srcNeed o 0 x)
        | .at_ pa =>
          let w := s.winnow? c.num pa
          match s.rowOf o c region w.seen with
          | .error x => finish (s.srcNeed o 0 x)
          | .ok (row, bad) =>
            let s := w.seen.foldl (fun s i => s.unitTouch o c false (rowAt region i) 4) s
            let s := s.mapOp id (fun o => { o with pois := o.pois || bad })
            finish ((s.deliverShort { o with pois := o.pois || bad } pa (shortRecord w (bitsOf (leNat o.header) 152 8)
              (BitVec.ofNat 32 (bitsOf (leNat o.header) 192 32)) row)).tidy)
    | _, _ => finish s

/-! ### Queue start (R213, R218, R221) -/

/-- Whether an earlier operation keeps one from starting: one of its queue that has not started, or, in the load queue, one whose
arrival waits on a FULL tile. -/
def State.startHeld (s : State) (o : Op) : Bool :=
  (s.ahead o).any (fun a => a.st == .queued ||
    (o.kind.queue == .load && a.destAt.any (fun x => (s.tag x.origin x.tile).state == 2)))

/-- The fabric tags of what a core has sent to a peer and what has not been acknowledged. -/
def State.sentTo (s : State) (core p : Nat) : List Nat :=
  s.fab.wc.filterMap (fun e => if e.core == core && e.peer == p then e.tag else none) ++
  s.fab.remote.filterMap (fun r =>
    let mine := if r.warp < 1000 then ((s.wg? r.wid).map (·.core)) == some core
      else r.warp < 3000 && ((s.op? r.wid).map (·.home)) == some core
    if r.peer == p && r.answer.isNone && mine then some r.tag else none)

/-- A drain marker starts: the buffer drains, and the marker follows what has been sent; it waits while the allowance keeps a line or
the marker itself back (R304). -/
def State.startDrain (s : State) (o : Op) (p : Nat) : State :=
  if s.heldPeer p then s
  else
    let s := s.drainWc (fun e => e.core == o.home && e.peer == p)
    if s.reachable p && (!s.allowed p true || (s.unsent o.home).any (fun e => e.peer == p)) then s
    else
    let await := s.sentTo o.home p
    let tag := s.fab.nextTag
    let own := p == s.fab.index
    let r : Remote := { tag := tag, peer := p, wid := o.id, warp := 1000, lane := 0, pc := 0, addr := 0,
                        answer := if own then some .ack else none }
    let s := s.mapOp o.id (fun o => { o with st := .started, awaits := await })
    if !own && !s.reachable p then s
    else
      let s := { s with fab := { s.fab with remote := s.fab.remote ++ [r], nextTag := tag + 1 } }
      if own then s else (s.flit p).emit (.marker p tag)

/-- An operation starts. -/
def State.startOp (s : State) (o : Op) (c : Context) : State :=
  let go := s.mapOp o.id (fun o => { o with st := .started })
  match o.kind with
  | .copy _ _ n _ => if n == 0 then s.settle o.id .ok 0 0 else go
  | .remote (some (a, map)) _ _ src n cc => go.readTable o c a map src n cc
  | .remote none .. => go.endRemote o.id
  | .drain p => s.startDrain o p
  | .wnst _ _ region base count => if o.header.isEmpty then s.winnowStart o c region base count else go
  | .tcopy .. => go
  | _ => s

/-- ENGINE_QUEUE_START (R213). -/
def execEngineQueueStart (id : Nat) (s : State) : Host.Outcome State Fault Refusal :=
  match s.op? id with
  | none => finish s
  | some o =>
    match s.ctx? o.ctx with
    | none => finish s
    | some c => if o.st != .queued || s.startHeld o then finish s else finish (s.startOp o c).tidy

/-! ### Units (R219, R223, R224, R233) -/

/-- COPY_UNIT: one unit of a started operation that has not been performed. A local arrival that waits on its tile holds its copy
(R59). -/
def execCopyUnit (id u : Nat) (s : State) : Host.Outcome State Fault Refusal :=
  match s.op? id with
  | none => finish s
  | some o =>
    match s.ctx? o.ctx with
    | none => finish s
    | some c =>
      if o.st != .started || s.power.tripped || o.units.elem u || s.arrivalHolds o then finish s
      else
        let within := fun (n : Nat) (t : State) => finish (if u < n then t.tidy else s)
        match o.kind with
        | .copy dst src n _ => within (n / 16) (s.copyUnit o c u dst src n)
        | .remote (some (a, map)) _ _ src n cc => finish (s.readTable o c a map src n cc)
        | .remote none multi ts src n cc => within (n / 16) (s.remoteUnit o c u multi ts src n cc)
        | .tcopy dst src d _ => within (16 * d.tiles * d.panels) (s.tcopyUnit o c u dst src d)
        | .wnst src _ region base count => within count (s.winnowUnit o c u src region base count)
        | .acst mem row col rows cols pitch fmt =>
          within (rows * (cols * accSize fmt / 16)) (s.acstUnit o c u mem row col rows cols pitch fmt)
        | .acld mem row col rows cols pitch fmt =>
          within (rows * (cols * accSize fmt / 16)) (s.acldUnit o c u mem row col rows cols pitch fmt)
        | _ => finish s

/-! ### Completion (R214 to R216) -/

/-- ENGINE_OPERATION_COMPLETE (R214): the record, in issue order of the queue and, for a workgroup's own operations, of those that a save
has taken out of it (R373); then the handle and the event. A record whose page is
missing is held and reported as a unit is; one that cannot be written otherwise is lost. Lines sent to a peer have been performed or
lost before it is posted (R338). -/
def execEngineOperationComplete (id : Nat) (s : State) : Host.Outcome State Fault Refusal :=
  match s.op? id with
  | none => finish s
  | some o =>
    let unwritten := s.fab.remote.any (fun r => r.wid == id && r.warp == 2001 && r.answer.isNone)
    let own := fun (a : Op) => decide (a.id < id) && a.wid == o.wid && a.st != .ended && a.kind.queue == o.kind.queue
    let before := unwritten || !(s.ahead o).isEmpty || s.ops.any own
    if o.st != .done || before || !o.held.isEmpty then finish s
    else
      let s := { s with fab := { s.fab with remote := s.fab.remote.filter (fun r => !(r.ofOp id && (2000 ≤ r.warp || r.answer.isSome))) } }
      let ends := fun (s : State) => finish ((s.mapOp id (fun o => { o with st := .ended })).evAdd o.ctx o.event 1).tidy
      match s.ctx? o.ctx, o.rnum with
      | some c, some x =>
        match s.agentWrite c (c.recordAt o.home x) (o.record s.now (phaseOf x c.crlen)) o.core o.slot with
        | (_, .stall) => finish (s.agentWait 1 c (c.recordAt o.home x) 32)
        | (t, .fail .xlateMiss a) => finish (t.holdUnit o a 1)
        | (t, _) => ends t
      | _, _ => ends s

/-! ### Arrivals (R59, R61, R219, R359) -/

/-- A waiting beat removed. -/
def State.dropArrival (s : State) (n : Nat) : State := { s with fab := { s.fab with arrivals := s.fab.arrivals.eraseIdx n } }

/-- ARRIVAL_ADMIT (R59): in the order in which the arrivals reached the tile; a beat of an arrival that has begun waits for none. -/
def execArrivalAdmit (a : Arrival) (s : State) : Host.Outcome State Fault Refusal :=
  match a with
  | .localOp id t =>
    match s.op? id with
    | none => finish s
    | some o =>
      match o.kind.dest with
      | some (w, _, _) =>
        if o.st != .started || o.kind.cover t == 0 || o.destAt.any (fun x => x.tile != t) then finish s
        else finish (s.beginArrival o w t).1
      | none => finish s
  | .ingress n =>
    match s.fab.arrivals[n]? with
    | none => finish s
    | some x =>
      match s.allocOf x.beat.alloc with
      | none => finish ((s.dropArrival n).answerBeat x.beat .stale).promote.tidy
      | some g =>
        let t := x.beat.off / 256
        if g.st == .saved || !x.here || (!s.begunBeat g x.beat &&
            (tileQueue g t (s.fab.arrivals.take n) || s.localAhead g.wid t x.no)) then finish s
        else
          match (s.dropArrival n).admitBeat g x.beat with
          | some s => finish s.promote.tidy
          | none => finish s

/-- REMOTE_ARRIVAL_BEAT (R219). -/
def execRemoteArrivalBeat (b : Beat) (s : State) : Host.Outcome State Fault Refusal := finish (s.receive b).tidy

/-- Whether a wait of a context has lasted longer than TAGTO, in µs (R61, R268). -/
def State.timedOut (s : State) (ctx since : Nat) : Bool :=
  decide (since + 1000 * ((s.ctx? ctx).map (·.tagto)).getD 10000 < s.now)

/-- The tag wait of a lane. -/
def Lane.tagWait (x : Lane) : Option (Nat × Nat × Nat) :=
  match x.wait with | some { on := .tag off d, since := t, .. } => some (off, d, t) | _ => none

/-- The lanes of a warp that wait at one instruction park together (R359). -/
def State.parkTags (s : State) (g : Wg) (k : Nat) (pc : Word) (ls : List (Nat × Nat × Nat)) : State :=
  let sub := fun (off : Nat) => match g.scratch off 1 with | some (w, b) => (s.tag w (b / 256)).state | none => 0
  let recs := ls.map (fun l =>
    (l.1, (Stop.park .tagTimeout (BitVec.ofNat 64 l.2.1) (256 * sub l.2.1 + l.2.2 % 256)).record))
  State.parkAll g.wid k pc (ls.any (fun l => l.2.2.testBit 16)) recs.length recs (s.bump 0x12F)

/-- The lanes of a warp slot whose tag wait has ended. -/
def State.timeoutLanes (s : State) (core slot : Nat) : State :=
  match s.slot? core slot with
  | none => s
  | some (wid, k) =>
    match s.wg? wid, s.warp? wid k with
    | some g, some w =>
      let waiting := w.numbered.filterMap (fun x => x.2.tagWait.map (fun t => (x.1, x.2.pc, t)))
      let due := waiting.filter (fun x => s.timedOut g.pkt.ctx x.2.2.2.2)
      match due with
      | [] => s
      | x :: _ => s.parkTags g k x.2.1 ((due.filter (fun y => y.2.1 == x.2.1)).map (fun y => (y.1, y.2.2.1, y.2.2.2.1)))
    | _, _ => s

/-- The wait of an operation that has lasted too long: for a tile to read, or of its arrival into a tile of an allocation that is not
saved (R57, R61). -/
def State.overdue (s : State) (o : Op) : Option TileWait :=
  let late := fun (x : TileWait) (holds : Bool) => if holds && s.timedOut o.ctx x.since then some x else none
  (o.waitAt.bind (fun x => late x (s.waitHolds o x))).orElse (fun _ => o.destAt.bind (fun x =>
    late x (!s.arrivalFree o x.origin x.tile && !((s.wg? x.origin).any (fun g => g.st == .saved)))))

/-- A tag wait of an operation has ended: it ends with FAULT, and its other tiles keep their states (R359). -/
def State.timeoutOp (s : State) (o : Op) : State :=
  match s.overdue o with
  | none => s
  | some x =>
    if o.st != .started then s
    else
      let s := s.bump 0x12F
      let a := BitVec.ofNat 64 (256 * x.tile)
      match o.kind with
      | .mloop d => (s.drainMloop o d).settle o.id .fault Cause.tagTimeout.code a
      | .remote .. => s.unitFail o .fault Cause.tagTimeout.code a
      | .wnst _ true region _ n =>
        match (s.ctx? o.ctx).map (fun c => s.headerAt o c region) with
        | some (.at_ pa) => if o.units.length == n then s.winnowEnd o pa .fault Cause.tagTimeout.code a
                            else s.settle o.id .fault Cause.tagTimeout.code a
        | _ => s.settle o.id .fault Cause.tagTimeout.code a
      | _ => s.settle o.id .fault Cause.tagTimeout.code a

/-- A beat has waited too long: every waiting beat of its copy is dropped, and later ones will be. -/
def State.timeoutBeat (s : State) (x : Waiting) (ctx : Nat) : State :=
  if !x.here || !s.timedOut ctx x.since then s
  else
    let s := { s with fab := { s.fab with dropped := s.fab.dropped ++ [(x.beat.sender, x.beat.copy)] } }
    (s.bump 0x12F).dropBeats (fun y => y.beat.sender == x.beat.sender && y.beat.copy == x.beat.copy)
      (.fault Cause.tagTimeout.code)

/-- TAG_WAIT_TIMEOUT (R61). -/
def execTagWaitTimeout (w : TagWaiter) (s : State) : Host.Outcome State Fault Refusal :=
  match w with
  | .lanes core slot => finish (s.timeoutLanes core slot)
  | .mloop id | .arrival (.localOp id _) => finish (match s.op? id with | some o => (s.timeoutOp o).tidy | none => s)
  | .arrival (.ingress n) =>
    match s.fab.arrivals[n]? with
    | none => finish s
    | some x =>
      match s.allocOf x.beat.alloc with
      | none => finish s
      | some g => if g.st == .saved then finish s else finish (s.timeoutBeat x g.pkt.ctx).tidy

/-! ### The matrix engine (R226 to R231, R263) -/

/-- An MLOOP inside a chain. -/
def Op.chained (o : Op) : Bool := match o.kind with | .mloop _ => o.chain.isSome | _ => false

/-- Whether a command is held, so that it holds every later command of its queue (R263, R365). -/
def Op.stuck (o : Op) : Bool :=
  match o.kind with
  | .acst .. | .acld .. => o.st == .started && (!o.held.isEmpty || o.waitAt.isSome || o.destAt.isSome)
  | _ => false

/-- The regions whose accumulator elements a command reads or writes. -/
def OpKind.accTouches : OpKind → List (Nat × Nat × Nat × Nat)
  | .acst _ row col rows cols _ _ => [(row, col, rows, cols)]
  | k => k.accWrites

/-- Whether a command ahead of another lets it begin: it has been performed; both are MLOOPs of one chain; or a chain's MLOOP moves
past a command of another warp that is not held (R230, R262). -/
def Op.passes (o a : Op) : Bool :=
  a.st == .done || (o.chained && ((a.chained && a.chain == o.chain) || (!(a.wid == o.wid && a.warp == o.warp) && !a.stuck)))

/-- Whether a command may begin. -/
def State.matrixFree (s : State) (o : Op) : Bool := (s.ahead o).all o.passes

/-- Whether k-step j of an operation may be performed: it moves past no command of another warp that touches an accumulator element of
its region (R230, R262). -/
def State.stepFree (s : State) (o : Op) (d : MloopDesc) (j : Nat) : Bool :=
  let r := j / d.kper
  let apart := fun (a : Op) => a.wid != o.wid ||
    !a.kind.accTouches.any (fun x => regionsMeet (d.row r) (d.col r) 128 128 x.1 x.2.1 x.2.2.1 x.2.2.2)
  (s.ahead o).all (fun a => o.passes a && (a.st == .done || (a.chained && a.chain == o.chain) || apart a))

/-- MATRIX_COMMAND_PERFORM (R226): the core's next command that may begin is performed, or begins if it goes unit by unit. -/
def execMatrixCommandPerform (core : Nat) (s : State) : Host.Outcome State Fault Refusal :=
  match s.ops.find? (fun o => o.core == core && o.kind.queue == .matrix && o.st == .queued && s.matrixFree o) with
  | none => finish s
  | some o =>
    match o.kind with
    | .mzero row col rows cols => finish (((s.accMap o.wid row col rows cols (fun _ _ _ => 0)).settle o.id .ok 0 0).tidy)
    | .chain _ => finish ((s.settle o.id .ok 0 0).tidy)
    | _ => finish (s.mapOp o.id (fun o => { o with st := .started }))

/-- The region of k-step j after the step: its elements and the values that await their pairs. -/
def State.applyStep (s : State) (o : Op) (g : Wg) (d : MloopDesc) (j : Nat) : State :=
  let r := j / d.kper
  let now := kstepRegion d o.paired g.data j (accRegion g.acc (d.row r) (d.col r) 128 128) o.carry
  let s := s.mapWg g.wid (fun g => { g with acc := accStore g.acc (d.row r) (d.col r) (now.map (fun xs => xs.map (·.1))) })
  let carry := now.flatMap (fun xs => xs.filterMap (·.2))
  let ends := (j + 1) % d.kper == 0
  if ends && !carry.isEmpty then
    (s.accMap g.wid (d.row r) (d.col r) 128 128 (fun i n x =>
      match carry[128 * i + n]? with | some v => accAdd x v | none => x)).mapOp o.id (fun o => { o with carry := [] })
  else s.mapOp o.id (fun o => { o with carry := carry })

/-- The tiles of k-step j, once each. -/
def MloopDesc.tiles (d : MloopDesc) (j : Nat) : List Nat :=
  (d.a.tiles j ++ d.b.tiles j).foldl (fun acc t => if acc.elem t then acc else acc ++ [t]) []

/-- The first tile of k-step j that is not ready. -/
def MloopDesc.unready (d : MloopDesc) (g : Wg) (j : Nat) : Option Nat := (d.tiles j).find? (fun t => !(g.tag t).ready)

/-- The k-steps of a chain that are not yet performed, in the order of issue; the engine may start any of the first 16 (R262). -/
def State.chainSteps (s : State) (chain : Nat) : List (Op × MloopDesc × Nat) :=
  (s.ops.flatMap (fun o =>
    match o.kind with
    | .mloop d =>
      if o.chain == some chain && o.running && o.st != .done then
        ((List.range d.ksteps).filter (fun j => !o.units.elem j)).map (fun j => (o, d, j))
      else []
    | _ => [])).take 16

/-- Whether the engine may look at k-step j of an operation now: the next one outside a chain; inside one, one of the first 16, of which
no earlier one is ready (R262). -/
def State.kstepNext (s : State) (o : Op) (g : Wg) (j : Nat) : Bool :=
  match o.chain with
  | none => j == o.units.length
  | some c =>
    let steps := s.chainSteps c
    match steps.findIdx? (fun x => x.1.id == o.id && x.2.2 == j) with
    | none => false
    | some i => (steps.take i).all (fun x => (x.2.1.unready g x.2.2).isSome)

/-- One k-step (R229). -/
def State.kstep (s : State) (o : Op) (g : Wg) (d : MloopDesc) (j : Nat) : State :=
  let tiles := d.tiles j
  match d.unready g j with
  | some t => s.waitTile o j g.wid t
  | none =>
    let r := j / d.kper
    let rows := (d.a.marks g (d.a.slotAt j)).map (· + 128 * r)
    let cols := (d.b.marks g (d.b.slotAt j)).map (· + 128 * r)
    let s := (s.applyStep o g d j).mapWg g.wid (fun g => tiles.foldl Wg.consume g)
    let s := (s.bump 0x122).mapOp o.id (fun o =>
      { o with units := o.units ++ [j], rowMarks := o.rowMarks ++ rows.filter (fun x => !o.rowMarks.elem x),
               colMarks := o.colMarks ++ cols.filter (fun x => !o.colMarks.elem x), waitAt := none })
    match s.op? o.id with
    | none => s
    | some o =>
      if o.units.length == d.ksteps then
        ((s.drainMloop o d).settle o.id (if o.rowMarks.isEmpty && o.colMarks.isEmpty && !o.pois then .ok else .poisoned) 0 0).tidy
      else s

/-- KSTEP (R229): the next k-step of an MLOOP, or inside a chain the one that R262 starts. -/
def execKstep (id j : Nat) (s : State) : Host.Outcome State Fault Refusal :=
  match s.op? id with
  | none => finish s
  | some o =>
    match o.kind, s.wg? o.wid with
    | .mloop d, some g =>
      if o.st != .started || d.ksteps ≤ j || o.units.elem j || !s.kstepNext o g j || !s.stepFree o d j then finish s
      else finish (s.kstep o g d j)
    | _, _ => finish s

end Sys2Proof.Machine
end

