-- ==== Sys2Proof/Machine/Clause.lean ====
section
/-!
DEFINITION. Clause headers, NOP and words of unassigned opcodes (spec/05_encoding_and_assembly.md R93 to R96, R110, R111).
-/
namespace Sys2Proof.Machine

/-- The handles that HWAIT names (R93). -/
def FmtH.handles (w : FmtH) : List Nat := (List.range 16).filter (fun n => w.hwait.getLsbD n)

/-- A lane enters a clause; headers do not count in its windows (R96, R106). -/
def Lane.enterClause (x : Lane) (hdr : Word) (w : FmtH) : Lane :=
  { x with clause := some { hdr := hdr, words := w.count.toNat + 1, cls := w.cls.toNat }, pc := hdr + 8, wait := none }

/-- Whether the warp's pending barrier has not completed (R93, R184). -/
def Wg.barrierPending (g : Wg) (w : Warp) : Bool := w.pendBar == some g.barGen

/-- CLAUSE_HEADER (R93, R96): HWAIT acts as WAIT for each named handle, BARW waits for the pending barrier. -/
def execClauseHeader (w : FmtH) (s : State) : Host.Outcome State Fault Refusal :=
  withCx s (fun cx =>
    let st := fun h => s.handleSt ((cx.w.h[h]?).getD .invalid)
    let all := fun (o : LaneOut) => s.commit cx false false 0 (cx.lanes.map (fun l => (l, o)))
    match (FmtH.handles w).find? (fun h => st h == .invalid), (FmtH.handles w).find? (fun h => st h == .pending) with
    | some h, _ => all (.stop (.fault .handleInvalid 0 h))
    | none, some h => all (.wait (.handle h) false)
    | none, none =>
      if w.barw && cx.g.barrierPending cx.w then all (.wait (.barrier cx.g.barGen) false)
      else s.mapWarp cx.wid cx.k (fun y =>
        { y.mapLanes cx.lanes (fun x => x.enterClause cx.wpc w) with rotate := y.rotate || w.yh }))

/-- NOP (R110). -/
def execNop (_ : FmtN) (s : State) : Host.Outcome State Fault Refusal :=
  withCx s (fun cx => s.commit cx false false 0 (cx.lanes.map (fun l => (l, .write [] 0 0))))

/-- A word that step 1 of R111 refuses: ILLEGAL in every lane that arrives at it. -/
def execUnassignedEncoding (word : Word) (s : State) : Host.Outcome State Fault Refusal :=
  withCx s (fun cx =>
    s.commit cx false false 0 (cx.lanes.map (fun l => (l, .stop (.fault .illegal word (256 * wordMajor word + 1))))))

end Sys2Proof.Machine
end

