-- ==== Sys2Proof/Machine/Move.lean ====
section
/-!
DEFINITION. Moves and predicates, family 0x14 (spec/06_ref_lane_arithmetic.md R142 to R146).
-/
namespace Sys2Proof.Machine

/-- MOV (R142): bits and poison unchanged, at the width of the type: f16 and bf16 write 0 above bit 15 (R70). -/
def execMov (w : FmtA) (s : State) : Host.Outcome State Fault Refusal :=
  laneOp (.mov w)
    { dst := w.d, ty := w.ty, srcs := [(w.a, w.ty)],
      fn := fun _ vs => { r := (vs[0]?).getD { v := 0 } } } s

/-- The destinations that a code names at a type. -/
def destsOf (c : Code) (t : BitVec 4) : List Dest :=
  if Code.isScalar c then [.scalar (c.toNat - 0x100)]
  else if tyWide t then [.lane c.toNat, .lane (c.toNat + 1)] else [.lane c.toNat]

/-- Whether lane m of the warp has a result pending for one of the destinations. -/
def Warp.pendingFor (w : Warp) (m : Nat) (ds : List Dest) : Bool :=
  w.results.any (fun r => r.writes.any (fun x => x.lane == some m && ds.elem x.dst))

/-- A lane register or pair as it stands, with its poison bit and without what an open window would add: windows poison the reads of
their own lane's instructions alone (R106). -/
def Lane.holds (x : Lane) (t : BitVec 4) (k : Nat) : Val :=
  let r := fun k => ((x.v[k]?).map (fun r => ({ v := r.val.setWidth 64, p := r.poison } : Val))).getD { v := 0 }
  if tyWide t then { v := (r k).v ||| (r (k + 1)).v <<< 32, p := (r k).p || (r (k + 1)).p }
  else { r k with v := readOp.cut t (r k).v }

/-- RDLANE (R143): lane m's value and poison bit for every executing lane, once no result for it is pending in lane m. Where lane m
executes it too, inside its own run-on window, the value is poisoned (R106). The poison of n adds nothing (DEDUCED, log 72). A scalar
destination is written once. -/
def execRdlane (w : FmtA) (s : State) : Host.Outcome State Fault Refusal :=
  withCx s (fun cx =>
    let m := (readUni s cx 1 w.b).v.toNat % cx.w.lanes.length
    let v : Val := match cx.lane? m with
      | none => { v := 0 }
      | some x =>
        let y := x.holds w.ty w.a.toNat
        if x.st == .absent then { v := 0 } else { y with p := y.p || (cx.lanes.elem m && (destsOf w.a w.ty).any x.windowed) }
    let px := w.px
    let outs := cx.lanes.map (fun l =>
      if cx.w.pendingFor m (destsOf w.a w.ty) then (l, LaneOut.wait (.result (some (m, destsOf w.a w.ty))) false)
      else
        match cx.lane? l with
        | none => (l, .skip)
        | some x =>
          match gateMask x px with
          | .poison => (l, .stop (poisonStop x 3))
          | .masked => (l, if zeroing px then .write (destWrites l w.d w.ty 0 false) 0 0 else .skip)
          | _ => (l, .write (destWrites l w.d w.ty v.v v.p) 0 0))
    s.commit cx false false 0 outs)

/-- A write from outside a lane: it stands, and a result that the lane awaits for the register is discarded (R144). -/
def Warp.writeOver (w : Warp) (m : Nat) (x : ResWrite) : Warp :=
  let w := w.override m x.dst
  let drop := fun (r : Result) =>
    { r with writes := r.writes.filter (fun y => !(y.lane == some m && y.dst == x.dst)) }
  Warp.apply { w with results := w.results.map drop } x

/-- WRLANE (R144): once per execution; an absent or exited lane m is left alone. -/
def execWrlane (w : FmtA) (s : State) : Host.Outcome State Fault Refusal :=
  withCx s (fun cx =>
    let m := (readUni s cx 1 w.b).v.toNat % cx.w.lanes.length
    let v := readUni s cx w.ty w.a
    let s := match cx.lane? m with
      | none => s
      | some x =>
        if x.live then
          s.mapWarp cx.wid cx.k (fun y => (destWrites m w.d w.ty v.v v.p).foldl (fun y z => y.writeOver m z) y)
        else s
    s.commit cx false false 0 (cx.lanes.map (fun l => (l, .skip))))

/-- PAND, POR and PXOR (R145). -/
def predEntry (w : FmtA) (f : Bool → Bool → Bool) : Entry :=
  { dst := w.d, ty := w.ty, toPred := true, srcs := [], preds := [w.a.toNat % 8, w.b.toNat % 8],
    fn := fun _ vs => plainRes vs (if f (argv vs 0 == 1) (argv vs 1 == 1) then 1 else 0) }

/-- PAND (R145). -/
def execPand (w : FmtA) (s : State) : Host.Outcome State Fault Refusal := laneOp (.pand w) (predEntry w (· && ·)) s
/-- POR (R145). -/
def execPor (w : FmtA) (s : State) : Host.Outcome State Fault Refusal := laneOp (.por w) (predEntry w (· || ·)) s
/-- PXOR (R145). -/
def execPxor (w : FmtA) (s : State) : Host.Outcome State Fault Refusal := laneOp (.pxor w) (predEntry w (· != ·)) s
/-- PNOT (R145). -/
def execPnot (w : FmtA) (s : State) : Host.Outcome State Fault Refusal :=
  laneOp (.pnot w)
    { dst := w.d, ty := w.ty, toPred := true, srcs := [], preds := [w.a.toNat % 8],
      fn := fun _ vs => plainRes vs (if argv vs 0 == 1 then 0 else 1) } s

/-- PMOV form 2 (R146): p0 to p6 from bits [6:0] of A, each with A's poison. -/
def predsFrom (l : Nat) (v : Val) : List ResWrite :=
  (List.range 7).map (fun k => { lane := some l, dst := .pred k, val := if v.v.getLsbD k then 1 else 0, poison := v.p })

/-- PMOV (R146). Form 2 executes on the scalar unit when its source is uniform, and then writes in every executing lane. -/
def execPmov (w : FmtA) (s : State) : Host.Outcome State Fault Refusal :=
  if w.c.toNat % 4 == 2 then
    let f := form (.pmov w)
    withCx s (fun cx =>
      let outs := cx.lanes.map (fun l =>
        match cx.lane? l with
        | none => (l, LaneOut.skip)
        | some x =>
          match gateMask x f.px with
          | .poison => (l, .stop (poisonStop x 3))
          | .masked => (l, if zeroing f.px then .write (predsFrom l { v := 0 }) 0 0 else .skip)
          | _ => (l, .write (predsFrom l (readAt s cx f.scalarUnit l 1 w.a)) 0 0))
      s.commit cx f.scalarUnit false 0 outs)
  else if w.c.toNat % 4 == 1 then
    laneOp (.pmov w)
      { dst := w.d, ty := 1, srcs := [], preds := List.range 7,
        fn := fun _ vs => plainRes vs (BitVec.ofNat 64 ((vs.zipIdx).foldl (fun a v => a + v.1.v.toNat * 2 ^ v.2) 128)) } s
  else
    laneOp (.pmov w)
      { dst := w.d, ty := w.ty, toPred := true, srcs := [], preds := [w.a.toNat % 8],
        fn := fun _ vs => { r := (vs[0]?).getD { v := 0 } } } s

end Sys2Proof.Machine
end

