-- ==== Sys2Proof/Machine/Observe.lean ====
section
/-!
DEFINITION. Counters, the lane-cycle record, the Gleaner, the sampler and trace records (spec/14_observing.md R321 to R327),
and what TBSTAT reads (spec/12_streams_time_sampling.md R290).
-/
namespace Sys2Proof.Machine

/-! ### Device registers (R321, R324, R325) -/

/-- The bits of a register that it keeps: "—" fields and ONCE read 0 (R5, R324, R325). -/
def devKeeps (reg : Nat) (v : Word) : Word :=
  if reg == 0x101 then v &&& 0xFFFFFFFF000F0000 else if reg == 0x103 then v &&& 0xFFFFFFFF0F0000FF else v

/-- Units of the timebase in a core clock, and in a microsecond (R2, log 8). -/
def clockUnits : Nat := 2000
/-- A microsecond in units of the timebase. -/
def microUnits : Nat := 2200000

/-- Sweep number x fills its slot; bytes 0 to 7 are written last (R323, R324). -/
def State.sweep (s : State) : State :=
  let n := 2 ^ bitsOf (s.devReg 0x101).toNat 16 4
  let x := s.obs.sweeps
  let body := leBytes 8 (2 * x + (x / n + 1) % 2) ++ leBytes 8 s.now ++
    (List.range 88).flatMap (fun i => leBytes 8 (s.devReg (0x120 + i)).toNat) ++ List.replicate 304 0
  { s.ringRecord ((s.devReg 0x100).toNat + 1024 * (x % n)) body with obs := { s.obs with sweeps := x + 1 } }

/-- Whether SMCTL samples a core (R325). -/
def samples (c : Word) (core : Nat) : Bool :=
  bitsOf c.toNat 32 32 != 0 && (c.toNat % 2 == 1 || bitsOf c.toNat 1 7 == core)

/-- A device register written: a counter counts on from the value, a new PERIOD starts a period, and so does the first sampling of a
core; ONCE makes a sweep (R321, R324, R325). -/
def State.devWrite (s : State) (reg : Nat) (v : Word) : State :=
  let old := s.devReg reg
  let new := devKeeps reg v
  let s := { s with obs := { s.obs with regs := s.obs.regs.set (reg - 0x100) new } }
  let period := bitsOf new.toNat 32 32
  if reg == 0x101 then
    let s :=
      if bitsOf old.toNat 32 32 == period then s
      else { s with obs := { s.obs with nextSweep := s.time.tb + microUnits * period } }
    if v.getLsbD 0 then s.sweep else s
  else if reg == 0x103 then
    let restarts := fun core => bitsOf old.toNat 32 32 != period || (!samples old core && samples new core)
    { s with obs := { s.obs with sampleAt := (List.range Config.cores).map (fun core =>
        if restarts core then s.obs.clocks + period else (s.obs.sampleAt[core]?).getD 0) } }
  else s

/-- GLEANER_SWEEP (R324): the sweep that has fallen due; others that have fallen due since are skipped, and the next is due at the next
period. -/
def execGleanerSweep (s : State) : Host.Outcome State Fault Refusal :=
  let period := bitsOf (s.devReg 0x101).toNat 32 32
  if period == 0 || s.time.tb < s.obs.nextSweep then finish s
  else
    let t := s.sweep
    let passed := (s.time.tb - s.obs.nextSweep) / (microUnits * period) + 1
    finish { t with obs := { t.obs with nextSweep := s.obs.nextSweep + microUnits * period * passed } }

/-- GLCTL_ONCE (R324): GLCTL is written as it stands, with ONCE set. -/
def execGlctlOnce (s : State) : Host.Outcome State Fault Refusal := finish (s.devWrite 0x101 (s.devReg 0x101 ||| 1))

/-! ### The lane-cycle record (R322) -/

/-- The minimum PC among a warp's active lanes (R21). -/
def Warp.minPc (w : Warp) : Option Word :=
  w.lanes.foldl (fun m x =>
    if x.st == .active then
      match m with
      | none => some x.pc
      | some p => if x.pc.toNat < p.toNat then some x.pc else m
    else m) none

/-- Whether a stall counts as MEMORY (R322). -/
def WaitOn.isMemory : WaitOn → Bool
  | .scoreboard _ | .queue _ | .element .. | .result _ | .repair _ | .peer .. | .drain .. => true
  | _ => false

/-- Whether the bits of a signal of this device meet a condition; a peer's are not known here. -/
def State.signalMet (s : State) (key : Word) (cmp : Nat) (v : Word) : Bool :=
  let bs := if key.toNat < 2 ^ 60 then s.hbmRead key.toNat 8 else s.hostRead (key.toNat % 2 ^ 60) 8
  decide (key.toNat < 2 ^ 61) && condHolds cmp (ordInt (wordOf bs).toInt v.toInt)

/-- Whether a wait of lane l still holds: what it waits for has not come (R286, R322). A sleeper is held until it is woken; a request to a
peer holds until it has its answer, and so does one that waits to be sent. -/
def State.waitHolding (s : State) (g : Wg) (w : Warp) (l : Nat) (x : Lane) (y : Wait) : Bool :=
  let here := w.numbered.filter (fun z => z.2.st == .active && z.2.pc == x.pc)
  match y.on with
  | .tag .. =>
    here.any (fun z =>
      match z.2.wait with
      | some { on := .tag off d, .. } => (g.scratch off 1).any (fun a =>
          let t := s.tag a.1 (a.2 / 256)
          if d.testBit 17 then t.isFilling else !t.ready)
      | _ => false)
  | .handle h => s.handleSt ((w.h[h]?).getD .invalid) == .pending
  | .scoreboard none => decide (32 ≤ (s.board g.core).length)
  | .scoreboard (some (.scr o off, n)) => (s.board g.core).any (fun b => b.hitsScr o off n)
  | .scoreboard (some (.glob va, n)) => (s.board g.core).any (fun b => b.hitsGlob g.pkt.ctx va.toNat n)
  | .queue q => !s.queueRoom g.core g.wid (if q == 0 then .load else if q == 1 then .store else .matrix)
  | .element row col rows cols => s.accBusy g.wid row col rows cols
  | .result none => here.any (fun z => w.mustWait z.1)
  | .result (some (m, ds)) => w.pendingFor m ds
  | .repair p =>
    match (s.ctx? g.pkt.ctx).map (fun c => s.checkPart (dieOf g.core) l c .load (4096 * p) 1) with
    | some (.wait _) => true
    | _ => false
  | .peer q store =>
    if store then s.heldPeer q || s.wcOver g.core
    else
      let mine := s.fab.remote.filter (fun r => r.wid == g.wid && w.slot == ((g.warps[r.warp]?).map (·.slot)).getD 128 &&
        (r.lane == l || r.scal) && r.pc == x.pc)
      mine.isEmpty || mine.any (fun r => r.answer.isNone)
  | .event e t _ => y.asleep || !((s.ctx? g.pkt.ctx).any (fun c => reaches (c.event e) t))
  | .signal key cmp v _ => y.asleep || !s.signalMet key cmp v
  | .ring va ph =>
    match (s.ctx? g.pkt.ctx).map (fun c => s.checkRange (dieOf g.core) l c .load va.toNat 8) with
    | some (.ok ps) => ps.any (fun p => p.peer?.isSome) || bitsOf (leNat (s.partsRead ps)) 24 1 != ph
    | _ => true
  | .barrier _ => true
  | .drain _ d => if d.testBit 17 then s.unsent g.core != [] else !s.wcQuiet g.core

/-- The class of a lane that has executed nothing in this clock, by the first row of R322 that applies; `apart` says that it was
above its warp's minimum when the warp executed. Waiting for a barrier is SYNC. -/
def laneClass (s : State) (g : Wg) (w : Warp) (l : Nat) (x : Lane) (apart : Bool) : Nat :=
  match x.st, x.wait with
  | .waiting, some { on := .barrier _, .. } => 3
  | .waiting, _ => 1
  | _, on =>
    if apart || w.minPc != some x.pc then 1
    else if w.mustWait l then 2
    else
      match on.filter (s.waitHolding g w l x) with
      | some y => if y.on.isMemory then 2 else 3
      | none => if (match w.sleep with | some t => decide (s.time.tb ≤ t) | none => false) then 3 else 4

/-- The lowest bin that holds a PC. -/
def State.binOf (s : State) (pc : Word) : Option Nat :=
  (List.range 8).find? (fun b =>
    decide ((s.devReg (0x140 + b)).toNat ≤ pc.toNat) && decide (pc.toNat < (s.devReg (0x148 + b)).toNat))

/-- What has executed in this clock on a warp slot. -/
def State.executedAt (s : State) (core slot : Nat) : List Executed :=
  s.obs.executed.filter (fun e => e.core == core && e.slot == slot)

/-- The lanes of a warp slot that have executed in this clock, each with the PC that picks its bin: they are EXEC, whatever they have
become (R322). -/
def State.ranLanes (s : State) (core slot : Nat) : List (Nat × Word) :=
  (List.range 64).filterMap (fun l =>
    ((s.executedAt core slot).find? (fun e => hasLane e.lanes l)).map (fun e => (l, e.pc)))

/-- The other counted lanes of a warp, each with its class and PC: Active or Waiting (R322). -/
def idleLanes (s : State) (g : Wg) (w : Warp) : List (Nat × Word) :=
  let es := s.executedAt g.core w.slot
  w.numbered.filterMap (fun (l, x) =>
    if (x.st == .active || x.st == .waiting) && !es.any (fun e => hasLane e.lanes l) then
      some (laneClass s g w l x (es.any (fun e => hasLane e.apart l)), x.pc)
    else none)

/-- A lane of a class counts in the bin of its PC, if it lies in one. -/
def State.countLane (s : State) (x : Nat × Word) : State :=
  match s.binOf x.2 with
  | some b => s.bump (0x150 + 5 * b + x.1)
  | none => s

/-- The warp slots on which something has executed in this clock. -/
def State.ranSlots (s : State) : List (Nat × Nat) :=
  s.obs.executed.foldl (fun ks e => if ks.elem (e.core, e.slot) then ks else ks ++ [(e.core, e.slot)]) []

/-! ### The sampler and trace records (R325 to R327) -/

/-- A record of the shared ring: bytes 0 to 7 are written last (R326). -/
def State.postSample (s : State) (pc : Word) (exec : LaneMask) (launch : W32) (core slot kind cls : Nat) : State :=
  let n := 2 ^ (bitsOf (s.devReg 0x103).toNat 24 4 + 6)
  let x := s.obs.samples
  let body := leBytes 32 (packFields [(208, 48, s.now), (160, 48, pc.toNat), (96, 64, exec.toNat), (64, 32, launch.toNat),
    (34, 7, core), (27, 7, slot), (20, 4, kind), (16, 4, cls), (0, 1, (x / n + 1) % 2)])
  { s.ringRecord ((s.devReg 0x102).toNat + 32 * (x % n)) body with obs := { s.obs with samples := x + 1 } }

/-- The class that most of a warp's counted lanes have, ties to the lower. -/
def majority (cs : List Nat) : Nat :=
  (List.range 5).foldl (fun best c => if cs.count best < cs.count c then c else best) 0

/-- The resident warps of a core, from a slot on, round-robin. -/
def State.nextWarp (s : State) (core start : Nat) : Option (Wg × Warp) :=
  (List.range Config.slotsPerCore).findSome? (fun i =>
    match s.slot? core ((start + i) % Config.slotsPerCore) with
    | none => none
    | some (wid, k) =>
      match s.wg? wid, s.warp? wid k with
      | some g, some w => some (g, w)
      | _, _ => none)

/-- The classes of a warp's counted lanes: those whose PC lies in a bin (R322, R326). -/
def State.classes (s : State) (g : Wg) (w : Warp) : List Nat :=
  let counted : List (Nat × Word) := (s.ranLanes g.core w.slot).map (fun x => (0, x.2)) ++ idleLanes s g w
  (counted.filter (fun x => (s.binOf x.2).isSome)).map (·.1)

/-- A core that is sampled in this clock writes its record: its next resident warp, at the PC at which that executed in the clock, or
else its minimum PC (R325, R326). -/
def State.sampleCore (s : State) (core : Nat) : State :=
  match s.nextWarp core ((s.obs.nextSlot[core]?).getD 0) with
  | none => s
  | some (g, w) =>
    let es := s.executedAt core w.slot
    let pc := match es with | e :: _ => e.pc | [] => w.minPc.getD 0
    { s with obs := { s.obs with nextSlot := s.obs.nextSlot.set core ((w.slot + 1) % Config.slotsPerCore) } }.postSample pc
      (es.foldl (fun (m : LaneMask) (e : Executed) => m ||| e.lanes) 0) g.launchId core w.slot 0 (majority (s.classes g w))

/-- SAMPLER_SAMPLE (R325): a period of core clocks is over, and the core is sampled in this clock, whose end writes the record. -/
def execSamplerSample (core : Nat) (s : State) : Host.Outcome State Fault Refusal :=
  let due := (s.obs.sampleAt[core]?).getD 0
  if !samples (s.devReg 0x103) core || s.obs.clocks < due then finish s
  else
    finish { s with obs := { s.obs with sampleAt := s.obs.sampleAt.set core (due + bitsOf (s.devReg 0x103).toNat 32 32),
                                        sampling := s.obs.sampling ++ [core] } }

/-- CORE_CLOCK_CYCLE (R322): the lanes that have executed and every other Active or Waiting lane of every resident warp are counted,
the sampled cores write their records, CYCLES grows, and the timebase runs on at its rate (R2, R288). -/
def execCoreClockCycle (s : State) : Host.Outcome State Fault Refusal :=
  let ran := s.ranSlots.flatMap (fun k => (s.ranLanes k.1 k.2).map (fun x => (0, x.2)))
  let idle := (s.wgs.filter (fun g => g.st == .resident)).flatMap (fun g => g.warps.flatMap (idleLanes s g))
  let t := (s.obs.sampling.foldl State.sampleCore ((ran ++ idle).foldl State.countLane s)).bump 0x120
  finish { t with time := { s.time with tb := (s.time.tb + (clockUnits + s.time.slew)).toNat },
                  obs := { t.obs with executed := [], sampling := [], clocks := s.obs.clocks + 1 } }

/-- The lanes of a warp that are Active above a PC, or Waiting at a convergence point (R322). -/
def Warp.apart (w : Warp) (pc : Word) : LaneMask :=
  maskOf ((w.numbered.filter (fun x => x.2.st == .active && x.2.pc != pc || x.2.st == .waiting)).map (·.1))

/-- An instruction has executed: ISSUED, the clock's record, and a trace record if a lane of it is traced (R321, R322, R327). -/
def State.noteIssue (s : State) (g : Wg) (w : Warp) (pc : Word) (lanes : List Nat) : State :=
  let s := s.bump 0x121
  let s := { s with obs := { s.obs with executed :=
    s.obs.executed ++ [{ core := g.core, slot := w.slot, pc := pc, lanes := maskOf lanes, apart := w.apart pc }] } }
  if lanes.any (fun l => match w.lanes[l]? with | some x => x.dbg.trace | none => false) then
    s.postSample pc (maskOf lanes) g.launchId g.core w.slot 1 0
  else s

/-! ### TBSTAT (R290) -/

/-- What ERRB has grown by in n seconds of hold-over, in ns: at most 100 in each, by how much is free (R290, log 8). -/
def Time.drift (t : Time) : Nat → Nat
  | 0 => 0
  | n + 1 => t.drift n + (Config.freeWord (t.holdAt + n)).toNat % 101

/-- ERRB: it grows from the beginning of hold-over on. -/
def Time.bound (t : Time) : Nat :=
  if t.state == 3 then min 0xFFFF (t.errb.toNat + t.drift ((t.tb - t.holdAt) / 2200000000000) / 16) else t.errb.toNat

/-- The value of TBSTAT. -/
def Time.stat (t : Time) : Word :=
  BitVec.ofNat 64 (packFields [(16, 16, t.bound), (8, 1, t.port.toNat), (3, 1, t.ever.toNat), (0, 2, t.state)])

end Sys2Proof.Machine
end

