-- ==== Sys2Proof/Machine/Issue.lean ====
section
/-!
DEFINITION. What happens around an instruction: which lanes of a warp stand at its minimum PC (spec/02_execution_model.md R21,
R23), debugger stops (R327, R351), the fetch and its checks (R92, R95, R111), the words decoded, and what follows its execution.
-/
namespace Sys2Proof.Machine

/-- A warp's next instruction: decided already, or one to execute in a state that is ready for it. -/
inductive Ready where
  | done (s : State)
  | run (i : Instr) (s : State)

/-! ### Debugger stops (R327, R351) -/

/-- Lanes park in the debugger: KIND 2, one record for each PC and DETAIL. -/
def State.debugPark (s : State) (wid k : Nat) (hits : List (Nat × Word × Nat)) : State :=
  let keys := hits.foldl (fun ks h => if ks.elem h.2 then ks else ks ++ [h.2]) []
  keys.foldl (fun s key =>
    s.parkGroup wid k ((hits.filter (fun h => h.2 == key)).map (·.1)) key.1 0 .bkpt 2 key.2 false) s

/-- The waits of R284 that HALT does not break off. -/
def WaitOn.kept : WaitOn → Bool
  | .tag .. | .event .. | .signal .. | .barrier _ => true
  | _ => false

/-- Whether HALT parks a lane at once: it is Active and stopped in no wait of R284 (R351). -/
def Lane.haltsNow (x : Lane) : Bool := x.st == .active && !(match x.wait with | some y => y.on.kept | none => false)

/-- A lane whose halt is due. -/
def Lane.haltDue (x : Lane) : Option Nat := if x.haltsNow then x.dbg.halt else none

/-- The halts of a warp that are due. -/
def Warp.halts (w : Warp) : List (Nat × Word × Nat) :=
  w.numbered.filterMap (fun (l, x) => x.haltDue.map (fun d => (l, x.pc, d)))

/-- Due halts are taken. -/
def State.takeHalts (s : State) (wid k : Nat) (w : Warp) : State :=
  (s.mapWarp wid k (fun w => w.mapLanes (w.halts.map (·.1)) (fun x => { x with dbg := { x.dbg with halt := none } }))).debugPark
    wid k w.halts

/-- The breakpoint that stops an arriving lane. -/
def Context.breakAt (c : Context) (core slot l : Nat) (pc : Word) : Option Nat :=
  (c.breaks.find? (fun b => b.core == core && b.warp == slot && hasLane b.lanes l && b.pc == pc)).map (·.slot)

/-- The lanes among those at a PC that a breakpoint stops; DETAIL 3 with its slot (R350). -/
def breakHits (c : Context) (g : Wg) (w : Warp) (lanes : List Nat) (pc : Word) : List (Nat × Word × Nat) :=
  lanes.filterMap (fun l =>
    match w.lanes[l]? with
    | none => none
    | some x =>
      if x.st != .active || x.wait.isSome || x.dbg.passed then none
      else (c.breakAt g.core w.slot l pc).map (fun b => (l, pc, 16 * b + 3)))

/-! ### The minimum PC and convergence points (R21, R23) -/

/-- Whether lane j lets a convergence point at a PC proceed. -/
def Lane.lets (pc : Word) (x : Lane) : Bool :=
  match x.st with
  | .active => x.pc == pc
  | .waiting => pc.toNat ≤ x.pc.toNat
  | _ => true

/-- Whether the convergence point at which lane x waits proceeds. -/
def Warp.meets (w : Warp) (x : Lane) : Bool :=
  (lanesOf x.inner).all (fun j => match w.lanes[j]? with | some y => y.lets x.pc | none => true)

/-- A lane that waits at a convergence point: in no other wait, or for a result or a page that the point's word still needs. -/
def Lane.waitsToMeet (x : Lane) : Bool :=
  x.st == .waiting && (match x.wait with | none => true | some y => (match y.on with | .result _ | .repair _ => true | _ => false))

/-- A lane that may execute: Active, or at a convergence point that proceeds. -/
def Warp.mayRun (w : Warp) (x : Lane) : Bool := x.st == .active || (x.waitsToMeet && w.meets x)

/-- The lanes of the warp at the minimum PC among those that may execute. -/
def Warp.front (w : Warp) : Option (Word × List Nat) :=
  let can := w.numbered.filter (fun x => w.mayRun x.2)
  match can with
  | [] => none
  | x :: xs =>
    let pc := xs.foldl (fun p y => if y.2.pc.toNat < p.toNat then y.2.pc else p) x.2.pc
    some (pc, (can.filter (fun y => y.2.pc == pc)).map (·.1))

/-- The convergence points (R23). -/
def Instr.converges : Instr → Bool
  | .shfl _ | .pushl _ | .vote _ | .red _ | .scan _ | .matchLanes _ | .bar _ | .barArrive _ | .tbar _ | .tret _ | .ret _
  | .exit _ => true
  | _ => false

/-- The lanes of the lowest lane's team that stand at the point and for which it proceeds. -/
def Warp.team (w : Warp) (lanes : List Nat) : List Nat :=
  let here := lanes.filterMap (fun l => (w.lanes[l]?).map (fun x => (l, x)))
  match here.find? (fun x => w.meets x.2) with
  | none => []
  | some x => (here.filter (fun y => y.2.inner == x.2.inner && y.2.level == x.2.level)).map (·.1)

/-! ### Fetch (R92, R361) -/

/-- A fetched word, a stop, a stall at a page in repair, or an address beyond the part. -/
inductive Fetched where
  | word (w : Word)
  | stop (st : Stop)
  | stall
  | hole (a : Nat)
  deriving DecidableEq, Repr

/-- The stop of a fetch: SZ 3, SP 0, ACC 3 (R352). -/
def fetchStop (c : Cause) (pc : Word) (sub : Nat) : Fetched := .stop (memStop c pc (memDetail sub 3 0 3))

/-- The word at an address (R92), as memory holds it now, also after a store to code that resident warps execute, which R92 forbids
(DESIGN CHOICE, log 83). A fetch from a page of a peer raises PROTECTION: there is no fabric message for one (DESIGN CHOICE, log 86). -/
def State.fetch (s : State) (c : Context) (core : Nat) (pc : Word) : Fetched :=
  if overlaps pc.toNat 1 c.privbase.toNat privateSpan then fetchStop .protection pc 0
  else
    match s.checkPart (dieOf core) 2000 c .fetch pc.toNat (if pc.toNat % 8 == 0 then 8 else 1) with
    | .stop cause _ sub => fetchStop cause pc sub
    | .wait _ => .stall
    | .hole a => .hole a
    | .ok ps =>
      if pc.toNat % 8 != 0 then fetchStop .align pc 0
      else
        match ps with
        | [p] =>
          match p.leaf.target with
          | .peer _ => fetchStop .protection pc 0
          | .host => .word (wordOf (s.hostRead p.pa 8))
          | .hbm =>
            if s.mem.badInstr.elem p.pa || s.mem.erred p.pa 8 then fetchStop .memUncorrectable pc 8
            else .word (wordOf (s.hbmRead p.pa 8))
        | _ => fetchStop .protection pc 0

/-! ### Clause form (R94, R95, R197) -/

/-- Whether a CLASS admits a major (R94). -/
def classAdmits (cls major : Nat) : Bool :=
  major == 0x03 || (0x10 ≤ major && major ≤ 0x14) || (0x18 ≤ major && major ≤ 0x1A) ||
  (match cls with
   | 1 => major == 0x20
   | 2 => 0x38 ≤ major && major ≤ 0x3B
   | 3 => 0x40 ≤ major && major ≤ 0x43
   | 4 => major == 0x28 || major == 0x29 || major == 0x30 || major == 0x48 || major == 0x50
   | 7 => majorAssigned major && major != 0x02
   | _ => false)

/-- The place of a PC in the clause where the lane stands, from 1; none on an arrival or past the clause's end. -/
def Lane.place (x : Lane) (pc : Word) : Option (Nat × Clause) :=
  match x.clause with
  | none => none
  | some c =>
    let i := (pc - c.hdr).toNat / 8
    if 1 ≤ i && i ≤ c.words then some (i, c) else none

/-- Whether the word before a place in a clause is a PX word. -/
def State.afterPx (s : State) (c : Context) (core : Nat) (pc : Word) (place : Nat) : Bool :=
  place != 1 && (match s.fetch c core (pc - 8) with | .word w => wordMajor w == 0x01 | _ => false)

/-- Step 2 of R111 for a lane at the first word `w` of an instruction of `len` words whose own word has a major: whether its
position breaks R94 or R95. -/
def State.breaksForm (s : State) (c : Context) (core : Nat) (x : Lane) (pc w : Word) (len major : Nat) : Bool :=
  match x.place pc with
  | none => wordMajor w != 0x02
  | some (i, cl) =>
    let last := i + len - 1
    wordMajor w == 0x02 || s.afterPx c core pc i || cl.words < last || !classAdmits cl.cls major ||
    ((major == 0x28 || major == 0x29) && last != cl.words)

/-- The word whose position breaks the form: the word itself where the clause does not admit its major or it has to stand last, otherwise the
first word of its instruction (R95, R340, R350). -/
def State.offender (s : State) (c : Context) (core : Nat) (x : Lane) (pc first word : Word) (len : Nat) : Word :=
  match x.place pc with
  | none => first
  | some (i, cl) => if wordMajor first == 0x02 || s.afterPx c core pc i || cl.words < i + len - 1 then first else word

/-- The stop of a word that R111 refuses (R340, R350). -/
def wordStop (c : Cause) (w : Word) (step : Nat) : Stop := .fault c w (256 * wordMajor w + step)

/-- Whether an instruction names a register beyond those that its kernel declares (R19). -/
def beyondDeclared (k : Kernel) (i : Instr) : Bool := (form i).uses.any (fun u => u.beyond k.regs k.scalars)

/-- Steps 3 to 5 of R111 in a warp of a kernel. -/
def decodeFor (k : Kernel) (px : Option Word) (w : Word) : Except (Nat × Cause) Instr :=
  match decodeWords px w with
  | .ok i => if beyondDeclared k i then .error (3, .illegal) else .ok i
  | .error r =>
    match r.instr with
    | some i => if beyondDeclared k i then .error (3, .illegal) else .error (r.step, r.cause)
    | none => .error (r.step, r.cause)

/-! ### An instruction is made ready -/

/-- Lanes of the front stop. -/
def State.stopFront (s : State) (wid k : Nat) (pc : Word) (ls : List Nat) (st : Stop) : State :=
  s.stopLanes wid k pc pc false (ls.map (fun l => (l, st)))

/-- Lanes of the front are marked as stopped in a wait. -/
def State.holdFront (s : State) (wid k : Nat) (ls : List Nat) (on : WaitOn) : State :=
  s.mapWarp wid k (fun w => w.mapLanes ls (fun x => x.stall s.now on false))

/-- Whether a lane sleeps in its wait (R279, R280). -/
def Lane.sleeps (x : Lane) : Bool := match x.wait with | some y => y.asleep | none => false

/-- The instruction runs in its lanes, those apart that sleep in its wait, unless one of them awaits a result (R106). -/
def State.launchWord (s : State) (g : Wg) (k : Nat) (pc wpc word : Word) (i : Instr) (here : List Nat) : Ready :=
  match s.warp? g.wid k with
  | none => .done s
  | some w =>
    let ls := here.filter (fun l => match w.lanes[l]? with | some x => !x.sleeps | none => true)
    let header := match i with | .clauseHeader _ => true | _ => false
    if ls.isEmpty then .done s
    else if !header && ls.any (fun l => w.mustWait l) then .done (s.holdFront g.wid k ls (.result none))
    else
      .run i { s.mapWarp g.wid k (fun w => w.mapLanes ls (fun x => { x with st := .active })) with
        issue := some { wid := g.wid, warp := k, lanes := ls, pc := pc, wpc := wpc, word := word } }

/-- The lanes at the front arrive at a decoded word: at a convergence point they wait until it proceeds (R23). -/
def State.arriveAt (s : State) (g : Wg) (k : Nat) (pc wpc word : Word) (i : Instr) (ls : List Nat) : Ready :=
  if Instr.converges i then
    let s := s.mapWarp g.wid k (fun w => w.mapLanes ls (fun x => { x with st := .waiting, wait := none }))
    match s.warp? g.wid k with
    | none => .done s
    | some w => s.launchWord g k pc wpc word i (w.team ls)
  else s.launchWord g k pc wpc word i ls

/-- The words at the front, checked in the order of R111: lanes whose position breaks the form stop, the others go on. -/
def State.checkWords (s : State) (c : Context) (g : Wg) (k : Nat) (w : Warp) (pc wpc first word : Word) (px : Option Word)
    (ls : List Nat) : Ready :=
  let len := if px.isSome then 2 else 1
  let bad := ls.filter (fun l =>
    match w.lanes[l]? with
    | some x => s.breaksForm c g.core x pc first len (wordMajor word)
    | none => true)
  let good := ls.filter (fun l => !bad.elem l)
  if wordUnassigned word then s.launchWord g k pc wpc word (.unassignedEncoding word) ls
  else
    let stop := fun (l : Nat) => (w.lanes[l]?).map (fun x => (l, wordStop .clauseForm (s.offender c g.core x pc first word len) 2))
    let s := if bad.isEmpty then s else s.stopLanes g.wid k pc pc false (bad.filterMap stop)
    if good.isEmpty then .done s
    else
      match decodeFor g.kernel px word with
      | .error (step, cause) => .done (s.stopFront g.wid k pc good (wordStop cause word step))
      | .ok i => s.arriveAt g k pc wpc word i good

/-- The lanes whose place admits a PX word and one after it. -/
def State.pxFits (s : State) (c : Context) (core : Nat) (w : Warp) (pc : Word) (l : Nat) : Bool :=
  match w.lanes[l]? with
  | none => false
  | some x =>
    match x.place pc with
    | none => false
    | some (i, cl) => decide (i < cl.words) && !s.afterPx c core pc i

/-- The words at the front, fetched and checked. -/
def State.fetchWords (s : State) (c : Context) (g : Wg) (k : Nat) (w : Warp) (pc : Word) (ls : List Nat) : Ready :=
  match s.fetch c g.core pc with
  | .stop st => .done (s.stopFront g.wid k pc ls st)
  | .stall => .done ((s.holdFront g.wid k ls (.repair (pc.toNat / 4096))).sawRepair (dieOf g.core) 2000 c pc.toNat 1)
  | .hole a => .done { s with hole := some a }
  | .word first =>
    if wordMajor first != 0x01 then s.checkWords c g k w pc pc first first none ls
    else
      let fits := ls.filter (s.pxFits c g.core w pc)
      let s' :=
        if fits.length == ls.length then s
        else s.stopFront g.wid k pc (ls.filter (fun l => !fits.elem l)) (wordStop .clauseForm first 2)
      if fits.isEmpty then .done s'
      else
        match s.fetch c g.core (pc + 8) with
        | .stop st => .done (s'.stopFront g.wid k pc fits st)
        | .stall =>
          .done ((s'.holdFront g.wid k fits (.repair ((pc + 8).toNat / 4096))).sawRepair (dieOf g.core) 2000 c (pc + 8).toNat 1)
        | .hole a => .done { s' with hole := some a }
        | .word word =>
          if wordMajor word == 0x01 || wordMajor word == 0x02 then
            .done (s'.stopFront g.wid k pc fits (wordStop .clauseForm first 2))
          else s'.checkWords c g k w pc (pc + 8) first word (some first) fits

/-- The parts that the fetch of the instruction at an address reads: its words that are in reach. -/
def State.fetchParts (s : State) (c : Context) (core : Nat) (pc : Word) : List Part :=
  let word := fun (a : Word) =>
    match s.fetch c core a, s.checkPart (dieOf core) 2000 c .fetch a.toNat 8 with
    | .word _, .ok ps => ps
    | _, _ => []
  match s.fetch c core pc with
  | .word w => word pc ++ (if wordMajor w == 0x01 then word (pc + 8) else [])
  | _ => []

/-- What is made ready, in a state that is changed further. -/
def Ready.map (f : State → State) : Ready → Ready
  | .done s => .done (f s)
  | .run i s => .run i (f s)

/-- Words are fetched through the L2, not through the L1, which is a data cache (R9, R10): lines and translations are cached, HBM traffic
is counted (log 49). -/
def State.useFetch (s : State) (c : Context) (core slot : Nat) (ps : List Part) : State := s.useParts (dieOf core) c.num core slot none false ps

/-- The instruction at the front is fetched. -/
def State.fetchFront (s : State) (c : Context) (g : Wg) (k : Nat) (w : Warp) (pc : Word) (ls : List Nat) : Ready :=
  (s.fetchWords c g k w pc ls).map (fun t => t.useFetch c g.core w.slot (s.fetchParts c g.core pc))

/-- The next instruction of a resident warp: due halts and breakpoints first, then the front of the warp (R21, R327). -/
def State.readyWarp (s : State) (g : Wg) (c : Context) (k : Nat) (w : Warp) : Ready :=
  if w.sleep.isSome then .done s
  else if !w.halts.isEmpty then .done (s.takeHalts g.wid k w)
  else
    match w.front with
    | none => .done s
    | some (pc, ls) =>
      let hits := breakHits c g w ls pc
      if hits.isEmpty then s.fetchFront c g k w pc ls else .done (s.debugPark g.wid k hits)

/-- The next instruction of a warp slot. -/
def State.ready? (s : State) (core slot : Nat) : Ready :=
  match s.slot? core slot with
  | none => .done s
  | some (wid, k) =>
    match s.wg? wid, s.warp? wid k with
    | some g, some w =>
      match s.ctx? g.pkt.ctx with
      | some c => s.readyWarp g c k w
      | none => .done s
    | _, _ => .done s

/-! ### After an instruction -/

/-- A lane that the instruction has not moved on: it is stopped in a wait. -/
def Lane.stalled (pc : Word) (x : Lane) : Bool := x.st == .active && x.wait.isSome && x.pc == pc

/-- How a step ends in a lane that has executed (R327, R350, R351): a record and a hold at a join, a halt once the exclusion has
passed, nothing more for a lane that has stopped, or the park that the caller makes. -/
def Lane.endStep (x : Lane) : Lane :=
  match x.st with
  | .active => { x with dbg := { x.dbg with step := false, halt := some 2 } }
  | .exclusion => { x with dbg := { x.dbg with step := false, halt := some 2 } }
  | .parked _ => { x with dbg := { x.dbg with step := false } }
  | _ => x

/-- A lane that has executed arrives at its next instruction, where a breakpoint may stop it; one that the instruction has parked stays
where it was (R327, R351). -/
def Lane.arrive (x : Lane) : Lane := if x.park?.isSome then x else { x with dbg := { x.dbg with passed := false } }

/-- Whether a lane that has executed went to a join: it is parked there, or it has left the join already, one level further out. -/
def Lane.joined (before x : Lane) : Bool := x.st == .join || (x.st == .active && decide (x.level < before.level))

/-- A step that ends at a join posts its record with DETAIL 4; the lane stays held after the join, or at once where the join is
complete (R351). -/
def State.holdJoins (s : State) (g : Wg) (before : Warp) (k : Nat) (pc : Word) (ls : List Nat) : State :=
  match ls with
  | [] => s
  | l :: _ =>
    match before.lanes[l]? with
    | none => s
    | some low =>
      let p : Park := { recId := s.nextRec, cause := .bkpt, kind := 2, addr := 0, detail := 4, pc := pc }
      let hold := fun (x : Lane) =>
        if x.st == .join then { x with dbg := { x.dbg with step := false, held := some p } }
        else { x with st := .parked p, dbg := { x.dbg with step := false } }
      ({ s with nextRec := s.nextRec + 1 }.mapWarp g.wid k (fun w => w.mapLanes ls hold)).postFault
        (recordBytes s g before (maskOf ls) low pc 0 Cause.bkpt.code 2 4 false)

/-- The instruction has executed in its lanes: it is counted and traced, steps end, halts are taken (R321, R326, R327). `g` and
`before` are the workgroup and the warp before it. -/
def State.afterIssue (s : State) (is : Issue) (g : Wg) (before : Warp) : State :=
  let s := { s with issue := none }
  match s.warp? is.wid is.warp with
  | none => s.noteIssue g before is.pc is.lanes
  | some w =>
    let here := is.lanes.filterMap (fun l => (w.lanes[l]?).map (fun x => (l, x)))
    let ran := here.filter (fun x => !x.2.stalled is.pc)
    if ran.isEmpty then s
    else
      let s := s.noteIssue g before is.pc (ran.map (·.1))
      let stepped := ran.filter (fun x => x.2.dbg.step)
      let joins := stepped.filter (fun x => match before.lanes[x.1]? with | some y => y.joined x.2 | none => false)
      let s := s.holdJoins g before is.warp is.pc (joins.map (·.1))
      let s := s.mapWarp is.wid is.warp (fun w =>
        (w.mapLanes (ran.map (·.1)) Lane.arrive).mapLanes (stepped.map (·.1)) Lane.endStep)
      match s.warp? is.wid is.warp with
      | some w => if w.sleep.isSome then s else s.takeHalts is.wid is.warp w
      | none => s

end Sys2Proof.Machine
end

