-- ==== Sys2Proof/Machine/Agenda.lean ====
section
/-!
DEFINITION. What the machine does next (log 1): the head of the agenda, and where the agenda is empty one of the moves that the
machine can make by itself, taken in turn (what comes from outside the device comes only by the agenda). Also the placing of one
instruction where the next step fetches it.
-/
namespace Sys2Proof.Machine

/-- The constructor of a management operation (R317, R347, R355, R366, R384, R389). -/
def messageInstr (op : Nat) : Instr :=
  match op with
  | 0x01 => .resume | 0x02 => .redirect | 0x03 => .kill | 0x04 => .read | 0x05 => .write
  | 0x10 => .halt | 0x11 => .step | 0x12 => .resumeDbg | 0x13 => .trace | 0x14 => .breakpoint
  | 0x20 => .inval | 0x21 => .sethwm | 0x22 => .resumepage
  | 0x30 => .engresume | 0x31 => .engend | 0x32 => .endlaunch | 0x33 => .ctxsave | 0x34 => .ctxrestore
  | 0x40 => .chretire | 0x41 => .chrestore | 0x42 => .slreplay | 0x43 => .sldiscard | 0x44 => .podhold | 0x45 => .podset
  | 0x50 => .flowstate
  | 0x60 => .attach | 0x61 => .detach | 0x62 => .ctxcreate | 0x63 => .ctxdestroy | 0x64 => .faultring | 0x65 => .servring
  | 0x66 => .storelog | 0x67 => .savepool | 0x68 => .podform | 0x69 => .exportCtx | 0x6A => .bar2base | 0x6B => .hostatomic
  | 0x6C => .fabparam | 0x6D => .streamparam | 0x6E => .powercap | 0x6F => .powerstate | 0x70 => .telemetry | 0x71 => .rollback
  | 0x72 => .journalclr | 0x73 => .imgpiece | 0x74 => .imgdone | 0x75 => .ctxcsr | 0x76 => .devcsr
  | _ => .unassignedMessageOp

/-- The moves of a resident warp. -/
def warpMoves (core : Nat) (w : Warp) : List Input :=
  [.issue core w.slot, .ev (.sleepExpiry core w.slot), .ev (.signalPoll core w.slot), .ev (.eventPoll core w.slot),
   .ev (.tagWaitTimeout (.lanes core w.slot))] ++ w.results.map (fun r => .ev (.longLatencyResult core w.slot r.id))

/-- The lowest unit that an operation has not performed. -/
def Op.nextUnit (o : Op) : Nat := ((List.range (o.units.length + 1)).find? (fun u => !o.units.elem u)).getD 0

/-- How many units an operation has. -/
def OpKind.size : OpKind → Nat
  | .copy _ _ n _ | .remote _ _ _ _ n _ => n / 16
  | .tcopy _ _ d _ => 16 * d.tiles * d.panels
  | .wnst _ _ _ _ n => n
  | .acst _ _ _ rows cols _ fmt | .acld _ _ _ rows cols _ fmt => rows * (cols * accSize fmt / 16)
  | .mloop d => d.ksteps
  | _ => 0

/-- The units that an operation has not performed, the lowest first: one that is held holds none of the others (R219, R365). -/
def Op.left (o : Op) : List Nat := o.nextUnit :: (List.range o.kind.size).filter (fun u => u != o.nextUnit && !o.units.elem u)

/-- The moves of an engine operation. -/
def opMoves (o : Op) : List Input :=
  match o.st with
  | .queued => [.ev (.engineQueueStart o.id), .ev (.matrixCommandPerform o.core)]
  | .started =>
    o.left.flatMap (fun u => [.ev (.copyUnit o.id u), .ev (.kstep o.id u)]) ++
      [.ev (.winnowShortlist o.id), .ev (.tagWaitTimeout (.mloop o.id))]
  | .done => [.ev (.engineOperationComplete o.id)]
  | _ => []

/-- The moves of a packet. -/
def pktMoves (p : Pkt) : List Input :=
  let k := p.key
  [.ev (.packetStart k.ctx k.q k.num), .ev (.barrierEvaluate k.ctx k.q k.num), .ev (.flowEntryTake k.ctx k.q k.num),
   .ev (.packingDelayExpiry k.ctx k.q k.num), .ev (.packetComplete k.ctx k.q k.num)]

/-- The moves of a hardware queue slot: its next packet is taken, whatever its type. -/
def slotMoves (x : Slot) : List Input :=
  [.ev (.launch x.ctx x.q), .ev (.flowlaunch x.ctx x.q), .ev (.barrierAnd x.ctx x.q), .ev (.barrierOr x.ctx x.q),
   .ev (.copyPacket x.ctx x.q), .ev (.tickcfg x.ctx x.q), .ev (.tickcfgStop x.ctx x.q), .ev (.unassignedPacketType x.ctx x.q),
   .ev (.timeSliceEnd x.slot)]

/-- The moves that the machine may make by itself; one that cannot be made now changes nothing. -/
def State.moves (s : State) : List Input :=
  (match s.host.inbox with | [] => [] | (_, m) :: _ => [.ev (messageInstr (m.toNat % 256))]) ++
  s.ctxs.map (fun c => .ev (.queueExamine c.num (s.turn % max 1 c.qcount))) ++
  s.queues.flatMap (fun q => [.ev (.queueExamine q.ctx q.q), .ev (.queueSlotMap q.ctx q.q)]) ++ s.slots.flatMap slotMoves ++
  s.pkts.flatMap pktMoves ++
  s.wgs.flatMap (fun g => if g.st == .resident then [.ev (.preempt g.wid)] else [.ev (.placeWorkgroup g.wid)]) ++
  s.wgs.flatMap (fun g => if g.st == .resident then g.warps.flatMap (warpMoves g.core) else []) ++ s.ops.flatMap opMoves ++
  (List.range s.fab.arrivals.length).flatMap (fun n => [.ev (.arrivalAdmit (.ingress n)), .ev (.tagWaitTimeout (.arrival (.ingress n)))]) ++
  s.fab.wc.map (fun e => .ev (.wcAgeing e.core e.line)) ++
  s.streams.flatMap (fun x => [.ev (.tickDue x.ctx x.id.toNat), .ev (.tickGraceExpiry x.ctx x.id.toNat)]) ++
  [.ev (.ringConsumedPoll .fault), .ev (.ringConsumedPoll .service), .ev (.ringConsumedPoll .storeLog), .ev .gleanerSweep,
   .ev .tbHoldover, .ev .idleEntry, .ev .telemetrySend, .ev .bootSourceRetry, .ev .darkLimitExpiry] ++
  (if s.obs.sampleAt.isEmpty then [] else [.ev (.samplerSample (s.turn % Config.cores))]) ++ [.ev .coreClockCycle]

/-- The next move: the head of the agenda, or, when it is empty, the machine's own moves in turn. Soft errors that the last move has
written over are forgotten (R362). -/
def State.pop (s : State) : Input × State :=
  let s := { s.forgetTold with free := s.free + 1 }
  match s.agenda with
  | i :: rest => (i, { s with agenda := rest })
  | [] => ((s.moves[s.turn % s.moves.length]?).getD (.ev .coreClockCycle), { s with turn := s.turn + 1 })

/-! ### Placing an instruction (log 2) -/

/-- Where the placed instruction lies: virtual and physical address alike. -/
def placeAt : Word := 0x10000

/-- A context whose page table maps the first GiB onto itself. -/
def placeCtx : Context :=
  { num := 0, priv := true, ptroot := 0x1000, qtab := 0, qcount := 0, tslice := 0, cring := 0, crlen := 1, tagto := 0,
    privbase := 0x400000000000, privhwm := 0, tbudget := 0, copymode := 0, evovf := 0, evovfn := 0, events := [], evRegs := [],
    crNum := [], breaks := [], saved := false }

/-- The kernel of the placed instruction: 16 lanes of 256 registers, every scalar register. -/
def placeKernel : Kernel :=
  { entry := placeAt, data := 0, trapv := 0, scratch := 4096, lanes := 16, regs := 256, scalars := 64, stages := 1, producer := 0,
    fclass := 0 }

/-- Its launch. -/
def placeLaunch : Launch :=
  { flow := false, id := 0, kernel := placeKernel, args := 0, wgw := 1, accRows := 0, slotSz := 8192, gx := 1, gy := 1, gz := 1,
    next := 1, firstDispatch := 0, fqd := 0, delay := 0, budget := none, taken := 0, closed := true, filling := [], fillAt := 0,
    parkedItems := [], copymode := 0 }

/-- Its warp: every lane stands at the instruction, in a clause of CLASS 7 that holds it, or before a header. -/
def placeWarp (w : Word) : Warp :=
  let words := if wordMajor w == 0x01 then 2 else 1
  let cl := if wordMajor w == 0x02 then none else some { hdr := placeAt - 8, words := words, cls := 7 }
  let v := Warp.start placeKernel 0 (gridItems placeLaunch 0 0)
  { v with lanes := v.lanes.map (fun x => { x with clause := cl }) }

/-- A machine whose next step fetches and runs the instruction in 16 bytes. -/
def State.place (s : State) (bs : List Byte) : State :=
  let g := Wg.start s.nextWid { ctx := 0, q := 0, num := 0 } placeLaunch 0 0 0 0 (0, 0, 0) false
    [placeWarp (wordOf (bs.take 8))]
  let hbm := Memory.write (Memory.write (Memory.write s.mem.hbm 0x1000 (leBytes 8 0x2001)) 0x2000 (leBytes 8 0x8F))
    placeAt.toNat bs
  { s with agenda := [.issue 0 0], issue := none, hole := none, nextWid := s.nextWid + 1,
           mem := { s.mem with hbm := hbm, poison := [], badPte := [], badInstr := [], tlb := [], above := [] },
           ctxs := placeCtx :: s.ctxs.filter (fun c => c.num != 0),
           wgs := { g with st := .resident, core := 0 } :: s.wgs.filter (fun h => h.wid != s.nextWid) }

end Sys2Proof.Machine
end

