-- ==== Sys2Proof/Machine/IntOps.lean ====
section
/-!
DEFINITION. The integer, logic, shift and bit functions of spec/06_ref_lane_arithmetic.md R124 to R141 on lane values: a
64-bit type is the whole Word, a 32-bit or packed type its low 32 bits.
-/
namespace Sys2Proof.Machine

/-- Operand width in bits of a type: 32 or 64. -/
def valBits (t : BitVec 4) : Nat := if tyWide t then 64 else 32

/-- A value cut to its type's width. -/
def cut (t : BitVec 4) (x : Word) : Word := if tyWide t then x else x &&& 0xFFFFFFFF

/-- A function of elements, element by element (R70). -/
def mapElems (t : BitVec 4) (f : Nat → Nat → Nat → Nat) (a b c : Word) : Word :=
  ofElems t ((elems t).map (fun i => f (elemAt t a i) (elemAt t b i) (elemAt t c i)))

/-- R124: exact integers, MOD bits 6, 8 and 7 on the sources, the member's function, and the fit. -/
def intArith (f : Nat → Int → Int → Int → Int) (t mod : BitVec 4) (a b c : Word) : Word :=
  let w := elemBits t
  let sg := tySigned t
  mapElems t (fun x y z =>
    let x := intOf sg w x
    let x := if mod.getLsbD 0 then (x.natAbs : Int) else x
    let x := if mod.getLsbD 2 then -x else x
    let y := intOf sg w y
    let y := if mod.getLsbD 1 then -y else y
    fit (mod.getLsbD 3) sg w (f w x y (intOf sg w z))) a b c

/-- The functions of R125. -/
def fnAdd (_ : Nat) (a b _ : Int) : Int := a + b
def fnSub (_ : Nat) (a b _ : Int) : Int := a - b
def fnMul (_ : Nat) (a b _ : Int) : Int := a * b
def fnMulh (w : Nat) (a b _ : Int) : Int := a * b / (2 ^ w : Nat)
def fnMad (_ : Nat) (a b c : Int) : Int := a * b + c
def fnMin (_ : Nat) (a b _ : Int) : Int := if b < a then b else a
def fnMax (_ : Nat) (a b _ : Int) : Int := if a < b then b else a
def fnAbs (_ : Nat) (a _ _ : Int) : Int := a.natAbs
def fnNeg (_ : Nat) (a _ _ : Int) : Int := -a
def fnDiff (_ : Nat) (a b _ : Int) : Int := (a - b).natAbs

/-- The exact value of a single-element integer source with its MOD bits (R124, R126). -/
def intSource (t : BitVec 4) (neg abs : Bool) (x : Word) : Int :=
  let v := intOf (tySigned t) (elemBits t) x.toNat
  let v := if abs then (v.natAbs : Int) else v
  if neg then -v else v

/-- ICMP (R126). -/
def intCmp (cc : Nat) (t mod : BitVec 4) (a b : Word) : Bool :=
  condHolds cc (ordInt (intSource t (mod.getLsbD 2) (mod.getLsbD 0) a) (intSource t (mod.getLsbD 1) false b))

/-- ICVT (R128). -/
def intCvt (td ts : BitVec 4) (sat : Bool) (a : Word) : Word :=
  BitVec.ofNat 64 (fit sat (tySigned td) (elemBits td) (intOf (tySigned ts) (elemBits ts) a.toNat))

/-- Quotient and remainder of a division that is not by zero (R129). -/
def intDivRem (t : BitVec 4) (a b : Word) : Word × Word :=
  let w := elemBits t
  let x := intOf (tySigned t) w a.toNat
  let y := intOf (tySigned t) w b.toNat
  (BitVec.ofNat 64 (wrap w (Int.tdiv x y)), BitVec.ofNat 64 (wrap w (Int.tmod x y)))

/-- LOP3 (R132). -/
def lop3Fn (tt : Nat) (a b d : Word) : Word :=
  let pick (i : Nat) : Word := if tt / 2 ^ i % 2 == 1 then
      ((if i / 4 % 2 == 1 then a else ~~~a) &&& (if i / 2 % 2 == 1 then b else ~~~b) &&& (if i % 2 == 1 then d else ~~~d))
    else 0
  (List.range 8).foldl (fun acc i => acc ||| pick i) 0

/-- All ones of width w when b holds, else 0. -/
def ones (w : Nat) (b : Bool) : Nat := if b then 2 ^ w - 1 else 0

/-- SHL, SHR, SAR on one element (R133). -/
def shlFn (w x n : Nat) : Nat := if w ≤ n then 0 else x * 2 ^ n % 2 ^ w
def shrFn (w x n : Nat) : Nat := if w ≤ n then 0 else x / 2 ^ n
def sarFn (w x n : Nat) : Nat :=
  let top := 2 ^ (w - 1) ≤ x
  if w ≤ n then ones w top else x / 2 ^ n + (if top then 2 ^ w - 2 ^ (w - n) else 0)

/-- ROL, ROR (R134). -/
def rolFn (w x n : Nat) : Nat := let k := n % w; x * 2 ^ k % 2 ^ w + x / 2 ^ (w - k)
def rorFn (w x n : Nat) : Nat := rolFn w x (w - n % w)

/-- FSHL, FSHR (R134). -/
def fshlFn (w x y n : Nat) : Nat :=
  let k := min n (2 * w)
  (x * 2 ^ w + y) * 2 ^ k % 2 ^ (2 * w) / 2 ^ w
def fshrFn (w x y n : Nat) : Nat :=
  let k := min n (2 * w)
  (x * 2 ^ w + y) / 2 ^ k % 2 ^ w

/-! ### Bits (R135 to R141) -/

/-- The number whose bit i, i < w, is f i. -/
def ofBits (w : Nat) (f : Nat → Bool) : Nat := (List.range w).foldl (fun acc i => if f i then acc + 2 ^ i else acc) 0

/-- The positions of the set bits of a w-bit value, ascending. -/
def setBits (w : Nat) (x : Nat) : List Nat := (List.range w).filter (fun i => x.testBit i)

def popcFn (w x : Nat) : Nat := (setBits w x).length
def clzFn (w x : Nat) : Nat := w - bitLen (x % 2 ^ w)
def ctzFn (w x : Nat) : Nat := (setBits w x).headD w
def fnsFn (w x n : Nat) : Nat := ((setBits w x)[n]?).getD (2 ^ w - 1)
def brevFn (w x : Nat) : Nat := ofBits w (fun i => x.testBit (w - 1 - i))

/-- The field of a spec operand: offset and length (R136). -/
def bfSpec (w spec : Nat) : Nat × Nat :=
  let o := min (spec % 256) w
  (o, min (spec / 256 % 256) (w - o))

def bfxFn (w x spec : Nat) : Nat := let (o, n) := bfSpec w spec; x / 2 ^ o % 2 ^ n
def bfxsFn (w x spec : Nat) : Nat :=
  let (o, n) := bfSpec w spec
  if n == 0 then 0 else wrap w (signedOf n (x / 2 ^ o))
def bfiFn (w x y spec : Nat) : Nat :=
  let (o, n) := bfSpec w spec
  x % 2 ^ o + y % 2 ^ n * 2 ^ o + x / 2 ^ (o + n) * 2 ^ (o + n)

/-- The slots of PDEP and PEXT in the order `up` or `dn` (R137). -/
def slots (w mask : Nat) (dn : Bool) : List Nat := if dn then (setBits w mask).reverse else setBits w mask

def pdepFn (w x mask : Nat) (dn : Bool) : Nat :=
  (((slots w mask dn).zipIdx).foldl (fun acc p => if x.testBit p.2 then acc + 2 ^ p.1 else acc) 0)
def pextFn (w x mask : Nat) (dn : Bool) : Nat :=
  (((slots w mask dn).zipIdx).foldl (fun acc p => if x.testBit p.1 then acc + 2 ^ p.2 else acc) 0)

/-- BPERM (R138): bit j of the result is bit idx(j) of A, the planes giving the bits of idx(j). -/
def bpermFn (a : Word) (planes : List Word) : Word :=
  BitVec.ofNat 64 (ofBits 64 (fun j =>
    a.getLsbD ((planes.zipIdx).foldl (fun acc p => if p.1.getLsbD j then acc + 2 ^ p.2 else acc) 0)))

/-- GF2MM (R139). -/
def gf2mmFn (a b : Word) : Word :=
  BitVec.ofNat 64 (ofBits 64 (fun n =>
    (List.range 8).foldl (fun acc k => acc != (a.getLsbD (8 * (n / 8) + k) && b.getLsbD (8 * k + n % 8))) false))

/-- PRMB (R140). -/
def prmbFn (a b sel : Word) : Word :=
  let pool := a.toNat % 2 ^ 32 + 2 ^ 32 * (b.toNat % 2 ^ 32)
  let byte (i : Nat) : Nat :=
    let s := sel.toNat / 2 ^ (4 * i) % 16
    let q := pool / 2 ^ (8 * (s % 8)) % 256
    if s < 8 then q else ones 8 (128 ≤ q)
  BitVec.ofNat 64 (byte 0 + 256 * byte 1 + 65536 * byte 2 + 16777216 * byte 3)

/-- mix64 (R91). -/
def mix64 (x : Word) : Word :=
  let x := x ^^^ (x >>> 31)
  let x := x * 0xD6E8FEB86659FD93
  let x := x ^^^ (x >>> 29)
  let x := x * 0x9E6C63D0676A9A99
  x ^^^ (x >>> 32)

end Sys2Proof.Machine
end

