-- ==== Sys2Proof/Machine/Integer.lean ====
section
/-!
DEFINITION. The integer families 0x10 and 0x11 (spec/06_ref_lane_arithmetic.md R124 to R131): one meaning for each row.
-/
namespace Sys2Proof.Machine

/-- Two sources of the instruction's type. -/
def srcAB (w : FmtA) : List (Code × BitVec 4) := [(w.a, w.ty), (w.b, w.ty)]
/-- Three sources of the instruction's type. -/
def srcABC (w : FmtA) : List (Code × BitVec 4) := [(w.a, w.ty), (w.b, w.ty), (w.c, w.ty)]

/-- The mould of R124 over a member's function. -/
def intEntry (w : FmtA) (srcs : List (Code × BitVec 4)) (f : Nat → Int → Int → Int → Int) : Entry :=
  { dst := w.d, ty := w.ty, srcs := srcs,
    fn := fun _ vs => plainRes vs (intArith f w.ty w.mod (argv vs 0) (argv vs 1) (argv vs 2)) }

/-- The mould of R130: the immediate stands in place of B, with MOD 0. -/
def immEntry (w : FmtI) (dflt : BitVec 4) (f : BitVec 4 → Word → Word → Word) : Entry :=
  { dst := w.d, ty := w.ty dflt, srcs := [(w.a, w.ty dflt)],
    fn := fun _ vs => plainRes vs (f (w.ty dflt) (argv vs 0) (immOf w dflt)) }
where
  /-- The immediate of R130. -/
  immOf (w : FmtI) (dflt : BitVec 4) : Word :=
    if tyWide (w.ty dflt) then
      match w.px with
      | none => w.imm.signExtend 64
      | some p => (p.ximm ++ w.imm).signExtend 64
    else w.imm.setWidth 64

/-- The immediate of ICMP: sext of IMM32[28:0], with XIMM above it on a 64-bit type (R131). -/
def cmpImm (w : FmtI) : Word :=
  let low : BitVec 29 := w.imm.extractLsb' 0 29
  if tyWide (w.ty 0) then
    match w.px with
    | none => low.signExtend 64
    | some p => (p.ximm ++ low).signExtend 64
  else (low.signExtend 32).setWidth 64

/-- Division and remainder (R129): `rem` selects the remainder. -/
def divEntry (w : FmtA) (rem : Bool) : Entry :=
  { dst := w.d, ty := w.ty, srcs := srcAB w,
    fn := fun _ vs =>
      let a := argv vs 0
      let b := argv vs 1
      if b.toNat % 2 ^ elemBits w.ty == 0 then
        { plainRes vs (if rem then a else BitVec.ofNat 64 (2 ^ elemBits w.ty - 1)) [Conds.divZero] with div0 := true }
      else plainRes vs (if rem then (intDivRem w.ty a b).2 else (intDivRem w.ty a b).1) }

/-- IADD (R125). -/
def execIadd (w : FmtA) (s : State) : Host.Outcome State Fault Refusal :=
  laneOp (.iadd w) (intEntry w (srcAB w) fnAdd) s
/-- ISUB (R125). -/
def execIsub (w : FmtA) (s : State) : Host.Outcome State Fault Refusal :=
  laneOp (.isub w) (intEntry w (srcAB w) fnSub) s
/-- IMUL (R125). -/
def execImul (w : FmtA) (s : State) : Host.Outcome State Fault Refusal :=
  laneOp (.imul w) (intEntry w (srcAB w) fnMul) s
/-- IMULH (R125). -/
def execImulh (w : FmtA) (s : State) : Host.Outcome State Fault Refusal :=
  laneOp (.imulh w) (intEntry w (srcAB w) fnMulh) s
/-- IMAD (R125). -/
def execImad (w : FmtA) (s : State) : Host.Outcome State Fault Refusal :=
  laneOp (.imad w) (intEntry w (srcABC w) fnMad) s
/-- IMIN (R125). -/
def execImin (w : FmtA) (s : State) : Host.Outcome State Fault Refusal :=
  laneOp (.imin w) (intEntry w (srcAB w) fnMin) s
/-- IMAX (R125). -/
def execImax (w : FmtA) (s : State) : Host.Outcome State Fault Refusal :=
  laneOp (.imax w) (intEntry w (srcAB w) fnMax) s
/-- IDIFF (R125). -/
def execIdiff (w : FmtA) (s : State) : Host.Outcome State Fault Refusal :=
  laneOp (.idiff w) (intEntry w (srcAB w) fnDiff) s
/-- IABS (R125). -/
def execIabs (w : FmtA) (s : State) : Host.Outcome State Fault Refusal :=
  laneOp (.iabs w) (intEntry w [(w.a, w.ty)] fnAbs) s
/-- INEG (R125). -/
def execIneg (w : FmtA) (s : State) : Host.Outcome State Fault Refusal :=
  laneOp (.ineg w) (intEntry w [(w.a, w.ty)] fnNeg) s
/-- ICMP (R126). -/
def execIcmp (w : FmtA) (s : State) : Host.Outcome State Fault Refusal :=
  laneOp (.icmp w)
    { dst := w.d, ty := w.ty, toPred := true, srcs := srcAB w,
      fn := fun _ vs => plainRes vs (if intCmp (w.c.toNat % 8) w.ty w.mod (argv vs 0) (argv vs 1) then 1 else 0) } s
/-- SEL (R127): the chosen source's poison, with that of the selecting predicate. -/
def execSel (w : FmtA) (s : State) : Host.Outcome State Fault Refusal :=
  laneOp (.sel w)
    { dst := w.d, ty := w.ty, srcs := srcAB w, preds := [w.c.toNat % 8], guard := w.mod,
      fn := fun _ vs =>
        match vs with
        | [a, b, p] => { r := if p.v == 1 then { a with p := a.p || p.p } else { b with p := b.p || p.p } }
        | _ => { r := { v := 0 } } } s
/-- ICVT (R128). -/
def execIcvt (w : FmtA) (s : State) : Host.Outcome State Fault Refusal :=
  laneOp (.icvt w)
    { dst := w.d, ty := w.ty, srcs := [(w.a, w.ts)],
      fn := fun _ vs => plainRes vs (intCvt w.ty w.ts (w.mod.getLsbD 3) (argv vs 0)) } s
/-- IDIV (R129). -/
def execIdiv (w : FmtA) (s : State) : Host.Outcome State Fault Refusal := laneOp (.idiv w) (divEntry w false) s
/-- IREM (R129). -/
def execIrem (w : FmtA) (s : State) : Host.Outcome State Fault Refusal := laneOp (.irem w) (divEntry w true) s
/-- IADD, immediate form (R131). -/
def execIaddImm (w : FmtI) (s : State) : Host.Outcome State Fault Refusal :=
  laneOp (.iaddImm w) (immEntry w 0 (fun t a b => intArith fnAdd t 0 a b 0)) s
/-- IMUL, immediate form (R131). -/
def execImulImm (w : FmtI) (s : State) : Host.Outcome State Fault Refusal :=
  laneOp (.imulImm w) (immEntry w 0 (fun t a b => intArith fnMul t 0 a b 0)) s
/-- IMIN, immediate form (R131). -/
def execIminImm (w : FmtI) (s : State) : Host.Outcome State Fault Refusal :=
  laneOp (.iminImm w) (immEntry w 0 (fun t a b => intArith fnMin t 0 a b 0)) s
/-- IMAX, immediate form (R131). -/
def execImaxImm (w : FmtI) (s : State) : Host.Outcome State Fault Refusal :=
  laneOp (.imaxImm w) (immEntry w 0 (fun t a b => intArith fnMax t 0 a b 0)) s
/-- AND, immediate form (R131). -/
def execAndImm (w : FmtI) (s : State) : Host.Outcome State Fault Refusal :=
  laneOp (.andImm w) (immEntry w 1 (fun t a b => cut t (a &&& b))) s
/-- OR, immediate form (R131). -/
def execOrImm (w : FmtI) (s : State) : Host.Outcome State Fault Refusal :=
  laneOp (.orImm w) (immEntry w 1 (fun t a b => cut t (a ||| b))) s
/-- XOR, immediate form (R131). -/
def execXorImm (w : FmtI) (s : State) : Host.Outcome State Fault Refusal :=
  laneOp (.xorImm w) (immEntry w 1 (fun t a b => cut t (a ^^^ b))) s
/-- A shift by zext(IMM32) (R131). -/
def shiftEntry (w : FmtI) (dflt : BitVec 4) (f : Nat → Nat → Nat → Nat) : Entry :=
  { dst := w.d, ty := w.ty dflt, srcs := [(w.a, w.ty dflt)],
    fn := fun _ vs => plainRes vs (BitVec.ofNat 64 (f (elemBits (w.ty dflt)) (argv vs 0).toNat w.imm.toNat)) }
/-- SHL, immediate form (R131). -/
def execShlImm (w : FmtI) (s : State) : Host.Outcome State Fault Refusal :=
  laneOp (.shlImm w) (shiftEntry w 1 shlFn) s
/-- SHR, immediate form (R131). -/
def execShrImm (w : FmtI) (s : State) : Host.Outcome State Fault Refusal :=
  laneOp (.shrImm w) (shiftEntry w 1 shrFn) s
/-- SAR, immediate form (R131). -/
def execSarImm (w : FmtI) (s : State) : Host.Outcome State Fault Refusal :=
  laneOp (.sarImm w) (shiftEntry w 0 sarFn) s
/-- ICMP, immediate form (R131). -/
def execIcmpImm (w : FmtI) (s : State) : Host.Outcome State Fault Refusal :=
  laneOp (.icmpImm w)
    { dst := w.d, ty := w.ty 0, toPred := true, srcs := [(w.a, w.ty 0)],
      fn := fun _ vs => plainRes vs (if intCmp (w.imm.toNat / 2 ^ 29) (w.ty 0) 0 (argv vs 0) (cmpImm w) then 1 else 0) } s
/-- MOVI (R131). -/
def execMovi (w : FmtI) (s : State) : Host.Outcome State Fault Refusal :=
  laneOp (.movi w) { dst := w.d, ty := w.ty 1, srcs := [], fn := fun _ _ => plainRes [] (immEntry.immOf w 1) } s

end Sys2Proof.Machine
end

