-- ==== Sys2Proof/Machine/Bits.lean ====
section
/-!
DEFINITION. The bit family 0x13 (spec/06_ref_lane_arithmetic.md R135 to R141).
-/
namespace Sys2Proof.Machine

/-- A function of one operand at its width (R135). -/
def bitEntry (w : FmtA) (f : Nat → Nat → Nat) : Entry :=
  { dst := w.d, ty := w.ty, srcs := [(w.a, w.ty)],
    fn := fun _ vs => plainRes vs (BitVec.ofNat 64 (f (valBits w.ty) (argv vs 0).toNat)) }

/-- A function of one operand and an n32 in B (R135, R136). -/
def bitEntryB (w : FmtA) (f : Nat → Nat → Nat → Nat) : Entry :=
  { dst := w.d, ty := w.ty, srcs := [(w.a, w.ty), (w.b, 1)],
    fn := fun _ vs => plainRes vs (BitVec.ofNat 64 (f (valBits w.ty) (argv vs 0).toNat (argv vs 1).toNat)) }

/-- PDEP and PEXT (R137): C[0] is the order. -/
def slotEntry (w : FmtA) (f : Nat → Nat → Nat → Bool → Nat) : Entry :=
  { dst := w.d, ty := w.ty, srcs := srcAB w,
    fn := fun _ vs =>
      plainRes vs (BitVec.ofNat 64 (f (valBits w.ty) (argv vs 0).toNat (argv vs 1).toNat (w.c.getLsbD 0))) }

/-- The six index planes of BPERM: pairs of lane registers, or scalar registers (R138). -/
def planeCodes (b : Code) : List (Code × BitVec 4) :=
  (List.range 6).map (fun t => (b + BitVec.ofNat 9 (if Code.isLane b then 2 * t else t), 3))

/-- POPC (R135). -/
def execPopc (w : FmtA) (s : State) : Host.Outcome State Fault Refusal :=
  laneOp (.popc w) (bitEntry w popcFn) s
/-- CLZ (R135). -/
def execClz (w : FmtA) (s : State) : Host.Outcome State Fault Refusal :=
  laneOp (.clz w) (bitEntry w clzFn) s
/-- CTZ (R135). -/
def execCtz (w : FmtA) (s : State) : Host.Outcome State Fault Refusal :=
  laneOp (.ctz w) (bitEntry w ctzFn) s
/-- BREV (R135). -/
def execBrev (w : FmtA) (s : State) : Host.Outcome State Fault Refusal :=
  laneOp (.brev w) (bitEntry w brevFn) s
/-- FNS (R135). -/
def execFns (w : FmtA) (s : State) : Host.Outcome State Fault Refusal :=
  laneOp (.fns w) (bitEntryB w fnsFn) s
/-- BFX (R136). -/
def execBfx (w : FmtA) (s : State) : Host.Outcome State Fault Refusal :=
  laneOp (.bfx w) (bitEntryB w bfxFn) s
/-- BFXS (R136). -/
def execBfxs (w : FmtA) (s : State) : Host.Outcome State Fault Refusal :=
  laneOp (.bfxs w) (bitEntryB w bfxsFn) s
/-- BFI (R136): the spec operand is in C. -/
def execBfi (w : FmtA) (s : State) : Host.Outcome State Fault Refusal :=
  laneOp (.bfi w)
    { dst := w.d, ty := w.ty, srcs := [(w.a, w.ty), (w.b, w.ty), (w.c, 1)],
      fn := fun _ vs =>
        plainRes vs (BitVec.ofNat 64 (bfiFn (valBits w.ty) (argv vs 0).toNat (argv vs 1).toNat (argv vs 2).toNat)) } s
/-- PDEP (R137). -/
def execPdep (w : FmtA) (s : State) : Host.Outcome State Fault Refusal :=
  laneOp (.pdep w) (slotEntry w pdepFn) s
/-- PEXT (R137). -/
def execPext (w : FmtA) (s : State) : Host.Outcome State Fault Refusal :=
  laneOp (.pext w) (slotEntry w pextFn) s
/-- BPERM (R138). -/
def execBperm (w : FmtA) (s : State) : Host.Outcome State Fault Refusal :=
  laneOp (.bperm w)
    { dst := w.d, ty := w.ty, srcs := (w.a, w.ty) :: planeCodes w.b,
      fn := fun _ vs => plainRes vs (bpermFn (argv vs 0) ((vs.drop 1).map (·.v))) } s
/-- GF2MM (R139). -/
def execGf2mm (w : FmtA) (s : State) : Host.Outcome State Fault Refusal :=
  laneOp (.gf2mm w)
    { dst := w.d, ty := w.ty, srcs := srcAB w,
      fn := fun _ vs => plainRes vs (gf2mmFn (argv vs 0) (argv vs 1)) } s
/-- PRMB (R140). -/
def execPrmb (w : FmtA) (s : State) : Host.Outcome State Fault Refusal :=
  laneOp (.prmb w)
    { dst := w.d, ty := w.ty, srcs := srcABC w,
      fn := fun _ vs => plainRes vs (prmbFn (argv vs 0) (argv vs 1) (argv vs 2)) } s
/-- MIX64 (R141). -/
def execMix64 (w : FmtA) (s : State) : Host.Outcome State Fault Refusal :=
  laneOp (.mix64 w)
    { dst := w.d, ty := w.ty, srcs := [(w.a, w.ty)],
      fn := fun _ vs => plainRes vs (Machine.mix64 (argv vs 0)) } s

end Sys2Proof.Machine
end

