-- ==== Sys2Proof/Machine/Control.lean ====
section
/-!
DEFINITION. Families 0x28 and 0x29: branches, calls, team-calls, exit, barriers and waiting
(spec/07_ref_control_teams_flows.md R174 to R187).
-/
namespace Sys2Proof.Machine

/-! ### Moving the PC -/

/-- A lane goes to an address: it leaves its clause, and the instruction counts in its windows (R95, R106). -/
def Lane.goto (x : Lane) (pc : Word) : Lane := { x.advance pc with clause := none }

/-- What a control instruction does in one lane. -/
inductive Move where
  | go (pc : Word)
  | stop (st : Stop)
  | wait (on : WaitOn)
  deriving DecidableEq, Repr

/-- The address that a lane goes to. -/
def Move.pc? : Move → Option Word
  | .go pc => some pc
  | _ => none

/-- The waits among the moves. -/
def moveWaits (outs : List (Nat × Move)) : List (Nat × WaitOn × Bool) :=
  outs.filterMap (fun o => match o.2 with | .wait on => some (o.1, on, false) | _ => none)

/-- The stops among the moves. -/
def moveStops (outs : List (Nat × Move)) : List (Nat × Stop) :=
  outs.filterMap (fun o => match o.2 with | .stop st => some (o.1, st) | _ => none)

/-- One lane that moves: it acts, then goes. -/
def State.moveLane (cx : Cx) (act : State → Nat → State) (s : State) (o : Nat × Move) : State :=
  match o.2 with
  | .go pc => (act s o.1).mapLane cx.wid cx.k o.1 (fun x => x.goto pc)
  | _ => s

/-- Lanes move or stop; if one must wait, none moves. `act` is done for each lane that moves, before it moves. -/
def State.move (s : State) (cx : Cx) (act : State → Nat → State) (outs : List (Nat × Move)) : State :=
  match moveWaits outs with
  | x :: xs => s.stall cx (x :: xs)
  | [] => (outs.foldl (State.moveLane cx act) s).stopLanes cx.wid cx.k cx.pc cx.next false (moveStops outs)

/-- A move in each executing lane. -/
def State.moveAll (s : State) (cx : Cx) (act : State → Nat → State) (f : Nat → Lane → Move) : State :=
  s.move cx act (cx.lanes.map (fun l => (l, match cx.lane? l with | some x => f l x | none => .go cx.next)))

/-- Nothing more than the move. -/
def noAct (s : State) (_ : Nat) : State := s

/-- The page of the private slot that a lane's newest spilled frame lies in, or would lie in. -/
def stackPage (cx : Cx) (l k : Nat) : Nat := spillAt cx.ctx cx.g cx.w l k / 4096

/-- A push as a move needs it: the move, a fault, or a wait at a page in repair. -/
def pushed (cx : Cx) (l : Nat) (g : Got) (x : Lane) (m : Move) : Move :=
  match g with
  | .bytes _ => m
  | .stall => .wait (.repair (stackPage cx l x.spilled))
  | _ => .stop x.stackStop

/-- The push of a call frame. -/
def State.callFrame (s : State) (cx : Cx) (l : Nat) : State :=
  match s.lane? cx.wid cx.k l with
  | some x => s.pushFrame cx l x (frameOf false cx.next)
  | none => s

/-! ### Branches (R174, R175) -/

/-- The target of a format-B word: words from the word itself (R102). -/
def branchTarget (w : FmtB) (wpc : Word) : Word := wpc + w.disp.signExtend 64 * 8

/-- BR (R174). -/
def execBr (w : FmtB) (s : State) : Host.Outcome State Fault Refusal :=
  withCx s (fun cx => s.moveAll cx noAct (fun _ x =>
    match gateGuard x w.guard with
    | .poison => .stop (poisonStop x 3)
    | .pass => .go (branchTarget w cx.wpc)
    | _ => .go cx.next))

/-- CALL (R174). -/
def execCall (w : FmtB) (s : State) : Host.Outcome State Fault Refusal :=
  withCx s (fun cx =>
    let takes : Nat → Bool := fun l => match cx.lane? l with | some x => gateGuard x w.guard == .pass | none => false
    s.moveAll cx (fun s l => if takes l then s.callFrame cx l else s) (fun l x =>
      match gateGuard x w.guard with
      | .poison => .stop (poisonStop x 3)
      | .pass => pushed cx l (s.canPush cx l x) x (.go (branchTarget w cx.wpc))
      | _ => .go cx.next))

/-- UNIFCNT grows by one, saturating (R175). -/
def Warp.countDiffer (w : Warp) : Warp := { w with unifcnt := if w.unifcnt == 0xFFFFFFFF then w.unifcnt else w.unifcnt + 1 }

/-- BRU (R175): the lowest lane whose guard is not poisoned leads; outcomes are compared, not the addresses that they name. -/
def execBru (w : FmtB) (s : State) : Host.Outcome State Fault Refusal :=
  withCx s (fun cx =>
    let takes := fun (x : Lane) => gateGuard x w.guard == .pass
    let way := fun (t : Bool) => if t then branchTarget w cx.wpc else cx.next
    let clean := cx.lanes.filterMap (fun l => (cx.lane? l).bind (fun x => if gateGuard x w.guard == .poison then none else some (takes x)))
    let lead := clean.headD false
    let s := if clean.any (fun t => t != lead) then s.mapWarp cx.wid cx.k Warp.countDiffer else s
    s.moveAll cx noAct (fun _ x =>
      if gateGuard x w.guard == .poison then .stop (poisonStop x 3)
      else if takes x != lead && x.trapen.getLsbD 16 then .stop (.trap .uniformity 0 (way (takes x)) (some (way (takes x))) 0)
      else .go (way lead)))

/-! ### Indirect jumps and returns (R177, R178) -/

/-- The 64-bit target of JMPI and CALLI in a lane. -/
def jumpTarget (s : State) (cx : Cx) (w : FmtA) (l : Nat) : Val := readOp s cx l 3 w.a

/-- JMPI (R177). -/
def execJmpi (w : FmtA) (s : State) : Host.Outcome State Fault Refusal :=
  withCx s (fun cx => s.moveAll cx noAct (fun l x =>
    let t := jumpTarget s cx w l
    if t.p then .stop (poisonStop x 4) else .go t.v))

/-- CALLI (R177). -/
def execCalli (w : FmtA) (s : State) : Host.Outcome State Fault Refusal :=
  withCx s (fun cx => s.moveAll cx (fun s l => s.callFrame cx l) (fun l x =>
    let t := jumpTarget s cx w l
    if t.p then .stop (poisonStop x 4) else pushed cx l (s.canPush cx l x) x (.go t.v)))

/-- A lane's stack with its newest frame on chip, if it can be read (log 27), and what the read does. -/
def State.ready (s : State) (cx : Cx) (l : Nat) (x : Lane) : State × Lane := if x.ret.isEmpty then s.refill cx.ctx cx.g cx.w l x else (s, x)

/-- Whether the newest frame waits for a page in repair. -/
def State.frameStalls (s : State) (cx : Cx) (l : Nat) (x : Lane) : Bool :=
  x.ret.isEmpty && x.spilled != 0 && s.agentRead 7 cx.ctx (spillAt cx.ctx cx.g cx.w l (x.spilled - 1)) 8 == .stall

/-- What the reads of the newest frames of the executing lanes do. -/
def State.readFrames (s : State) (cx : Cx) : State :=
  cx.lanes.foldl (fun s l => match cx.lane? l with | some x => (s.ready cx l x).1 | none => s) s

/-- RET (R178). -/
def execRet (_ : FmtA) (s : State) : Host.Outcome State Fault Refusal :=
  withCx s (fun cx =>
    (s.readFrames cx).moveAll cx
      (fun t l =>
        match cx.lane? l with
        | none => t
        | some x =>
          let r := t.popFrame cx.ctx cx.g cx.w l (s.ready cx l x).2
          r.1.mapLane cx.wid cx.k l (fun _ => r.2))
      (fun l x =>
        if s.frameStalls cx l x then .wait (.repair (stackPage cx l (x.spilled - 1)))
        else
          match (s.ready cx l x).2.ret with
          | [] => .stop x.stackStop
          | f :: _ => if isTeamFrame f then .stop x.teamStop else .go (frameAddr f)))

/-! ### Team-calls (R179 to R182) -/

/-- The callee with the largest remainder not yet given an extra lane, ties to the lower index. -/
def largestRem : List (Nat × Nat) → Option Nat
  | [] => none
  | x :: xs => some (xs.foldl (fun a b => if a.2 < b.2 then b else a) x).1

/-- The extra lanes, one each to the largest remainders. -/
def giveExtras : Nat → List (Nat × Nat) → List Nat → List Nat
  | 0, _, q => q
  | n + 1, rems, q =>
    match largestRem rems with
    | none => q
    | some i => giveExtras n (rems.filter (fun r => r.1 != i)) (q.modify i (· + 1))

/-- The lanes of each callee: T lanes in weights ws, whose sum is not 0 (R179). -/
def shares (t : Nat) (ws : List Nat) : List Nat :=
  let sum := ws.foldl (· + ·) 0
  let q := ws.map (fun w => t * w / sum)
  giveExtras (t - q.foldl (· + ·) 0) ((List.range ws.length).zip (ws.map (fun w => t * w % sum))) q

/-- The callee of each lane, in rank order. -/
def assign : Nat → List Nat → List Nat → List (Nat × Nat)
  | _, [], _ => []
  | i, q :: qs, ls => (ls.take q).map (fun l => (l, i)) ++ assign (i + 1) qs (ls.drop q)

/-- Whether a lane can take part in a team-call: its frame, and its mask entry from level 8, can be written. -/
def State.canOpen (s : State) (cx : Cx) (l : Nat) (x : Lane) : Got :=
  match s.canPush cx l x with
  | .bytes _ => if x.level + 1 < 8 then .bytes [] else s.slotCheck cx.ctx (maskAt cx.ctx cx.g cx.w l (x.level + 1))
  | r => r

/-- A lane enters its callee: frame, mask level, index. -/
def State.openTeam (s : State) (cx : Cx) (m : LaneMask) (sub l : Nat) : State :=
  match s.lane? cx.wid cx.k l with
  | none => s
  | some x =>
    let s := s.pushFrame cx l x (frameOf true cx.next)
    let s := if x.level + 1 < 8 then s else (s.agentWrite cx.ctx (maskAt cx.ctx cx.g cx.w l (x.level + 1)) (leBytes 8 m.toNat) cx.g.core cx.w.slot).1
    s.mapLane cx.wid cx.k l (fun x => x.openLevel m sub)

/-- The executing lanes of lane l's innermost team. -/
def Cx.teamOf (cx : Cx) (l : Nat) : List Nat :=
  match cx.lane? l with
  | none => []
  | some x => cx.lanes.filter (fun j => match cx.lane? j with | some y => y.inner == x.inner && y.level == x.level | none => false)

/-- The executing lanes team by team: one list for each innermost team that stands at the instruction (R38). -/
def Cx.teams (cx : Cx) : List (List Nat) :=
  (cx.lanes.filter (fun l => (cx.teamOf l).head? == some l)).map cx.teamOf

/-- Whether a lane's team cannot open a further level (R179). -/
def Cx.deepest (cx : Cx) (l : Nat) : Bool := match cx.lane? l with | some x => x.level == 31 | none => false

/-- The division of one team: each lane with its callee. -/
def teamParts (ws : List Nat) (team : List Nat) : List (Nat × Nat) := assign 0 (shares team.length ws) team

/-- The join record of one team's call: its members are the lanes that enter (R337). -/
def joinFor (cx : Cx) (enters : Nat → Bool) (team : List Nat) : List JoinRec :=
  match team.filter enters with
  | [] => []
  | l :: ls => [{ level := ((cx.lane? l).map (·.level)).getD 0 + 1, members := maskOf (l :: ls), returned := 0 }]

/-- TCALL (R179, R180, R337): each innermost team that stands at it is divided by itself. -/
def execTcall (w : FmtA) (s : State) : Host.Outcome State Fault Refusal :=
  withCx s (fun cx =>
    let n := w.c.toNat - 0x180
    let targets := (List.range n).map (fun i => readUni s cx 3 (w.a + BitVec.ofNat 9 i))
    let weight := readUni s cx 3 w.b
    let ws := (List.range n).map (fun i => bitsOf weight.v.toNat (8 * i) 8)
    if weight.p || targets.any (·.p) then s.moveAll cx noAct (fun _ x => .stop (poisonStop x 4))
    else if ws.foldl (· + ·) 0 == 0 then
      s.moveAll cx noAct (fun l x => .stop (if cx.deepest l then x.teamStop else cx.illegal))
    else
      let parts := (cx.teams.map (teamParts ws)).flatten
      let fits := fun l => match cx.lane? l with | some x => s.canOpen cx l x | none => .stall
      let enters := fun l => !cx.deepest l && (match fits l with | .bytes _ => true | _ => false)
      let callee := fun l => ((parts.find? (fun p => p.1 == l)).map (·.2)).getD 0
      let maskFor := fun l => maskOf ((cx.teamOf l).filter (fun j => enters j && callee j == callee l))
      let stalls := cx.lanes.any (fun l => !cx.deepest l && fits l == .stall)
      let joins := (cx.teams.map (joinFor cx enters)).flatten
      let s := if stalls then s else s.mapWarp cx.wid cx.k (fun w => { w with joins := w.joins ++ joins })
      s.moveAll cx (fun s l => if enters l then s.openTeam cx (maskFor l) (callee l) l else s) (fun l x =>
        if cx.deepest l then .stop x.teamStop
        else pushed cx l (fits l) x (.go (((targets[callee l]?).map (·.v)).getD 0))))

/-- TRET (R182): lanes park at the join of their call; joins that are complete let their lanes go on. -/
def execTret (_ : FmtA) (s : State) : Host.Outcome State Fault Refusal :=
  withCx s (fun cx =>
    let ok := fun l => match cx.lane? l with
      | some x => x.level != 0 && (match (s.ready cx l x).2.ret with | f :: _ => isTeamFrame f | [] => false)
      | none => false
    let stalled := cx.lanes.filter (fun l => match cx.lane? l with | some x => s.frameStalls cx l x | none => false)
    let read := s.readFrames cx
    if !stalled.isEmpty then
      read.stall cx (stalled.map (fun l => (l, .repair (stackPage cx l (((cx.lane? l).map (·.spilled)).getD 0 - 1)), false)))
    else
      let s := read.mapWarp cx.wid cx.k (fun w =>
        (cx.lanes.filter ok).foldl (fun w l =>
          { (w.mapLane l (fun x => { (s.ready cx l x).2.advance cx.pc with st := .join })) with
            joins := w.joins.map (fun j =>
              if hasLane j.members l && (match w.lanes[l]? with | some x => x.level == j.level | none => false) then
                { j with returned := j.returned ||| maskOf [l] }
              else j) }) w)
      let s := s.stopLanes cx.wid cx.k cx.pc cx.next false
        ((cx.lanes.filter (fun l => !ok l)).filterMap (fun l => (cx.lane? l).map (fun x => (l, x.teamStop))))
      State.settleJoins cx.wid cx.k 64 s)

/-! ### Exit, barriers, giving way (R183 to R187) -/

/-- The report of a stepped lane that exits stands in place of a park (R327, R350). -/
def State.reportStepped (s : State) (cx : Cx) : State :=
  let stepped := cx.lanes.filter (fun l => match cx.lane? l with | some x => x.dbg.step | none => false)
  match stepped.head?.bind cx.lane? with
  | none => s
  | some low => s.postFault (recordBytes s cx.g cx.w (maskOf stepped) low cx.pc 0 Cause.bkpt.code 2 5 false)

/-- EXIT (R183). -/
def execExit (_ : FmtA) (s : State) : Host.Outcome State Fault Refusal :=
  withCx s (fun cx => ((s.reportStepped cx).exitLanes cx.wid cx.k cx.lanes).tidy)

/-- The lanes of an arrival: with BAR they wait in the generation, with BAR.arrive they go on (R184). -/
def State.takePart (s : State) (cx : Cx) (gen : Nat) (arrive : Bool) (ls : List Nat) : State :=
  s.mapWarp cx.wid cx.k (fun w => w.mapLanes ls (fun x =>
    if arrive then { x.goto cx.next with st := .active }
    else { x with st := .waiting, wait := some { on := .barrier gen, since := s.now } }))

/-- The warp arrives at the workgroup's current generation. -/
def State.arriveBar (s : State) (cx : Cx) (arrive : Bool) : State :=
  let gen := cx.g.barGen
  let s := (s.takePart cx gen arrive cx.lanes).mapWarp cx.wid cx.k (fun w =>
    { w with lastBar := some { gen := gen, pc := cx.pc, next := cx.next, arrive := arrive, lanes := maskOf cx.lanes },
             pendBar := if arrive then some gen else w.pendBar })
  s.mapWg cx.wid (fun g => { g with barHere := g.barHere ++ [cx.k] }.settleBarrier)

/-- Lanes reach BAR after their warp's arrival, before its generation is complete: at the arrival's own word those that missed it take
part, and every other lane waits until the generation completes. -/
def State.joinBar (s : State) (cx : Cx) (b : BarArrival) (arrive : Bool) : State :=
  let late := cx.lanes.filter (fun l => b.pc == cx.pc && !hasLane b.lanes l)
  let again := cx.lanes.filter (fun l => !late.elem l)
  let s := (s.takePart cx b.gen arrive late).mapWarp cx.wid cx.k (fun w =>
    { w with lastBar := w.lastBar.map (fun b => { b with lanes := b.lanes ||| maskOf late }) })
  s.stall cx (again.map (fun l => (l, .barrier b.gen, false)))

/-- BAR and BAR.arrive (R184). -/
def barOp (arrive : Bool) (s : State) : Host.Outcome State Fault Refusal :=
  withCx s (fun cx =>
    let root := match cx.lane? cx.low with | some x => x.level == 0 | none => true
    if !root then s.moveAll cx noAct (fun _ _ => .stop cx.illegal)
    else
      match cx.g.barHere.elem cx.k, cx.w.lastBar with
      | true, some b => s.joinBar cx b arrive
      | _, _ => s.arriveBar cx arrive)

/-- BAR (R184). -/
def execBar (_ : FmtA) (s : State) : Host.Outcome State Fault Refusal := barOp false s
/-- BAR.arrive (R184). -/
def execBarArrive (_ : FmtA) (s : State) : Host.Outcome State Fault Refusal := barOp true s

/-- TBAR (R185): accesses are performed in order as they execute (log 13), so the lanes only go on. -/
def execTbar (_ : FmtA) (s : State) : Host.Outcome State Fault Refusal :=
  withCx s (fun cx => s.moveAll cx noAct (fun _ _ => .go cx.next))

/-- YIELD (R186): the scheduler prefers another warp for the next issue. -/
def execYield (_ : FmtA) (s : State) : Host.Outcome State Fault Refusal :=
  withCx s (fun cx =>
    (s.moveAll cx noAct (fun _ _ => .go cx.next)).mapWarp cx.wid cx.k (fun w => { w with rotate := true }))

/-- SLEEP (R187): the warp's deadline, in units of the timebase (log 8). -/
def execSleep (w : FmtA) (s : State) : Host.Outcome State Fault Refusal :=
  withCx s (fun cx =>
    let a := (readUni s cx 1 w.a).v.toNat
    (s.moveAll cx noAct (fun _ _ => .go cx.next)).mapWarp cx.wid cx.k (fun w =>
      { w with sleep := some (s.time.tb + 2200 * min a 1000000) }))

end Sys2Proof.Machine
end

