-- ==== Sys2Proof/Machine/CrossLane.lean ====
section
/-!
DEFINITION. Family 0x20: the cross-lane instructions (spec/07_ref_control_teams_flows.md R167 to R173). The executing lanes are
the participants: the lanes of the innermost team that stand at the PC when the convergence point proceeds (R23).
-/
namespace Sys2Proof.Machine

/-- The rank of lane l in its innermost team. -/
def Cx.rank (cx : Cx) (l : Nat) : Nat := match cx.lane? l with | some x => rankIn x.inner l | none => 0
/-- The participant of a rank, if the lane of that rank takes part. -/
def Cx.atRank (cx : Cx) (r : Nat) : Option Nat := cx.lanes.find? (fun l => cx.rank l == r)
/-- The size of the participants' team. -/
def Cx.teamSize (cx : Cx) : Nat := match cx.lane? cx.low with | some x => (lanesOf x.inner).length | none => 0
/-- Whether the participants' innermost team is the root. -/
def Cx.root (cx : Cx) : Bool := match cx.lane? cx.low with | some x => x.level == 0 | none => true

/-- A participant's own part: its mask decides its own destination (R107, R167). -/
def crossLane (cx : Cx) (px : Option Px) (zero : Nat → List ResWrite) (f : Nat → Lane → LaneOut) (l : Nat) : LaneOut :=
  match cx.lane? l with
  | none => .skip
  | some x =>
    match gateMask x px with
    | .poison => .stop (poisonStop x 3)
    | .masked => if zeroing px then .write (zero l) 0 0 else .skip
    | _ => f l x

/-- A cross-lane instruction: what each participant receives. -/
def crossOp (px : Option Px) (zero : Nat → List ResWrite) (f : State → Cx → Nat → Lane → LaneOut) (s : State) :
    Host.Outcome State Fault Refusal :=
  withCx s (fun cx => s.commit cx false false 0 (cx.lanes.map (fun l => (l, crossLane cx px zero (f s cx) l))))

/-- The source rank of SHFL (R168), none when it lies outside the team. -/
def shflRank (mode rank size : Nat) (b : Word) : Option Nat :=
  let z := signedOf 32 b.toNat
  let inside (y : Int) : Option Nat := if 0 ≤ y && y < size then some y.toNat else none
  match mode with
  | 0 => inside (b.toNat : Int)
  | 1 => inside (rank + z)
  | 2 => some ((((rank : Int) + z) % (size : Int)).toNat)
  | _ => inside ((rank ^^^ b.toNat : Nat) : Int)

/-- SHFL (R168). -/
def execShfl (w : FmtA) (s : State) : Host.Outcome State Fault Refusal :=
  let ws := fun l (v : Val) => destWrites l w.d w.ty v.v v.p
  crossOp w.px (fun l => ws l { v := 0 }) (fun s cx l _ =>
    let b := readOp s cx l 1 w.b
    let own := readOp s cx l w.ty w.a
    let a := match (shflRank (w.c.toNat % 4) (cx.rank l) cx.teamSize b.v).bind cx.atRank with
      | some j => readOp s cx j w.ty w.a
      | none => own
    .write (ws l { a with p := a.p || b.p }) 0 0) s

/-- PUSHL (R169): the highest-ranked sender's value. -/
def execPushl (w : FmtA) (s : State) : Host.Outcome State Fault Refusal :=
  crossOp w.px (fun l => destWrites l w.d w.ty 0 false) (fun s cx l _ =>
    let senders := cx.lanes.filter (fun j => (readOp s cx j 1 w.b).v.toNat == cx.rank l)
    match senders.getLast? with
    | none => .skip
    | some j =>
      let a := readOp s cx j w.ty w.a
      .write (destWrites l w.d w.ty a.v (a.p || (readOp s cx j 1 w.b).p)) 0 0) s

/-- The participants in which a predicate holds, as ranks. -/
def votes (cx : Cx) (k : Nat) : List Nat :=
  cx.lanes.filter (fun l => match cx.lane? l with | some x => (x.pred k).v == 1 | none => false)

/-- VOTE (R170). -/
def execVote (w : FmtA) (s : State) : Host.Outcome State Fault Refusal :=
  let m := w.c.toNat % 8
  let ws := fun l (v : Word) (p : Bool) => if m ≤ 2 then predWrites l w.d (v != 0) p else destWrites l w.d w.ty v p
  crossOp w.px (fun l => ws l 0 false) (fun _ cx l _ =>
    if 3 ≤ m && Code.isScalar w.d && !cx.root then .stop cx.illegal
    else
      let k := w.a.toNat % 8
      let yes := votes cx k
      let p := cx.lanes.any (fun l => match cx.lane? l with | some x => (x.pred k).p | none => false)
      let b (x : Bool) : Word := if x then 1 else 0
      let v : Word :=
        match m with
        | 0 => b (!yes.isEmpty)
        | 1 => b (yes.length == cx.lanes.length)
        | 2 => b (yes.isEmpty || yes.length == cx.lanes.length)
        | 3 => maskOf (yes.map cx.rank)
        | _ => BitVec.ofNat 64 yes.length
      .write (ws l v p) 0 0) s

/-! ### RED and SCAN (R171, R172) -/

/-- A value on its way with the conditions of the combinations that formed it and its poison. -/
structure Part3 where
  v : Word
  c : Conds := {}
  p : Bool := false
  deriving DecidableEq, Repr

/-- The value that one combination forms. -/
def redValue (op : Nat) (t : BitVec 4) (rm : Rm) (a b : Word) : FRes :=
  let x := a.toNat
  let y := b.toNat
  let w := elemBits t
  let pick (lt : Bool) : FRes := { bits := if lt then y else x }
  if tyI1 t then
    let i := intOf (tySigned t) w x
    let j := intOf (tySigned t) w y
    match op with
    | 1 => pick (j < i)
    | 2 => pick (i < j)
    | 3 => { bits := x &&& y }
    | 4 => { bits := x ||| y }
    | 5 => { bits := x ^^^ y }
    | _ => { bits := wrap w (i + j) }
  else if t == 14 then
    match op with
    | 1 => decMinMax false x y
    | 2 => decMinMax true x y
    | _ => decAdd rm (decUnpack x) (decUnpack y)
  else
    let f := fmtOf t
    match op with
    | 1 => fMinMax f false x y
    | 2 => fMinMax f true x y
    | _ => fAdd f rm (unpack f x) (unpack f y)

/-- A combination of two partial results, the left operand first. -/
def redPair (op : Nat) (t : BitVec 4) (rm : Rm) (a b : Part3) : Part3 :=
  let r := redValue op t rm a.v b.v
  { v := BitVec.ofNat 64 r.bits, c := (a.c.join b.c).join r.c, p := a.p || b.p }

/-- One round of the tree: position 2j with 2j + 1, an unpaired last one unchanged. -/
def redRound (f : Part3 → Part3 → Part3) : List Part3 → List Part3
  | a :: b :: r => f a b :: redRound f r
  | l => l

/-- Rounds until one value is left; 64 values need six. -/
def redTree (f : Part3 → Part3 → Part3) : Nat → List Part3 → List Part3
  | 0, l => l
  | n + 1, l => redTree f n (redRound f l)

/-- The inclusive results of a scan. -/
def scanFrom (f : Part3 → Part3 → Part3) (acc : Part3) : List Part3 → List Part3
  | [] => []
  | x :: r => let y := f acc x; y :: scanFrom f y r

/-- The integer sum of all values, wrapped, or saturated once (R171). -/
def redSum (t : BitVec 4) (sat : Bool) (vs : List Part3) : Part3 :=
  let z := vs.foldl (fun (z : Int) x => z + intOf (tySigned t) (elemBits t) x.v.toNat) 0
  { v := BitVec.ofNat 64 (fit sat (tySigned t) (elemBits t) z), p := vs.any (·.p) }

/-- The identity of an exclusive scan (R171). -/
def scanIdentity (op : Nat) (t : BitVec 4) : Word :=
  let w := elemBits t
  if tyI1 t then
    match op with
    | 1 => BitVec.ofNat 64 (wrap w (maxOf (tySigned t) w))
    | 2 => BitVec.ofNat 64 (wrap w (minOf (tySigned t) w))
    | 3 => BitVec.ofNat 64 (2 ^ w - 1)
    | _ => 0
  else
    match op with
    | 1 => BitVec.ofNat 64 (fmtF32.withSign false fmtF32.infBits)
    | 2 => BitVec.ofNat 64 (fmtF32.withSign true fmtF32.infBits)
    | _ => BitVec.ofNat 64 (fmtF32.withSign true 0)

/-- The values of the participants in ascending rank. -/
def redInputs (s : State) (cx : Cx) (w : FmtA) : List Part3 :=
  cx.lanes.map (fun l => let v := readOp s cx l w.ty w.a; { v := v.v, p := v.p })

/-- The attribute of a reduction: dynamic rounding is that of the lowest-ranked participant. -/
def redRm (cx : Cx) (w : FmtA) : Rm :=
  match cx.lane? cx.low with
  | some x => rmOf x (w.ty == 14) w.px
  | none => .rne

/-- What a participant does with its result. -/
def redOut (cx : Cx) (w : FmtA) (l : Nat) (x : Lane) (r : Part3) : LaneOut :=
  if Code.isScalar w.d && !cx.root then .stop cx.illegal
  else raiseOut x (w.ty == 14) { r := { v := r.v, p := r.p }, cs := [r.c] } (destWrites l w.d w.ty r.v r.p)

/-- RED (R172). -/
def execRed (w : FmtA) (s : State) : Host.Outcome State Fault Refusal :=
  let op := w.c.toNat % 8
  crossOp w.px (fun l => destWrites l w.d w.ty 0 false) (fun s cx l x =>
    let vs := redInputs s cx w
    let r := if op == 0 && tyI1 w.ty then redSum w.ty (w.mod.getLsbD 3) vs
      else ((redTree (redPair op w.ty (redRm cx w)) 6 vs).head?).getD { v := 0 }
    redOut cx w l x r) s

/-- The inclusive results of SCAN, by rank. -/
def scanAll (op : Nat) (w : FmtA) (rm : Rm) (vs : List Part3) : List Part3 :=
  if op == 0 && tyI1 w.ty then (List.range vs.length).map (fun i => redSum w.ty (w.mod.getLsbD 3) (vs.take (i + 1)))
  else
    match vs with
    | [] => []
    | x :: r => x :: scanFrom (redPair op w.ty rm) x r

/-- SCAN (R172). -/
def execScan (w : FmtA) (s : State) : Host.Outcome State Fault Refusal :=
  let op := w.c.toNat % 8
  crossOp w.px (fun l => destWrites l w.d w.ty 0 false) (fun s cx l x =>
    let all := scanAll op w (redRm cx w) (redInputs s cx w)
    let i := (cx.lanes.takeWhile (· != l)).length
    let r : Part3 :=
      if w.c.getLsbD 3 then (if i == 0 then { v := scanIdentity op w.ty } else (all[i - 1]?).getD { v := 0 })
      else (all[i]?).getD { v := 0 }
    redOut cx w l x r) s

/-- MATCH (R173). -/
def execMatchLanes (w : FmtA) (s : State) : Host.Outcome State Fault Refusal :=
  crossOp w.px (fun l => destWrites l w.d 3 0 false) (fun s cx l _ =>
    let mine := (readOp s cx l w.ty w.a).v
    let same := cx.lanes.filter (fun j => (readOp s cx j w.ty w.a).v == mine)
    let p := cx.lanes.any (fun j => (readOp s cx j w.ty w.a).p)
    .write (destWrites l w.d 3 (maskOf (same.map cx.rank)) p) 0 0) s

end Sys2Proof.Machine
end

