-- ==== Sys2Proof/Machine/FloatOps.lean ====
section
/-!
DEFINITION. Binary floating point and special functions, families 0x18 and 0x19 (spec/06_ref_lane_arithmetic.md R147 to
R158).
-/
namespace Sys2Proof.Machine

/-- Element i of a source after MOD bits 8 and 6, or bit 7, on its sign alone (R147). -/
def srcA (w : FmtA) (t : BitVec 4) (x : Word) (i : Nat) : Nat :=
  fModSign (fmtOf t) (w.mod.getLsbD 2) (w.mod.getLsbD 0) (elemAt t x i)
def srcB (w : FmtA) (t : BitVec 4) (x : Word) (i : Nat) : Nat := fModSign (fmtOf t) (w.mod.getLsbD 1) false (elemAt t x i)

/-- MOD bit 9 after rounding (R147). -/
def clampBits (w : FmtA) (t : BitVec 4) (b : Nat) : Nat := if w.mod.getLsbD 3 then fSat (fmtOf t) b else b

/-- The results of the elements, packed, with their conditions. -/
def packFp (w : FmtA) (t : BitVec 4) (vs : List Val) (rs : List FRes) : AluRes :=
  plainRes vs (ofElems t (rs.map (fun r => clampBits w t r.bits))) (rs.map (·.c))

/-- The mould of a floating-point member: a function of the bit patterns of an element's sources (R147). -/
def fpEntry (w : FmtA) (srcs : List (Code × BitVec 4)) (f : BinFmt → Rm → Nat → Nat → Nat → FRes) : Entry :=
  { dst := w.d, ty := w.ty, srcs := srcs,
    fn := fun rm vs =>
      packFp w w.ty vs ((elems w.ty).map (fun i =>
        f (fmtOf w.ty) rm (srcA w w.ty (argv vs 0) i) (srcB w w.ty (argv vs 1) i) (elemAt w.ty (argv vs 2) i))) }

/-- A member of one source. -/
def fpEntry1 (w : FmtA) (f : BinFmt → Rm → FVal → FRes) : Entry :=
  fpEntry w [(w.a, w.ty)] (fun g rm a _ _ => f g rm (unpack g a))

/-- FADD (R148). -/
def execFadd (w : FmtA) (s : State) : Host.Outcome State Fault Refusal :=
  laneOp (.fadd w) (fpEntry w (srcAB w) (fun g rm a b _ => fAdd g rm (unpack g a) (unpack g b))) s
/-- FSUB (R148). -/
def execFsub (w : FmtA) (s : State) : Host.Outcome State Fault Refusal :=
  laneOp (.fsub w) (fpEntry w (srcAB w) (fun g rm a b _ => fAdd g rm (unpack g a) (unpack g b).neg)) s
/-- FMUL (R148). -/
def execFmul (w : FmtA) (s : State) : Host.Outcome State Fault Refusal :=
  laneOp (.fmul w) (fpEntry w (srcAB w) (fun g rm a b _ => fMul g rm (unpack g a) (unpack g b))) s
/-- FFMA (R148). -/
def execFfma (w : FmtA) (s : State) : Host.Outcome State Fault Refusal :=
  laneOp (.ffma w) (fpEntry w (srcABC w) (fun g rm a b c => fFma g rm (unpack g a) (unpack g b) (unpack g c))) s
/-- FMIN (R149). -/
def execFmin (w : FmtA) (s : State) : Host.Outcome State Fault Refusal :=
  laneOp (.fmin w) (fpEntry w (srcAB w) (fun g _ a b _ => fMinMax g false a b)) s
/-- FMAX (R149). -/
def execFmax (w : FmtA) (s : State) : Host.Outcome State Fault Refusal :=
  laneOp (.fmax w) (fpEntry w (srcAB w) (fun g _ a b _ => fMinMax g true a b)) s
/-- FCMP (R150). -/
def execFcmp (w : FmtA) (s : State) : Host.Outcome State Fault Refusal :=
  laneOp (.fcmp w)
    { dst := w.d, ty := w.ty, toPred := true, srcs := srcAB w,
      fn := fun _ vs =>
        let g := fmtOf w.ty
        let a := unpack g (srcA w w.ty (argv vs 0) 0)
        let b := unpack g (srcB w w.ty (argv vs 1) 0)
        let cc := w.c.toNat % 8
        plainRes vs (if condHolds cc (fOrd a b) then 1 else 0)
          [{ nv := condInvalid cc (fOrd a b) (a.isSnan || b.isSnan) }] } s
/-- FCLASS (R151): the mask of element i of a packed type stands in bits [16i + 9 : 16i]. -/
def execFclass (w : FmtA) (s : State) : Host.Outcome State Fault Refusal :=
  laneOp (.fclass w)
    { dst := w.d, ty := 1, srcs := [(w.a, w.ty)],
      fn := fun _ vs =>
        plainRes vs (BitVec.ofNat 64 ((elems w.ty).foldl
          (fun acc i => acc + fClass (fmtOf w.ty) (elemAt w.ty (argv vs 0) i) * 2 ^ (16 * i)) 0)) } s
/-- FCVT (R152): two f32 sources into a packed type, element by element, element C[4] of a packed source, or one to one. -/
def execFcvt (w : FmtA) (s : State) : Host.Outcome State Fault Refusal :=
  let td := w.ty
  let ts := w.ts
  let two := elemCount td == 2 && elemCount ts == 1
  let hi := elemCount td == 1 && elemCount ts == 2 && w.c.getLsbD 4
  laneOp (.fcvt w)
    { dst := w.d, ty := td, srcs := (w.a, ts) :: (if two then [(w.b, ts)] else []),
      fn := fun rm vs =>
        packFp w td vs ((elems td).map (fun i =>
          fCvt (fmtOf td) (fmtOf ts) rm
            (if two then (if i == 0 then srcA w ts (argv vs 0) 0 else elemAt ts (argv vs 1) 0)
             else srcA w ts (argv vs 0) (if hi then 1 else i)))) } s
/-- FRND (R153). -/
def execFrnd (w : FmtA) (s : State) : Host.Outcome State Fault Refusal :=
  laneOp (.frnd w) (fpEntry w [(w.a, w.ty)] (fun g rm a _ _ => fRnd g rm a)) s
/-- FTOI (R154). -/
def execFtoi (w : FmtA) (s : State) : Host.Outcome State Fault Refusal :=
  laneOp (.ftoi w)
    { dst := w.d, ty := w.ty, srcs := [(w.a, w.ts)],
      fn := fun rm vs =>
        let r := fToI (tySigned w.ty) (elemBits w.ty) rm (unpack (fmtOf w.ts) (srcA w w.ts (argv vs 0) 0))
        plainRes vs (BitVec.ofNat 64 r.1) [r.2] } s
/-- ITOF (R155). -/
def execItof (w : FmtA) (s : State) : Host.Outcome State Fault Refusal :=
  laneOp (.itof w)
    { dst := w.d, ty := w.ty, srcs := [(w.a, w.ts)],
      fn := fun rm vs =>
        let r := fOfI (fmtOf w.ty) rm (intOf (tySigned w.ts) (elemBits w.ts) (argv vs 0).toNat)
        plainRes vs (BitVec.ofNat 64 r.bits) [r.c] } s
/-- FSCL (R156): the exponent is B as i32, or element i of B as i16x2 for a packed type. -/
def execFscl (w : FmtA) (s : State) : Host.Outcome State Fault Refusal :=
  let bt : BitVec 4 := if elemCount w.ty == 2 then 6 else 0
  laneOp (.fscl w)
    { dst := w.d, ty := w.ty, srcs := [(w.a, w.ty), (w.b, bt)],
      fn := fun rm vs =>
        packFp w w.ty vs ((elems w.ty).map (fun i =>
          fScale (fmtOf w.ty) rm (srcA w w.ty (argv vs 0) i) (signedOf (elemBits bt) (elemAt bt (argv vs 1) i)))) } s
/-- FDIV (R157, R158). -/
def execFdiv (w : FmtA) (s : State) : Host.Outcome State Fault Refusal :=
  laneOp (.fdiv w) (fpEntry w (srcAB w) (fun g rm a b _ => fDiv g rm (unpack g a) (unpack g b))) s
/-- FSQRT (R157, R158). -/
def execFsqrt (w : FmtA) (s : State) : Host.Outcome State Fault Refusal :=
  laneOp (.fsqrt w) (fpEntry1 w fSqrt) s
/-- FRCP (R157, R158). -/
def execFrcp (w : FmtA) (s : State) : Host.Outcome State Fault Refusal :=
  laneOp (.frcp w) (fpEntry1 w fRcp) s
/-- FRSQ (R157, R158). -/
def execFrsq (w : FmtA) (s : State) : Host.Outcome State Fault Refusal :=
  laneOp (.frsq w) (fpEntry1 w fRsq) s
/-- FEX2 (R157, R158). -/
def execFex2 (w : FmtA) (s : State) : Host.Outcome State Fault Refusal :=
  laneOp (.fex2 w) (fpEntry1 w fEx2) s
/-- FLG2 (R157, R158). -/
def execFlg2 (w : FmtA) (s : State) : Host.Outcome State Fault Refusal :=
  laneOp (.flg2 w) (fpEntry1 w fLg2) s
/-- FSIN (R157, R158). -/
def execFsin (w : FmtA) (s : State) : Host.Outcome State Fault Refusal :=
  laneOp (.fsin w) (fpEntry1 w fSin) s
/-- FCOS (R157, R158). -/
def execFcos (w : FmtA) (s : State) : Host.Outcome State Fault Refusal :=
  laneOp (.fcos w) (fpEntry1 w fCos) s
/-- FTANH (R157, R158). -/
def execFtanh (w : FmtA) (s : State) : Host.Outcome State Fault Refusal :=
  laneOp (.ftanh w) (fpEntry1 w fTanh) s

end Sys2Proof.Machine
end

