-- ==== Sys2Proof/Machine/DecimalOps.lean ====
section
/-!
DEFINITION. The decimal family 0x1A (spec/06_ref_lane_arithmetic.md R159 to R165).
-/
namespace Sys2Proof.Machine

/-- A d64 source after its MOD bits (R159). -/
def decA (w : FmtA) (x : Word) : DVal := decUnpack (decModSign (w.mod.getLsbD 2) (w.mod.getLsbD 0) x.toNat)
def decB (w : FmtA) (x : Word) : DVal := decUnpack (decModSign (w.mod.getLsbD 1) false x.toNat)

/-- One decimal result with its conditions. -/
def decRes (vs : List Val) (r : FRes) : AluRes := plainRes vs (BitVec.ofNat 64 r.bits) [r.c]

/-- The mould of a decimal member. -/
def decEntry (w : FmtA) (srcs : List (Code × BitVec 4)) (f : Rm → DVal → DVal → DVal → FRes) : Entry :=
  { dst := w.d, ty := w.ty, srcs := srcs, dec := true,
    fn := fun rm vs => decRes vs (f rm (decA w (argv vs 0)) (decB w (argv vs 1)) (decUnpack (argv vs 2).toNat)) }

/-- XADD (R160). -/
def execXadd (w : FmtA) (s : State) : Host.Outcome State Fault Refusal :=
  laneOp (.xadd w) (decEntry w (srcAB w) (fun rm a b _ => decAdd rm a b)) s
/-- XSUB (R160). -/
def execXsub (w : FmtA) (s : State) : Host.Outcome State Fault Refusal :=
  laneOp (.xsub w) (decEntry w (srcAB w) (fun rm a b _ => decAdd rm a b.neg)) s
/-- XMUL (R160). -/
def execXmul (w : FmtA) (s : State) : Host.Outcome State Fault Refusal :=
  laneOp (.xmul w) (decEntry w (srcAB w) (fun rm a b _ => decMul rm a b)) s
/-- XFMA (R160). -/
def execXfma (w : FmtA) (s : State) : Host.Outcome State Fault Refusal :=
  laneOp (.xfma w) (decEntry w (srcABC w) (fun rm a b c => decFma rm a b c)) s
/-- XDIV (R160). -/
def execXdiv (w : FmtA) (s : State) : Host.Outcome State Fault Refusal :=
  laneOp (.xdiv w) (decEntry w (srcAB w) (fun rm a b _ => decDiv rm a b)) s
/-- XQUANT (R161). -/
def execXquant (w : FmtA) (s : State) : Host.Outcome State Fault Refusal :=
  laneOp (.xquant w) (decEntry w (srcAB w) (fun rm a b _ => decQuant rm a b)) s
/-- XCMP (R162). -/
def execXcmp (w : FmtA) (s : State) : Host.Outcome State Fault Refusal :=
  laneOp (.xcmp w)
    { dst := w.d, ty := w.ty, toPred := true, srcs := srcAB w, dec := true,
      fn := fun _ vs =>
        let a := decA w (argv vs 0)
        let b := decB w (argv vs 1)
        let cc := w.c.toNat % 8
        plainRes vs (if condHolds cc (decOrd a b) then 1 else 0)
          [{ nv := condInvalid cc (decOrd a b) (a.isSnan || b.isSnan) }] } s
/-- XCVT (R163). -/
def execXcvt (w : FmtA) (s : State) : Host.Outcome State Fault Refusal :=
  laneOp (.xcvt w)
    { dst := w.d, ty := w.ty, srcs := [(w.a, w.ts)], dec := true,
      fn := fun rm vs =>
        let x := argv vs 0
        if w.ty == 14 then
          if tyI1 w.ts then decRes vs (decOfInt rm (intSource w.ts (w.mod.getLsbD 2) (w.mod.getLsbD 0) x))
          else decRes vs (decOfBin rm (unpack (fmtOf w.ts) (srcA w w.ts x 0)))
        else if tyI1 w.ty then
          let r := decToInt (tySigned w.ty) (elemBits w.ty) rm (decA w x)
          plainRes vs (BitVec.ofNat 64 r.1) [r.2]
        else decRes vs (decToBin (fmtOf w.ty) rm (decA w x)) } s
/-- XRND (R164). -/
def execXrnd (w : FmtA) (s : State) : Host.Outcome State Fault Refusal :=
  laneOp (.xrnd w) (decEntry w [(w.a, w.ty)] (fun rm a _ _ => decRnd rm a)) s
/-- XSCALEB (R165): B is read as i32. -/
def execXscaleb (w : FmtA) (s : State) : Host.Outcome State Fault Refusal :=
  laneOp (.xscaleb w)
    { dst := w.d, ty := w.ty, srcs := [(w.a, w.ty), (w.b, 0)], dec := true,
      fn := fun rm vs => decRes vs (decScale rm (decA w (argv vs 0)) (signedOf 32 (argv vs 1).toNat)) } s

end Sys2Proof.Machine
end

