-- ==== Sys2Proof/Machine/Queue.lean ====
section
/-!
DEFINITION. User queues as memory holds them (spec/11_scheduling.md R269, R270): their descriptors, their packets, and how a
packet is put into one.
-/
namespace Sys2Proof.Machine

/-- A queue descriptor (R269). -/
structure QDesc where
  base  : Word
  widx  : Nat
  ridx  : Nat
  log2n : Nat
  cls   : Nat
  pver  : Nat
  state : Nat
  err   : Nat
  deriving DecidableEq, Repr

/-- The fields of 32 bytes, as memory holds them now: a store of software to RIDX or ERR, which are RO, changes memory, and packets are
taken from the value stored (DESIGN CHOICE, log 87). -/
def QDesc.ofBytes (bs : List Byte) : QDesc :=
  let x := leNat bs
  { base := BitVec.ofNat 64 x, widx := bitsOf x 64 64, ridx := bitsOf x 128 64, log2n := bitsOf x 192 8,
    cls := bitsOf x 208 8, pver := bitsOf x 216 8, state := bitsOf x 224 8, err := bitsOf x 232 8 }

/-- A field that the device does not speak or that is out of range (R269). -/
def QDesc.unfit (d : QDesc) : Bool := d.pver != 1 || 3 < d.cls || d.log2n < 4 || 16 < d.log2n
/-- STATE 2: disabled by software, an unassigned value, or refused for its fields (R269). -/
def QDesc.disabled (d : QDesc) : Bool := 2 ≤ d.state || d.unfit
/-- Packets that wait in the ring. -/
def QDesc.waiting (d : QDesc) : Nat := (d.widx + 2 ^ 64 - d.ridx) % 2 ^ 64
/-- Where packet x lies. -/
def QDesc.at (d : QDesc) (x : Nat) : Nat := d.base.toNat + 64 * (x % 2 ^ d.log2n)

/-- Where the descriptor of queue q lies. -/
def Context.qdescAt (c : Context) (q : Nat) : Nat := c.qtab.toNat + 32 * q

/-- TYPE of a packet (R270). -/
def pktType (bs : List Byte) : Nat := (bs.headD 0).toNat

/-- A queue's descriptor is waited for, if its read stalls (R357). -/
def State.queueWait (s : State) (c : Context) (q : Nat) : State :=
  if q < c.qcount && s.agentRead 5 c (c.qdescAt q) 32 == .stall then s.agentWait 5 c (c.qdescAt q) 32 else s

/-- What ENQ does: the state after it, and the status, or the address at which it stalls (R194, R357, R393). -/
def State.enqueue (s : State) (c : Context) (q : Nat) (pkt : List Byte) : State × Except Nat Nat :=
  let widx := c.qdescAt q + 8
  if c.qcount ≤ q then (s, .ok 2)
  else
    match s.agentRead 5 c (c.qdescAt q) 32 with
    | .stall => (s, .error (c.qdescAt q))
    | .hole a => ({ s with hole := some a }, .ok 2)
    | .fail .. => (s, .ok 2)
    | .bytes bs =>
      let d := QDesc.ofBytes bs
      let used := s.agentUsed 5 c (c.qdescAt q) 32
      if pktType pkt != 1 && pktType pkt != 2 then (used, .ok 3)
      else if d.disabled then (used, .ok 4)
      else if 2 ^ d.log2n ≤ d.waiting then (used, .ok 1)
      else
        match s.agentCheck c .store widx 8 with
        | .wait _ => (s, .error widx)
        | .stop .. => (used, .ok 2)
        | .hole a => ({ s with hole := some a }, .ok 2)
        | .ok _ =>
          match used.agentWrite c (d.at d.widx) pkt with
          | (_, .stall) => (s, .error (d.at d.widx))
          | (_, .fail ..) => (used, .ok 2)
          | (s', .hole _) => (s', .ok 2)
          | (s', .bytes _) =>
            match s'.sigUpdate c widx 0 1 with
            | (s'', .bytes _) => (s'', .ok 0)
            | (_, .stall) => (s, .error widx)
            | _ => (used, .ok 2)

end Sys2Proof.Machine
end

