-- ==== Sys2Proof/Machine/Place.lean ====
section
/-!
DEFINITION. Placement, pre-emption and saving (spec/02_execution_model.md R25 to R27, spec/03 R50, R53, R55, R57, spec/11 R281 to
R284, spec/21 R372 to R375): which workgroup may be placed next, on which core, and what a save and a restore do.
-/
namespace Sys2Proof.Machine

/-! ### Room on a core (R25, R266) -/

/-- The workgroups resident on a core. -/
def State.coreWgs (s : State) (core : Nat) : List Wg := s.wgs.filter (fun g => g.st == .resident && g.core == core)
/-- Lane registers that a kernel's warps hold (R19). -/
def Kernel.laneRegs (k : Kernel) (warps : Nat) : Nat := warps * k.lanes * (8 * ((k.regs + 7) / 8))
/-- Tiles of a kernel's allocation (R53). -/
def Kernel.tiles (k : Kernel) : Nat := (k.scratch + 255) / 256
/-- The reserved entries that a COPYMODE gives a workgroup (R265). -/
def copyReserve (m : W32) : Option (Nat × Nat) :=
  if m.getLsbD 0 then some (bitsOf m.toNat 4 4 + 1, bitsOf m.toNat 8 4 + 1) else none

/-- Warp slots in use on a core. -/
def State.usedSlots (s : State) (core : Nat) : List Nat := (s.coreWgs core).flatMap (fun g => g.warps.map (·.slot))
/-- Free warp slots of a core. -/
def State.freeSlots (s : State) (core : Nat) : Nat := Config.slotsPerCore - (s.usedSlots core).length

/-- The lowest base at which n tiles fit between allocations, each given by base and length. -/
def lowestBase (allocs : List (Nat × Nat)) (n : Nat) : Option Nat :=
  let fits := fun b => decide (b + n ≤ Config.scratchTiles) && !allocs.any (fun a => overlaps b n a.1 a.2)
  ((0 :: allocs.map (fun a => a.1 + a.2)).filter fits).foldl (fun m b =>
    match m with | none => some b | some x => some (min x b)) none

/-- The lowest private slot number, from p on, whose 64 slots overlap none of the given byte ranges (R50). -/
def lowestPriv (ranges : List (Nat × Nat)) (span : Nat) : Nat → Nat → Option Nat
  | 0, _ => none
  | fuel + 1, p => if ranges.any (fun r => overlaps (p * span) span r.1 r.2) then lowestPriv ranges span fuel (p + 1) else some p

/-- The private ranges that warps of a context hold; a warp's number is free once the warp has retired (R50). -/
def State.privRanges (s : State) (ctx : Nat) : List (Nat × Nat) :=
  (s.wgs.filter (fun g => g.pkt.ctx == ctx)).flatMap (fun g =>
    g.warps.zipIdx.filterMap (fun w =>
      if s.warpDone g.wid w.2 w.1 then none else w.1.pslot.map (fun p => (p * 64 * g.slotSz, 64 * g.slotSz))))

/-- Each warp without a private slot number takes one. -/
def takePrivs (span : Nat) : List Warp → List (Nat × Nat) → Option (List Warp)
  | [], _ => some []
  | w :: ws, rs =>
    match w.pslot with
    | some _ => (takePrivs span ws rs).map (w :: ·)
    | none =>
      match lowestPriv rs span 12288 0 with
      | none => none
      | some p => (takePrivs span ws ((p * span, span) :: rs)).map ({ w with pslot := some p } :: ·)

/-- Warps take the lowest free slots of the core. -/
def takeSlots : List Warp → List Nat → List Warp
  | w :: ws, k :: ks => { w with slot := k } :: takeSlots ws ks
  | ws, _ => ws

/-! ### Allocation ids (R55) -/

/-- The id after one on its die, and whether the counter starts again. -/
def nextId (die n : Nat) : Nat × Bool :=
  if n + 2 < 2 ^ 32 then (n + 2, false) else (if die == 0 then 1 else 2, true)

/-- The next id of a die that no live or saved allocation holds, and the counter after it; the second number counts wraps. -/
def issueId (die : Nat) (held : List Nat) : Nat → Nat → Nat → Nat × Nat × Nat
  | 0, n, wraps => (n, (nextId die n).1, wraps + (nextId die n).2.toNat)
  | fuel + 1, n, wraps =>
    let next := nextId die n
    if held.elem n then issueId die held fuel next.1 (wraps + next.2.toNat) else (n, next.1, wraps + next.2.toNat)

/-- A wrap of a die's counter posts a TYPE 4 record (R364). -/
def State.postWraps (s : State) (die : Nat) : Nat → State
  | 0 => s
  | k + 1 =>
    let n := (s.allocWraps[die]?).getD 0 + 1
    State.postWraps ({ s with allocWraps := s.allocWraps.set die n }.postService
      (serviceRecord s.now 0 n 0 0 0 0xFFFF die 0 0 0 0 0 4)) die k

/-- A new id of a die. -/
def State.takeId (s : State) (die : Nat) : State × W32 :=
  let held := (s.wgs.filter (fun g => g.st != .pending && !g.retired)).map (fun g => g.allocId.toNat)
  let r := issueId die held held.length ((s.allocNext[die]?).getD 1) 0
  ({ s with allocNext := s.allocNext.set die r.2.1 }.postWraps die r.2.2, BitVec.ofNat 32 r.1)

/-! ### Becoming resident and being saved (R57, R359, R372 to R375) -/

/-- Times of waits turn into the time waited so far, or back. -/
def Lane.retime (f : Nat → Nat) (x : Lane) : Lane := { x with wait := x.wait.map (fun y => { y with since := f y.since }) }

/-- A workgroup's lanes with their waits' times changed. -/
def Wg.retime (f : Nat → Nat) (g : Wg) : Wg :=
  { g with warps := g.warps.map (fun w => { w with lanes := w.lanes.map (Lane.retime f) }) }

/-- The times of a workgroup's lanes, of its operations' waits, and of the arrivals that wait for its tiles stop or go on (R57). -/
def State.retime (s : State) (wid : Nat) (f : Nat → Nat) : State :=
  let id := ((s.wg? wid).map (·.allocId)).getD 0
  let s := s.mapWg wid (Wg.retime f)
  let turn := fun (p : TileWait → Bool) (w : TileWait) => if p w then { w with since := f w.since } else w
  { s with ops := s.ops.map (fun o => { o with waitAt := o.waitAt.map (turn (fun _ => o.wid == wid)),
                                               destAt := o.destAt.map (turn (fun w => w.origin == wid)) }),
           fab := { s.fab with arrivals := s.fab.arrivals.map (fun a =>
             if a.beat.alloc == id && a.here then { a with since := f a.since } else a) } }

/-- A pending result is written; its windows stay open, since they count instructions (R106). -/
def Warp.arrive (w : Warp) (id : Nat) : Warp :=
  match w.results.find? (fun r => r.id == id) with
  | none => w
  | some r =>
    let w := r.writes.foldl Warp.apply w
    { w with results := w.results.filter (fun r => r.id != id) }

/-- An operation leaves its queue: it is suspended, or, with everything performed, its record is kept back. Drain markers go on (R373). -/
def Op.suspend (o : Op) : Op :=
  match o.kind, o.st with
  | .drain _, _ => o
  | _, .queued | _, .started => { o with st := .suspended }
  | _, .done => { o with st := .kept }
  | _, _ => o

/-- An operation takes its place in a queue of a core again, nothing of it held (R375). -/
def Op.restore (core : Nat) (o : Op) : Op :=
  match o.st with
  | .suspended => { o with st := .queued, core := core, held := [] }
  | .kept => { o with st := .done, core := core, held := [] }
  | _ => o

/-- The breakpoints of a context move with a warp (R327): those at one place, a core and a warp slot, go to another. A saved warp's
stand at core 1000 + its workgroup, under its index. -/
def State.moveBreaks (s : State) (ctx : Nat) (place : Nat → Nat → Option (Nat × Nat)) : State :=
  s.mapCtx ctx (fun c => { c with breaks := c.breaks.map (fun b =>
    match place b.core b.warp with | some x => { b with core := x.1, warp := x.2 } | none => b) })

/-- Every operation changed. -/
def State.mapOps (s : State) (f : Op → Op) : State := { s with ops := s.ops.map f }

/-- A workgroup is saved: pending results go into its frame, its operations leave their queues, its core's write-combining buffer
drains, and its resources free (R284, R307, R372). -/
def State.saveWg (s : State) (wid : Nat) : State :=
  let core := (s.wg? wid).map (·.core)
  let s := s.drainWc (fun e => some e.core == core)
  let s : State := match s.wg? wid with
    | none => s
    | some g => s.moveBreaks g.pkt.ctx (fun c w =>
        if c == g.core then (g.warps.findIdx? (fun (x : Warp) => x.slot == w)).map (fun k => (1000 + wid, k)) else none)
  let s := (s.mapWg wid (fun g =>
    { g with st := .saved, warps := g.warps.map (fun w => w.results.foldl (fun w r => w.arrive r.id) w) })).retime wid
      (fun t => s.now - t)
  s.mapOps (fun o => if o.wid == wid then o.suspend else o)

/-- Workgroups are saved. -/
def State.saveWgs (s : State) (wids : List Nat) : State := wids.foldl State.saveWg s

/-- Workgroups are pre-empted: saved, and counted in PREEMPTS (R284, R321). -/
def State.preemptWgs (s : State) (wids : List Nat) : State := (s.saveWgs wids).bumpBy 0x130 wids.length

/-- The workgroup takes a place on a core, if there is room for it (R25, R283); a saved one only when every write of its context
to peers has been performed and every access that its lanes have sent to a peer has been answered (R258, R373). -/
def State.putWg (s : State) (core wid : Nat) : Option State :=
  match s.wg? wid with
  | none => none
  | some g =>
    let here := s.coreWgs core
    let k := g.kernel
    let n := g.warps.length
    let reserve :=
      if g.fresh then ((s.pkt? g.pkt).bind Pkt.launch?).bind (fun l => copyReserve l.copymode) else g.reserve
    let held := here.foldl (fun r h => match h.reserve with | some q => (r.1 + q.1, r.2 + q.2) | none => r) (0, 0)
    let mine := reserve.getD (0, 0)
    let used := s.usedSlots core
    let slots := (List.range Config.slotsPerCore).filter (fun i => !used.elem i)
    if Config.laneRegs < here.foldl (fun a h => a + h.kernel.laneRegs h.warps.length) (k.laneRegs n) || slots.length < n ||
        (!g.fresh && (s.fab.wc.any (fun e => e.ctxs.elem g.pkt.ctx) ||
          s.fab.remote.any (fun r => r.wid == wid && decide (r.warp < 1000) && r.answer.isNone))) ||
        Config.accRows < here.foldl (fun a h => a + h.acc.length) g.acc.length ||
        (reserve.isSome && (16 < held.1 + mine.1 || 16 < held.2 + mine.2)) then none
    else
      match lowestBase ((here.filter (fun h => h.tiles != 0)).map (fun h => (h.tileBase, h.tiles))) g.tiles,
          takePrivs (64 * g.slotSz) g.warps (s.privRanges g.pkt.ctx) with
      | some base, some ws =>
        let r := if g.fresh then s.takeId (dieOf core) else (s, g.allocId)
        let t := r.1.mapWg wid (fun h =>
          { h with st := .resident, fresh := false, core := core, tileBase := base, allocId := r.2, reserve := reserve,
                   warps := takeSlots ws slots })
        let t := t.mapOps (fun o => if o.wid == wid then o.restore core else o)
        let back := fun c k => if c == 1000 + wid then ((takeSlots ws slots)[k]?).map (fun w => (core, w.slot)) else none
        some (if g.fresh then t else (t.retime wid (fun w => s.now - w)).moveBreaks g.pkt.ctx back)
      | _, _ => none

/-- A column, or a list of workgroups, takes a place on one core as a whole (R26). -/
def State.putAll (core : Nat) : List Nat → State → Option State
  | [], s => some s
  | w :: ws, s => (s.putWg core w).bind (State.putAll core ws)

/-- The core that takes a column: the most free warp slots, then the lower index (R283). -/
def State.chooseCore (s : State) (wids : List Nat) : Option Nat :=
  (List.range Config.cores).foldl (fun best c =>
    if (State.putAll c wids s).isSome then
      match best with
      | none => some c
      | some b => if s.freeSlots b < s.freeSlots c then some c else best
    else best) none

/-! ### Who comes next (R281 to R284) -/

/-- The queue's entry in the scheduler. -/
def State.queue? (s : State) (ctx q : Nat) : Option Queue := s.queues.find? (fun x => x.ctx == ctx && x.q == q)
/-- A queue that the scheduler has not met. -/
def Queue.fresh (ctx q : Nat) : Queue := { ctx := ctx, q := q, blocked := false, cls := 0, ready := none }
/-- The queue's entry changed. -/
def State.mapQueue (s : State) (ctx q : Nat) (f : Queue → Queue) : State :=
  match s.queue? ctx q with
  | some _ => { s with queues := s.queues.map (fun x => if x.ctx == ctx && x.q == q then f x else x) }
  | none => { s with queues := s.queues ++ [f (Queue.fresh ctx q)] }
/-- The hardware slot of a queue. -/
def State.slotOf (s : State) (ctx q : Nat) : Option Slot := s.slots.find? (fun x => x.ctx == ctx && x.q == q)
/-- The class of a workgroup: that of its queue. -/
def State.classOf (s : State) (g : Wg) : Nat := ((s.queue? g.pkt.ctx g.pkt.q).map (·.cls)).getD 0

/-- The workgroups that go with one: its column in the same state. -/
def State.column (s : State) (g : Wg) : List Nat :=
  (s.wgs.filter (fun h => h.pkt == g.pkt && h.column == g.column && h.st == g.st)).map (·.wid)

/-- What a slot may place next: its saved workgroups first, then the lowest one of each launch (R283). -/
def State.waitingOf (s : State) (x : Slot) : List Wg :=
  let mine := s.wgs.filter (fun g => g.pkt.ctx == x.ctx && g.pkt.q == x.q)
  let saved := mine.filter (fun g => g.st == .saved)
  let first := fun (gs : List Wg) (g : Wg) => gs.all (fun h => decide (g.dispatch ≤ h.dispatch))
  if saved.isEmpty then
    let pend := mine.filter (fun g => g.st == .pending)
    pend.filter (fun g => first (pend.filter (fun h => h.pkt == g.pkt)) g)
  else saved.filter (first saved)

/-- Whether a slot has a workgroup that could be placed now. -/
def State.canPlace (s : State) (x : Slot) : Bool := (s.waitingOf x).any (fun g => (s.chooseCore (s.column g)).isSome)

/-- The workgroups that a slot may place next and that fit nowhere. -/
def State.unfit (s : State) (x : Slot) : List Nat :=
  ((s.waitingOf x).filter (fun g => (s.chooseCore (s.column g)).isNone)).map (·.wid)

/-- Whether R282 lets a slot place now: no higher class can, and neither can the holder of its class unless it is this one. -/
def State.mayPlace (s : State) (x : Slot) : Bool :=
  !s.slots.any (fun y => decide (x.cls < y.cls) && s.canPlace y) &&
  (x.holder || !s.slots.any (fun y => y.cls == x.cls && y.holder && s.canPlace y))

/-- Whether a slot may take room for its workgroup from one of class c in slot y (R282): class 3 always from lower classes, and the
holder of a class from that class for what fitted nowhere when its slice began. -/
def Slot.claims (x : Slot) (wid c : Nat) (y : Option Slot) : Bool :=
  (x.cls == 3 && decide (c < 3)) || (x.holder && x.due.elem wid && c == x.cls && y != some x)

/-- The workgroup that pre-emption chooses for one of a slot: the lowest class first, then the highest dispatch number (R284). -/
def State.victim (s : State) (x : Slot) (wid : Nat) : Option Wg :=
  (s.wgs.filter (fun g => g.st == .resident && x.claims wid (s.classOf g) (s.slotOf g.pkt.ctx g.pkt.q))).foldl (fun best g =>
    match best with
    | none => some g
    | some b =>
      if s.classOf g < s.classOf b || (s.classOf g == s.classOf b && decide (b.dispatch < g.dispatch)) then some g else best) none

/-! ### The rows (R283, R284) -/

/-- The grid's next column is laid out; it waits to be placed (R26, R27). -/
def State.openColumn (s : State) (k : PktKey) : State :=
  match (s.pkt? k).bind Pkt.launch? with
  | none => s
  | some l =>
    if l.flow || l.gx * l.gy * l.gz ≤ l.next then s
    else
      let i := l.next
      let xyz := (i % l.gx, i / l.gx % l.gy, i / (l.gx * l.gy))
      let wgs := (List.range l.kernel.stages).map (fun st =>
        let d := l.firstDispatch + i * l.kernel.stages + st
        Wg.start (s.nextWid + st) k l i st i d xyz false
          ((List.range l.wgw).map (fun w => Warp.start l.kernel l.args (gridItems l w d))))
      ({ s with nextWid := s.nextWid + l.kernel.stages, wgs := s.wgs ++ wgs }).mapLaunch k (fun l => { l with next := i + 1 })

/-- Placed workgroups claim no more room. -/
def State.withoutDue (s : State) (wids : List Nat) : State :=
  { s with slots := s.slots.map (fun y => { y with due := y.due.filter (fun n => !wids.elem n) }) }

/-- PLACE_WORKGROUP (R283): the workgroup's column becomes resident, if it is next in its slot and there is room. -/
def execPlaceWorkgroup (wid : Nat) (s : State) : Host.Outcome State Fault Refusal :=
  match s.wg? wid with
  | none => finish s
  | some g =>
    match s.slotOf g.pkt.ctx g.pkt.q with
    | none => finish s
    | some x =>
      let col := s.column g
      if s.power.tripped || !s.mayPlace x || !(s.waitingOf x).any (fun h => col.elem h.wid) then finish s
      else
        match s.chooseCore col with
        | none => finish s
        | some c =>
          match State.putAll c col s with
          | none => finish s
          | some t =>
            let t := (col.foldl State.retryJoins t).withoutDue col
            finish (if g.st == .pending then t.openColumn g.pkt else t)

/-- PREEMPT (R282, R284): the victim's column is saved, while a slot with the right to its room has a workgroup that fits nowhere. -/
def execPreempt (wid : Nat) (s : State) : Host.Outcome State Fault Refusal :=
  match s.wg? wid with
  | none => finish s
  | some g =>
    let col := s.column g
    if s.slots.any (fun x => (s.unfit x).any (fun n => (s.victim x n).any (fun v => col.elem v.wid))) then finish (s.preemptWgs col)
    else finish s

end Sys2Proof.Machine
end

