-- ==== Sys2Proof/Machine/Events.lean ====
section
/-!
DEFINITION. Family 0x48: events, memory signals and time (spec/08_ref_memory_engines.md R239 to R242), and the re-evaluations of
their waiters (spec/11 R279, R280).
-/
namespace Sys2Proof.Machine

/-! ### Events (R239, R240) -/

/-- An event's number: 1 to 65,535 (R239). -/
def eventNumber (n : Nat) : Bool := 1 ≤ n && n < 65536

/-- What EVWAIT does in one acting lane. -/
def evwaitLane (s : State) (cx : Cx) (su : Bool) (w : FmtA) (l : Nat) : LaneOut :=
  match cx.lane? l with
  | none => .skip
  | some x =>
    let e := readAt s cx su l 1 w.a
    let t := readAt s cx su l 1 w.b
    if e.p || t.p then .stop (poisonStop x 5)
    else if !eventNumber e.v.toNat then .stop cx.illegal
    else
      let n := cx.ctx.event e.v.toNat
      if reaches n (t.v.setWidth 32) then .write (destWrites l w.d 1 (n.setWidth 64) false) 0 0
      else .wait (.event e.v.toNat (t.v.setWidth 32) su) true

/-- EVWAIT (R240): a lane whose target is not reached is registered and sleeps, or polls where no table has room (R280); each lane's
wait ends on its own (R239). -/
def execEvwait (w : FmtA) (s : State) : Host.Outcome State Fault Refusal :=
  let su := (form (.evwait w)).scalarUnit
  withCx s (fun cx =>
    let who := fun (l : Nat) => EventWaiter.lane cx.wid cx.k (if su then 64 else l)
    let outs := (actors cx su).map (fun l => (l, evwaitLane s cx su w l))
    let s := outs.foldl (fun s o =>
      match o.2 with
      | .wait (.event e t _) _ => s.evRegister cx.ctx.num e t (who o.1)
      | _ => s) s
    let outs := outs.map (fun o =>
      match o.2 with
      | .wait (.event e t _) _ => (o.1, LaneOut.wait (.event e t su) (s.registered cx.ctx.num e t (who o.1)))
      | _ => o)
    s.commitEach cx su true w.run.toNat (spreadOuts cx su outs))

/-- What EVSIG does in one acting lane: a stop, or the event and what it adds. -/
def evsigLane (s : State) (cx : Cx) (su : Bool) (w : FmtA) (l : Nat) : Except LaneOut (Nat × W32) :=
  match cx.lane? l with
  | none => .error .skip
  | some x =>
    let e := readAt s cx su l 1 w.a
    let n := readAt s cx su l 1 w.b
    if e.p || n.p then .error (.stop (poisonStop x 5))
    else if !eventNumber e.v.toNat || !eventNumber n.v.toNat then .error (.stop cx.illegal)
    else .ok (e.v.toNat, n.v.setWidth 32)

/-- EVSIG (R240). -/
def execEvsig (w : FmtA) (s : State) : Host.Outcome State Fault Refusal :=
  let su := (form (.evsig w)).scalarUnit
  withCx s (fun cx =>
    let acts := (actors cx su).map (fun l => (l, evsigLane s cx su w l))
    let s := acts.foldl (fun s a => match a.2 with | .ok (e, n) => s.evAdd cx.ctx.num e n | .error _ => s) s
    s.commit cx su false 0
      (spreadOuts cx su (acts.map (fun a => (a.1, match a.2 with | .ok _ => LaneOut.write [] 0 0 | .error o => o)))))

/-! ### Memory signals (R241) -/

/-- The plan of one lane's access to a signal: an update, or a read that waits. -/
def signalPlan (s : State) (cx : Cx) (su : Bool) (w : FmtA) (k : AccKind) (l : Nat) : MemPlan :=
  match cx.lane? l with
  | none => (l, .error .skip)
  | some x =>
    let a := readAt s cx su l 3 w.a
    let v := readAt s cx su l 3 w.b
    if a.p || v.p then (l, .error (.stop (poisonStop x 5)))
    else if a.v.toNat % 8 != 0 then (l, .error (.stop (memStop .align a.v (memDetail 0 3 0 k.code))))
    else (l, .ok (a.v, s.locate cx l 0 3 k false a.v))

/-- The waiters of a location. -/
def Loc.sigKey : Loc → Option Word
  | .mem (p :: _) => some p.sigKey
  | _ => none

/-- SIGADD (R241): a release at system scope; it wakes the device's waiters on the address. -/
def execSigadd (w : FmtA) (s : State) : Host.Outcome State Fault Refusal :=
  let su := (form (.sigadd w)).scalarUnit
  withCx s (fun cx =>
    let v := fun l => (readAt s cx su l 3 w.b).v
    MemOp.run
      { drains := fun _ => true, sz := 3, acc := 2, what := fun l _ => .access (.atom 0 (v l)),
        holds := fun s _ a loc => hostAtomic s loc true a 3 0,
        perform := fun s l _ loc =>
          let r := s.rmw cx l loc 8 (fun m => some ((m + (v l).toNat) % 2 ^ 64))
          (match loc.sigKey with | some k => r.1.wakeSignal k | none => r.1, .write [] 0 0) }
      s cx su false 0 ((actors cx su).map (signalPlan s cx su w .signal)))

/-- Whether a lane that waits on a signal is watched by its die (R279): one that is watched stays so, and another is while the list has
room beside the lower lanes that it takes up; past that it polls, as does a waiter of a peer's signal. -/
def State.watched (s : State) (cx : Cx) (before : List Nat) (l : Nat) (loc : Loc) : Bool :=
  !loc.atPeer && ((cx.lane? l).any (fun x => x.watch?.isSome) || decide (s.watchCount (dieOf cx.g.core) + before.length < 1024))

/-- SIGWAIT (R241): each lane's wait ends on its own (R239); a waiter of a peer's signal asks again at its next evaluation. The condition
is that of the bytes as they stand where the signal's memory reads poisoned (DESIGN CHOICE, log 91). -/
def execSigwait (w : FmtA) (s : State) : Host.Outcome State Fault Refusal :=
  let su := (form (.sigwait w)).scalarUnit
  withCx s (fun cx =>
    let v := fun l => (readAt s cx su l 3 w.b).v
    let met := fun (m : Word) l => condHolds (w.c.toNat % 8) (ordInt m.toInt (v l).toInt)
    let plan := (actors cx su).map (signalPlan s cx su w .await)
    let joins := (plan.filter (fun p =>
      match p.2 with
      | .ok (_, .mem ps) => !(Loc.mem ps).atPeer && !met (pval (s.locBytes cx p.1 (.mem ps) 8)).v p.1 &&
          (cx.lane? p.1).any (fun x => x.watch?.isNone)
      | _ => false)).map (·.1)
    MemOp.run
      { drains := fun loc => drainsFirst 0 0 loc, sz := 3, acc := 0, what := fun _ _ => .access .load, each := true,
        holds := fun s l _ loc =>
          if met (pval (s.locBytes cx l loc 8)).v l then none
          else some (.wait (.signal (loc.sigKey.getD 0) (w.c.toNat % 8) (v l) su) (s.watched cx (joins.filter (fun k => decide (k < l))) l loc)),
        perform := fun s l _ loc =>
          let m := pval (s.locBytes cx l loc 8)
          (s.locTouch cx loc, .write (destWrites l w.d 3 m.v m.p) 0 0) }
      s cx su true w.run.toNat plan)

/-! ### Time (R242) -/

/-- TIME (R242). -/
def execTime (w : FmtA) (s : State) : Host.Outcome State Fault Refusal :=
  withCx s (fun cx =>
    s.commit cx true true w.run.toNat (cx.lanes.map (fun l => (l, .write (destWrites l w.d 3 (BitVec.ofNat 64 s.now) false) 0 0))))

/-! ### Re-evaluations (R241, R280) -/

/-- The lanes of a warp slot whose wait is of a kind wake. -/
def State.rouseSlot (s : State) (core slot : Nat) (p : WaitOn → Bool) : State :=
  match s.slot? core slot with
  | none => s
  | some (wid, k) =>
    s.mapWarp wid k (fun w => { w with lanes := w.lanes.map (fun x =>
      match x.wait with
      | some y => if p y.on then x.rouse else x
      | none => x) })

/-- SIGNAL_POLL (R241). -/
def execSignalPoll (core slot : Nat) (s : State) : Host.Outcome State Fault Refusal :=
  finish (s.rouseSlot core slot (fun o => match o with | .signal .. => true | _ => false))
/-- EVENT_POLL (R280). -/
def execEventPoll (core slot : Nat) (s : State) : Host.Outcome State Fault Refusal :=
  finish (s.rouseSlot core slot (fun o => match o with | .event .. => true | _ => false))

/-- SLEEP_EXPIRY (R187): the warp's deadline has passed. -/
def execSleepExpiry (core slot : Nat) (s : State) : Host.Outcome State Fault Refusal :=
  match s.slot? core slot with
  | none => finish s
  | some (wid, k) =>
    finish (s.mapWarp wid k (fun w =>
      match w.sleep with
      | some t => if t < s.time.tb then { w with sleep := none } else w
      | none => w))

/-- LONG_LATENCY_RESULT (R106). -/
def execLongLatencyResult (core slot id : Nat) (s : State) : Host.Outcome State Fault Refusal :=
  match s.slot? core slot with
  | none => finish s
  | some (wid, k) => finish (s.mapWarp wid k (fun w => w.arrive id))

end Sys2Proof.Machine
end

