-- ==== Sys2Proof/Machine/Fabric.lean ====
section
/-!
DEFINITION. The fabric's rows (spec/13_fabric_host_boot.md R301 to R308, spec/22_links_and_startup_wrong.md R378 to R384, R390,
R391): remote requests and store lines at this device, responses, ageing, flits, health, link-up, unreachable peers and pod changes.
-/
namespace Sys2Proof.Machine

/-! ### This device as a target (R305, R306, R380, R381) -/

/-- The export context of a sender; without one its accesses to pages that are not in repair fault with XLATE_MISS (R317, R381). -/
def State.exportOf (s : State) (sender : Nat) : Option Context :=
  (s.fab.exports.find? (fun x => x.1 == sender)).bind (fun x => s.ctx? x.2)

/-- The repair entry of a page for a sender: in its export context, or one that holds lines which it sent when it had no export context
(R381). -/
def State.repairOf (s : State) (ctx page sender : Nat) : Option Repair :=
  s.fab.repair.find? (fun r => r.page == page && (r.ctx == ctx || (r.ctx == 0xFFFF && r.log.any (fun l => l.sender == sender))))

/-- A response leaves. -/
def State.respond (s : State) (peer tag : Nat) (a : PeerAnswer) : State := (s.flit peer).emit (.response peer { tag := tag, answer := a })

/-- The accesses of a peer are cached, counted and find errors as this device's own do. -/
def State.targetTouch (s : State) (c : Context) (store : Bool) (ps : List Part) : State :=
  s.useParts 0 c.num 0 0 none store ps

/-- A remote load, atomic or CAS is performed indivisibly (R306, R209, R210). -/
def State.performRequest (s : State) (c : Context) (r : PeerRequest) (ps : List Part) : State :=
  let old := s.partsRead ps
  let bad := ps.any (fun p => s.mem.erred p.pa p.n)
  let sz := if r.bytes == 8 then 3 else 2
  let new := match r.what with
    | .load => none
    | .atom opc x => some (atomFn opc.toNat sz (leNat old) x.toNat)
    | .cas e x => if leNat old == e.toNat % 2 ^ (8 * r.bytes) then some x.toNat else none
  let s := match new, ps with
    | some v, [p] => if bad then s else ((s.hbmWrite p.pa (leBytes r.bytes v)).bumpBy 0x125 p.n).wakeSignal p.sigKey
    | _, _ => s
  (s.targetTouch c false ps).respond r.sender r.tag (.data old bad)

/-- A request is answered; none while it stalls at a page in repair (R305, R381). -/
def State.serve (s : State) (r : PeerRequest) : Option State :=
  match s.exportOf r.sender with
  | none =>
    if (s.repairOf 0xFFFF (r.addr.toNat / 4096) r.sender).isSome then none
    else some (s.respond r.sender r.tag (.fault Cause.xlateMiss.code))
  | some c =>
    if (s.repairOf c.num (r.addr.toNat / 4096) r.sender).isSome then none
    else
      match s.checkRange 0 1002 c (match r.what with | .load => .load | _ => .atomic) r.addr.toNat r.bytes with
      | .stop cause _ _ => some (s.respond r.sender r.tag (.fault cause.code))
      | .wait _ => none
      | .hole a => some { s with hole := some a }
      | .ok ps =>
        if ps.any (fun p => p.leaf.target != .hbm) then some (s.respond r.sender r.tag (.fault Cause.protection.code))
        else some (s.performRequest c r ps)

/-- The masked bytes of a line are written: a granule written whole by one write, other bytes one by one. -/
def State.writeLine (s : State) (pa : Nat) (l : PeerLine) : State :=
  (List.range 8).foldl (fun s g =>
    let mine := (List.range 16).filter (fun i => l.mask.getLsbD (16 * g + i))
    let s :=
      if mine.length == 16 then s.hbmWrite (pa + 16 * g) ((l.data.drop (16 * g)).take 16)
      else mine.foldl (fun s i => s.hbmWrite (pa + 16 * g + i) [(l.data[16 * g + i]?).getD 0]) s
    if l.poison && !mine.isEmpty then s.poisonGranules [(pa + 16 * g) / 16] else s) s

/-- Whether the store log takes an entry. -/
def State.logRoom (s : State) : Bool :=
  match s.slog with
  | some r => r.waiting.isEmpty && decide (r.posted < r.consumed + r.len)
  | none => false

/-- A store-log entry (R380), its PHASE left 0. -/
def logEntry (l : PeerLine) (ctx : Nat) (cause : Byte) : List Byte :=
  leBytes 256 (packFields [(512, 1024, leNat (padTo 128 l.data)), (128, 128, l.mask.toNat), (64, 64, l.addr.toNat), (24, 16, ctx),
    (16, 4, l.sender), (8, 8, cause.toNat)])

/-- A line is logged behind the earlier lines of its page, which is in repair from then on, and acknowledged. -/
def State.logLine (s : State) (ctx : Nat) (l : PeerLine) (cause : Byte) : Option State :=
  let page := l.addr.toNat / 4096
  let ctx := ((s.repairOf ctx page l.sender).map (·.ctx)).getD ctx
  let known := (s.repairOf ctx page l.sender).isSome
  if !s.logRoom || (!known && 64 ≤ s.fab.repair.length) then none
  else
    let repair :=
      if known then s.fab.repair.map (fun r => if r.ctx == ctx && r.page == page then { r with log := r.log ++ [l] } else r)
      else s.fab.repair ++ [{ ctx := ctx, page := page, log := [l] }]
    some (({ s with fab := { s.fab with repair := repair } }.postStoreLog (logEntry l ctx (if known then 0 else cause))).respond
      l.sender l.tag .ack)

/-- Whether two lines lie in one export page. -/
def State.samePage (s : State) (a b : PeerLine) : Bool :=
  a.addr.toNat / 4096 == b.addr.toNat / 4096 &&
    (a.sender == b.sender || (s.exportOf a.sender).map (·.num) == (s.exportOf b.sender).map (·.num))

/-- A store line is performed, logged, or waits in its sender's allowance (R381), as it does behind an earlier line of its page that waits
there (R245). -/
def State.takeLine (s : State) (before : List PeerLine) (l : PeerLine) : Option State :=
  if before.any (s.samePage l) then none
  else
  match s.exportOf l.sender with
  | none => s.logLine 0xFFFF l Cause.xlateMiss.code
  | some c =>
    if (s.repairOf c.num (l.addr.toNat / 4096) l.sender).isSome then s.logLine c.num l 0
    else
      match s.checkPart 0 1002 c .store l.addr.toNat 128 with
      | .stop cause _ _ => s.logLine c.num l cause.code
      | .wait _ => none
      | .hole a => some { s with hole := some a }
      | .ok ps =>
        match ps with
        | [p] =>
          if p.leaf.target != .hbm then s.logLine c.num l Cause.protection.code
          else some (((s.writeLine p.pa l).targetTouch c true [p]).respond l.sender l.tag .ack)
        | _ => none

/-- What waits at this target is tried again, lines first. -/
def State.serveStalled (s : State) : State :=
  let s := s.fab.lines.foldl (fun s l =>
    match { s with fab := { s.fab with lines := s.fab.lines.erase l } }.takeLine (s.fab.lines.takeWhile (· != l)) l with
    | some t => t
    | none => s) s
  s.fab.requests.foldl (fun s r =>
    match { s with fab := { s.fab with requests := s.fab.requests.erase r } }.serve r with | some t => t | none => s) s

/-- REMOTE_REQUEST (R305). -/
def execRemoteRequest (r : PeerRequest) (s : State) : Host.Outcome State Fault Refusal :=
  finish ((s.serve r).getD { s with fab := { s.fab with requests := s.fab.requests ++ [r] } })

/-- REMOTE_STORE_LINE (R381). Lines that wait for room in the log stay in order. -/
def execRemoteStoreLine (l : PeerLine) (s : State) : Host.Outcome State Fault Refusal :=
  finish ((s.takeLine s.fab.lines l).getD { s with fab := { s.fab with lines := s.fab.lines ++ [l] } })

/-! ### Responses (R221, R306, R307) -/

/-- Whether what a fabric tag belongs to is still there. -/
def State.awaited (s : State) (r : Remote) : Bool :=
  if r.warp < 1000 then (match s.lane? r.wid r.warp r.lane with | some x => x.live | none => false)
  else if 3000 ≤ r.warp then r.warp != 3999
  else match s.op? r.wid with | some o => o.running | none => false

/-- What the device's own agents and buffers hold back goes on where it can: lines and updates of signals for peers, deliveries, and joins
that wait for a mask (R34, R182, R304, R383). -/
def State.goOnAll (s : State) : State := ((s.ctxs.map (·.num)).foldl State.drainAll s.resend).retryAllJoins

/-- REMOTE_RESPONSE (R306): an entry of a buffer has been performed, or a request has its answer. -/
def execRemoteResponse (r : PeerResponse) (s : State) : Host.Outcome State Fault Refusal :=
  let wc := s.fab.wc.filter (fun e => e.tag != some r.tag)
  let remote := (s.fab.remote.filter (fun x => x.tag != r.tag || s.awaited x)).map (fun (x : Remote) =>
    if x.tag == r.tag then { x with answer := some r.answer } else x)
  finish ({ s with fab := { s.fab with wc := wc, remote := remote } }.goOnAll).tidy

/-- WC_AGEING (R307). -/
def execWcAgeing (core line : Nat) (s : State) : Host.Outcome State Fault Refusal :=
  finish (s.drainWc (fun e => e.core == core && e.line == line && decide (e.since + s.fab.ageing < s.now)))

/-! ### Peers that become unreachable (R382) -/

/-- A request of a lane of a saved workgroup stays, as one that cannot be answered: the lane parks as soon as it is placed again (R382). -/
def State.keepLost (s : State) (r : Remote) : State :=
  { s with fab := { s.fab with remote := s.fab.remote ++ [{ r with answer := some .stale }] } }

/-- The lanes whose loads, atomics or CAS are in flight to a lost peer park, those of one instruction together, and the answers that
they have are forgotten (R349, R382). A request of the scalar unit parks every lane that waits with it. -/
def State.parkWarps (s : State) : Nat → List Remote → State
  | 0, _ => s
  | _, [] => s
  | fuel + 1, r :: rs =>
    let mine := fun (x : Remote) => x.wid == r.wid && x.warp == r.warp && x.pc == r.pc && !x.scal && !r.scal
    let group := r :: rs.filter mine
    let ls := group.foldl (fun (ls : List Remote) x => if ls.any (fun y => y.lane == x.lane) then ls else ls ++ [x]) []
    match s.wg? r.wid, s.warp? r.wid r.warp with
    | some g, some w =>
      let waits := fun (l : Nat) => match w.lanes[l]? with
        | some x => x.pc == r.pc && (match x.wait with | some { on := .peer .., .. } => true | _ => false)
        | none => false
      let stop := fun (x : Remote) =>
        let addr := match s.ctx? g.pkt.ctx with | some c => namedAddr c g w x.lane x.detail x.addr.toNat | none => x.addr
        (Stop.park .peerUnreachable addr x.detail).record
      let parks := if r.scal then ((List.range w.lanes.length).filter waits).map (fun l => (l, stop r))
        else (ls.filter (fun x => waits x.lane)).map (fun x => (x.lane, stop x))
      let s := if g.st == .resident then
          (State.parkAll r.wid r.warp r.pc r.scal parks.length parks s).forget r.wid r.warp (parks.map (·.1))
        else s.keepLost r
      State.parkWarps s fuel (rs.filter (fun x => if g.st == .resident then !mine x else true))
    | _, _ => State.parkWarps s fuel (rs.filter (fun x => !mine x))

/-- The operations that have traffic to a peer in flight fail there, and the lanes that wait for it park. What the device's own agents
have asked of it is dropped, answered or not. -/
def State.loseOps (s : State) (p : Nat) : State :=
  let mine := s.fab.remote.filter (fun r => r.peer == p && r.answer.isNone)
  let s := { s with fab := { s.fab with remote := s.fab.remote.filter (fun r =>
    !(r.peer == p && (r.answer.isNone || 3000 ≤ r.warp))) } }
  let s := (mine.filter (fun r => 1000 ≤ r.warp && r.warp < 3000)).foldl (fun s r =>
    let lost : OpFail := { status := .unreachable, cause := Cause.peerUnreachable.code, addr := r.addr }
    let s := if 2000 ≤ r.warp then s else s.mapOp r.wid (fun o =>
      match o.kind with
      | .remote _ true .. =>
        { o with members := if o.members.any (fun m => m.1 == r.warp - 1000) then o.members else o.members ++ [(r.warp - 1000, lost)] }
      | .remote .. => { o with fail := some (o.fail.getD lost) }
      | _ => o)
    s.endRemote r.wid) s
  s.parkWarps mine.length (mine.filter (fun r => decide (r.warp < 1000)))

/-- The notification of a core's discarded lines (R382). -/
def State.postLost (s : State) (core ctx p n : Nat) : State :=
  s.postFault (leBytes 64 (packFields [(448, 64, s.now), (320, 64, n), (80, 16, ctx), (64, 16, 256 * p), (57, 7, core),
    (8, 8, Cause.peerUnreachable.code.toNat)]))

/-- The lines for a peer are discarded, with one notification for each core and context; a line that holds stores of several contexts
counts for each. Those of the device's own agents belong to no core and are not notified. -/
def State.loseLines (s : State) (p : Nat) : State :=
  let gone := s.fab.wc.filter (fun e => e.peer == p && decide (e.core < Config.cores))
  let keys := (gone.flatMap (fun e => e.ctxs.map (fun c => (e.core, c)))).foldl (fun ks k => if ks.elem k then ks else ks ++ [k]) []
  keys.foldl (fun s k => s.postLost k.1 k.2 p (gone.filter (fun e => e.core == k.1 && e.ctxs.elem k.2)).length)
    { s with fab := { s.fab with wc := s.fab.wc.filter (fun e => e.peer != p) } }

/-- The release of a lane that waits for stores to peers: what its record says, and whether the scalar unit executes it (R349, R352). -/
def Lane.release (x : Lane) : Option (Word × Nat × Bool) :=
  match x.wait with
  | some { on := .drain a d, .. } => if d.testBit 17 then none else some (a, d % 2 ^ 16, d.testBit 16)
  | _ => none

/-- The lanes of a core that wait for its buffer park (R382). -/
def State.parkReleases (s : State) (core : Nat) : State :=
  (s.wgs.filter (fun g => g.st == .resident && g.core == core)).foldl (fun s g =>
    (List.range g.warps.length).foldl (fun s k =>
      match s.warp? g.wid k with
      | none => s
      | some w =>
        let waiting := w.numbered.filterMap (fun x => x.2.release.map (fun r => (x.1, x.2.pc, r)))
        let pcs := waiting.foldl (fun ps x => if ps.elem x.2.1 then ps else ps ++ [x.2.1]) []
        pcs.foldl (fun s pc =>
          let here := waiting.filter (fun x => x.2.1 == pc)
          let mine := here.map (fun x => (x.1, (Stop.park .peerUnreachable x.2.2.1 x.2.2.2.1).record))
          State.parkAll g.wid k pc (here.any (fun x => x.2.2.2.2)) mine.length mine s) s) s) s

/-- A peer has become unreachable. -/
def State.losePeer (s : State) (p : Nat) : State :=
  let cores := (s.fab.wc.filter (fun e => e.peer == p)).foldl (fun cs e => if cs.elem e.core then cs else cs ++ [e.core]) []
  let s := cores.foldl State.parkReleases (s.loseLines p)
  (s.loseOps p).goOnAll.tidy

/-- The flits in the replay buffer of a channel that has gone down are sent on a channel to that peer that is still up (R378). -/
def State.moveFlits (s : State) (c : Channel) : State :=
  match s.fab.nextChan c.peer with
  | none => s
  | some i =>
    let onto := match s.fab.chans[i]? with | some x => x.plane | none => 0
    if c.sent == 0 then s
    else
      { s with fab := { s.fab with chans := s.fab.chans.modify i (Channel.send c.sent), turn := s.fab.turn + 1 } }.emit
        (.moved c.peer c.plane c.sent onto)

/-- The channels change: what stood in the replay buffers of those that go down is sent on others, and the peers that were reachable,
are no more and are not held are lost. -/
def State.withChans (s : State) (f : Channel → Channel) : State :=
  let down := s.fab.chans.filter (fun c => c.sendUp && !(f c).sendUp)
  let stop := fun (c : Channel) => if c.sendUp && !(f c).sendUp then { f c with sent := 0 } else f c
  let t := { s with fab := { s.fab with chans := s.fab.chans.map stop } }
  let t := down.foldl State.moveFlits t
  ((List.range 16).filter (fun p => s.reachable p && !t.reachable p && !t.heldPeer p)).foldl State.losePeer t

/-- The change of one channel. -/
def onChan (peer plane : Nat) (f : Channel → Channel) (c : Channel) : Channel := if c.peer == peer && c.plane == plane then f c else c
/-- A channel. -/
def State.chan? (s : State) (peer plane : Nat) : Option Channel := s.fab.chans.find? (fun c => c.peer == peer && c.plane == plane)

/-! ### Flits (R378) -/

/-- A channel as link-up leaves it, but down in both directions. -/
def Channel.fresh (peer plane ver : Nat) : Channel :=
  { peer := peer, plane := plane, up := false, sendUp := false, retired := false, ver := ver, health := 1023, expect := 0, fails := 0,
    fixed := 0, replays := 0, lastSeq := 0xFF, sent := 0, sendRet := false, dark := false }

/-- A channel that is down (R378): this device stops sending on it too, so that the other end sees silence and sends what stands in its
replay buffer elsewhere (log 38). -/
def Channel.down (c : Channel) : Channel := { c with up := false, sendUp := false }

/-- A flit is dropped that comes with the replay which its channel awaits (R378, R379). -/
def State.countReplay (s : State) (peer plane : Nat) : State :=
  s.withChans (onChan peer plane (fun c => { c with replays := c.replays + 1 }))

/-- FLIT_RECEIVE (R378): corrected, passed on in sequence, or discarded with a request for a replay. -/
def execFlitReceive (f : Flit) (s : State) : Host.Outcome State Fault Refusal :=
  match s.chan? f.peer f.plane with
  | none => finish s
  | some c =>
    if !c.up then finish s
    else
      let fixed := f.burst != 0 && decide (f.burst ≤ 32)
      let bad := f.crcBad || decide (32 < f.burst)
      let s := if fixed then (s.bump 0x128).withChans (onChan f.peer f.plane (fun c => { c with fixed := c.fixed + 1 })) else s
      if bad then
        if f.seq != c.expect then finish (if c.fails == 0 then s else s.countReplay f.peer f.plane)
        else if 8 ≤ c.fails then finish (s.withChans (onChan f.peer f.plane (fun c => { c.down with fails := 0 })))
        else
          finish ((s.withChans (onChan f.peer f.plane (fun c => { c with fails := c.fails + 1, replays := c.replays + 1 }))).emit
            (.replay f.peer f.plane c.expect))
      else if f.seq == c.expect then
        finish ((s.withChans (onChan f.peer f.plane (fun c => { c with expect := c.expect + 1, fails := 0 }))).bump 0x127)
      else if c.fails == 0 then finish s
      else finish (s.countReplay f.peer f.plane)

/-- REPLAY_REQUEST (R378): the flits from that number on that stand in the replay buffer are sent again. -/
def execReplayRequest (peer plane seq : Nat) (s : State) : Host.Outcome State Fault Refusal :=
  match s.chan? peer plane with
  | none => finish s
  | some c =>
    let n := (c.lastSeq.toNat + 256 - seq % 256) % 256 + 1
    if !c.sendUp || c.sent < n then finish s
    else finish ((s.bumpBy 0x129 n).emit (.resend peer plane (BitVec.ofNat 8 seq) n))

/-- CHANNEL_SILENCE (R378): 10 µs without a flit, in which the other end may have found the channel down or retired it (R379). A held peer's channels are not counted down (R383). A channel that a pod formation has asked for has failed. -/
def execChannelSilence (peer plane : Nat) (s : State) : Host.Outcome State Fault Refusal :=
  if s.heldPeer peer then finish s
  else if (s.chan? peer plane).isNone && (match s.fab.forming with | some m => m.getLsbD peer && decide (plane < 64) | none => false) then
    finish { s with fab := { s.fab with chans := s.fab.chans ++ [Channel.fresh peer plane 1] } }
  else finish (s.withChans (onChan peer plane Channel.down))

/-! ### Health (R379) -/

/-- The score at the end of a window. -/
def healthAfter (h fixed replays : Nat) : Nat :=
  let x : Int := (h : Int) - 4 * replays - (fixed / 64 : Nat)
  let y := if fixed == 0 && replays == 0 then x + 1 else x
  if y < 0 then 0 else if 1023 < y then 1023 else y.toNat

/-- HEALTH_WINDOW (R379). -/
def execHealthWindow (peer plane : Nat) (s : State) : Host.Outcome State Fault Refusal :=
  match s.chan? peer plane with
  | none => finish s
  | some c =>
    if !c.up || s.heldPeer peer then finish s
    else
      let h := healthAfter c.health c.fixed c.replays
      let gone := decide (h < s.fab.threshold)
      let s := s.withChans (onChan peer plane (fun c =>
        { c with health := h, fixed := 0, replays := 0, retired := c.retired || gone, up := !gone,
                 sendUp := c.sendUp && !(gone && decide (c.ver < 3)) }))
      finish (if 3 ≤ c.ver then s.emit (.health peer plane h gone) else s)

/-- HEALTH_REPORT (R379): the receiver at the peer has retired a channel on which this device sends, or not. Link-up does not bring a
retired one back. -/
def execHealthReport (r : HealthReport) (s : State) : Host.Outcome State Fault Refusal :=
  if r.retired then finish (s.withChans (onChan r.peer r.plane (fun c => { c with sendUp := false, sendRet := true }))) else finish s

/-! ### Link-up and pod changes (R303, R314, R383, R390, R391) -/

/-- A peer that is held and kept has relocked: its allowances and entries resume, and its entries age on (R383, R391). -/
def State.relock (s : State) (p : Nat) : State :=
  let bit : BitVec 16 := BitVec.ofNat 16 (2 ^ p)
  match s.fab.podWait with
  | none => s
  | some w =>
    if s.heldPeer p && w.keep.getLsbD p && s.reachable p then
      { s with fab := { s.fab with held := s.fab.held &&& ~~~bit, podWait := some { w with done := w.done ||| bit },
                                   wc := s.fab.wc.map (fun e => if e.peer == p then { e with since := s.now - e.since } else e) } }
    else s

/-- A channel after link-up frames have been exchanged (R303, R379): each direction that has not been retired is up, and the score is
full, or kept where the channel was dark for a pod change or its peer is held (R383). Below fabric version 3 nothing is sent beside a retired direction.
-/
def Channel.linked (c : Channel) (ver : Nat) (held : Bool) : Channel :=
  { Channel.fresh c.peer c.plane ver with
    up := !c.retired, sendUp := !c.sendRet && !(c.retired && decide (ver < 3)), retired := c.retired, sendRet := c.sendRet,
    health := if c.dark || c.retired || held then c.health else 1023 }

/-- LINK_UP (R303): the channel comes up when the pod identifiers are the same and a version is common. In P2 the optics are dark
(R330). -/
def execLinkUp (l : LinkFrame) (s : State) : Host.Outcome State Fault Refusal :=
  let ver := min 3 l.verHi
  if l.podId != s.fab.podId || ver < max 1 l.verLo || !s.fab.members.getLsbD l.peer || l.peer == s.fab.index || 64 ≤ l.plane ||
      s.power.pstate == 2 then finish s
  else
    let chans := if (s.chan? l.peer l.plane).isSome then s.fab.chans else s.fab.chans ++ [Channel.fresh l.peer l.plane ver]
    let s := { s with fab := { s.fab with chans := chans.map (onChan l.peer l.plane (fun c => c.linked ver (s.heldPeer l.peer))) } }
    finish (s.relock l.peer).goOnAll.tidy

/-- A link-up frame is sent, unless the optics are dark (R330). -/
def State.frameTo (s : State) (peer plane : Nat) : State := if s.power.pstate == 2 then s else s.emit (.linkFrame peer plane)

/-- The members of a map that are peers. -/
def State.peersOf (s : State) (m : BitVec 16) : List Nat :=
  (List.range 16).filter (fun p => m.getLsbD p && p != s.fab.index && s.fab.members.getLsbD p)

/-- Every channel of a peer goes dark and the peer is lost. -/
def State.cutPeer (s : State) (p : Nat) : State :=
  let chans := s.fab.chans.map (fun (c : Channel) => if c.peer == p then { c with up := false, sendUp := false } else c)
  { s with fab := { s.fab with held := s.fab.held &&& ~~~(BitVec.ofNat 16 (2 ^ p)), chans := chans } }.losePeer p

/-- Step 2 of R383: peers are held; those below fabric version 3 become unreachable at once. The entries of a held peer keep the age
that they have. -/
def State.hold (s : State) (m : BitVec 16) : State :=
  (s.peersOf m).foldl (fun s p =>
    if s.heldPeer p then s
    else if s.fab.chans.any (fun c => c.peer == p && c.up && decide (c.ver < 3)) then s.cutPeer p
    else
      { s with fab := { s.fab with held := s.fab.held ||| BitVec.ofNat 16 (2 ^ p),
                                   heldAt := (p, s.now) :: s.fab.heldAt.filter (fun x => x.1 != p),
                                   wc := s.fab.wc.map (fun e => if e.peer == p then { e with since := s.now - e.since } else e) } }) s

/-- Whether something sent to a held peer has not been acknowledged. -/
def State.holdBusy (s : State) : Bool :=
  s.fab.wc.any (fun e => s.heldPeer e.peer && e.tag.isSome) || s.fab.remote.any (fun r => s.heldPeer r.peer && r.answer.isNone)

/-- Step 4 of R383: the held peers outside KEEP are lost, and the others' link-up begins. The channels that go dark come back by
link-up. -/
def State.podSet (s : State) (keep : BitVec 16) (limit : Nat) : State :=
  let kept := keep &&& s.fab.held
  let s := ((List.range 16).filter (fun p => s.heldPeer p && !kept.getLsbD p)).foldl State.cutPeer s
  let chans := s.fab.chans.map (fun (c : Channel) =>
    if kept.getLsbD c.peer then { c with up := false, sendUp := false, dark := true } else c)
  let s := { s with fab := { s.fab with podWait := some { keep := kept, done := 0, limit := 1000000 * limit }, chans := chans } }
  (s.fab.chans.filter (fun c => kept.getLsbD c.peer && !c.retired)).foldl (fun s c => s.frameTo c.peer c.plane) s

/-- When a peer's dark interval began: at its hold. -/
def State.heldSince (s : State) (p : Nat) : Nat := ((s.fab.heldAt.find? (fun x => x.1 == p)).map (·.2)).getD s.now

/-- DARK_LIMIT_EXPIRY (R383): the kept peers that have not relocked when the limit has passed since their hold become unreachable. -/
def execDarkLimitExpiry (s : State) : Host.Outcome State Fault Refusal :=
  match s.fab.podWait with
  | none => finish s
  | some w =>
    finish (((List.range 16).filter (fun p =>
      s.heldPeer p && w.keep.getLsbD p && decide (s.heldSince p + w.limit ≤ s.now))).foldl State.cutPeer s)

/-! ### Replay and discard (R381, R384) -/

/-- The page leaves the repair table. -/
def State.endRepair (s : State) (ctx page : Nat) : State :=
  { s with fab := { s.fab with repair := s.fab.repair.filter (fun r => !(r.ctx == ctx && r.page == page)) } }

/-- A logged line is performed through an export context; none while the page does not take it. -/
def State.replayLine (s : State) (c : Option Context) (l : PeerLine) : Option State :=
  match c with
  | none => none
  | some c =>
    match s.checkPart 0 1002 c .store (l.addr.toNat / 4096 * 4096) 4096 with
    | .ok [p] => if p.leaf.target != .hbm then none else some (s.writeLine (p.leaf.frame + l.addr.toNat % 4096) l)
    | _ => none

/-- The page's entries are performed in log order, through the context of the repair; lines that were logged without one through the
export context that their sender has now (R381). None while the page does not take them. -/
def State.replayPage (s : State) (r : Repair) : Option State :=
  let via := fun (l : PeerLine) => if r.ctx == 0xFFFF then s.exportOf l.sender else s.ctx? r.ctx
  (r.log.foldl (fun (t : Option State) l => t.bind (fun t => t.replayLine (via l) l)) (some (s.endRepair r.ctx r.page))).map
    State.serveStalled

end Sys2Proof.Machine
end

