-- ==== Sys2Proof/Machine/FlowOps.lean ====
section
/-!
DEFINITION. Family 0x30: RELABEL, ORDREL, ORDSKIP, HOLD, FLOWKILL and ENQ
(spec/07_ref_control_teams_flows.md R188 to R194, spec/21 R370).
-/
namespace Sys2Proof.Machine

/-- The sequencer takes the executing lanes in ascending order, each lane's effect whole (R188). -/
def State.inOrder (s : State) (cx : Cx) (f : State → Nat → Lane → State × LaneOut) : State :=
  let r := cx.lanes.foldl (fun acc l =>
    match acc.1.lane? cx.wid cx.k l with
    | none => acc
    | some x =>
      let y := f acc.1 l x
      (y.1, acc.2 ++ [(l, y.2)])) (s, ([] : List (Nat × LaneOut)))
  r.1.commit cx false false 0 r.2

/-- A lane of a flow instruction completes. -/
def flowDone : LaneOut := .write [] 0 0
/-- A poisoned operand of a flow instruction (R188). -/
def flowPoison (x : Lane) : LaneOut := .stop (poisonStop x 6)

/-! ### RELABEL (R35, R189) -/

/-- The item of a lane changed. -/
def Lane.mapItem (x : Lane) (f : Item → Item) : Lane := { x with item := x.item.map f }

/-- One lane's item moves to another flow. -/
def State.relabel (s : State) (cx : Cx) (l : Nat) (it : Item) (label : W32) (cls : Nat) : State :=
  let ctx := cx.ctx.num
  let s := if ordered it.cls && !it.released then s.release ctx it.label it.seq it.dispatch .skip else s
  let s := if atomicClass it.cls then s.giveExcl ctx it.label it.seq it.dispatch else s
  let r := s.joinFlow ctx label cls it.dispatch
  let s := r.1.mapLane cx.wid cx.k l (fun x =>
    { x.mapItem (fun i => { i with label := label, cls := cls, seq := r.2, released := false }) with
      st := if atomicClass cls then .exclusion else x.st })
  if atomicClass cls then s.passExcl ctx label else s

/-- RELABEL (R189). -/
def execRelabel (w : FmtA) (s : State) : Host.Outcome State Fault Refusal :=
  withCx s (fun cx => s.inOrder cx (fun s l x =>
    let a := readOp s cx l 1 w.a
    let b := readOp s cx l 1 w.b
    if !cx.g.flow then (s, .stop cx.illegal)
    else if a.p || b.p then (s, flowPoison x)
    else if 3 < b.v.toNat then (s, .stop cx.illegal)
    else
      match x.item with
      | none => (s, flowDone)
      | some it => (s.relabel cx l it (a.v.setWidth 32) b.v.toNat, flowDone)))

/-! ### ORDREL and ORDSKIP (R33, R34, R190, R191) -/

/-- Whether an item's class makes a release event here; grid items act as class 0 (R27, R188). -/
def Item.owes (it : Item) (g : Wg) : Bool := g.flow && ordered it.cls

/-- The item's release event, or RELEASE_TWICE. -/
def State.releaseOnce (s : State) (cx : Cx) (l : Nat) (it : Item) (r : Release) : State × LaneOut :=
  if it.released then (s, .stop (.fault .releaseTwice 0 0))
  else
    ((s.mapLane cx.wid cx.k l (fun x => x.mapItem (fun i => { i with released := true }))).release cx.ctx.num it.label it.seq
      it.dispatch r, flowDone)

/-- A record of a class that makes no release event goes to the launch's ring at once; a grid launch without a ring raises
PROTECTION (R27, R31). -/
def State.deliverNow (s : State) (cx : Cx) (bs : List Byte) : State × LaneOut :=
  if s.rings.any (fun r => r.key == cx.g.pkt) then (s.deliver cx.g.pkt bs, flowDone)
  else (s, .stop (.fault .protection 0 0))

/-- One lane of ORDREL. -/
def ordrelLane (cx : Cx) (w : FmtA) (s : State) (l : Nat) (x : Lane) : State × LaneOut :=
  let len := readUni s cx 1 w.b
  let n := len.v.toNat
  if len.p then (s, flowPoison x)
  else if n % 4 != 0 || n < 4 || 64 < n || 8 * ((cx.g.kernel.regs + 7) / 8) < w.a.toNat + n / 4 then (s, .stop cx.illegal)
  else
    let words := (List.range (n / 4)).map (fun i => x.reg (w.a.toNat + i))
    if anyPoison words then (s, flowPoison x)
    else
      let bs := words.flatMap (fun v => leBytes 4 v.v.toNat)
      match x.item with
      | none => (s, flowDone)
      | some it => if it.owes cx.g then s.releaseOnce cx l it (.record bs cx.g.pkt) else s.deliverNow cx bs

/-- The page in repair that holds back the records which the executing lanes deliver at once (R357). -/
def State.ordrelHold (s : State) (cx : Cx) : Option Nat :=
  let atOnce := cx.lanes.filter (fun l =>
    match (cx.lane? l).bind (·.item) with | some it => !it.owes cx.g | none => false)
  if atOnce.isEmpty then none else s.ringHold cx.g.pkt atOnce.length

/-- ORDREL (R190): it is a release at system scope, so stores to peers are drained and answered first (R253). -/
def execOrdrel (w : FmtA) (s : State) : Host.Outcome State Fault Refusal :=
  withCx s (fun cx =>
    if s.wcQuiet cx.g.core then
      match s.ordrelHold cx with
      | none => s.inOrder cx (ordrelLane cx w)
      | some p => s.stall cx (cx.lanes.map (fun l => (l, .repair p, false)))
    else (s.drainWc (fun e => e.core == cx.g.core)).stall cx (cx.lanes.map (fun l => (l, .drain 0 0, false))))

/-- ORDSKIP (R191). -/
def execOrdskip (_ : FmtA) (s : State) : Host.Outcome State Fault Refusal :=
  withCx s (fun cx => s.inOrder cx (fun s l x =>
    match x.item with
    | none => (s, flowDone)
    | some it => if it.owes cx.g then s.releaseOnce cx l it .skip else (s, flowDone)))

/-! ### HOLD (R192, R300) -/

/-- HOLD (R192). -/
def execHold (w : FmtA) (s : State) : Host.Outcome State Fault Refusal :=
  withCx s (fun cx => s.inOrder cx (fun s l x =>
    let a := readOp s cx l 1 w.a
    if !cx.g.flow then (s, .stop cx.illegal)
    else if a.p then (s, flowPoison x)
    else if 255 < a.v.toNat then (s, .stop cx.illegal)
    else
      match x.item with
      | none => (s, flowDone)
      | some it =>
        ((s.mapFlow cx.ctx.num it.label (fun f => { f with hold := a.v.toNat })).drain cx.ctx.num it.label, flowDone)))

/-! ### FLOWKILL (R36, R193, R370) -/

/-- A lane whose item the kill ends. -/
def Lane.ofLabel (x : Lane) (label : W32) : Bool := x.live && (match x.item with | some it => it.label == label | none => false)

/-- The workgroups of a context's flow launches. -/
def Wg.flowOf (g : Wg) (ctx : Nat) : Bool := g.flow && g.pkt.ctx == ctx

/-- The handles that the kill cancels: those of warps whose every live lane holds the label. -/
def State.killedOps (s : State) (ctx : Nat) (label : W32) : List Nat :=
  (s.wgs.filter (fun g => g.flowOf ctx)).flatMap (fun g => g.warps.flatMap (fun w =>
    if w.live && w.lanes.all (fun x => !x.live || x.ofLabel label) then
      w.h.filterMap (fun h => match h with | .bound i _ => some i | .invalid => none)
    else []))

/-- The flow queues of a context's launches, by their descriptors. -/
def State.flowQueues (s : State) (c : Context) : List Word :=
  s.pkts.filterMap (fun p =>
    if p.key.ctx == c.num then p.launch?.bind (fun l => if l.flow then some l.fqd else none) else none)

/-- The reads that a FLOWKILL makes: each flow queue's WIDX. -/
def State.killReads (s : State) (c : Context) : List (Nat × Nat) := (s.flowQueues c).map (fun fqd => (fqd.toNat + 8, 8))

/-- The page at which a FLOWKILL stalls (R357, R393): one that keeps a flow queue's WIDX from being read. -/
def State.killStall (s : State) (c : Context) : Option Nat :=
  ((s.killReads c).find? (fun r => s.agentRead 6 c r.1 r.2 == .stall)).map (fun r => r.1 / 4096)

/-- The present WIDX of each flow queue, where it can be read. -/
def State.killBelow (s : State) (c : Context) : List (Word × Word) :=
  (s.flowQueues c).filterMap (fun fqd =>
    match s.agentRead 6 c (fqd.toNat + 8) 8 with
    | .bytes bs => some (fqd, wordOf bs)
    | _ => none)

/-- The marks that keep untaken entries of the label from being taken: those below each flow queue's WIDX. -/
def State.markKills (s : State) (c : Context) (label : W32) (below : List (Word × Word)) : State :=
  below.foldl (fun s b =>
    let rest := s.kills.filter (fun k => !(k.ctx == c.num && k.fqd == b.1 && k.label == label))
    { s with kills := rest ++ [{ ctx := c.num, fqd := b.1, label := label, below := b.2 }] }) s

/-- A label's pending entries, held records, exclusion and numbering go (R193). -/
def State.dropLabel (s : State) (c : Context) (label : W32) (below : List (Word × Word)) : State :=
  let other := fun (i : Item) => i.label != label
  let s := s.markKills c label below
  { s with
    flows := s.flows.filter (fun f => !(f.ctx == c.num && f.label == label)),
    offers := s.offers.filter (fun o => !(o.ctx == c.num && o.item.label == label)),
    pkts := s.pkts.map (fun p =>
      match p.body with
      | .launch l =>
        if p.key.ctx == c.num && l.flow then
          { p with body := .launch { l with filling := l.filling.filter other, parkedItems := l.parkedItems.filter other } }
        else p
      | _ => p) }

/-- The kill as the sequencer takes it. -/
def State.flowKill (s : State) (c : Context) (label : W32) (below : List (Word × Word)) : State :=
  let s := (s.killedOps c.num label).foldl State.cancelOp s
  let s := s.dropLabel c label below
  { s with wgs := s.wgs.map (fun g =>
      if g.flowOf c.num then
        { g with warps := g.warps.map (fun w => { w with lanes := w.lanes.map (fun x =>
            if x.ofLabel label then { x with killed := true } else x) }) }
      else g) }

/-- What a killed lane's end report names: its record, its PC and the record's cause; a stepped lane has no record yet (R370). -/
def Lane.killReport (x : Lane) : Option (Option Nat × Word × Byte) :=
  match x.park?, x.dbg.held with
  | some p, _ | none, some p => some (some p.recId, p.pc, p.cause.code)
  | none, none => if x.dbg.step then some (none, x.pc, Cause.bkpt.code) else none

/-- The end reports of a warp's killed lanes, one for each record that they resolve. -/
def State.reportKilled (s : State) (g : Wg) (w : Warp) : State :=
  let hits := w.numbered.filterMap (fun (l, x) =>
    if x.killed && x.live then x.killReport.map (fun r => (l, r)) else none)
  let keys := hits.foldl (fun ks h => if ks.elem h.2 then ks else ks ++ [h.2]) []
  keys.foldl (fun s k =>
    let ls := (hits.filter (fun h => h.2 == k)).map (·.1)
    match ls.head?.bind (fun l => w.lanes[l]?) with
    | none => s
    | some low => s.postFault (recordBytes s g w (maskOf ls) low k.2.1 0 Cause.flowKilled.code 3 k.2.2.toNat false)) s

/-- Every lane that stands at an instruction boundary exits once it is killed: between steps all do. -/
def State.endKilled (s : State) : State :=
  s.wgs.foldl (fun s g => (List.range g.warps.length).foldl (fun s k =>
    match s.warp? g.wid k with
    | none => s
    | some w =>
      let ls := (w.numbered.filter (fun x => x.2.killed && x.2.live)).map (·.1)
      if ls.isEmpty then s else (s.reportKilled g w).exitLanes g.wid k ls) s) s

/-- FLOWKILL (R193). -/
def execFlowkill (w : FmtA) (s : State) : Host.Outcome State Fault Refusal :=
  withCx s (fun cx =>
    let below := s.killBelow cx.ctx
    let read := (s.agentGets 6 cx.ctx (s.killReads cx.ctx)).1
    match s.killStall cx.ctx with
    | some p => read.stall cx (cx.lanes.map (fun l => (l, .repair p, false)))
    | none =>
      (read.inOrder cx (fun s l x =>
        let a := readOp s cx l 1 w.a
        if a.p then (s, flowPoison x) else (s.flowKill cx.ctx (a.v.setWidth 32) below, flowDone))).endKilled.tidy)

/-! ### ENQ (R194) -/

/-- The plan of one lane: the packet's 64 bytes as a global load. -/
def enqPlan (s : State) (cx : Cx) (w : FmtA) (l : Nat) : MemPlan :=
  match cx.lane? l with
  | none => (l, .error .skip)
  | some x =>
    let a := readOp s cx l 3 w.a
    let b := readOp s cx l 1 w.b
    if a.p || b.p then (l, .error (flowPoison x))
    else if a.v.toNat % 64 != 0 then (l, .error (.stop (memStop .align a.v (memDetail 0 6 0 0))))
    else (l, .ok (a.v, s.locate cx l 0 6 .load false a.v))

/-- Whether the descriptor of queue q lies at a peer: ENQs to it follow one another, each lane ending on its own. -/
def State.queueAtPeer (s : State) (c : Context) (q : Nat) : Bool :=
  match s.agentCheck c .load (c.qdescAt q) 32 with
  | .ok ps => ps.any Part.atPeer
  | _ => false

/-- ENQ (R194). -/
def execEnq (w : FmtA) (s : State) : Host.Outcome State Fault Refusal :=
  withCx s (fun cx =>
    let q := fun l => (readOp s cx l 1 w.b).v.toNat
    let bytes := fun (s : State) l loc => (s.locBytes cx l loc 64).map (·.1)
    let held := fun (s : State) l loc => match (s.enqueue cx.ctx (q l) (bytes s l loc)).2 with
      | .error va => some (LaneOut.wait (.repair (va / 4096)) false)
      | .ok _ => none
    let plan := cx.lanes.map (enqPlan s cx w)
    let s := plan.foldl (fun s p => match p.2 with | .ok (_, .mem _) => s.queueWait cx.ctx (q p.1) | _ => s) s
    MemOp.run
      { drains := fun loc => drainsFirst 0 0 loc, sz := 6, acc := 0, what := fun _ _ => .access .load,
        holds := fun s l _ loc => held s l loc,
        each := cx.lanes.any (fun l => s.queueAtPeer cx.ctx (q l)),
        perform := fun s l _ loc =>
          match cx.lane? l with
          | none => (s, .skip)
          | some x =>
            let s := s.locTouch cx loc
            if (s.locBytes cx l loc 64).any (·.2) then (s, flowPoison x)
            else
              let r := s.enqueue cx.ctx (q l) (bytes s l loc)
              match r.2 with
              | .error va => (r.1, .wait (.repair (va / 4096)) false)
              | .ok st => (r.1, .write (destWrites l w.d 1 (BitVec.ofNat 64 st) false) 0 0) }
      s cx false false 0 plan)

end Sys2Proof.Machine
end

