-- ==== Sys2Proof/Machine/Logic.lean ====
section
/-!
DEFINITION. The logic and shift family 0x12 (spec/06_ref_lane_arithmetic.md R132 to R134).
-/
namespace Sys2Proof.Machine

/-- A bitwise member over the operand width (R132). -/
def logicEntry (w : FmtA) (f : Word → Word → Word) : Entry :=
  { dst := w.d, ty := w.ty, srcs := srcAB w, fn := fun _ vs => plainRes vs (cut w.ty (f (argv vs 0) (argv vs 1))) }

/-- A shift or rotate, element by element (R133, R134). -/
def shiftElems (w : FmtA) (f : Nat → Nat → Nat → Nat) : Entry :=
  { dst := w.d, ty := w.ty, srcs := srcAB w,
    fn := fun _ vs => plainRes vs (mapElems w.ty (fun x n _ => f (elemBits w.ty) x n) (argv vs 0) (argv vs 1) 0) }

/-- A funnel shift, element by element (R134). -/
def funnelElems (w : FmtA) (f : Nat → Nat → Nat → Nat → Nat) : Entry :=
  { dst := w.d, ty := w.ty, srcs := srcABC w,
    fn := fun _ vs => plainRes vs (mapElems w.ty (fun x y n => f (elemBits w.ty) x y n) (argv vs 0) (argv vs 1) (argv vs 2)) }

/-- AND (R132). -/
def execAnd (w : FmtA) (s : State) : Host.Outcome State Fault Refusal :=
  laneOp (.and w) (logicEntry w (fun a b => a &&& b)) s
/-- OR (R132). -/
def execOr (w : FmtA) (s : State) : Host.Outcome State Fault Refusal :=
  laneOp (.or w) (logicEntry w (fun a b => a ||| b)) s
/-- XOR (R132). -/
def execXor (w : FmtA) (s : State) : Host.Outcome State Fault Refusal :=
  laneOp (.xor w) (logicEntry w (fun a b => a ^^^ b)) s
/-- ANDN (R132). -/
def execAndn (w : FmtA) (s : State) : Host.Outcome State Fault Refusal :=
  laneOp (.andn w) (logicEntry w (fun a b => a &&& ~~~b)) s
/-- ORN (R132). -/
def execOrn (w : FmtA) (s : State) : Host.Outcome State Fault Refusal :=
  laneOp (.orn w) (logicEntry w (fun a b => a ||| ~~~b)) s
/-- NOT (R132). -/
def execNot (w : FmtA) (s : State) : Host.Outcome State Fault Refusal :=
  laneOp (.not w) { dst := w.d, ty := w.ty, srcs := [(w.a, w.ty)], fn := fun _ vs => plainRes vs (cut w.ty (~~~argv vs 0)) } s
/-- LOP3 (R132): the destination's old value is its third input. -/
def execLop3 (w : FmtA) (s : State) : Host.Outcome State Fault Refusal :=
  laneOp (.lop3 w)
    { dst := w.d, ty := w.ty, srcs := [(w.a, w.ty), (w.b, w.ty), (w.d, w.ty)],
      fn := fun _ vs => plainRes vs (cut w.ty (lop3Fn (w.c.toNat % 256) (argv vs 0) (argv vs 1) (argv vs 2))) } s
/-- SHL (R133). -/
def execShl (w : FmtA) (s : State) : Host.Outcome State Fault Refusal :=
  laneOp (.shl w) (shiftElems w shlFn) s
/-- SHR (R133). -/
def execShr (w : FmtA) (s : State) : Host.Outcome State Fault Refusal :=
  laneOp (.shr w) (shiftElems w shrFn) s
/-- SAR (R133). -/
def execSar (w : FmtA) (s : State) : Host.Outcome State Fault Refusal :=
  laneOp (.sar w) (shiftElems w sarFn) s
/-- ROL (R134). -/
def execRol (w : FmtA) (s : State) : Host.Outcome State Fault Refusal :=
  laneOp (.rol w) (shiftElems w rolFn) s
/-- ROR (R134). -/
def execRor (w : FmtA) (s : State) : Host.Outcome State Fault Refusal :=
  laneOp (.ror w) (shiftElems w rorFn) s
/-- FSHL (R134). -/
def execFshl (w : FmtA) (s : State) : Host.Outcome State Fault Refusal :=
  laneOp (.fshl w) (funnelElems w fshlFn) s
/-- FSHR (R134). -/
def execFshr (w : FmtA) (s : State) : Host.Outcome State Fault Refusal :=
  laneOp (.fshr w) (funnelElems w fshrFn) s

end Sys2Proof.Machine
end

