-- ==== Sys2Proof/Machine/Packet.lean ====
section
/-!
DEFINITION. Packets (spec/11_scheduling.md R270 to R277, spec/12 R294): their fields, the checks of R272 with those of the kernel
and flow queue descriptors, and what a packet that passes them is.
-/
namespace Sys2Proof.Machine

/-! ### Fields -/

/-- Bits [lo + n − 1 : lo] of a record in memory. -/
def field (bs : List Byte) (lo n : Nat) : Nat := bitsOf (leNat bs) lo n
/-- A power of two from 2^a to 2^b. -/
def powerIn (n a b : Nat) : Bool := (List.range (b + 1)).any (fun i => decide (a ≤ i) && n == 2 ^ i)

/-- What the check of a packet gives: its body, a refusal with the cause that it met or 0, a stall at an address, or an
address beyond the part. -/
inductive Checked where
  | ok (b : PktBody)
  | refuse (cause : Byte)
  | stall (va n : Nat)
  | hole (a : Nat)
  deriving DecidableEq, Repr

/-- A descriptor that a packet names is read (R393). -/
def State.descriptor (s : State) (c : Context) (va n : Nat) (k : List Byte → Checked) : Checked :=
  match s.agentRead 1 c va n with
  | .bytes bs => k bs
  | .fail cause _ => .refuse cause.code
  | .stall => .stall va n
  | .hole a => .hole a

/-- Whether a packet stops a stream: a TICKCFG with PERIOD 0 (R294). -/
def stopsStream (bs : List Byte) : Bool := pktType bs == 6 && field bs 288 32 == 0

/-- The header's own limits: the "—" bits, BUDG outside FLOWLAUNCH, CSIG (R270, R272); of a packet that stops a stream only the "—" bits
are looked at (R294). -/
def headerFits (bs : List Byte) : Bool :=
  field bs 12 20 == 0 && field bs 9 2 == 0 &&
  (stopsStream bs || ((field bs 11 1 == 0 || field bs 0 8 == 2) && field bs 64 3 == 0))

/-! ### Kernel and flow queue descriptors (R273, R275) -/

/-- The descriptor in 64 bytes. -/
def Kernel.ofBytes (bs : List Byte) : Kernel :=
  { entry := BitVec.ofNat 64 (field bs 0 64), data := BitVec.ofNat 64 (field bs 64 64), trapv := BitVec.ofNat 64 (field bs 128 64),
    scratch := field bs 192 32, lanes := field bs 224 8, regs := field bs 232 8 + 1, scalars := field bs 240 8,
    stages := field bs 248 8, producer := field bs 256 8, fclass := field bs 264 8 }

/-- The limits of the kernel descriptor. -/
def kernelFits (bs : List Byte) : Bool :=
  let k := Kernel.ofBytes bs
  field bs 272 240 == 0 && (k.lanes == 16 || k.lanes == 32 || k.lanes == 64) && decide (k.scratch ≤ 1572864) &&
  1 ≤ k.scalars && k.scalars ≤ 64 && 1 ≤ k.stages && k.stages ≤ 8 && k.fclass ≤ 4

/-- The limits of the flow queue descriptor. -/
def fqdFits (bs : List Byte) : Bool :=
  field bs 209 47 == 0 && field bs 200 8 == 0 && 4 ≤ field bs 192 8 && field bs 192 8 ≤ 20 && field bs 0 6 == 0

/-- Whether a whole stage column fits on one empty core under R25, which counts no accumulator rows (R272). -/
def Launch.fitsCore (l : Launch) : Bool :=
  let k := l.kernel
  let warps := k.stages * l.wgw
  let r := (copyReserve l.copymode).getD (0, 0)
  decide (k.laneRegs warps ≤ Config.laneRegs) && decide (k.stages * k.tiles ≤ Config.scratchTiles) &&
  decide (warps ≤ Config.slotsPerCore) && decide (k.stages * r.1 ≤ 16) &&
  decide (k.stages * r.2 ≤ 16)

/-! ### Bodies (R274 to R277, R294) -/

/-- What LAUNCH and FLOWLAUNCH share; the launch identifier is the one that the packet takes. -/
def launchOf (c : Context) (id : Nat) (bs : List Byte) (k : Kernel) : Launch :=
  let flow := pktType bs == 2
  { flow := flow, id := id, kernel := k, args := BitVec.ofNat 64 (field bs 192 64), wgw := if flow then 1 else field bs 304 8,
    accRows := 16 * (if flow then field bs 448 8 else field bs 312 8),
    slotSz := 4096 * (if flow then field bs 464 16 else field bs 320 16),
    gx := if flow then 0 else field bs 256 16, gy := if flow then 0 else field bs 272 16, gz := if flow then 0 else field bs 288 16,
    next := 0, firstDispatch := 0, fqd := if flow then BitVec.ofNat 64 (field bs 256 64) else 0,
    delay := if flow then field bs 416 32 else 0, budget := if flow && field bs 11 1 == 1 then some 0 else none, taken := 0,
    closed := !flow, filling := [], fillAt := 0, parkedItems := [], copymode := c.copymode }

/-- The limits that the two maps share, with those of R272. -/
def Launch.fits (l : Launch) : Bool :=
  4096 ≤ l.slotSz && l.slotSz ≤ 4096 * 256 && l.accRows ≤ 512 && l.kernel.producer < l.wgw && (l.kernel.fclass != 0) == l.flow &&
  l.fitsCore

/-- LAUNCH (R274). -/
def State.checkLaunch (s : State) (c : Context) (id : Nat) (bs : List Byte) : Checked :=
  let kd := field bs 128 64
  let rring := field bs 384 64
  let rrlen := field bs 448 32
  if kd % 64 != 0 then .refuse 0
  else
    s.descriptor c kd 64 (fun kb =>
      let l := launchOf c id bs (Kernel.ofBytes kb)
      if field bs 480 32 == 0 && field bs 336 48 == 0 && kernelFits kb && l.fits && 1 ≤ l.wgw && l.wgw ≤ 16 && l.gx != 0 && l.gy != 0 &&
          l.gz != 0 && rring % 64 == 0 && (if rring == 0 then rrlen == 0 else powerIn rrlen 6 16) then .ok (.launch l)
      else .refuse 0)

/-- FLOWLAUNCH (R275). -/
def State.checkFlowlaunch (s : State) (c : Context) (id : Nat) (bs : List Byte) : Checked :=
  let kd := field bs 128 64
  let fqd := field bs 256 64
  if kd % 64 != 0 || fqd % 32 != 0 then .refuse 0
  else
    s.descriptor c kd 64 (fun kb =>
      s.descriptor c fqd 32 (fun fb =>
        let l := launchOf c id bs (Kernel.ofBytes kb)
        if field bs 480 32 == 0 && field bs 456 8 == 0 && kernelFits kb && fqdFits fb && l.fits && l.kernel.stages == 1 &&
            l.delay ≤ 1000000 && field bs 320 6 == 0 && powerIn (field bs 384 32) 6 16 then .ok (.launch l)
        else .refuse 0))

/-- One dependency entry; none when it is refused (R276). -/
def BarDep.ofNat (x : Nat) : Option BarDep :=
  match x % 8 with
  | 0 => if x == 0 then some .unused else none
  | 1 => some (.signal (BitVec.ofNat 64 (x - 1)))
  | 2 =>
    if bitsOf x 3 13 == 0 && bitsOf x 16 16 != 0 then some (.event (bitsOf x 16 16) (BitVec.ofNat 32 (bitsOf x 32 32))) else none
  | _ => none

/-- A list of results, none if one is none. -/
def allSome {α : Type} : List (Option α) → Option (List α)
  | [] => some []
  | x :: xs => x.bind (fun a => (allSome xs).map (a :: ·))

/-- BARRIER-AND and BARRIER-OR (R276). -/
def checkBarrier (bs : List Byte) : Checked :=
  match allSome ((List.range 5).map (fun i => BarDep.ofNat (field bs (128 + 64 * i) 64))) with
  | some deps => if field bs 448 64 == 0 then .ok (.barrier (pktType bs == 3) deps) else .refuse 0
  | none => .refuse 0

/-- COPY (R277). -/
def checkCopy (bs : List Byte) : Checked :=
  if field bs 304 208 == 0 && field bs 128 4 == 0 && field bs 192 4 == 0 && field bs 256 4 == 0 && field bs 256 32 ≤ 2 ^ 24 then
    .ok (.copy 0)
  else .refuse 0

/-- The stream that a TICKCFG configures (R294). -/
def Stream.ofPacket (ctx : Nat) (bs : List Byte) : Stream :=
  { ctx := ctx, id := BitVec.ofNat 32 (field bs 224 32), active := true, t0 := field bs 448 64,
    wbase := BitVec.ofNat 64 (field bs 384 64), fqd := BitVec.ofNat 64 (field bs 320 64), period := field bs 288 32,
    grace := field bs 256 32, flow := BitVec.ofNat 32 (field bs 192 32), tsize := field bs 176 16, sink := field bs 160 16,
    wlog2 := field bs 152 8, tpt := field bs 144 8, policy := field bs 128 2, next := 0 }

/-- TICKCFG (R294); with PERIOD 0 only the "—" bits and POLICY are checked. -/
def checkTick (bs : List Byte) : Checked :=
  let x := Stream.ofPacket 0 bs
  let always := field bs 130 14 == 0 && x.policy != 3
  let limits := 1000 ≤ x.period && x.period ≤ 1000000000 && x.grace ≤ x.period && x.wbase.toNat % 4096 == 0 && x.tsize % 16 == 0 &&
    16 ≤ x.tsize && x.tsize ≤ 4096 && 4 ≤ x.wlog2 && x.wlog2 ≤ 20 && x.sink ≤ 2 ^ x.wlog2 / 2 && 1 ≤ x.tpt
  if always && (x.period == 0 || limits) then .ok .done else .refuse 0

/-- The descriptors that the check of a packet reads, as address and length (R273, R275). -/
def pktReads (bs : List Byte) : List (Nat × Nat) :=
  let kd := field bs 128 64
  let fqd := field bs 256 64
  if !headerFits bs || kd % 64 != 0 then []
  else if pktType bs == 1 then [(kd, 64)]
  else if pktType bs == 2 && fqd % 32 == 0 then [(kd, 64), (fqd, 32)]
  else []

/-- The check of a packet of 64 bytes (R272). -/
def State.checkPacket (s : State) (c : Context) (id : Nat) (bs : List Byte) : Checked :=
  if !headerFits bs then .refuse 0
  else
    match pktType bs with
    | 1 => s.checkLaunch c id bs
    | 2 => s.checkFlowlaunch c id bs
    | 3 | 4 => checkBarrier bs
    | 5 => checkCopy bs
    | 6 => checkTick bs
    | _ => .refuse 0

end Sys2Proof.Machine
end

