-- ==== Sys2Proof/Machine/Scheduler.lean ====
section
/-!
DEFINITION. The queue scheduler (spec/11_scheduling.md R269 to R282, spec/21 R369, spec/23 R388, R393): examining queues, hardware
slots, taking, starting and completing packets, barriers, and aborts.
-/
namespace Sys2Proof.Machine

/-! ### Examining a queue (R269, R281, R369, R388, R393) -/

/-- A queue record (R364, R369). -/
def State.postStop (s : State) (c : Context) (q addr num : Nat) (csig : Word) (tag : W32) (err : Nat) (cause : Byte) : State :=
  s.postService (serviceRecord s.now addr num csig.toNat tag q c.num err cause 0 0 0 0 2)

/-- What the scheduler does in one go: the state after it, or why it has to wait with all of it: for an access of n bytes at an address,
or for room in the service ring (R357, R363). -/
abbrev Tried (α : Type) := Except (Option (Nat × Nat)) α

/-- A wait of the scheduler: its access is asked for, or its page stays in repair. -/
def State.await (s : State) (c : Context) : Option (Nat × Nat) → State
  | some (va, n) => s.agentWait 1 c va n
  | none => s

/-- The state after what has been tried on s. -/
def Tried.after (t : Tried State) (c : Context) (s : State) : State :=
  match t with
  | .ok t => t
  | .error w => s.await c w

/-- A queue descriptor that the scheduler cannot read or write: one record, and no packet until a DOORBELL (R393). While the record cannot
be posted the queue waits (R363). -/
def State.blockQueue (s : State) (c : Context) (q : Nat) (cause : Cause) : Tried State :=
  if ((s.queue? c.num q).map (·.blocked)).getD false then .ok s
  else if s.serviceRoom then
    .ok ((s.mapQueue c.num q (fun x => { x with blocked := true })).postStop c q (c.qdescAt q) 0 0 0 1 cause.code)
  else .error none

/-- STATE and ERR written; a failure blocks the queue. -/
def State.putQState (s : State) (c : Context) (q st err : Nat) : Tried State :=
  match s.agentWrite c (c.qdescAt q + 28) [BitVec.ofNat 8 st, BitVec.ofNat 8 err] with
  | (_, .stall) => .error (some (c.qdescAt q + 28, 2))
  | (s, .fail cause _) => s.blockQueue c q cause
  | (s, _) => .ok s

/-- The packets of a queue that are in progress. -/
def State.queuePkts (s : State) (ctx q : Nat) : List Pkt := s.pkts.filter (fun p => p.key.ctx == ctx && p.key.q == q)
/-- A started packet that has not completed (R281). -/
def State.hasStarted (s : State) (ctx q : Nat) : Bool := (s.queuePkts ctx q).any (·.started)

/-- A queue leaves its slot: if it was the holder, its slice ends and the next slot of its class becomes the holder (R281, R282). -/
def State.unmap (s : State) (x : Slot) : State :=
  let rest := s.slots.filter (fun y => y.slot != x.slot)
  let next :=
    match rest.find? (fun y => y.cls == x.cls && decide (x.slot < y.slot)), rest.find? (fun y => y.cls == x.cls) with
    | some y, _ | none, some y => if x.holder then some y.slot else none
    | none, none => none
  let slice := fun (y : Slot) => s.now + 1000 * ((s.ctx? y.ctx).map (·.tslice)).getD 500
  { s with slots := rest.map (fun y => if next == some y.slot then { y with holder := true, due := s.unfit y, sliceEnd := slice y } else y) }

/-- The scheduler's record of a queue after it has looked: ready since when, or not ready and unmapped (R281). A ready queue ends P1
(R330). -/
def State.setReady (s : State) (ctx q cls : Nat) (ready : Bool) : State :=
  if ready then
    let s := { s with power := { s.power with pstate := if s.power.pstate == 1 then 0 else s.power.pstate, idle := none } }
    let s := s.mapQueue ctx q (fun x => { x with cls := cls, ready := some (x.ready.getD s.now) })
    { s with slots := s.slots.map (fun y => if y.ctx == ctx && y.q == q then { y with cls := cls } else y) }
  else
    let s := s.mapQueue ctx q (fun x => { x with cls := cls, ready := none })
    match s.slotOf ctx q with
    | some x => s.unmap x
    | none => s

/-- The scheduler examines a queue. A descriptor that is out of range reads as STATE 2 with ERR 5, and STATE 0 clears ERR. -/
def State.examine (s : State) (c : Context) (q : Nat) : State :=
  let cls := ((s.queue? c.num q).map (·.cls)).getD 0
  let live := s.hasStarted c.num q
  if c.saved || c.qcount ≤ q then s
  else if ((s.queue? c.num q).map (·.blocked)).getD false then s.setReady c.num q cls live
  else
    match s.agentGet 0 c (c.qdescAt q) 32 with
    | (s, .stall) => s
    | (s, .hole a) => { s with hole := some a }
    | (s, .fail cause _) => ((s.blockQueue c q cause).after c s).setReady c.num q cls live
    | (s, .bytes bs) =>
      let d := QDesc.ofBytes bs
      if d.unfit then
        let s := if d.state == 2 && d.err == 5 then s else (s.putQState c q 2 5).after c s
        s.setReady c.num q cls live
      else
        let s := if d.state == 0 && d.err != 0 then (s.putQState c q 0 0).after c s else s
        s.setReady c.num q d.cls (live || (d.state == 0 && d.waiting != 0))

/-- QUEUE_EXAMINE (R388). -/
def execQueueExamine (ctx q : Nat) (s : State) : Host.Outcome State Fault Refusal :=
  match s.ctx? ctx with
  | none => finish s
  | some c => finish (s.examine c q)

/-! ### Slots (R281, R282) -/

/-- A ready queue without a slot, whose context is not saved (R366). -/
def State.waits (s : State) (x : Queue) : Bool :=
  x.ready.isSome && (s.slotOf x.ctx x.q).isNone && !((s.ctx? x.ctx).map (·.saved)).getD true

/-- Whether a waiting queue comes first: the highest class, then the longest wait. -/
def State.firstWaiting (s : State) (x : Queue) : Bool :=
  s.waits x && (s.queues.filter s.waits).all (fun y =>
    decide (y.cls < x.cls) || (y.cls == x.cls && decide (x.ready.getD 0 ≤ y.ready.getD 0)))

/-- A queue takes a slot; the first of its class is the holder. -/
def State.mapTo (s : State) (x : Queue) (slot : Nat) : State :=
  let holder := !s.slots.any (fun y => y.cls == x.cls && y.holder)
  let slice := ((s.ctx? x.ctx).map (·.tslice)).getD 500
  { s with slots := s.slots ++ [{ slot := slot, ctx := x.ctx, q := x.q, cls := x.cls, since := s.now, holder := holder,
                                  due := [], sliceEnd := s.now + 1000 * slice }] }

/-- A queue is evicted: its resident workgroups are pre-empted, and it waits from now on (R281). -/
def State.evict (s : State) (x : Slot) : State :=
  let s := s.preemptWgs ((s.wgs.filter (fun g => g.st == .resident && g.pkt.ctx == x.ctx && g.pkt.q == x.q)).map (·.wid))
  (s.unmap x).mapQueue x.ctx x.q (fun y => { y with ready := some s.now })

/-- The slot that a queue of a class may evict at once: of the lowest class, below its own unless that is 3, the one mapped longest
(R282). -/
def State.evictable (s : State) (cls : Nat) : Option Slot :=
  (s.slots.filter (fun y => cls == 3 || decide (y.cls < cls))).foldl (fun best y =>
    match best with
    | none => some y
    | some b => if y.cls < b.cls || (y.cls == b.cls && decide (y.since < b.since)) then some y else best) none

/-- QUEUE_SLOT_MAP (R281, R282): the queue takes the lowest free slot (DESIGN CHOICE: R281 does not say which, log 61). -/
def execQueueSlotMap (ctx q : Nat) (s : State) : Host.Outcome State Fault Refusal :=
  match s.queue? ctx q with
  | none => finish s
  | some x =>
    if !s.firstWaiting x then finish s
    else
      match (List.range 64).find? (fun i => !s.slots.any (fun y => y.slot == i)) with
      | some i => finish (s.mapTo x i)
      | none =>
        match s.evictable x.cls with
        | some y => finish ((s.evict y).mapTo x y.slot)
        | none => finish s

/-- TIME_SLICE_END (R282): a waiting queue of the class takes the slot, or the next slot of the class becomes the holder. -/
def execTimeSliceEnd (slot : Nat) (s : State) : Host.Outcome State Fault Refusal :=
  match s.slots.find? (fun y => y.slot == slot) with
  | none => finish s
  | some y =>
    if !y.holder || s.now < y.sliceEnd then finish s
    else
      match s.queues.find? (fun x => x.cls == y.cls && y.cls < 3 && s.firstWaiting x && s.slots.length == 64) with
      | some x => finish ((s.evict y).mapTo x slot)
      | none =>
        let same := s.slots.filter (fun z => z.cls == y.cls)
        let next := (same.filter (fun z => decide (slot < z.slot)) ++ same).foldl (fun (b : Option Slot) z =>
          match b with
          | none => some z
          | some w => if (decide (slot < z.slot) == decide (slot < w.slot) && decide (z.slot < w.slot)) then some z else b) none
        match next with
        | none => finish s
        | some z =>
          let slice := ((s.ctx? z.ctx).map (·.tslice)).getD 500
          finish { s with slots := s.slots.map (fun x =>
            if x.slot == z.slot then
              { x with holder := true, due := s.unfit z, sliceEnd := s.now + 1000 * slice }
            else if x.cls == y.cls then { x with holder := false } else x) }

/-! ### Completion signals and aborts (R271, R278, R369, R393) -/

/-- A CSIG is updated; a cause means that the update is skipped. A CSIG that is no multiple of 8 names no signal. -/
def State.csig (s : State) (c : Context) (a : Word) (opc : BitVec 4) (d : Word) : Tried (State × Option Cause) :=
  if a == 0 || a.toNat % 8 != 0 then .ok (s, none)
  else
    match s.sigUpdate c a.toNat opc d with
    | (_, .stall) => .error (some (a.toNat, 8))
    | (s, .fail cause _) => .ok (s, some cause)
    | (s, _) => .ok (s, none)

/-- The abort mark (R278 step 1): bit 63 is set. -/
def State.mark (s : State) (c : Context) (a : Word) : Tried (State × Option Cause) := s.csig c a 6 (BitVec.ofNat 64 (2 ^ 63))

/-- Packets x and on, n of them, are taken and aborted in queue order (R278 step 3); launches among them count (R27). -/
def State.abortRing (c : Context) (q : Nat) (d : QDesc) : Nat → Nat → State → Tried State
  | 0, x, s =>
    match s.agentWrite c (c.qdescAt q + 16) (leBytes 8 x) with
    | (_, .stall) => .error (some (c.qdescAt q + 16, 8))
    | (s, .fail cause _) => s.blockQueue c q cause
    | (s, _) => .ok s
  | n + 1, x, s =>
    match s.agentGet 1 c (d.at x) 16 with
    | (_, .stall) => .error (some (d.at x, 16))
    | (s, .hole a) => .ok { s with hole := some a }
    | (s, .fail ..) => State.abortRing c q d n (x + 1) s
    | (s, .bytes bs) =>
      let s := if pktType bs == 1 || pktType bs == 2 then { s with launches := s.launches + 1 } else s
      match s.mark c (BitVec.ofNat 64 (field bs 64 64)) with
      | .error w => .error w
      | .ok (s, _) => State.abortRing c q d n (x + 1) s

/-- A packet that is taken and has not started is aborted as a later one (R278). -/
def State.abortTaken (s : State) (c : Context) (q : Nat) : Tried State :=
  match (s.queuePkts c.num q).find? (fun p => !p.started) with
  | none => .ok s
  | some p => (s.mark c p.csig).map (fun r => { r.1 with pkts := r.1.pkts.filter (fun y => y.key != p.key) })

/-- The queue stops for a packet (R278 steps 2 and 3): STATE 1 with ERR, the record, and every later packet. While its record cannot be
posted the queue waits (R363). -/
def State.stopQueue (s : State) (c : Context) (p : Pkt) (err : Nat) (cause : Byte) : Tried State :=
  let q := p.key.q
  match if s.serviceRoom then s.putQState c q 1 err else .error none with
  | .error w => .error w
  | .ok s =>
    match (s.postStop c q p.addr p.key.num p.csig p.tag err cause).abortTaken c q with
    | .error w => .error w
    | .ok s =>
      match s.agentGet 1 c (c.qdescAt q) 32 with
      | (_, .stall) => .error (some (c.qdescAt q, 32))
      | (s, .hole a) => .ok { s with hole := some a }
      | (s, .fail cause _) => s.blockQueue c q cause
      | (s, .bytes bs) =>
        let d := QDesc.ofBytes bs
        State.abortRing c q d (min d.waiting (2 ^ min d.log2n 16)) d.ridx s

/-- A packet aborts (R278). -/
def State.abort (s : State) (c : Context) (p : Pkt) (err : Nat) (cause : Byte) : Tried State :=
  match s.mark c p.csig with
  | .error w => .error w
  | .ok (s, _) => s.stopQueue c p err cause

/-- A packet in progress goes. -/
def State.dropPkt (s : State) (k : PktKey) : State :=
  let s := { s with pkts := s.pkts.filter (fun p => p.key != k) }
  let named := fun (r : RelRing) => r.key != k || s.flows.any (fun f => f.items.any (fun i =>
    match i.rel with | .record _ k' => k' == k | _ => false))
  { s with rings := s.rings.filter named,
           ctxs := s.ctxs.map (fun c => { c with evRegs := c.evRegs.filter (fun r => r.waiter != .packet k) }) }

/-- A packet in progress aborts and goes; while it stalls, the abort is due. -/
def State.abortPkt (s : State) (c : Context) (p : Pkt) (err : Nat) (cause : Byte) : State :=
  match (s.dropPkt p.key).abort c p err cause with
  | .ok t => t
  | .error w => (s.mapPkt p.key (fun p => { p with owes := some (err, cause) })).await c w

/-- A launch aborts whose items run on: its packet stays until they have exited (R393). -/
def State.abortRunning (s : State) (c : Context) (p : Pkt) (cause : Byte) : State :=
  match s.abort c p 1 cause with
  | .ok t => t.mapPkt p.key (fun p => { p with aborted := true, owes := none })
  | .error w => (s.mapPkt p.key (fun p => { p with owes := some (1, cause) })).await c w

/-! ### Barriers (R276, R279, R280) -/

/-- An entry's state at an evaluation. -/
inductive DepSt where
  | met | failed | waiting
  deriving DecidableEq, Repr

/-- The cause that makes a signal unreadable at an evaluation (R393). -/
def State.depCause (s : State) (c : Context) : BarDep → Option Cause
  | .signal a => match s.agentRead 2 c a.toNat 8 with | .fail cause _ => some cause | _ => none
  | _ => none

/-- One entry; none is a stall. A signal that cannot be read has failed (R393). -/
def State.depState (s : State) (c : Context) : BarDep → Option (Option DepSt)
  | .unused => some none
  | .event e t => some (some (if reaches (c.event e) t then .met else .waiting))
  | .signal a =>
    match s.agentRead 2 c a.toNat 8 with
    | .stall => none
    | .hole _ | .fail .. => some (some .failed)
    | .bytes bs => some (some (if leNat bs == 0 then .met else if 2 ^ 63 ≤ leNat bs then .failed else .waiting))

/-- The reads of an evaluation: the signals of the entries. -/
def depReads (deps : List BarDep) : List (Nat × Nat) := deps.filterMap (fun d => match d with | .signal a => some (a.toNat, 8) | _ => none)

/-- The barrier's own verdict over its used entries. -/
def barVerdict (all : Bool) (xs : List DepSt) : DepSt :=
  if xs.isEmpty then .met
  else if all then if xs.all (· == .met) then .met else if xs.any (· == .failed) then .failed else .waiting
  else if xs.any (· == .met) then .met else if xs.all (· == .failed) then .failed else .waiting

/-- A barrier packet is evaluated: it is met, it aborts with ERR 2 and the cause of a signal that could not be read, or it waits on. -/
def State.evaluate (s : State) (c : Context) (p : Pkt) : State :=
  match p.body with
  | .barrier all deps =>
    if !p.started || p.owes.isSome then s
    else
      let read := (s.agentGets 2 c (depReads deps)).1
      match allSome (deps.map (s.depState c)) with
      | none => read
      | some xs =>
        match barVerdict all (xs.filterMap id) with
        | .met => read.mapPkt p.key (fun p => { p with body := .done })
        | .failed => read.abortPkt c p 2 (((deps.findSome? (s.depCause c)).map Cause.code).getD 0)
        | .waiting => read
  | _ => s

/-- BARRIER_EVALUATE (R276, R279, R280). -/
def execBarrierEvaluate (ctx q n : Nat) (s : State) : Host.Outcome State Fault Refusal :=
  match s.ctx? ctx, s.pkt? { ctx := ctx, q := q, num := n } with
  | some c, some p => finish (s.evaluate c p)
  | _, _ => finish s

/-! ### Starting (R27, R271, R275 to R277, R285, R294) -/

/-- Whether an earlier launch on the same flow queue is running (R275). -/
def State.fqdBusy (s : State) (k : PktKey) (fqd : Word) : Bool :=
  s.pkts.any (fun p => p.key != k && p.key.ctx == k.ctx && p.started &&
    (match p.launch? with | some l => l.flow && l.fqd == fqd | none => false))

/-- The first tick whose time lies after the configuration (R294). -/
def Stream.firstTick (x : Stream) (now : Nat) : Nat := if now < x.t0 then 0 else (now - x.t0) / x.period + 1

/-- A stream is configured anew, or stopped (R294). A frame names a stream by its id alone, so the id is the device's. -/
def State.configure (s : State) (x : Stream) : State :=
  let same := fun (y : Stream) => y.id == x.id
  if x.period == 0 then { s with streams := s.streams.map (fun y => if same y then { y with active := false } else y) }
  else { s with streams := s.streams.filter (fun y => !same y) ++ [{ x with next := x.firstTick s.now }] }

/-- The core for a COPY packet: the lowest with an unreserved store-queue entry free (R277). -/
def State.copyCore (s : State) : Option Nat := (List.range Config.cores).find? (fun c => s.queueRoom c s.nextWid .store)

/-- The operation of a COPY packet: it belongs to no workgroup and posts no record (R277). -/
def packetOp (s : State) (p : Pkt) (core : Nat) (bs : List Byte) : Op :=
  { id := s.nextOp, kind := .copy (.glob (BitVec.ofNat 64 (field bs 128 64))) (.glob (BitVec.ofNat 64 (field bs 192 64)))
                              (field bs 256 32) 1,
    ctx := p.key.ctx, pkt := p.key, core := core, wid := s.nextWid, warp := 0, slot := 0, hidx := 0, pc := 0,
    event := field bs 288 16, rnum := none, home := core, alloc := 0, st := .queued, units := [], sent := [], begun := [],
    bytes := 0, pois := false, fail := none, members := [], held := [], waitAt := none, destAt := none, header := [], awaits := [], fork := some [], cancel := false,
    rowMarks := [], colMarks := [], carry := [], nbv := 0, chain := none, result := .ok, fcause := 0, faddr := 0 }

/-- A packet starts, if nothing holds it. -/
def State.startPkt (s : State) (c : Context) (p : Pkt) : State :=
  let go := fun (s : State) => s.mapPkt p.key (fun p => { p with started := true })
  match p.body with
  | .launch l =>
    if l.flow then
      if s.fqdBusy p.key l.fqd then s
      else
        (go s).mapLaunch p.key (fun l =>
          { l with budget := if l.budget.isSome && c.tbudget != 0 then some c.tbudget.toNat else none })
    else
      let n := l.gx * l.gy * l.gz * l.kernel.stages
      let s := (go s).mapLaunch p.key (fun l => { l with firstDispatch := s.dispatch })
      { s with dispatch := s.dispatch + n }.openColumn p.key
  | .barrier _ deps =>
    let watch := min (signalsOf deps).length (1024 - s.watchCount 0)
    let go := fun (s : State) => s.mapPkt p.key (fun p => { p with started := true, watch := watch })
    let s := deps.foldl (fun s d => match d with | .event e t => s.evRegister c.num e t (.packet p.key) | _ => s) (go s)
    match s.pkt? p.key with
    | some p => s.evaluate c p
    | none => s
  | _ => go s

/-! ### Taking (R271, R272, R393) -/

/-- Whether the packet before lets another be taken: it has started, and completed if it has BAR set (R271). -/
def State.maySucceed (s : State) (ctx q : Nat) : Bool :=
  let ps := s.queuePkts ctx q
  ps.all (fun p => p.started && p.owes.isNone) &&
  (match ps.getLast? with | some p => !p.bar | none => true)

/-- The packet that a queue's bytes give, not yet started. -/
def Pkt.ofBytes (k : PktKey) (addr : Nat) (bs : List Byte) (b : PktBody) : Pkt :=
  { key := k, csig := BitVec.ofNat 64 (field bs 64 64), tag := BitVec.ofNat 32 (field bs 32 32), bar := field bs 8 1 == 1,
    addr := addr, started := false, aborted := false, watch := 0, owes := none, body := b }

/-- A packet that passes its check is in progress, and starts if it can. The delivered count of a launch's release ring starts at 0, also
where an earlier launch has named the same ring (DESIGN CHOICE, log 88). -/
def State.acceptPkt (s : State) (c : Context) (p : Pkt) (bs : List Byte) : State :=
  let s :=
    match p.body with
    | .copy _ =>
      match s.copyCore with
      | none => s
      | some core =>
        { s with ops := s.ops ++ [packetOp s p core bs], nextOp := s.nextOp + 1, nextWid := s.nextWid + 1,
                 pkts := s.pkts ++ [{ p with body := .copy s.nextOp }] }
    | .launch l =>
      let base := if l.flow then field bs 320 64 else field bs 384 64
      let len := if l.flow then field bs 384 32 else field bs 448 32
      let ring : RelRing := { key := p.key, ctx := c.num, base := BitVec.ofNat 64 base, len := len, count := 0 }
      { s with rings := if l.flow || base != 0 then s.rings ++ [ring] else s.rings, pkts := s.pkts ++ [p] }
    | .done =>
      if pktType bs == 6 then { s with pkts := s.pkts ++ [p] }.configure (Stream.ofPacket c.num bs)
      else { s with pkts := s.pkts ++ [p] }
    | _ => { s with pkts := s.pkts ++ [p] }
  match s.pkt? p.key with
  | some p => s.startPkt c p
  | none => s

/-- The next packet is taken, if it is of the kind asked for: RIDX advances, a launch takes its identifier, and the packet is
accepted or refused. A stall leaves everything for later. -/
def State.takeNext (s : State) (c : Context) (q : Nat) (d : QDesc) (want : List Byte → Bool) : State :=
  let k : PktKey := { ctx := c.num, q := q, num := d.ridx }
  let read := s.agentRead 1 c (d.at d.ridx) 64
  match read with
  | .stall => s.agentWait 1 c (d.at d.ridx) 64
  | .hole a => { s with hole := some a }
  | .bytes _ | .fail .. =>
    let bs := match read with | .bytes bs => bs | _ => []
    if !want bs || (pktType bs == 5 && s.copyCore.isNone) then s
    else
      match s.agentWrite c (c.qdescAt q + 16) (leBytes 8 (d.ridx + 1)) with
      | (_, .stall) => s.agentWait 1 c (c.qdescAt q + 16) 8
      | (_, .fail cause _) => (s.blockQueue c q cause).after c s
      | (t, _) =>
        let t := (t.agentGets 1 c ((d.at d.ridx, 64) :: pktReads bs)).1
        let t := if pktType bs == 1 || pktType bs == 2 then { t with launches := s.launches + 1 } else t
        let p := Pkt.ofBytes k (d.at d.ridx) bs
        let check := match read with | .fail cause _ => Checked.refuse cause.code | _ => s.checkPacket c s.launches bs
        match check with
        | .ok b => t.acceptPkt c (p b) bs
        | .refuse cause => (t.abort c (p .done) 1 cause).after c s
        | .stall va n => s.agentWait 1 c va n
        | .hole a => { s with hole := some a }

/-- A packet of a kind is taken from a mapped queue in STATE 0 (R271, R281): not while an abort of the queue waits (R363), nor while
the compute dies are powered down (R332). -/
def State.takePacket (s : State) (ctx q : Nat) (want : List Byte → Bool) : State :=
  match s.ctx? ctx with
  | none => s
  | some c =>
    if c.saved || c.qcount ≤ q || (s.slotOf ctx q).isNone || !s.maySucceed ctx q || s.power.tripped ||
        (s.queuePkts ctx q).any (fun p => p.owes.isSome) || ((s.queue? ctx q).map (·.blocked)).getD false then s
    else
      match s.agentGet 0 c (c.qdescAt q) 32 with
      | (s, .stall) => s
      | (s, .hole a) => { s with hole := some a }
      | (s, .fail cause _) => (s.blockQueue c q cause).after c s
      | (s, .bytes bs) =>
        let d := QDesc.ofBytes bs
        if d.unfit || d.state != 0 || d.waiting == 0 then s else s.takeNext c q d want

/-- A packet of one TYPE. -/
def ofType (n : Nat) (bs : List Byte) : Bool := !bs.isEmpty && pktType bs == n

/-- LAUNCH (R274). -/
def execLaunch (ctx q : Nat) (s : State) : Host.Outcome State Fault Refusal := finish (s.takePacket ctx q (ofType 1))
/-- FLOWLAUNCH (R275). -/
def execFlowlaunch (ctx q : Nat) (s : State) : Host.Outcome State Fault Refusal := finish (s.takePacket ctx q (ofType 2))
/-- BARRIER-AND (R276). -/
def execBarrierAnd (ctx q : Nat) (s : State) : Host.Outcome State Fault Refusal := finish (s.takePacket ctx q (ofType 3))
/-- BARRIER-OR (R276). -/
def execBarrierOr (ctx q : Nat) (s : State) : Host.Outcome State Fault Refusal := finish (s.takePacket ctx q (ofType 4))
/-- COPY (R277). -/
def execCopyPacket (ctx q : Nat) (s : State) : Host.Outcome State Fault Refusal := finish (s.takePacket ctx q (ofType 5))
/-- TICKCFG with a PERIOD (R294). -/
def execTickcfg (ctx q : Nat) (s : State) : Host.Outcome State Fault Refusal :=
  finish (s.takePacket ctx q (fun bs => ofType 6 bs && field bs 288 32 != 0))
/-- TICKCFG with PERIOD 0 (R294). -/
def execTickcfgStop (ctx q : Nat) (s : State) : Host.Outcome State Fault Refusal :=
  finish (s.takePacket ctx q (fun bs => ofType 6 bs && field bs 288 32 == 0))
/-- A packet whose TYPE is unassigned, or that cannot be read, is refused (R272, R393). -/
def execUnassignedPacketType (ctx q : Nat) (s : State) : Host.Outcome State Fault Refusal :=
  finish (s.takePacket ctx q (fun bs => pktType bs == 0 || 6 < pktType bs))

/-- PACKET_START (R271): a packet that has been taken and waits to start does so, or the queue's next packet is taken. -/
def execPacketStart (ctx q n : Nat) (s : State) : Host.Outcome State Fault Refusal :=
  match s.ctx? ctx, s.pkt? { ctx := ctx, q := q, num := n } with
  | some c, some p => finish (if p.started then s else s.startPkt c p)
  | _, none =>
    finish (match (s.ctx? ctx).map (fun c => s.agentGet 0 c (c.qdescAt q + 16) 8) with
      | some (s, .bytes bs) => if leNat bs == n then s.takePacket ctx q (fun _ => true) else s
      | some (s, _) => s
      | none => s)
  | none, _ => finish s

/-! ### Completing (R271, R277) -/

/-- Whether every item of a launch has exited. -/
def State.launchOver (s : State) (k : PktKey) (l : Launch) : Bool :=
  l.closed && l.filling.isEmpty && l.parkedItems.isEmpty && (l.flow || decide (l.gx * l.gy * l.gz ≤ l.next)) && !s.wgs.any (fun g => g.pkt == k)

/-- Whether a packet's work is over: a result, with the cause that its copy met (R277), or nothing yet. -/
def State.pktOver (s : State) (p : Pkt) : Option (Option Byte) :=
  match p.body with
  | .launch l => if s.launchOver p.key l && !s.fab.wc.any (fun e => e.ctxs.elem p.key.ctx) then some none else none
  | .barrier .. => none
  | .copy id =>
    match s.op? id with
    | none => some none
    | some o => if o.running then none else some (if o.result == .fault || o.result == .unreachable then some o.fcause else none)
  | .done => some none

/-- A packet completes: CSIG falls by 1; when that cannot be done, the queue stops (R271, R393). -/
def State.completePkt (s : State) (c : Context) (p : Pkt) : State :=
  match (s.dropPkt p.key).csig c p.csig 0 (-1) with
  | .error w => s.await c w
  | .ok (t, none) => t
  | .ok (t, some cause) => (t.stopQueue c p 1 cause.code).after c s

/-- PACKET_COMPLETE (R271): an abort that is due is made; a packet whose work is over completes, or aborts with its copy's cause.
A launch whose write-combining entries are all that is left drains them. -/
def execPacketComplete (ctx q n : Nat) (s : State) : Host.Outcome State Fault Refusal :=
  match s.ctx? ctx, s.pkt? { ctx := ctx, q := q, num := n } with
  | some c, some p =>
    if !p.started then finish s
    else
      match p.owes with
      | some (err, cause) =>
        finish (match p.body with
          | .launch _ => if err == 1 then s.abortRunning c p cause else s.abortPkt c p err cause
          | _ => s.abortPkt c p err cause)
      | none =>
        match s.pktOver p with
        | none => finish (match p.body with
          | .launch l => if s.launchOver p.key l then s.drainWc (fun e => e.ctxs.elem ctx) else s
          | _ => s)
        | some (some cause) => finish ((s.abortPkt c p 3 cause).dropOps.examine c q)
        | some none => finish ((s.completePkt c p).dropOps.examine c q)
  | _, _ => finish s

end Sys2Proof.Machine
end

