-- ==== Sys2Proof/Machine/Sequencer.lean ====
section
/-!
DEFINITION. The flow sequencer's entries (spec/02_execution_model.md R28 to R30, spec/11 R275, R285, R393), the tick engine, the
ingest engine and the timebase (spec/12_streams_time_sampling.md R288 to R296).
-/
namespace Sys2Proof.Machine

/-! ### Flow queue entries (R28, R29, R275, R285) -/

/-- A flow queue descriptor (R275). -/
structure Fqd where
  base   : Nat
  widx   : Nat
  ridx   : Nat
  log2n  : Nat
  closed : Bool
  deriving DecidableEq, Repr

/-- The descriptor in 32 bytes, RIDX as memory holds it now (log 87). -/
def Fqd.ofBytes (bs : List Byte) : Fqd :=
  { base := field bs 0 64, widx := field bs 64 64, ridx := field bs 128 64, log2n := field bs 192 8, closed := field bs 208 1 == 1 }

/-- Whether an active stream names a flow queue descriptor (R296). -/
def State.streamed (s : State) (ctx : Nat) (fqd : Word) : Bool := s.streams.any (fun x => x.active && x.ctx == ctx && x.fqd == fqd)

/-- The items of a label that are pending or held (R29). -/
def State.pendingOf (s : State) (ctx : Nat) (label : W32) : Nat :=
  let mine := fun (i : Item) => i.label == label && !ordered i.cls
  ((s.flow? ctx label).map (fun f => f.items.length)).getD 0 +
  ((s.pkts.filter (fun p => p.key.ctx == ctx)).foldl (fun n p =>
    match p.launch? with
    | some l => n + ((l.filling ++ l.parkedItems).filter mine).length
    | none => n) 0)

/-- The launch takes no further entry. -/
def State.closeLaunch (s : State) (k : PktKey) : State := s.mapLaunch k (fun l => { l with closed := true })

/-- A launch whose flow queue cannot be read or written: it takes no further entry and its packet aborts (R393). -/
def State.failFlow (s : State) (c : Context) (p : Pkt) (cause : Cause) : State := (s.closeLaunch p.key).abortRunning c p cause.code

/-- A new item of a flow, with its numbers (R29). -/
def State.newItem (s : State) (ctx : Nat) (label : W32) (cls : Nat) (payload : W32) (tick : Word) (late : Bool) : State × Item :=
  let d := s.dispatch
  let r := { s with dispatch := d + 1 }.joinFlow ctx label cls d
  (r.1, { label := label, cls := cls, seq := r.2, payload := payload, dispatch := d, tick := tick, late := late })

/-- An empty ring ends an unbudgeted launch once CLOSED is set, and a budgeted one that has taken an entry (R275, R285, R296). -/
def State.foundEmpty (s : State) (k : PktKey) (l : Launch) (closed : Bool) : State :=
  let ends := match l.budget with | some _ => decide (1 ≤ l.taken) | none => closed
  if ends && !s.streamed k.ctx l.fqd then s.closeLaunch k else s

/-- The entry at a flow queue's RIDX is taken: dropped, if a FLOWKILL has dropped it (R193), or an item. -/
def State.takeEntry (s : State) (c : Context) (p : Pkt) (l : Launch) (d : Fqd) (bs : List Byte) : State :=
  let label := BitVec.ofNat 32 (field bs 0 32)
  let dropped := s.kills.any (fun k =>
    k.ctx == c.num && k.fqd == l.fqd && k.label == label && decide (d.ridx < k.below.toNat))
  if !dropped && 2 ^ 31 ≤ s.pendingOf c.num label then s
  else
    match s.agentWrite c (l.fqd.toNat + 16) (leBytes 8 (d.ridx + 1)) with
    | (_, .stall) => s.agentWait 3 c (l.fqd.toNat + 16) 8
    | (s, .fail cause _) => s.failFlow c p cause
    | (s, _) =>
      if dropped then s
      else
        let r := s.newItem c.num label (field bs 64 2) (BitVec.ofNat 32 (field bs 32 32)) 0 false
        let s := r.1.mapLaunch p.key (fun l =>
          { l with taken := l.taken + 1, closed := l.closed || l.budget == some (l.taken + 1) })
        s.enrol p.key r.2

/-- A running flow launch takes what it can next: a tick item offered to its descriptor, or the next entry of its ring. -/
def State.takeFlow (s : State) (c : Context) (p : Pkt) (l : Launch) : State :=
  match s.offers.find? (fun o => o.ctx == c.num && o.fqd == l.fqd) with
  | some o => { s with offers := s.offers.filter (fun x => x != o) }.enrol p.key o.item
  | none =>
    if l.closed then s
    else
      match s.agentGet 3 c l.fqd.toNat 32 with
      | (s, .stall) => s
      | (s, .hole a) => { s with hole := some a }
      | (s, .fail cause _) => s.failFlow c p cause
      | (s, .bytes fb) =>
        let d := Fqd.ofBytes fb
        if d.widx == d.ridx then s.foundEmpty p.key l d.closed
        else
          match s.agentGet 3 c (d.base + 16 * (d.ridx % 2 ^ min d.log2n 20)) 16 with
          | (s, .stall) => s
          | (s, .hole a) => { s with hole := some a }
          | (s, .fail cause _) => s.failFlow c p cause
          | (s, .bytes bs) => s.takeEntry c p l d bs

/-- FLOW_ENTRY_TAKE (R29). -/
def execFlowEntryTake (ctx q n : Nat) (s : State) : Host.Outcome State Fault Refusal :=
  match s.ctx? ctx, s.pkt? { ctx := ctx, q := q, num := n } with
  | some c, some p =>
    match p.launch? with
    | none => finish s
    | some l =>
      if !l.flow || !p.started || p.aborted || p.owes.isSome || c.saved || (s.slotOf ctx q).isNone then finish s
      else finish (s.takeFlow c p l)
  | _, _ => finish s

/-- PACKING_DELAY_EXPIRY (R30). -/
def execPackingDelayExpiry (ctx q n : Nat) (s : State) : Host.Outcome State Fault Refusal :=
  match (s.pkt? { ctx := ctx, q := q, num := n }).bind Pkt.launch? with
  | none => finish s
  | some l =>
    if l.filling.isEmpty || s.now < l.fillAt + l.delay then finish s
    else finish (s.startFlowWarp { ctx := ctx, q := q, num := n })

/-! ### The window and the tick engine (R292, R294, R295) -/

/-- The slot of token n. -/
def Stream.slot (x : Stream) (n : Nat) : Nat :=
  if n < x.sink then n else x.sink + (n - x.sink) % (2 ^ x.wlog2 - x.sink)
/-- Where a slot's bytes lie. -/
def Stream.slotAt (x : Stream) (n : Nat) : Nat := x.wbase.toNat + x.slot n * x.tsize
/-- Where a slot's stamp lies. -/
def Stream.stampAt (x : Stream) (n : Nat) : Nat := x.wbase.toNat + 2 ^ x.wlog2 * x.tsize + 8 * x.slot n
/-- The time of tick j. -/
def Stream.time (x : Stream) (j : Nat) : Nat := x.t0 + j * x.period

/-- The stamp of token n's slot. -/
def State.stamp (s : State) (c : Context) (x : Stream) (n : Nat) : Got := s.agentRead 4 c (x.stampAt n) 8

/-- The tokens of the next tick. -/
def Stream.tokens (x : Stream) : List Nat := (List.range x.tpt).map (fun i => x.next * x.tpt + i)

/-- Whether the next tick is ready (R294). -/
def State.tickReady (s : State) (c : Context) (x : Stream) : Bool :=
  x.tokens.all (fun n => match s.stamp c x n with | .bytes bs => leNat bs == n + 1 | _ => false)

/-- The stamps of tokens are read, or waited for; the flag says that they stall (R357). -/
def State.readStamps (s : State) (c : Context) (x : Stream) (ns : List Nat) : State × Bool :=
  s.agentGets 4 c (ns.map (fun n => (x.stampAt n, 8)))

/-- A stream changed. -/
def State.mapStream (s : State) (id : W32) (f : Stream → Stream) : State :=
  { s with streams := s.streams.map (fun x => if x.id == id then f x else x) }

/-- The next tick is offered (R295): an item of class 1, or a skip at once. An offer is an entry taken, so it waits while its flow has
2^31 items (R29). -/
def State.offerTick (s : State) (x : Stream) (late : Bool) : State :=
  if 2 ^ 31 ≤ s.pendingOf x.ctx x.flow then s
  else
    let skip := late && x.policy == 2
    let payload := BitVec.ofNat 32 ((x.next + 1) * x.tpt - 1)
    let r := s.newItem x.ctx x.flow 1 payload (BitVec.ofNat 64 (x.time x.next)) late
    let s := r.1.mapStream x.id (fun y => { y with next := y.next + 1 })
    if skip then s.release x.ctx x.flow r.2.seq r.2.dispatch .skip
    else
      let s := if late then s.bump 0x12E else s
      { s with offers := s.offers ++ [{ ctx := x.ctx, fqd := x.fqd, item := r.2 }] }

/-- An active stream of a context that is not saved (R374). -/
def State.stream? (s : State) (ctx : Nat) (id : W32) : Option (Stream × Context) :=
  match s.streams.find? (fun x => x.ctx == ctx && x.id == id && x.active), s.ctx? ctx with
  | some x, some c => if c.saved then none else some (x, c)
  | _, _ => none

/-- TICK_DUE (R295): a WAIT tick is offered if it is ready, the others whether or not they are. -/
def execTickDue (ctx stream : Nat) (s : State) : Host.Outcome State Fault Refusal :=
  match s.stream? ctx (BitVec.ofNat 32 stream) with
  | none => finish s
  | some (x, c) =>
    if s.now < x.time x.next then finish s
    else
      let read := s.readStamps c x x.tokens
      let ready := s.tickReady c x
      if read.2 || (x.policy == 0 && !ready) then finish read.1 else finish (read.1.offerTick x (!ready))

/-- TICK_GRACE_EXPIRY (R295). -/
def execTickGraceExpiry (ctx stream : Nat) (s : State) : Host.Outcome State Fault Refusal :=
  match s.stream? ctx (BitVec.ofNat 32 stream) with
  | none => finish s
  | some (x, c) =>
    if x.policy != 0 || s.now < x.time x.next + x.grace then finish s
    else
      let read := s.readStamps c x x.tokens
      if read.2 then finish read.1 else finish (read.1.offerTick x (!s.tickReady c x))

/-! ### Ingest (R291 to R293) -/

/-- Token n is written if its slot, with the stamp `old`, takes it: its bytes, then its stamp; the flag says whether. A token whose pages do
not take it is lost (log 29). -/
def State.ingestToken (s : State) (c : Context) (x : Stream) (old n : Nat) (bs : List Byte) : State × Bool :=
  if old != 0 && (n < x.sink || n + 1 ≤ old) then (s, false)
  else
    match s.agentCheck c .store (x.stampAt n) 8, s.agentWrite c (x.slotAt n) bs with
    | .ok _, (s, .bytes _) => ((s.agentWrite c (x.stampAt n) (leBytes 8 (n + 1))).1, true)
    | _, (s, _) => (s, false)

/-- The tokens of a frame one after another. Each meets the stamp that its slot had before the frame, in `pre`, or that an earlier token of
the frame has written there, which `put` lists by slot. -/
def State.ingestTokens (pre : State) (c : Context) (x : Stream) : List (Nat × List Byte) → List (Nat × Nat) → State → State
  | [], _, s => s
  | (n, bs) :: rest, put, s =>
    let old := match put.find? (fun p => p.1 == x.slot n), pre.stamp c x n with
      | some p, _ => some p.2
      | none, .bytes st => some (leNat st)
      | none, _ => none
    match old with
    | none => State.ingestTokens pre c x rest put s
    | some old =>
      let r := s.ingestToken c x old n bs
      State.ingestTokens pre c x rest (if r.2 then (x.slot n, n + 1) :: put else put) r.1

/-- The index of a token, if it is not negative (R292). -/
def Stream.index (x : Stream) (mt : Nat) : Option Nat := if mt < x.t0 then none else some ((mt - x.t0) * x.tpt / x.period)

/-- The slots of a frame's tokens into which it cannot write yet (R357). -/
def State.tokenStalls (s : State) (c : Context) (x : Stream) (ns : List Nat) : List Nat :=
  ns.filter (fun n => match s.agentCheck c .store (x.slotAt n) x.tsize with | .wait _ => true | _ => false)

/-- The tokens of a frame: index and bytes. -/
def frameTokens (x : Stream) (bs : List Byte) : List (Nat × List Byte) :=
  (List.range (field bs 144 16)).filterMap (fun k =>
    (x.index (field bs 192 64 + k * field bs 160 32)).map (fun n => (n, (bs.drop (32 + k * x.tsize)).take x.tsize)))

/-- A frame whose header is in order. -/
def State.ingest (s : State) (x : Stream) (c : Context) (bs : List Byte) : State :=
  let toks := frameTokens x bs
  let stalls := s.tokenStalls c x (toks.map (·.1))
  let read := s.readStamps c x (toks.map (·.1))
  if read.2 || !stalls.isEmpty then
    let s := stalls.foldl (fun s n => s.agentWait 4 c (x.slotAt n) x.tsize) (if read.2 then read.1 else s)
    { s with agenda := s.agenda ++ [.ev (.ingestFrame s.host.ingestPort bs)] }
  else
    let s := State.ingestTokens s c x toks [] (read.1.bump 0x12A)
    if x.policy == 0 && !c.saved && decide (x.time x.next ≤ s.now) && s.tickReady c x then s.offerTick x false else s

/-- A header that the first condition of R291 drops. In a datagram that ends in its header, a field that is not whole is not looked at, but
a "—" bit that is there is (log 63). -/
def badHeader (h : List Byte) : Bool :=
  let has := fun (n : Nat) => decide (n ≤ h.length)
  (has 2 && field h 0 16 != 0xB5D7) || (has 4 && field h 24 8 != 1) || field h 16 8 != 0 || field h 32 32 != 0 || field h 128 16 != 0 ||
    (has 24 && field h 160 32 == 0) || (has 20 && field h 144 16 == 0)

/-- INGEST_FRAME (R291): a datagram on the ingest port. -/
def execIngestFrame (port : Nat) (payload : List Byte) (s : State) : Host.Outcome State Fault Refusal :=
  let h := payload.take 32
  if port != s.host.ingestPort then finish s
  else if badHeader h then finish (s.bump 0x12B)
  else if h.length < 12 then finish (s.bump 0x12D)
  else
    match s.streams.find? (fun x => x.id == BitVec.ofNat 32 (field h 64 32) && x.active) with
    | none => finish (s.bump 0x12C)
    | some x =>
      if h.length < 32 || payload.length != 32 + field h 144 16 * x.tsize then finish (s.bump 0x12D)
      else
        match s.ctx? x.ctx with
        | none => finish (s.bump 0x12C)
        | some c => finish (s.ingest x c payload)

/-! ### The timebase (R288 to R290, log 8) -/

/-- Whether a Sync message is valid here (R289): of the driver's domain, on an enabled port, from the chosen master. -/
def State.syncValid (s : State) (y : PtpSync) : Bool :=
  y.domain == s.host.ptpDomain && y.chosen && s.host.ethPorts.testBit y.port.toNat

/-- By how many ns the device is ahead of the master when it takes a Sync message (R289). -/
def State.ptpOffset (s : State) (y : PtpSync) : Int := (s.now : Int) - ((y.origin : Int) + y.correction + y.delay)

/-- The timebase is stepped while there is no context: what the device has to do some time after another moves with it, since the time
between the two does not change. -/
def State.stepTime (s : State) (tb : Nat) : State :=
  let d : Int := (tb : Int) - s.time.tb
  let ns : Int := ((tb / 2200 : Nat) : Int) - s.now
  let f := fun (t : Nat) => ((t : Int) + ns).toNat
  { s with obs := { s.obs with nextSweep := ((s.obs.nextSweep : Int) + d).toNat },
           power := { s.power with idle := s.power.idle.map f, sendAt := f s.power.sendAt },
           boot := { s.boot with retryAt := s.boot.retryAt.map f },
           fab := { s.fab with heldAt := s.fab.heldAt.map (fun x => (x.1, f x.2)),
                               atoms := s.fab.atoms.map (fun a => { a with since := f a.since }),
                               wc := s.fab.wc.map (fun e => if s.heldPeer e.peer then e else { e with since := f e.since }) } }

/-- PTP_SYNC (R288, R290): the timebase is stepped while there is no context and slewed otherwise, and the lock state follows the
offsets. A message that is not valid is ignored. -/
def execPtpSync (y : PtpSync) (s : State) : Host.Outcome State Fault Refusal :=
  if !s.syncValid y then finish s
  else
    let t := s.time
    let off := s.ptpOffset y
    let good := if off.natAbs < 100 then t.good + 1 else 0
    let lock := decide (16 ≤ good)
    let tb := if s.ctxs.isEmpty then ((t.tb : Int) - 2200 * off).toNat else t.tb
    let slew : Int := if s.ctxs.isEmpty || off == 0 then 0 else if 0 < off then -1 else 1
    finish { s.stepTime tb with time := { tb := tb, slew := slew, state := if lock || t.state == 2 then 2 else 1, ever := t.ever || lock,
                                          port := y.port, errb := y.errb, good := good, lastSync := tb, holdAt := tb } }

/-- TB_HOLDOVER (R290): no valid Sync for 3 s. -/
def execTbHoldover (s : State) : Host.Outcome State Fault Refusal :=
  let t := s.time
  if t.state == 3 || t.tb < t.lastSync + 3000000000 * 2200 then finish s
  else finish { s with time := { t with state := 3, slew := 0, good := 0, holdAt := t.tb } }

end Sys2Proof.Machine
end

