-- ==== Sys2Proof/Machine/Outside.lean ====
section
/-!
DEFINITION. What comes from outside (spec/13_fabric_host_boot.md R309 to R320, spec/15_power_and_physical.md R329 to R334, spec/21
R348, R361, R362, R376, spec/22 R385, R386): rings, soft errors, power and heat, start-up, and the host port's registers.
-/
namespace Sys2Proof.Machine

/-! ### Record rings (R348, R363, R380) -/

/-- The read of a ring's consumed count, behind its last slot. -/
def State.readCount (s : State) (slot : Nat) (r : Option Ring) : State :=
  match r with
  | some r => s.physUsed false (r.base + slot * r.len) 8
  | none => s

/-- A ring after its consumed count has been read again: what waits is posted. -/
def State.pollRing (s : State) (slot : Nat) (r : Ring) : State × Ring :=
  ringDrain slot r.waiting s { r with consumed := leNat (s.hbmRead (r.base + slot * r.len) 8) }

/-- RING_CONSUMED_POLL (R348). Room in the store log lets lines in that wait (R381). -/
def execRingConsumedPoll (r : RingName) (s : State) : Host.Outcome State Fault Refusal :=
  match r with
  | .fault =>
    let s := s.readCount 64 s.fring
    match s.fring with
    | some x => let (t, y) := s.pollRing 64 x; finish { t with fring := some y }
    | none => finish s
  | .service =>
    let s := s.readCount 64 s.sring
    match s.sring with
    | some x => let (t, y) := s.pollRing 64 x; finish { t with sring := some y }
    | none => finish s
  | .storeLog =>
    let s := s.readCount 256 s.slog
    match s.slog with
    | some x => let (t, y) := s.pollRing 256 x; finish (State.serveStalled { t with slog := some y })
    | none => finish s

/-! ### Soft errors (R361, R362) -/

/-- Granules of HBM become poisoned, for an error of HBM (code 1) or of an L2 line (code 2); no access has found them yet. -/
def State.errGranules (s : State) (code : Nat) (gs : List Nat) : State :=
  let new := gs.filter (fun g => !s.mem.poison.elem g)
  let s := s.poisonGranules new
  { s with mem := { s.mem with unfound := s.mem.unfound ++ new.map (fun g => (g, code)) } }

/-- A tile of a core's scratchpad becomes POISON; an arrival into it goes on and reports POISONED (R59). One that is POISON already has
been reported or taken over (log 79). -/
def State.errTile (s : State) (core slot tile : Nat) : State :=
  match s.wgs.find? (fun g => g.st == .resident && g.core == core && decide (g.tileBase ≤ tile) && decide (tile < g.tileBase + g.tiles)) with
  | none => s
  | some g =>
    let t := tile - g.tileBase
    if (g.tag t).state == 3 then s
    else
      let spoilt := match g.tag t with
        | .filling (.sender p c) .. => s.fab.spoilt ++ [(p, c, g.wid, t)]
        | _ => s.fab.spoilt
      let s := { s with fab := { s.fab with spoilt := spoilt } }.mapWg g.wid (fun g => g.setTag t .poison)
      let s := match g.tag t with | .filling (.op i) .. => s.mapOp i (fun o => { o with pois := true }) | _ => s
      s.notify g.pkt.ctx core slot (256 * t) 4

/-- An accumulator element of a warp's workgroup becomes the canonical NaN. -/
def State.errAcc (s : State) (core slot row col : Nat) : State :=
  match (s.slot? core slot).bind (fun x => s.wg? x.1) with
  | none => s
  | some g =>
    if g.acc.length ≤ row || 256 ≤ col then s
    else
      let s := (s.accMap g.wid row col 1 1 (fun _ _ _ => 0x7FC00000)).mapOps (fun o =>
        match o.kind with
        | .mloop _ =>
          if o.wid == g.wid && o.running && o.kind.accWrites.any (fun r => regionsMeet row col 1 1 r.1 r.2.1 r.2.2.1 r.2.2.2) then
            { o with pois := true }
          else o
        | _ => o)
      s.tell g.pkt.ctx core slot { wid := g.wid, warp := 0, lane := 0, sub := 5, addr := 256 * row + col }

/-- A register's poison bit is set. -/
def Warp.errReg (w : Warp) (lane code : Nat) : Warp :=
  if code < 0x100 then
    w.mapLane lane (fun x => { x with v := x.v.modify code (fun r => { r with poison := true }) })
  else if code < 0x140 then { w with s := w.s.modify (code - 0x100) (fun r => { r with poison := true }) }
  else if code < 0x147 then
    w.mapLane lane (fun x => { x with p := x.p.modify (code - 0x140) (fun r => { r with poison := true }) })
  else w

/-- UNCORRECTABLE_ERROR (R361, R362): an error of a granule is found by the first access to it, and of every other structure by this
event. -/
def execUncorrectableError (e : SoftError) (s : State) : Host.Outcome State Fault Refusal :=
  match e with
  | .hbm g => finish (s.errGranules 1 [g])
  | .l2 line => finish (s.errGranules 2 ((List.range 8).map (· + 8 * line)))
  | .l1 core line => finish { s with mem := { s.mem with l1 := s.mem.l1.filter (· != (core, line)) } }
  | .tile core slot t => finish (s.errTile core slot t)
  | .acc core slot row col => finish (s.errAcc core slot row col)
  | .reg core slot lane code =>
    match s.slot? core slot with
    | none => finish s
    | some (wid, k) =>
      let ctx := ((s.wg? wid).map (fun g => g.pkt.ctx)).getD 0xFFFF
      let t : Told := { wid := wid, warp := k, lane := if code.isScalar then 0 else lane, sub := 6, addr := code.toNat }
      let s := s.mapWarp wid k (fun w => w.errReg lane code.toNat)
      finish (if s.stands t then s.tell ctx core slot t else s)
  | .pte a => finish { s with mem := { s.mem with badPte := a :: s.mem.badPte.filter (· != a) } }
  | .instr a => finish { s with mem := { s.mem with badInstr := a :: s.mem.badInstr.filter (· != a) } }

/-! ### Whole contexts (R366, R372, R374) -/

/-- A context is saved whole and its queues leave their slots. -/
def State.saveContext (s : State) (ctx : Nat) : State :=
  let s := s.saveWgs ((s.wgs.filter (fun g => g.st == .resident && g.pkt.ctx == ctx)).map (·.wid))
  let s := (s.slots.filter (fun x => x.ctx == ctx)).foldl State.unmap s
  (s.mapCtx ctx (fun c => { c with saved := true }))

/-! ### Power and heat (R330 to R334) -/

/-- The sum of the readings of the last 10 ms, of which it has n; the running average is their quotient. -/
def Power.total (p : Power) : Nat := p.watts.foldl (· + ·) 0
/-- Whether the device paces (R331, R332): since the average has exceeded the cap and until it falls below it, or while it is hot. -/
def Power.paced (p : Power) : Power :=
  let all := p.cap * p.watts.length
  let passed := decide (all < p.total) || (p.passed && decide (all ≤ p.total))
  { p with passed := passed, pacing := p.hot || passed }

/-- POWER_MEASURE (R331, R334): a reading of the power and a sample of the telemetry. -/
def execPowerMeasure (m : Measurement) (s : State) : Host.Outcome State Fault Refusal :=
  let p := s.power
  finish { s with power := Power.paced { p with
    watts := (m.watts :: p.watts).take 100, samples := ({ m := m, pstate := p.pstate } :: p.samples).take 10000 } }

/-- What the caches of the compute dies hold is lost when the dies power down; memory is behind them (R65). -/
def MemState.dropCaches (m : MemState) : MemState := { m with l1 := [], l2 := [], tlb := [], above := [] }

/-- A die trips (R332, R376): every context is saved whole, the stores to peers go out, the compute dies power down, and a TYPE 3 record
with the number of the workgroups saved, of both dies, is posted. -/
def State.trip (s : State) (die milli : Nat) : State :=
  let n := (s.wgs.filter (fun g => g.st == .resident)).length
  let s := ((s.ctxs.map (·.num)).foldl State.saveContext s).drainWc (fun _ => true)
  let s := { s with power := Power.paced { s.power with temp := milli, hot := true, tripped := true }, mem := s.mem.dropCaches }
  (s.postService (serviceRecord s.now 0 n milli 0 0 0xFFFF die 0 0 0 0 0 3)).emit (.mail "thermal trip")

/-- JUNCTION_TEMPERATURE (R332): the hottest sensor, on a die; one that is above 115 °C trips the device unless it has tripped. -/
def execJunctionTemperature (r : Junction) (s : State) : Host.Outcome State Fault Refusal :=
  let p := s.power
  if 115000 < r.milli && !p.tripped then finish (s.trip r.die r.milli)
  else
    finish { s with power := Power.paced { p with temp := r.milli, hot := decide (105000 < r.milli) || (p.hot && decide (100000 < r.milli)),
                                                  tripped := p.tripped && decide (95000 < r.milli) } }

/-- THERMAL_TRIP (R332, R376). -/
def execThermalTrip (die milli : Nat) (s : State) : Host.Outcome State Fault Refusal :=
  if milli ≤ 115000 then finish s else finish (s.trip die milli)

/-- COOLANT_FLOW_LOW (R333): under load, which is P0. -/
def execCoolantFlowLow (s : State) : Host.Outcome State Fault Refusal :=
  if s.power.pstate != 0 then finish s else finish { s with power := Power.paced { s.power with cap := min s.power.cap 900 } }

/-- Whether no workgroup is resident and no queue is ready. -/
def State.idle (s : State) : Bool := !s.wgs.any (fun g => g.st == .resident) && !s.queues.any (fun q => q.ready.isSome)

/-- IDLE_ENTRY (R330): the device is seen idle, and after 1 ms of it P1 begins. -/
def execIdleEntry (s : State) : Host.Outcome State Fault Refusal :=
  if !s.idle then finish { s with power := { s.power with idle := none, pstate := if s.power.pstate == 1 then 0 else s.power.pstate } }
  else
    match s.power.idle with
    | none => finish { s with power := { s.power with idle := some s.now } }
    | some t =>
      if s.power.pstate == 0 && t + 1000000 ≤ s.now then finish { s with power := { s.power with pstate := 1 } } else finish s

/-- Whether the management port answers: step 3 is over, was not skipped and has not failed. -/
def Boot.ported (b : Boot) : Bool := decide (4 ≤ b.step) && (b.alt[2]?).getD 0 == 0 && b.part.port

/-- TELEMETRY_SEND (R334): the samples of the last second go to the collector that the driver has named, once a second, while the
management port is up. -/
def execTelemetrySend (s : State) : Host.Outcome State Fault Refusal :=
  if s.host.collector == (0, 0, 0) || !s.boot.ported || s.now < s.power.sendAt then finish s
  else
    finish ({ s with power := { s.power with samples := [], sendAt := s.now + 1000000000 } }.emit (.telemetry s.power.samples))

/-! ### Start-up (R319, R320, R385, R386, log 12) -/

/-- The rails in their order (R329). -/
def railOrder : List Rail := [.vddAux, .vddIod, .vddHbm, .vddqHbm, .vddCmp, .vddOpt]

/-- POWER_ON (R329): the next rail in order comes up. -/
def execPowerOn (r : Rail) (s : State) : Host.Outcome State Fault Refusal :=
  if railOrder[s.power.rails.length]? == some r then finish { s with power := { s.power with rails := s.power.rails ++ [r] } }
  else finish s

/-- One bit of the CRC-32 with the IEEE 802.3 polynomial, which R378 names for flits and R385 is taken to mean (DEDUCED, log 12). -/
def crcStep (c : W32) : W32 := if c.getLsbD 0 then (c >>> 1) ^^^ 0xEDB88320 else c >>> 1
/-- The CRC-32 of bytes. -/
def crc32 (bs : List Byte) : W32 :=
  ~~~(bs.foldl (fun c b => (List.range 8).foldl (fun c _ => crcStep c) (c ^^^ b.setWidth 32)) 0xFFFFFFFF)

/-- Bits [95:0] of an entry (R385). -/
def JournalEntry.body (e : JournalEntry) : Nat :=
  packFields [(64, 32, e.start.toNat), (32, 32, e.arg.toNat), (16, 8, e.alt), (8, 8, e.outcome), (0, 8, e.step)]
/-- The entry in its 16 bytes. -/
def JournalEntry.bytes (e : JournalEntry) : List Byte := leBytes 12 e.body ++ leBytes 4 e.check.toNat
/-- CHECK of an entry. -/
def JournalEntry.crc (e : JournalEntry) : W32 := crc32 (leBytes 12 e.body)

/-- An entry joins the journal, a ring of 4,096. -/
def Boot.note (b : Boot) (step outcome arg : Nat) : Boot :=
  let e : JournalEntry :=
    { check := 0, start := b.start, arg := BitVec.ofNat 32 arg, alt := (b.alt[step - 1]?).getD 0, outcome := outcome, step := step }
  { b with journal := (b.journal ++ [{ e with check := e.crc }]).drop ((b.journal.length + 1) - 4096) }

/-- The journal as the ROM reads it: entries whose CHECK fails are ignored, and there is none if the flash cannot be read. -/
def Boot.entries (b : Boot) : List JournalEntry := if b.part.flash then b.journal.filter (fun e => e.check == e.crc) else []

/-- Whether a step failed in a start: it says so, or it has begun and has no ending entry. -/
def Boot.failed (b : Boot) (start : W32) (step : Nat) : Bool :=
  let mine := b.entries.filter (fun e => e.start == start && e.step == step)
  mine.any (fun e => e.outcome == 2) || (mine.getLast?.map (·.outcome)) == some 0

/-- The stacks that a step 7 has failed on or has trained at 8 Gb/s. -/
def Boot.slowMap (b : Boot) : BitVec 8 :=
  (b.entries.filter (fun e => e.step == 7 && e.outcome != 0)).foldl (fun m e => m ||| e.arg.setWidth 8) 0

/-- The alterations in force: those of the last start, and what its failures add. Step 2 goes one stage further at each failure; the
other steps have one alteration, which stays (R386), and that of step 7 needs a stack that has failed. -/
def Boot.alterations (b : Boot) : List Nat :=
  (List.range 8).map (fun i =>
    let step := i + 1
    let prev := (((b.entries.filter (fun e => e.step == step)).getLast?).map (·.alt)).getD 0
    let once := prev != 0 || b.entries.any (fun e => b.failed e.start step)
    match step with
    | 2 => if b.failed b.start 2 then min (prev + 1) 5 else prev
    | 3 | 4 | 5 => once.toNat
    | 7 => if b.slowMap == 0 then 0 else 1
    | _ => 0)

/-- The highest PCIe rate and the greatest width under an alteration of step 2; none when the step is skipped. -/
def pcieOf (alt : Nat) : Option (Nat × Nat) :=
  match alt with
  | 0 => some (7, 16)
  | 1 => some (6, 16)
  | 2 => some (5, 16)
  | 3 => some (5, 8)
  | 4 => some (5, 4)
  | _ => none

/-- The rate and width at which the link trains under a limit: the highest rate, of 7.0, 6.x and 5.0, and the greatest width, of x16, x8
and x4, that both ends share (R13, R309); 0 is none. -/
def Condition.shared (c : Condition) (most : Nat × Nat) : Nat × Nat :=
  ((([7, 6, 5] : List Nat).find? (fun r => decide (r ≤ most.1) && c.rates.elem r)).getD 0,
   (([16, 8, 4] : List Nat).find? (fun n => decide (n ≤ min most.2 c.lanes))).getD 0)

/-- Whether the link trains at a rate and width. -/
def Condition.trains (c : Condition) (x : Nat × Nat) : Bool := x.1 != 0 && x.2 != 0 && x.1 ≤ c.rate && x.2 ≤ c.width

/-- The detail of a link's entry, as LINK of IDENT has rate and width (R311; DEDUCED, log 12). -/
def linkArg (x : Nat × Nat) : Nat := x.1 + 16 * x.2

/-- Step 2: the link trains, fails or is skipped; start-up goes on (log 12). -/
def Boot.link (b : Boot) (alt : Nat) : Boot :=
  match pcieOf alt with
  | none => { b.note 2 3 0 with rate := 0, width := 0 }
  | some most =>
    let x := b.part.shared most
    if b.part.trains x then { (b.note 2 0 0).note 2 (if alt == 0 then 1 else 4) (linkArg x) with rate := x.1, width := x.2 }
    else { (b.note 2 0 0).note 2 2 (linkArg x) with rate := 0, width := 0 }

/-- The sources that entries of steps 4 and 5 record as failed or rejected, in their order: an entry says so, or its start has no later
entry of the step, which has then begun and not ended (R385). -/
def failedSources : List JournalEntry → List Nat
  | [] => []
  | e :: r =>
    let open_ := e.outcome == 0 && !r.any (fun x => x.start == e.start && x.step == e.step)
    if (e.step == 4 || e.step == 5) && (e.outcome == 2 || open_) then e.arg.toNat :: failedSources r else failedSources r

/-- The sources of a start in order, by their index in the boot configuration: without HTTPS when the management port is not up, and each
that the journal records as failed moved to the end, in the order of the failures (R319, R386; DEDUCED, log 12). -/
def Boot.sourcesBy (b : Boot) (alt : List Nat) : List Nat :=
  let noPort := (alt[2]?).getD 0 != 0 || !b.part.port
  let all := (List.range b.config.sources.length).filter (fun i => !(noPort && b.config.sources[i]? == some .https))
  (failedSources b.entries).foldl (fun l x => l.filter (· != x) ++ l.filter (· == x)) all

/-- Step 4 begins with the first of some sources; without any it waits 10 s (R386). -/
def Boot.fetch (b : Boot) (left : List Nat) (now : Nat) : Boot :=
  match left with
  | [] => { b with left := [], retryAt := some (now + 10000000000) }
  | x :: _ => { b.note 4 0 x with left := left, retryAt := none }

/-- Steps 1 to 3, and step 4 begins; a step 2 or 3 that fails is recorded, and start-up goes on without it (log 12). -/
def State.bootStart (s : State) : State :=
  let old := s.boot
  let alt := old.alterations
  let b := { old with start := old.start + 1, alt := alt, stopped := false, ready := false, order := old.sourcesBy alt, left := [],
                      retryAt := none, image := [], fwver := 0, measure := 0, hbmSlow := old.slowMap }
  let b := ((b.note 1 0 0).note 1 1 0).link ((alt[1]?).getD 0)
  let b := if (alt[2]?).getD 0 == 0 then (b.note 3 0 0).note 3 (if b.part.port then 1 else 2) 0 else b.note 3 3 0
  { s with boot := { b.fetch b.order s.now with step := 4 }, power := { s.power with inReset := false } }

/-- RESET_RELEASE (R329): every rail is up. -/
def execResetRelease (s : State) : Host.Outcome State Fault Refusal :=
  if s.power.inReset && s.power.rails == railOrder then finish s.bootStart else finish s

/-- Whether a source may deliver the image now: step 4 is in progress and the source has not failed in this round. -/
def Boot.takes (b : Boot) (src : Nat) (kind : ImageSource) : Bool :=
  b.step == 4 && !b.stopped && b.retryAt.isNone && b.left.elem src && b.config.sources[src]? == some kind

/-- The first source by which the host may deliver the image now. -/
def Boot.hostSource (b : Boot) : Option Nat := (List.range b.config.sources.length).find? (fun i => b.takes i .host)

/-- Whether an image is accepted (R320). -/
def Boot.accepts (b : Boot) (image : List Byte) : Bool := Config.xmssValid image && decide (b.rollback ≤ Config.imageLevel image)

/-- The stacks that fail to train, at full rate or at the 8 Gb/s of their alteration. -/
def Boot.untrained (b : Boot) : BitVec 8 := (b.part.weak &&& ~~~b.hbmSlow) ||| b.part.dead

/-- Steps 7 and 8: a stack or a die-to-die link that fails stops the start with READY clear. -/
def Boot.train (b : Boot) : Boot :=
  if b.untrained != 0 || !b.part.dies then { (b.note 7 0 0).note 7 2 b.untrained.toNat with step := 7, stopped := true }
  else { (((b.note 7 0 0).note 7 (if b.hbmSlow == 0 then 1 else 4) b.hbmSlow.toNat).note 8 0 0).note 8 1 0 with
    step := 8, ready := true }

/-- A source has failed at step 4 or 5: the next one is tried (R319, R386). -/
def State.sourceFails (s : State) (step src : Nat) : State :=
  { s with boot := (s.boot.note step 2 src).fetch (s.boot.left.filter (· != src)) s.now }

/-- Steps 5 to 8 on an image from a source: accepted, or rejected. -/
def State.bootImage (s : State) (src : Nat) (image : List Byte) : State :=
  let b := (s.boot.note 4 1 src).note 5 0 src
  if b.accepts image then
    let b := { ((b.note 5 1 src).note 6 0 0).note 6 1 0 with
      fwver := Config.imageVersion image, level := Config.imageLevel image, measure := Config.shake256 image }
    { s with boot := b.train }
  else { s with boot := b }.sourceFails 5 src

/-- IMAGE_FETCH_COMPLETE (R319): an HTTPS source has delivered an image of at most 64 MiB over a chain to the trust root, or has
failed. -/
def execImageFetchComplete (r : SourceResult) (s : State) : Host.Outcome State Fault Refusal :=
  if !s.boot.takes r.source .https then finish s
  else
    match r.got with
    | none => finish (s.sourceFails 4 r.source)
    | some f =>
      if Config.chainsTo s.boot.config.trust f.chain && f.image.length ≤ 2 ^ 26 then finish (s.bootImage r.source f.image)
      else finish (s.sourceFails 4 r.source)

/-- BOOT_SOURCE_RETRY (R386). -/
def execBootSourceRetry (s : State) : Host.Outcome State Fault Refusal :=
  match s.boot.retryAt with
  | none => finish s
  | some t => if s.now < t then finish s else finish { s with boot := s.boot.fetch s.boot.order s.now }

/-- The device is reset, and if it is cold its rails have gone: flash and fuses keep what they hold (R6, R320, R385), and the host its
memory; the rest is as after reset (log 12). -/
def State.restart (s : State) (cold : Bool) : State :=
  let b := s.boot
  { State.reset with
    agenda := s.agenda, free := s.free, turn := s.turn, out := s.out, mem := { MemState.reset with host := s.mem.host },
    boot := { Boot.reset with part := b.part, config := b.config, start := b.start, journal := b.journal, rollback := b.rollback },
    power := { Power.reset with rails := if cold then [] else s.power.rails } }

/-! ### The PCIe function (R309, R310, R312, R319) -/

/-- Whether the function answers: step 2 is over and was not skipped. -/
def Boot.linked (b : Boot) : Bool := decide (3 ≤ b.step) && b.width != 0

/-- A dword of configuration space (R309, R310, log 80): the bits that can be written, the bits that are fixed, and their value. -/
structure CfgRow where
  dword : Nat
  rw    : Nat
  fixed : Nat
  value : Nat
  deriving DecidableEq, Repr

/-- The configuration space of PCI Express with what R309 and R310 give (PRESUMED, log 80): Command and Status, class code, one
function, BAR0, BAR2 and no other, the capability list; the PCI Express capability with 512-byte payloads, 4,096-byte reads, x16 at
7.0 and 10-bit tags; MSI-X of 2,048 vectors; Advanced Error Reporting. -/
def cfgRows : List CfgRow :=
  [⟨0x01, 0x406, 0x100000, 0x100000⟩, ⟨0x02, 0, 0xFFFFFF00, 0x12000000⟩, ⟨0x03, 0, 0xFF0000, 0⟩,
   ⟨0x04, 0xFC000000, 0x3FFFFFF, 0x4⟩, ⟨0x05, 0xFFFFFFFF, 0, 0⟩, ⟨0x06, 0, 0xFFFFFFFF, 0xC⟩, ⟨0x07, 0xFFFFFFF0, 0xF, 0⟩,
   ⟨0x08, 0, 0xFFFFFFFF, 0⟩, ⟨0x09, 0, 0xFFFFFFFF, 0⟩, ⟨0x0D, 0, 0xFF, 0x40⟩,
   ⟨0x10, 0, 0xFFFFFF, 0x028010⟩, ⟨0x11, 0, 0x7, 2⟩, ⟨0x12, 0x70E0, 0, 0⟩, ⟨0x13, 0, 0x3FF, 0x107⟩,
   ⟨0x19, 0, 0x30000, 0x30000⟩, ⟨0x1A, 0x1000, 0, 0⟩,
   ⟨0x20, 0xC0000000, 0x7FFFFFF, 0x7FF0011⟩, ⟨0x21, 0, 0xFFFFFFFF, 0x3000⟩, ⟨0x22, 0, 0xFFFFFFFF, 0xB000⟩,
   ⟨0x40, 0, 0xFFF0FFFF, 0x0001⟩]

/-- The current rate and width of the link, in the upper half of dword 0x14 (Link Status; rate 5 to 7 as in IDENT). -/
def Boot.linkStatus (b : Boot) : Nat := packFields [(16, 4, b.rate), (20, 6, b.width)]

/-- A dword of configuration space. -/
def State.cfgRead (s : State) (off : Nat) : W32 :=
  let i := off / 4
  let v := BitVec.ofNat 32 (leNat (Memory.read s.host.cfg (4 * i) 4))
  let open_ := Config.cfgFree i
  match cfgRows.find? (fun r => r.dword == i) with
  | some r =>
    let rw := BitVec.ofNat 32 r.rw
    let fx := BitVec.ofNat 32 r.fixed
    (v &&& rw) ||| (BitVec.ofNat 32 r.value &&& fx) ||| (open_ &&& ~~~(rw ||| fx))
  | none => if i == 0x14 then BitVec.ofNat 32 s.boot.linkStatus ||| (open_ &&& 0xFC00FFFF) else open_

/-- The base that the host has assigned to a BAR: 0 or 2; 0 is none. -/
def State.barBase (s : State) (n : Nat) : Nat :=
  (s.cfgRead (0x10 + 4 * n)).toNat / 16 * 16 + 2 ^ 32 * (s.cfgRead (0x14 + 4 * n)).toNat

/-- Whether a BAR answers: the link is up and the host has assigned it (R319). -/
def State.answersBar (s : State) (n : Nat) : Bool := s.boot.linked && s.barBase n != 0

/-- CONFIG_REQUEST (R319): retry status until step 2 has ended. -/
def execConfigRequest (r : ConfigRequest) (s : State) : Host.Outcome State Fault Refusal :=
  if !s.boot.linked then finish (s.emit (.config none))
  else if r.write then
    finish ({ s with host := { s.host with cfg := Memory.write s.host.cfg (r.offset / 4 * 4) (leBytes 4 r.value.toNat) } }.emit
      (.config (some r.value)))
  else finish (s.emit (.config (some (s.cfgRead r.offset))))

/-- HOST_BAR2_ACCESS (R312, R319): untranslated; before step 8 reads return 0 and writes are discarded. -/
def execHostBar2Access (r : Bar2Access) (s : State) : Host.Outcome State Fault Refusal :=
  let base := s.host.bar2 * 2 ^ 36
  match r with
  | .read off n =>
    if !s.answersBar 2 || 2 ^ 36 < off + n then finish s
    else if !s.boot.ready then finish (s.emit (.hostRead (List.replicate n 0)))
    else if Config.hbmBytes < base + off + n then finish { s with hole := some (base + off) }
    else finish ((s.physUsed false (base + off) n).emit (.hostRead (s.hbmRead (base + off) n)))
  | .write off bs =>
    if !s.answersBar 2 || !s.boot.ready || 2 ^ 36 < off + bs.length then finish s
    else if Config.hbmBytes < base + off + bs.length then finish { s with hole := some (base + off) }
    else finish ((s.hbmWrite (base + off) bs).physUsed true (base + off) bs.length)

/-- A doorbell names a queue: one that the scheduler could not read is looked at again (R310, R393). -/
def State.ring (s : State) (value : Word) : State :=
  let ctx := bitsOf value.toNat 16 32
  let q := bitsOf value.toNat 0 16
  match s.ctx? ctx with
  | none => s
  | some c =>
    let s := if (s.queue? ctx q).isSome then s.mapQueue ctx q (fun x => { x with blocked := false }) else s
    s.examine c q

/-- DOORBELL (R310). -/
def execDoorbell (value : Word) (s : State) : Host.Outcome State Fault Refusal :=
  if s.answersBar 0 && s.boot.ready then finish (s.ring value) else finish s

/-- Bytes written into a list of words. -/
def wordsWrite (ws : List Word) (off : Nat) (bs : List Byte) : List Word :=
  bs.zipIdx.foldl (fun ws b =>
    let i := (off + b.2) / 8
    let k := 8 * ((off + b.2) % 8)
    let keep : Word := ~~~(BitVec.ofNat 64 (0xFF * 2 ^ k))
    let new : Word := BitVec.ofNat 64 (b.1.toNat * 2 ^ k)
    ws.modify i (fun w => (w &&& keep) ||| new)) ws

/-- Vectors that are no longer masked and are pending are signalled. -/
def State.unmask (s : State) : State :=
  (List.range 2048).foldl (fun s v =>
    if (s.host.pba[v]?).getD false && !((s.host.msix[2 * v + 1]?).getD 0).getLsbD 32 then
      { s with host := { s.host with pba := s.host.pba.set v false } }.emit (.msix v)
    else s) s

/-- IDENT (R311). -/
def State.ident (s : State) : List Byte :=
  let b := s.boot
  leBytes 4 (packFields [(0, 1, b.ready.toNat), (4, 4, b.step), (8, 1, b.stopped.toNat), (9, 1, (b.alt.any (· != 0)).toNat)]) ++
  leBytes 4 0xB0 ++ leBytes 8 b.fwver.toNat ++ leBytes 4 0x301 ++ leBytes 4 0x201 ++ leBytes 4 1 ++ leBytes 4 1 ++ leBytes 4 1 ++
  leBytes 4 (packFields [(0, 4, b.rate), (4, 8, b.width)]) ++ leBytes 4 (if b.step < 7 then 0 else b.hbmSlow.toNat) ++ leBytes 4 b.rollback ++
  (List.range 8).map (fun k => BitVec.ofNat 8 ((b.alt[k]?).getD 0)) ++ leBytes 4 b.start.toNat ++ leBytes 4 0 ++ leBytes 64 b.measure.toNat

/-- A byte of BAR0 (R310, R315); what is write-only or not listed reads as 0, and so do the MSI-X table and its pending bits before
step 8 (R319). -/
def State.bar0Byte (s : State) (off : Nat) : Byte :=
  if off < 0x1000 then (s.ident[off]?).getD 0
  else if within off 1 0x1000 64 then BitVec.ofNat 8 (bitsOf s.host.msgIn.toNat (8 * (off - 0x1000)) 8)
  else if within off 1 0x1800 64 then BitVec.ofNat 8 (bitsOf s.host.reply.toNat (8 * (off - 0x1800)) 8)
  else if within off 1 0x1840 4 then BitVec.ofNat 8 (bitsOf s.host.rseq.toNat (8 * (off - 0x1840)) 8)
  else if !s.boot.ready then 0
  else if within off 1 0x3000 0x8000 then
    BitVec.ofNat 8 (bitsOf ((s.host.msix[(off - 0x3000) / 8]?).getD 0).toNat (8 * (off % 8)) 8)
  else if within off 1 0xB000 256 then
    (List.range 8).foldl (fun v i => v + BitVec.ofNat 8 (((s.host.pba[8 * (off - 0xB000) + i]?).getD false).toNat * 2 ^ i)) 0
  else 0

/-- What a host read of BAR0 gives (R310). -/
def State.bar0Read (s : State) (off n : Nat) : List Byte := (List.range n).map (fun i => s.bar0Byte (off + i))

/-- A write to BAR0 (R310, R315); a register that is read-only or not listed ignores it. The spec gives no access sizes: a write of
another size than SEND's 4 bytes or DOORBELL's 8, and one over two registers, is ignored whole (DESIGN CHOICE, log 81). -/
def State.bar0Write (s : State) (off : Nat) (bs : List Byte) : State :=
  if within off bs.length 0x1000 64 then
    let m := Memory.write (Memory.write [] 0 (leBytes 64 s.host.msgIn.toNat)) (off - 0x1000) bs
    { s with host := { s.host with msgIn := BitVec.ofNat 512 (leNat (Memory.read m 0 64)) } }
  else if off == 0x1040 && bs.length == 4 then
    if leNat bs == 0 || s.host.inbox.any (fun x => x.1.isSome) then s
    else { s with host := { s.host with inbox := s.host.inbox ++ [(some (BitVec.ofNat 32 (leNat bs)), s.host.msgIn)] } }
  else if off == 0x2000 && bs.length == 8 then if s.boot.ready then s.ring (BitVec.ofNat 64 (leNat bs)) else s
  else if within off bs.length 0x3000 0x8000 then
    if s.boot.ready then ({ s with host := { s.host with msix := wordsWrite s.host.msix (off - 0x3000) bs } }).unmask else s
  else if within off bs.length 0x1000000 0x1000000 then
    { s with host := { s.host with stage := Memory.write s.host.stage (off - 0x1000000) bs } }
  else s

/-- A message over the management port joins the inbox if the port is up and its certificate chains to the trust root (R334). -/
def State.portMessage (s : State) (chain : List Byte) (m : Msg) : State :=
  if s.boot.ported && Config.chainsTo s.boot.config.trust chain then
    { s with host := { s.host with inbox := s.host.inbox ++ [(none, m)] } }
  else s

/-- REGISTER_WRITE (R4, R319). -/
def execRegisterWrite (offset : Nat) (data : List Byte) (s : State) : Host.Outcome State Fault Refusal :=
  if s.answersBar 0 then finish (s.bar0Write offset data) else finish s

end Sys2Proof.Machine
end

