-- ==== Sys2Proof/Machine/System.lean ====
section
/-!
DEFINITION. Family 0x50: TRAP, BKPT, RTT and the system registers (spec/07_ref_control_teams_flows.md R195 to R200).
-/
namespace Sys2Proof.Machine

/-! ### Traps (R195 to R197) -/

/-- TRAP (R195): a user trap with the code zero-extended in TRAPADDR. -/
def execTrap (w : FmtA) (s : State) : Host.Outcome State Fault Refusal :=
  withCx s (fun cx =>
    let a := (readUni s cx 1 w.a).v.setWidth 32
    s.moveAll cx noAct (fun _ _ => .stop (.trap .trapInsn 0 (a.setWidth 64) none 0)))

/-- BKPT (R195): a resumable park; a lane resumed from it goes on after the BKPT. -/
def execBkpt (_ : FmtA) (s : State) : Host.Outcome State Fault Refusal :=
  withCx s (fun cx =>
    (s.mapWarp cx.wid cx.k (fun w => w.mapLanes cx.lanes (fun x => x.advance cx.next))).stopLanes cx.wid cx.k cx.pc cx.next false
      (cx.lanes.map (fun l => (l, .park .bkpt 0 0))))

/-- RTT (R197): outside a handler it is ILLEGAL. -/
def execRtt (_ : FmtA) (s : State) : Host.Outcome State Fault Refusal :=
  withCx s (fun cx =>
    let inHandler : Nat → Bool := fun l => match cx.lane? l with | some x => x.handler | none => false
    (s.mapWarp cx.wid cx.k (fun w =>
      w.mapLanes (cx.lanes.filter inHandler) (fun x => (x.advance x.trapret).leaveTrap))).stopLanes cx.wid cx.k cx.pc cx.next false
      ((cx.lanes.filter (fun l => !inHandler l)).map (fun l => (l, cx.illegal))))

/-! ### System registers (R198, R199, R200) -/

/-- Registers of 64 bits. -/
def csrWide (n : Nat) : Bool := n == 0x8 || (0xA ≤ n && n ≤ 0xC) || n == 0x10 || 0x100 ≤ n
/-- Registers that only kernels of privileged contexts may access (R4, R199, R321). -/
def csrPrivileged (n : Nat) : Bool := n == 0x30 || 0x100 ≤ n
/-- Registers held per lane. -/
def csrPerLane (n : Nat) : Bool := (1 ≤ n && n ≤ 4) || (0x9 ≤ n && n ≤ 0xC)

/-- The value of a register as lane x of a warp reads it. -/
def csrRead (s : State) (c : Context) (g : Wg) (w : Warp) (x : Lane) (n : Nat) : Word :=
  match n with
  | 0x00 => w.nbv.setWidth 64
  | 0x01 => x.trapen.setWidth 64
  | 0x02 => x.fpstat.setWidth 64
  | 0x03 => x.decstat.setWidth 64
  | 0x04 => x.rmode.setWidth 64
  | 0x08 => w.trapvec
  | 0x09 => x.trapcause.setWidth 64
  | 0x0A => x.trappc
  | 0x0B => x.trapaddr
  | 0x0C => x.trapret
  | 0x10 => c.privbase
  | 0x11 => c.privhwm.setWidth 64
  | 0x12 => g.allocId.setWidth 64
  | 0x13 => w.unifcnt.setWidth 64
  | 0x18 => c.tbudget.setWidth 64
  | 0x20 => s.time.stat
  | 0x30 => c.copymode.setWidth 64
  | _ => s.devReg n

/-- Whether a write of v would put a reserved value into a field that refuses it (R75, R87). -/
def csrRefuses (n : Nat) (v : Word) : Bool :=
  (n == 0 && v.extractLsb' 0 2 == 3) || (n == 4 && (5 ≤ bitsOf v.toNat 0 3 || 5 ≤ bitsOf v.toNat 4 3))

/-- The bits of a register that it keeps (R5, R75, R76, R87, R200, R265). -/
def csrKeeps (n : Nat) (v : Word) : Word :=
  match n with
  | 0x00 => v &&& 0x3
  | 0x01 => v &&& 0x31F1F
  | 0x02 | 0x03 => v &&& 0x1F
  | 0x04 => v &&& 0x77
  | 0x09 => v &&& 0x1F00FF
  | 0x30 => v &&& 0xFF1
  | _ => v

/-- A per-lane register written. -/
def Lane.csrPut (x : Lane) (n : Nat) (v : Word) : Lane :=
  match n with
  | 0x01 => { x with trapen := v.setWidth 32 }
  | 0x02 => { x with fpstat := v.setWidth 32 }
  | 0x03 => { x with decstat := v.setWidth 32 }
  | 0x04 => { x with rmode := v.setWidth 32 }
  | 0x09 => { x with trapcause := v.setWidth 32 }
  | 0x0A => { x with trappc := v }
  | 0x0B => { x with trapaddr := v }
  | 0x0C => { x with trapret := v }
  | _ => x

/-- A per-warp register written. -/
def Warp.csrPut (w : Warp) (n : Nat) (v : Word) : Warp :=
  match n with
  | 0x00 => { w with nbv := v.setWidth 32 }
  | 0x08 => { w with trapvec := v }
  | 0x13 => { w with unifcnt := v.setWidth 32 }
  | _ => w

/-- A per-context register written. -/
def Context.csrPut (c : Context) (n : Nat) (v : Word) : Context :=
  match n with
  | 0x18 => { c with tbudget := v.setWidth 32 }
  | 0x30 => { c with copymode := v.setWidth 32 }
  | _ => c

/-- A register written from one lane; RO registers ignore it (R4). -/
def State.csrWrite (s : State) (ctx wid k l n : Nat) (v : Word) : State :=
  let v := csrKeeps n v
  if csrPerLane n then s.mapLane wid k l (fun x => x.csrPut n v)
  else if n == 0 || n == 0x8 || n == 0x13 then s.mapWarp wid k (fun w => w.csrPut n v)
  else if n == 0x18 || n == 0x30 then s.mapCtx ctx (fun c => c.csrPut n v)
  else if 0x100 ≤ n then s.devWrite n v
  else s

/-- CSRR (R198). -/
def execCsrr (w : FmtA) (s : State) : Host.Outcome State Fault Refusal :=
  withCx s (fun cx =>
    let n := w.csr
    s.commit cx false false 0 (cx.lanes.map (fun l =>
      match cx.lane? (if Code.isScalar w.d then cx.low else l) with
      | none => (l, .skip)
      | some x =>
        if csrPrivileged n && !cx.ctx.priv then (l, .stop (.fault .protection 0 0))
        else
          let v := csrRead s cx.ctx cx.g cx.w x n
          (l, .write (destWrites l w.d w.ty (if w.ty == 1 then v &&& 0xFFFFFFFF else v) false) 0 0))))

/-- What CSRW does in one lane: a stop, or the value that it writes. -/
def csrwLane (s : State) (cx : Cx) (w : FmtA) (l : Nat) : Except LaneOut Word :=
  match cx.lane? l with
  | none => .error .skip
  | some x =>
    let n := w.csr
    let a := readOp s cx l w.ty w.a
    if csrPrivileged n && !cx.ctx.priv then .error (.stop (.fault .protection 0 0))
    else if a.p then .error (flowPoison x)
    else if csrRefuses n a.v then .error (.stop cx.illegal)
    else if csrWide n && w.ty == 1 then
      .ok (csrRead s cx.ctx cx.g cx.w x n &&& 0xFFFFFFFF00000000 ||| a.v &&& 0xFFFFFFFF)
    else .ok a.v

/-- CSRW (R198): a register that lanes share is written once, with the value of the highest-numbered lane that is not refused (R87 has
no lanes that differ: DESIGN CHOICE, log 56). -/
def execCsrw (w : FmtA) (s : State) : Host.Outcome State Fault Refusal :=
  withCx s (fun cx =>
    let n := w.csr
    let vals := cx.lanes.map (fun l => (l, csrwLane s cx w l))
    let good := vals.filterMap (fun p => match p.2 with | .ok v => some (p.1, v) | .error _ => none)
    let puts := if csrPerLane n then good else good.getLast?.toList
    let s := puts.foldl (fun s p => s.csrWrite cx.ctx.num cx.wid cx.k p.1 n p.2) s
    s.commit cx false false 0 (vals.map (fun p => (p.1, match p.2 with | .ok _ => flowDone | .error o => o))))

end Sys2Proof.Machine
end

