-- ==== Sys2Proof/Machine/Manage.lean ====
section
/-!
DEFINITION. Management messages 0x60 to 0x76 (spec/13_fabric_host_boot.md R314 to R318, spec/11 R268, spec/21 R348, R363, R371): how a
message is answered, attachment, contexts, rings, pods and parameters.
-/
namespace Sys2Proof.Machine

/-! ### Messages and replies (R315, R316, R347) -/

/-- What an operation answers: a reply of R347 by its status, bytes 8 to 15 and bytes 16 to 23, a reply of its own layout, or nothing
yet. -/
inductive Ans where
  | now (s : State) (status value extra : Nat)
  | whole (s : State) (reply : Nat)
  | later (s : State)

/-- Done, with no value. -/
def Ans.ok (s : State) : Ans := .now s 0 0 0
/-- A status other than 0; nothing has changed. -/
def Ans.no (s : State) (status : Nat) : Ans := .now s status 0 0

/-- Bits [64 i + 63 : 64 i] of a message: P_i of R316, VALUE at 7 and LANES at 6 (R347). -/
def param (m i : Nat) : Nat := bitsOf m (64 * i) 64
/-- CTX. -/
def msgCtx (m : Nat) : Nat := bitsOf m 48 16
/-- CORE of R347. -/
def msgCore (m : Nat) : Nat := bitsOf m 41 7
/-- WARP of R347. -/
def msgWarp (m : Nat) : Nat := bitsOf m 34 7
/-- REG of R347. -/
def msgReg (m : Nat) : Nat := bitsOf m 368 16

/-- No parameter after the first n is set (R316). -/
def namesOnly (n m : Nat) : Bool := (List.range 7).all (fun i => i < n || param m (i + 1) == 0)
/-- Any message of R347's frame. -/
def anyFrame (_ : Nat) : Bool := true

/-- A reply in the layout of R347. -/
def replyOf (status value extra : Nat) : Nat := packFields [(0, 8, status), (64, 64, value), (128, 64, extra)]

/-- The oldest message is answered: in REPLY and RSEQ, with vector 0 from step 8 on, or over the management port (R315). -/
def State.answer (s : State) (src : Option W32) (r : Nat) : State :=
  let s := { s with host := { s.host with inbox := s.host.inbox.drop 1 } }
  match src with
  | none => s.emit (.portReply (BitVec.ofNat 512 r))
  | some q =>
    let s := { s with host := { s.host with reply := BitVec.ofNat 512 r, rseq := q } }
    if s.boot.ready then s.msix 0 else s

/-- An operation's answer is sent. -/
def Ans.send (src : Option W32) : Ans → State
  | .now s st v x => s.answer src (replyOf st v x)
  | .whole s r => s.answer src r
  | .later s => s

/-- The status that refuses an operation before it is looked at: no driver attached, or a version that lacks it (R314, R316, R384). -/
def State.refuses (s : State) (op : Nat) : Option Nat :=
  match s.host.attached with
  | none => if op == 0x60 || op == 0x73 || op == 0x74 then none else some 4
  | some v => if v == 1 && 0x40 ≤ op && op ≤ 0x45 then some 3 else none

/-- The oldest message, if its operation is op: refused, or answered by its meaning on the message. -/
def message (op : Nat) (frame : Nat → Bool) (f : State → Nat → Ans) (s : State) : Host.Outcome State Fault Refusal :=
  match s.host.inbox with
  | [] => finish s
  | (src, msg) :: _ =>
    let m := msg.toNat
    if m % 256 != op then finish s
    else
      match s.refuses op with
      | some st => finish (s.answer src (replyOf st 0 0))
      | none => if frame m then finish ((f s m).send src) else finish (s.answer src (replyOf 3 0 0))

/-- A message about a context: status 1 without it. -/
def onCtx (f : State → Context → Nat → Ans) (s : State) (m : Nat) : Ans :=
  match s.ctx? (msgCtx m) with
  | none => .no s 1
  | some c => f s c m

/-! ### Attachment (R314, R317) -/

/-- ATTACH (R317). -/
def execAttach (s : State) : Host.Outcome State Fault Refusal :=
  message 0x60 (namesOnly 1) (fun s m =>
    let lo := bitsOf (param m 1) 0 8
    let v := min 2 (bitsOf (param m 1) 8 8)
    if s.host.attached.isSome || v < max 1 lo then .no s 3
    else .now { s with host := { s.host with attached := some v } } 0 v 0) s

/-- DETACH (R317). -/
def execDetach (s : State) : Host.Outcome State Fault Refusal :=
  message 0x61 (namesOnly 0) (fun s _ =>
    if s.ctxs.isEmpty then .ok { s with host := { s.host with attached := none } } else .no s 3) s

/-! ### Contexts (R268, R317, R318) -/

/-- The context that a descriptor describes (R268). -/
def Context.ofBytes (num : Nat) (priv : Bool) (bs : List Byte) : Context :=
  let word := fun lo => BitVec.ofNat 64 (field bs lo 64)
  { num := num, priv := priv, ptroot := word 0, qtab := word 64, qcount := field bs 128 32,
    tslice := if field bs 160 32 == 0 then 500 else field bs 160 32, cring := word 192, crlen := field bs 256 32,
    tagto := if field bs 288 32 == 0 then 10000 else field bs 288 32, privbase := word 320,
    privhwm := BitVec.ofNat 32 (field bs 384 32), tbudget := BitVec.ofNat 32 (field bs 416 32), copymode := 0,
    evovf := BitVec.ofNat 64 (4096 * field bs 460 52), evovfn := field bs 448 12, events := [], evRegs := [], crNum := [], breaks := [],
    saved := false }

/-- The limits of R268, R215 and R51. -/
def Context.fits (c : Context) : Bool :=
  powerIn c.crlen 6 16 && c.cring.toNat % 32 == 0 && c.tslice ≤ 1000000 && 1 ≤ c.qcount && c.qcount ≤ 65536 &&
  c.qtab.toNat % 32 == 0 && c.privhwm.toNat % 4096 == 0 && 4096 ≤ c.privhwm.toNat && c.privhwm.toNat ≤ 2 ^ 20 &&
  c.privbase.toNat % 4096 == 0 && decide (c.privbase.toNat + privateSpan ≤ 2 ^ 48)

/-- Whether the driver has named all that CTXCREATE needs. -/
def State.named4 (s : State) : Bool := s.fring.isSome && s.sring.isSome && s.slog.isSome && s.pool.isSome

/-- The lowest context number that is free. -/
def State.freeCtx (s : State) : Option Nat := (List.range 1024).find? (fun n => (s.ctx? n).isNone)

/-- CTXCREATE (R317). The descriptor is read at an untranslated address of local HBM, and an address that is no multiple of 64 is answered
with status 3 (DEDUCED, log 93). -/
def execCtxcreate (s : State) : Host.Outcome State Fault Refusal :=
  message 0x62 (namesOnly 2) (fun s m =>
    let at_ := param m 1
    match s.freeCtx with
    | none => .no s 3
    | some n =>
      if !s.named4 || s.power.pstate == 2 || at_ % 64 != 0 then .no s 3
      else if Config.hbmBytes < at_ + 64 then .no { s with hole := some at_ } 3
      else
        let c := Context.ofBytes n ((param m 2).testBit 0) (s.hbmRead at_ 64)
        let s := s.physUsed false at_ 64
        if c.fits then .now { s with ctxs := s.ctxs ++ [c] } 0 n 0 else .no s 3) s

/-- A context goes, with all that the device keeps for it. What is under way to peers for it is performed there, and its answers are not
wanted any more. -/
def State.dropCtx (s : State) (n : Nat) : State :=
  { s with
    ctxs := s.ctxs.filter (fun c => c.num != n), queues := s.queues.filter (fun q => q.ctx != n),
    slots := ((s.slots.filter (fun x => x.ctx == n)).foldl State.unmap s).slots, pkts := s.pkts.filter (fun p => p.key.ctx != n),
    wgs := s.wgs.filter (fun g => g.pkt.ctx != n), ops := s.ops.filter (fun o => o.ctx != n),
    flows := s.flows.filter (fun f => f.ctx != n), rings := s.rings.filter (fun r => r.ctx != n),
    kills := s.kills.filter (fun k => k.ctx != n), streams := s.streams.filter (fun x => x.ctx != n),
    offers := s.offers.filter (fun o => o.ctx != n),
    mem := { s.mem with tlb := s.mem.tlb.filter (fun t => t.ctx != n), above := s.mem.above.filter (fun e => e.ctx != n) },
    winnow := s.winnow.filter (fun w => w.ctx != n),
    fab := { s.fab with exports := s.fab.exports.filter (fun x => x.2 != n),
                        remote := (s.fab.remote.filter (fun r => r.warp < 3000 || r.wid != n || r.answer.isNone)).map (fun r =>
                          if 3000 ≤ r.warp && r.wid == n then { r with warp := 3999 } else r) } }

/-- CTXDESTROY (R317). -/
def execCtxdestroy (s : State) : Host.Outcome State Fault Refusal :=
  message 0x63 (namesOnly 0) (onCtx (fun s c _ =>
    if s.pkts.any (fun p => p.key.ctx == c.num && p.launch?.isSome) || s.wgs.any (fun g => g.pkt.ctx == c.num) then .no s 3
    else .ok (s.dropCtx c.num))) s

/-- CTXCSR (R317): TBUDGET or COPYMODE of a context. -/
def execCtxcsr (s : State) : Host.Outcome State Fault Refusal :=
  message 0x75 (namesOnly 3) (onCtx (fun s c m =>
    let n := param m 1
    if n != 0x18 && n != 0x30 then .no s 3
    else
      let d := if (param m 3).testBit 0 then c.csrPut n (csrKeeps n (BitVec.ofNat 64 (param m 2))) else c
      .now (s.mapCtx c.num (fun _ => d)) 0 (if n == 0x18 then d.tbudget.toNat else d.copymode.toNat) 0)) s

/-- DEVCSR (R317, R321). -/
def execDevcsr (s : State) : Host.Outcome State Fault Refusal :=
  message 0x76 (namesOnly 3) (fun s m =>
    let n := param m 1
    if n < 0x100 || !csrAssigned n then .no s 3
    else
      let s := if (param m 3).testBit 0 then s.devWrite n (BitVec.ofNat 64 (param m 2)) else s
      .now s 0 (s.devReg n).toNat 0) s

/-! ### Rings and the save pool (R317, R348, R363, R371, R380) -/

/-- A named ring: its records count from 0, behind those that still wait for room. -/
def Ring.named (old : Option Ring) (m : Nat) : Ring :=
  { base := param m 1, len := param m 2, vector := param m 3, posted := 0, consumed := 0, waiting := (old.map (·.waiting)).getD [] }

/-- A message that names a ring whose base is aligned, while no context exists. -/
def ringMessage (align : Nat) (put : State → Nat → State) (s : State) (m : Nat) : Ans :=
  if !s.ctxs.isEmpty || param m 1 % align != 0 || !powerIn (param m 2) 6 16 || 2048 ≤ param m 3 then .no s 3 else .ok (put s m)

/-- FAULTRING (R348). -/
def execFaultring (s : State) : Host.Outcome State Fault Refusal :=
  message 0x64 (namesOnly 3) (ringMessage 64 (fun s m => { s with fring := some (Ring.named s.fring m) })) s
/-- SERVRING (R363). -/
def execServring (s : State) : Host.Outcome State Fault Refusal :=
  message 0x65 (namesOnly 3) (ringMessage 64 (fun s m => { s with sring := some (Ring.named s.sring m) })) s
/-- STORELOG (R380). -/
def execStorelog (s : State) : Host.Outcome State Fault Refusal :=
  message 0x66 (namesOnly 3) (ringMessage 256 (fun s m => { s with slog := some (Ring.named s.slog m) })) s
/-- SAVEPOOL (R371). -/
def execSavepool (s : State) : Host.Outcome State Fault Refusal :=
  message 0x67 (namesOnly 2) (fun s m =>
    if !s.ctxs.isEmpty || param m 1 % 4096 != 0 || param m 2 < 673 * 2 ^ 20 then .no s 3
    else .ok { s with pool := some (param m 1, param m 2) }) s

/-! ### The pod (R301, R303, R305, R317, R379) -/

/-- The peers that can be reached, as a map. -/
def State.reachMap (s : State) : Nat := ((List.range 16).filter s.reachable).foldl (fun n p => n + 2 ^ p) 0

/-- The peers of a pod formation: 64 planes each (R302). -/
def formPeers (own map : Nat) : List Nat := (List.range 16).filter (fun p => map.testBit p && p != own)

/-- Every channel of the formation is up or has failed. -/
def State.formed (s : State) (own map : Nat) : Bool :=
  (formPeers own map).all (fun p => (List.range 64).all (fun k => (s.chan? p k).isSome))

/-- A pod is formed anew: the peers of the old one are lost, and link-up begins on every channel. -/
def State.formPod (s : State) (id own map : Nat) : State :=
  let s := ((List.range 16).filter (fun p => s.reachable p || s.heldPeer p)).foldl State.cutPeer s
  let peers := formPeers own map
  let alone := peers.isEmpty
  let s := { s with fab := { s.fab with podId := if alone then 0 else BitVec.ofNat 32 id, index := if alone then 0 else own,
                                        members := if alone then 0 else BitVec.ofNat 16 map, chans := [], held := 0, podWait := none,
                                        holding := false, forming := some (BitVec.ofNat 16 map) } }
  peers.foldl (fun s p => (List.range 64).foldl (fun s k => s.frameTo p k) s) s

/-- PODFORM (R301): the reply comes when every channel is up or has failed. -/
def execPodform (s : State) : Host.Outcome State Fault Refusal :=
  message 0x68 (namesOnly 3) (fun s m =>
    let own := bitsOf (param m 2) 0 4
    let map := bitsOf (param m 3) 0 16
    if !map.testBit own then .no s 3
    else
      let s := if s.fab.forming.isSome then s else s.formPod (bitsOf (param m 1) 0 32) own map
      if s.formed own map then .now { s with fab := { s.fab with forming := none } } 0 s.reachMap 0 else .later s) s

/-- EXPORT (R305, R317). -/
def execExportCtx (s : State) : Host.Outcome State Fault Refusal :=
  message 0x69 (namesOnly 1) (fun s m =>
    let sender := bitsOf (param m 1) 0 4
    let n := msgCtx m
    let rest := s.fab.exports.filter (fun x => x.1 != sender)
    if n == 0xFFFF then .ok { s with fab := { s.fab with exports := rest } }
    else if (s.ctx? n).isNone then .no s 1
    else .ok (State.serveStalled { s with fab := { s.fab with exports := rest ++ [(sender, n)] } })) s

/-- FABPARAM (R307, R379). -/
def execFabparam (s : State) : Host.Outcome State Fault Refusal :=
  message 0x6C (namesOnly 2) (fun s m =>
    let age := param m 1
    if age != 0 && (age < 100 || 100000 < age) then .no s 3
    else .ok { s with fab := { s.fab with ageing := if age == 0 then s.fab.ageing else age,
                                          threshold := if (param m 2).testBit 15 then bitsOf (param m 2) 0 10 else s.fab.threshold } }) s

/-! ### Parameters (R289, R291, R312, R313, R330 to R334) -/

/-- BAR2BASE (R312). -/
def execBar2base (s : State) : Host.Outcome State Fault Refusal :=
  message 0x6A (namesOnly 1) (fun s m => .ok { s with host := { s.host with bar2 := param m 1 } }) s
/-- HOSTATOMIC (R313). -/
def execHostatomic (s : State) : Host.Outcome State Fault Refusal :=
  message 0x6B (namesOnly 1) (fun s m => .ok { s with host := { s.host with atomics := (param m 1).testBit 0 } }) s
/-- STREAMPARAM (R289, R291). -/
def execStreamparam (s : State) : Host.Outcome State Fault Refusal :=
  message 0x6D (namesOnly 3) (fun s m =>
    .ok { s with host := { s.host with ptpDomain := bitsOf (param m 1) 0 7, ingestPort := bitsOf (param m 2) 0 16,
                                       ethPorts := bitsOf (param m 3) 0 2 } }) s
/-- POWERCAP (R331). -/
def execPowercap (s : State) : Host.Outcome State Fault Refusal :=
  message 0x6E (namesOnly 1) (fun s m =>
    if param m 1 < 900 || 1800 < param m 1 then .no s 3
    else .ok { s with power := Power.paced { s.power with cap := param m 1 } }) s

/-- Every channel goes dark, and the compute dies lose what their caches hold. -/
def State.standby (s : State) : State :=
  let s := s.withChans (fun c => { c with up := false, sendUp := false })
  { s with power := { s.power with pstate := 2, idle := none }, mem := s.mem.dropCaches }

/-- The device runs again, and link-up begins on the channels that are not retired. -/
def State.leaveStandby (s : State) : State :=
  let s := { s with power := { s.power with pstate := 0, idle := none } }
  (s.fab.chans.filter (fun c => !c.retired)).foldl (fun s c => s.frameTo c.peer c.plane) s

/-- POWERSTATE (R330). -/
def execPowerstate (s : State) : Host.Outcome State Fault Refusal :=
  message 0x6F (namesOnly 1) (fun s m =>
    if param m 1 == 2 then (if s.ctxs.isEmpty then .ok (if s.power.pstate == 2 then s else s.standby) else .no s 3)
    else if param m 1 == 0 then .ok (if s.power.pstate == 2 then s.leaveStandby else s)
    else .no s 3) s

/-- TELEMETRY (R334). -/
def execTelemetry (s : State) : Host.Outcome State Fault Refusal :=
  message 0x70 (namesOnly 3) (fun s m =>
    .ok { s with host := { s.host with collector := (BitVec.ofNat 64 (param m 1), BitVec.ofNat 64 (param m 2), bitsOf (param m 3) 0 16) },
                 power := { s.power with sendAt := s.now + 1000000000 } }) s

/-! ### Firmware (R317, R319, R320, R386) -/

/-- ROLLBACK (R320). -/
def execRollback (s : State) : Host.Outcome State Fault Refusal :=
  message 0x71 (namesOnly 1) (fun s m =>
    if param m 1 < s.boot.rollback || s.boot.level < param m 1 then .no s 3
    else .ok { s with boot := { s.boot with rollback := param m 1 } }) s

/-- JOURNALCLR (R386). -/
def execJournalclr (s : State) : Host.Outcome State Fault Refusal :=
  message 0x72 (namesOnly 0) (fun s _ => .ok { s with boot := { s.boot with journal := [], alt := List.replicate 8 0 } }) s

/-- IMGPIECE (R317): bytes of STAGE join the image, during step 4 only. -/
def execImgpiece (s : State) : Host.Outcome State Fault Refusal :=
  message 0x73 (namesOnly 2) (fun s m =>
    let off := param m 1
    let n := param m 2
    if s.boot.hostSource.isNone || off % 4096 != 0 || n % 16 != 0 || n < 16 || 2 ^ 24 < n || 2 ^ 26 < off + n then .no s 3
    else .ok { s with boot := { s.boot with image := Memory.write s.boot.image off (Memory.read s.host.stage 0 n) } }) s

/-- IMGDONE (R317, R320): the image is verified. -/
def execImgdone (s : State) : Host.Outcome State Fault Refusal :=
  message 0x74 (namesOnly 1) (fun s m =>
    match s.boot.hostSource with
    | none => .no s 3
    | some src =>
      if 2 ^ 26 < param m 1 then .no s 3
      else
        let image := Memory.read s.boot.image 0 (param m 1)
        if s.boot.accepts image then .ok (s.bootImage src image) else .no (s.bootImage src image) 3) s

/-! ### Operations that are not assigned (R316) -/

/-- The operations of R347, R355, R366, R384, R389 and R317. -/
def opAssigned (op : Nat) : Bool :=
  (0x01 ≤ op && op ≤ 0x05) || (0x10 ≤ op && op ≤ 0x14) || (0x20 ≤ op && op ≤ 0x22) || (0x30 ≤ op && op ≤ 0x34) ||
  (0x40 ≤ op && op ≤ 0x45) || op == 0x50 || (0x60 ≤ op && op ≤ 0x76)

/-- UNASSIGNED_MESSAGE_OP (R316): status 5, or 4 before ATTACH. -/
def execUnassignedMessageOp (s : State) : Host.Outcome State Fault Refusal :=
  match s.host.inbox with
  | [] => finish s
  | (src, msg) :: _ =>
    let op := msg.toNat % 256
    if opAssigned op then finish s else finish (s.answer src (replyOf ((s.refuses op).getD 5) 0 0))

end Sys2Proof.Machine
end

