-- ==== Sys2Proof/Machine/Recover.lean ====
section
/-!
DEFINITION. Management messages 0x01 to 0x50 (spec/14_observing.md R327, spec/20 R347, R351, spec/21 R355, R366, R372, R375, spec/22
R381, R383, R384, R389): what the driver and the debugger do to lanes, operations, launches, contexts and the fabric.
-/
namespace Sys2Proof.Machine

/-! ### Lanes that a message names (R347, R355) -/

/-- The lanes of a resident warp that a message names. -/
structure Target where
  ctx  : Context
  g    : Wg
  k    : Nat
  w    : Warp
  ls   : List Nat

/-- The lanes with what they hold. -/
def Target.lanes (t : Target) : List Lane := t.ls.filterMap (fun l => t.w.lanes[l]?)

/-- The lanes that a message names; none when its context, core, warp or one of its lanes is not there. -/
def State.target (s : State) (m : Nat) : Option Target :=
  match s.ctx? (msgCtx m), s.slot? (msgCore m) (msgWarp m) with
  | some c, some (wid, k) =>
    match s.wg? wid, s.warp? wid k with
    | some g, some w =>
      let ls := lanesOf (BitVec.ofNat 64 (param m 6))
      let here := ls.all (fun l => match w.lanes[l]? with | some x => x.st != .absent | none => false)
      if g.pkt.ctx == c.num && !ls.isEmpty && here then some { ctx := c, g := g, k := k, w := w, ls := ls } else none
    | _, _ => none
  | _, _ => none

/-- A message about lanes: status 1 without them. -/
def onLanes (f : State → Target → Nat → Ans) (s : State) (m : Nat) : Ans :=
  match s.target m with
  | none => .no s 1
  | some t => f s t m

/-- Whether a lane is parked in the sense of R17: with a record, at a join, or for exclusion. -/
def Lane.isParked (x : Lane) : Bool := x.park?.isSome || x.st == .join || x.st == .exclusion

/-- A message about lanes that hold a record: status 2 when one is not parked, 3 when one holds none or a condition fails. -/
def onRecords (ok : Park → Nat → Bool) (f : State → Target → Nat → State) : State → Nat → Ans :=
  onLanes (fun s t m =>
    if t.lanes.any (fun x => !x.isParked) then .no s 2
    else if t.lanes.any (fun x => match x.park? with | some p => !ok p m | none => true) then .no s 3
    else .ok (f s t m))

/-- The named lanes changed. -/
def State.onTarget (s : State) (t : Target) (f : Lane → Lane) : State := s.mapWarp t.g.wid t.k (fun w => w.mapLanes t.ls f)

/-- A parked lane continues at its PC, where it has arrived already: a breakpoint there lets it pass (R327, R342, R351). -/
def Lane.goOn (x : Lane) : Lane := { x with st := .active, wait := none, dbg := { x.dbg with passed := true } }

/-! ### RESUME, REDIRECT, KILL (R347) -/

/-- RESUME (R347). -/
def execResume (s : State) : Host.Outcome State Fault Refusal :=
  message 0x01 anyFrame (onRecords (fun p _ => p.kind != 0) (fun s t _ => s.onTarget t Lane.goOn)) s

/-- A lane that continues elsewhere: it stays in its clause only if that holds the record's PC (R347). -/
def Lane.redirect (x : Lane) (pc : Word) : Lane :=
  let stays := match x.park? with | some p => (x.place p.pc).isSome | none => false
  { x.goOn with pc := pc, clause := if stays then x.clause else none, dbg := { x.dbg with passed := false } }

/-- REDIRECT (R347): answers that the lanes' instructions had from peers are forgotten with them. -/
def execRedirect (s : State) : Host.Outcome State Fault Refusal :=
  message 0x02 anyFrame (onRecords (fun _ m => param m 7 % 8 == 0 && param m 7 < 2 ^ 48) (fun s t m =>
    (s.onTarget t (fun x => x.redirect (BitVec.ofNat 64 (param m 7)))).forget t.g.wid t.k t.ls)) s

/-- KILL (R347). -/
def execKill (s : State) : Host.Outcome State Fault Refusal :=
  message 0x03 anyFrame (onLanes (fun s t _ =>
    if t.lanes.any (fun x => !x.isParked) then .no s 2 else .ok (s.killLanes t.g.wid t.k t.ls).tidy)) s

/-! ### READ and WRITE (R347) -/

/-- A register that READ and WRITE name. -/
inductive RegName where
  | lane (k : Nat)
  | scalar (k : Nat)
  | preds
  | csr (n : Nat)
  deriving DecidableEq, Repr

/-- REG. -/
def RegName.ofNat (r : Nat) : Option RegName :=
  if r < 0x100 then some (.lane r)
  else if r < 0x140 then some (.scalar (r - 0x100))
  else if r == 0x140 then some .preds
  else if 0x1000 ≤ r && csrAssigned (r - 0x1000) then some (.csr (r - 0x1000))
  else none

/-- Whether each lane has the register of its own. -/
def RegName.perLane : RegName → Bool
  | .lane _ | .preds => true
  | .csr n => csrPerLane n
  | .scalar _ => false

/-- Whether a warp has the register. -/
def RegName.within (r : RegName) (w : Warp) : Bool :=
  match r with
  | .lane k => w.lanes.all (fun x => decide (k < x.v.length))
  | .scalar k => decide (k < w.s.length)
  | _ => true

/-- A message about a register: one that lanes hold needs every named lane parked, others need one; status 3 for no register. -/
def onReg (f : State → Target → RegName → Nat → Ans) : State → Nat → Ans :=
  onLanes (fun s t m =>
    match RegName.ofNat (msgReg m) with
    | none => .no s 3
    | some r =>
      let parked := if r.perLane then t.lanes.all Lane.isParked else t.lanes.any Lane.isParked
      if !parked then .no s 2 else if !r.within t.w then .no s 3 else f s t r m)

/-- p0 to p6 as bits [6:0]. -/
def Lane.predBits (x : Lane) : Nat := (x.p.take 7).zipIdx.foldl (fun n p => n + p.1.val.toNat * 2 ^ p.2) 0

/-- READ (R347): the value, with its poison bit in bit 63 of byte 16. -/
def execRead (s : State) : Host.Outcome State Fault Refusal :=
  message 0x04 anyFrame (onReg (fun s t r _ =>
    match t.lanes with
    | [] => .no s 1
    | x :: _ =>
      let ans := fun (v : Nat) (p : Bool) => Ans.now s 0 v (p.toNat * 2 ^ 63)
      match r with
      | .lane k => let y := (x.v[k]?).getD { val := 0 }; ans y.val.toNat y.poison
      | .scalar k => let y := (t.w.s[k]?).getD { val := 0 }; ans y.val.toNat y.poison
      | .preds => ans x.predBits ((x.p.take 7).any (·.poison))
      | .csr n => ans (csrRead s t.ctx t.g t.w x n).toNat false)) s

/-- One lane's or the warp's register written, unpoisoned; a result that was to come for it is discarded (R106, R341). -/
def Warp.driverPut (w : Warp) (l : Nat) (d : Dest) (v : Word) : Warp :=
  (w.override l d).put (some l) d v false

/-- WRITE (R347). -/
def execWrite (s : State) : Host.Outcome State Fault Refusal :=
  message 0x05 anyFrame (onReg (fun s t r m =>
    let v : Word := BitVec.ofNat 64 (param m 7)
    let each := fun (f : Warp → Nat → Warp) => Ans.ok (s.mapWarp t.g.wid t.k (fun w => t.ls.foldl f w))
    match r with
    | .lane k => each (fun w l => w.driverPut l (.lane k) v)
    | .scalar k => .ok (s.mapWarp t.g.wid t.k (fun w => (List.range w.lanes.length).foldl (fun w l =>
        w.driverPut l (.scalar k) v) w))
    | .preds => each (fun w l => (List.range 7).foldl (fun w k => w.driverPut l (.pred k) (BitVec.ofNat 64 (bitsOf v.toNat k 1))) w)
    | .csr n =>
      if csrRefuses n v then .no s 3
      else .ok ((if r.perLane then t.ls else t.ls.take 1).foldl (fun s l => s.csrWrite t.ctx.num t.g.wid t.k l n v) s))) s

/-! ### The debugger (R327, R351) -/

/-- HALT (R351): other lanes that are not parked with a record, and have not exited, stop at their next instruction boundary. -/
def execHalt (s : State) : Host.Outcome State Fault Refusal :=
  message 0x10 anyFrame (onLanes (fun s t _ =>
    let named := t.ls.filterMap (fun l => (t.w.lanes[l]?).map (fun x => (l, x)))
    let now := if t.w.sleep.isSome then [] else named.filter (fun x => x.2.haltsNow)
    let later := named.filter (fun x => x.2.live && x.2.park?.isNone && !now.any (fun y => y.1 == x.1))
    let s := s.mapWarp t.g.wid t.k (fun w => w.mapLanes (later.map (·.1)) (fun x => { x with dbg := { x.dbg with halt := some 1 } }))
    .ok (s.debugPark t.g.wid t.k (now.map (fun x => (x.1, x.2.pc, 1)))))) s

/-- A lane made to execute one instruction: one that is parked with a record continues for it. -/
def Lane.beginStep (x : Lane) : Lane :=
  let y := if x.park?.isSome then x.goOn else x
  { y with dbg := { y.dbg with step := true, halt := none } }

/-- STEP (R327, R347): status 2 when a lane has exited, 3 when one is parked without a record or with KIND 0. A lane that is not parked
steps too (R327, case 1). -/
def execStep (s : State) : Host.Outcome State Fault Refusal :=
  message 0x11 anyFrame (onLanes (fun s t _ =>
    if t.lanes.any (fun x => !x.live) then .no s 2
    else if t.lanes.any (fun x => x.st == .join || x.st == .exclusion || x.park?.any (fun p => p.kind == 0)) then .no s 3
    else .ok (s.onTarget t Lane.beginStep))) s

/-- RESUME-DBG (R347): as RESUME on KIND 2 parks. -/
def execResumeDbg (s : State) : Host.Outcome State Fault Refusal :=
  message 0x12 anyFrame (onRecords (fun p _ => p.kind == 2) (fun s t _ => s.onTarget t Lane.goOn)) s

/-- TRACE (R327). -/
def execTrace (s : State) : Host.Outcome State Fault Refusal :=
  message 0x13 anyFrame (onLanes (fun s t m =>
    .ok (s.onTarget t (fun x => { x with dbg := { x.dbg with trace := (param m 7).testBit 0 } })))) s

/-- BREAK (R327, R347): VALUE 0 clears the slot. -/
def execBreakpoint (s : State) : Host.Outcome State Fault Refusal :=
  message 0x14 anyFrame (fun s m =>
    let slot := msgReg m % 8
    let put := fun (s : State) (new : List Breakpoint) =>
      s.mapCtx (msgCtx m) (fun c => { c with breaks := c.breaks.filter (fun b => b.slot != slot) ++ new })
    if param m 7 == 0 then onCtx (fun s _ _ => .ok (put s [])) s m
    else onLanes (fun s t m => .ok (put s [{ slot := slot, core := t.g.core, warp := t.w.slot, lanes := BitVec.ofNat 64 (param m 6),
                                             pc := BitVec.ofNat 64 (param m 7) }])) s m) s

/-! ### Memory (R354, R355) -/

/-- CORE, WARP, LANES and REG are 0. -/
def noLaneFields (m : Nat) : Bool := msgCore m == 0 && msgWarp m == 0 && param m 6 == 0 && msgReg m == 0

/-- The context in which a request to a peer was made: its lane's, its operation's, or the one that an agent of the device names. -/
def State.remoteCtx (s : State) (r : Remote) : Option Nat :=
  if r.warp < 1000 then (s.wg? r.wid).map (fun g => g.pkt.ctx)
  else if 3000 ≤ r.warp then some r.wid
  else (s.op? r.wid).map (fun o => o.ctx)

/-- The cached translations of pages of a context, from page `first` on, are dropped on both dies: leaves of any size that meet the
range, and the entries above them. -/
def MemState.dropXl (m : MemState) (ctx first pages : Nat) : MemState :=
  let hits := fun (tag sh : Nat) => decide (tag * 2 ^ sh < first + pages) && decide (first < (tag + 1) * 2 ^ sh)
  let meets := fun (e : NextEntry) => hits e.tag ((walkShifts[e.level - 1]?).getD 12 - 12)
  { m with tlb := m.tlb.filter (fun t => t.ctx != ctx || !hits t.page (t.leaf.size - 12)),
           above := m.above.filter (fun e => e.ctx != ctx || !meets e) }

/-- Whether an access of a context to pages from `first` on that began before an INVAL, the message `tag` being the next then and the
time `t`, is in flight: a request to a peer without its answer, or a store or an update of a signal at a peer that waits or has not been
acknowledged (R355). What waits to leave does not tell which pages it came through, so any of the context counts. -/
def State.xlInFlight (s : State) (ctx first pages tag t : Nat) : Bool :=
  s.fab.remote.any (fun r => r.answer.isNone && r.tag < tag && s.remoteCtx r == some ctx &&
    (r.warp == 3999 || decide (first ≤ r.addr.toNat / 4096) && decide (r.addr.toNat / 4096 < first + pages))) ||
  s.fab.atoms.any (fun a => a.ctx == ctx && decide (a.since ≤ t)) ||
  s.fab.wc.any (fun e => e.ctxs.elem ctx && e.since ≤ t && e.tag.all (fun x => x < tag))

/-- INVAL (R355): the reply comes when no access that uses a dropped entry is in flight. -/
def execInval (s : State) : Host.Outcome State Fault Refusal :=
  message 0x20 noLaneFields (onCtx (fun s c m =>
    let v := param m 7
    if bitsOf v 2 10 != 0 || v % 4 == 3 then .no s 3
    else
      let pages := 512 ^ (v % 4)
      let first := v / 4096 / pages * pages
      let begun := s.host.inval.isSome
      let since := s.host.inval.getD (s.fab.nextTag, s.now)
      let s := if begun then s
        else ((State.serveStalled { s with mem := s.mem.dropXl c.num first pages }).goOnAll).drainWc (fun e => e.ctxs.elem c.num)
      if s.xlInFlight c.num first pages (if begun then since.1 else s.fab.nextTag) since.2 then
        .later { s with host := { s.host with inval := some (if begun then since else (s.fab.nextTag, since.2)) } }
      else .ok { s with host := { s.host with inval := none } })) s

/-- SETHWM (R355). -/
def execSethwm (s : State) : Host.Outcome State Fault Refusal :=
  message 0x21 noLaneFields (onCtx (fun s c m =>
    let v := param m 7
    if v % 4096 != 0 || v < c.privhwm.toNat || 2 ^ 20 < v then .no s 3
    else .ok (s.mapCtx c.num (fun c => { c with privhwm := BitVec.ofNat 32 v })))) s

/-- Whether RESUMEPAGE resumes a lane. -/
def Lane.onPage (x : Lane) (page : Nat) : Bool :=
  match x.park? with
  | some p => p.kind == 1 && (p.cause == .xlateMiss || p.cause == .privateGrowth || p.cause == .remoteFault) && p.addr.toNat / 4096 == page
  | none => false

/-- RESUMEPAGE (R355): lanes of saved warps continue when they are placed again. -/
def execResumepage (s : State) : Host.Outcome State Fault Refusal :=
  message 0x22 noLaneFields (onCtx (fun s c m =>
    .ok { s with wgs := s.wgs.map (fun g =>
      if g.pkt.ctx == c.num then
        { g with warps := g.warps.map (fun w => { w with lanes := w.lanes.map (fun x =>
            if x.onPage (param m 7 / 4096) then x.goOn else x) }) }
      else g) })) s

/-! ### Operations, launches, contexts (R366, R372, R375) -/

/-- LANES and REG are 0. -/
def noLaneMask (m : Nat) : Bool := param m 6 == 0 && msgReg m == 0

/-- The held operation that a message names. -/
def State.heldOp (s : State) (ctx core num : Nat) : Option Op :=
  s.ops.find? (fun o => o.ctx == ctx && o.core == core && o.running && !o.held.isEmpty && o.rnum.getD o.pkt.num == num)

/-- A message about a held operation: status 2 when it is held no longer. -/
def onHeld (f : State → Op → State) (s : State) (m : Nat) : Ans :=
  if (s.ctx? (msgCtx m)).isNone || Config.cores ≤ msgCore m then .no s 1
  else
    match s.heldOp (msgCtx m) (msgCore m) (param m 7) with
    | none => .no s 2
    | some o => .ok (f s o)

/-- ENGRESUME (R366). -/
def execEngresume (s : State) : Host.Outcome State Fault Refusal :=
  message 0x30 noLaneMask (onHeld (fun s o => s.mapOp o.id (fun o => { o with held := [] }))) s

/-- An operation ends at its lowest held address. One that only its record's page holds ends without the record. -/
def State.endHeld (s : State) (o : Op) : State :=
  let low := o.held.foldl (fun a x => if x.toNat < a.toNat then x else a) (o.held.headD 0)
  if o.over then ((s.mapOp o.id (fun o => { o with st := .ended })).evAdd o.ctx o.event 1).tidy
  else ((s.mapOp o.id (fun o => { o with held := [] })).unitFail o .fault Cause.xlateMiss.code low).tidy

/-- ENGEND (R366). -/
def execEngend (s : State) : Host.Outcome State Fault Refusal := message 0x31 noLaneMask (onHeld State.endHeld) s

/-- An item that has no lane yet ends as by KILL: an implicit skip, and its place in line given up. -/
def State.endUnplaced (s : State) (ctx : Nat) (it : Item) : State :=
  let s := if ordered it.cls then s.release ctx it.label it.seq it.dispatch .skip else s
  if atomicClass it.cls then s.giveExcl ctx it.label it.seq it.dispatch else s

/-- The lanes and operations of a launch end; workgroups that are saved or not yet placed go at once (R56, R366). -/
def State.endLaunch (s : State) (c : Context) (p : Pkt) (l : Launch) : State :=
  let mine := s.wgs.filter (fun g => g.pkt == p.key)
  let ids := (s.ops.filter (fun o => mine.any (fun g => g.wid == o.wid))).map (·.id)
  let s := (ids.foldl State.cancelOp s).mapOps (fun o => if o.st == .kept && mine.any (fun g => g.wid == o.wid) then { o with st := .done } else o)
  let s := s.mapLaunch p.key (fun l => { l with closed := true, filling := [], parkedItems := [] })
  let s := (l.filling ++ l.parkedItems).foldl (fun s it => s.endUnplaced c.num it) s
  let s := mine.foldl (fun s g => (List.range g.warps.length).foldl (fun s k =>
    s.killLanes g.wid k (List.range (((g.warps[k]?).map (fun w => w.lanes.length)).getD 0))) s) s
  let away := mine.filter (fun g => g.st != .resident)
  let stale := fun (x : Waiting) => away.any (fun g => g.st == .saved && g.allocId == x.beat.alloc)
  let s := s.dropBeats stale .stale
  let s := { s with wgs := s.wgs.filter (fun g => !away.any (fun h => h.wid == g.wid)) }
  (s.abortPkt c p 4 0).tidy

/-- ENDLAUNCH (R366). -/
def execEndlaunch (s : State) : Host.Outcome State Fault Refusal :=
  message 0x32 noLaneMask (onCtx (fun s c m =>
    match s.pkt? { ctx := c.num, q := param m 7 % 65536, num := param m 7 / 65536 } with
    | none => .no s 2
    | some p => match p.launch? with
      | none => .no s 2
      | some l => .ok (s.endLaunch c p l))) s

/-- CTXSAVE (R372). -/
def execCtxsave (s : State) : Host.Outcome State Fault Refusal :=
  message 0x33 noLaneMask (onCtx (fun s c _ => .ok (s.saveContext c.num))) s

/-- CTXRESTORE (R375): the context's queues are looked at again, and its workgroups are placed under R283. -/
def execCtxrestore (s : State) : Host.Outcome State Fault Refusal :=
  message 0x34 noLaneMask (onCtx (fun s c _ =>
    if !c.saved then .no s 3
    else
      let d := { c with saved := false }
      .ok ((s.queues.filter (fun q => q.ctx == c.num)).foldl (fun s q => s.examine d q.q) (s.mapCtx c.num (fun _ => d))))) s

/-! ### Channels and the store log (R379, R381, R384) -/

/-- A message about a channel: status 3 when there is none. -/
def onChannel (f : State → Channel → State) (s : State) (m : Nat) : Ans :=
  match s.chan? (bitsOf (param m 7) 8 4) (bitsOf (param m 7) 0 6) with
  | none => .no s 3
  | some c => .ok (f s c)

/-- CHRETIRE (R384). -/
def execChretire (s : State) : Host.Outcome State Fault Refusal :=
  message 0x40 noLaneFields (onChannel (fun s c =>
    let s := s.withChans (onChan c.peer c.plane (fun c =>
      { c with retired := true, sendRet := true, up := false, sendUp := false }))
    if 3 ≤ c.ver then s.emit (.health c.peer c.plane c.health true) else s)) s

/-- CHRESTORE (R384): link-up brings the channel up; in P2, once the optics are lit again (R330). -/
def execChrestore (s : State) : Host.Outcome State Fault Refusal :=
  message 0x41 noLaneFields (onChannel (fun s c =>
    (s.withChans (onChan c.peer c.plane (fun c => { c with retired := false, sendRet := false, health := 1023 }))).frameTo c.peer
      c.plane)) s

/-- A message about a page in repair: status 3 when it is not. CTX 0xFFFF names the lines that were logged for senders without an export
context, as their entries do (R380, R381). -/
def onRepair (f : State → Repair → Ans) (s : State) (m : Nat) : Ans :=
  if msgCtx m != 0xFFFF && (s.ctx? (msgCtx m)).isNone then .no s 1
  else
    match s.fab.repair.find? (fun r => r.ctx == msgCtx m && r.page == param m 7 / 4096) with
    | none => .no s 3
    | some r => f s r

/-- SLREPLAY (R381): while the page does not take the entries, the reply is status 3 and they stay. -/
def execSlreplay (s : State) : Host.Outcome State Fault Refusal :=
  message 0x42 noLaneFields (onRepair (fun s r =>
    match s.replayPage r with
    | some t => .ok t
    | none => .no s 3)) s

/-- SLDISCARD (R384). -/
def execSldiscard (s : State) : Host.Outcome State Fault Refusal :=
  message 0x43 noLaneFields (onRepair (fun s r => .ok (s.endRepair r.ctx r.page).serveStalled)) s

/-! ### Pod changes (R383, R384, R390, R391) -/

/-- PODHOLD (R383): the reply comes when what was sent to held peers has been acknowledged. -/
def execPodhold (s : State) : Host.Outcome State Fault Refusal :=
  message 0x44 noLaneFields (fun s m =>
    let s := if s.fab.holding then s else s.hold (BitVec.ofNat 16 (param m 7))
    if s.holdBusy then .later { s with fab := { s.fab with holding := true } }
    else .ok { s with fab := { s.fab with holding := false } }) s

/-- PODSET (R383, R391): the reply comes when every kept peer has relocked or the dark limit has passed. -/
def execPodset (s : State) : Host.Outcome State Fault Refusal :=
  message 0x45 noLaneFields (fun s m =>
    let limit := bitsOf (param m 7) 32 16
    if s.fab.podWait.isNone && s.fab.held == 0 then .no s 3
    else
      let s := if s.fab.podWait.isSome then s else s.podSet (BitVec.ofNat 16 (param m 7)) (if limit == 0 then 100 else limit)
      match s.fab.podWait with
      | none => .no s 3
      | some w =>
        if s.fab.held == 0 then .now { s with fab := { s.fab with podWait := none } } 0 w.done.toNat 0 else .later s) s

/-! ### FLOWSTATE (R389) -/

/-- The reply about a label. -/
def Flow.report (f : Flow) : Nat :=
  let due := f.items.find? (fun i => i.rel == .none)
  let held := (f.items.filter (fun i => match i.rel with | .record .. => true | _ => false)).length
  let x := f.excl.find? (fun e => e.holds)
  packFields [(256, 64, (due.map (·.dispatch)).getD (2 ^ 64 - 1)), (224, 32, f.next.toNat), (192, 32, (due.map (·.seq.toNat)).getD f.next.toNat),
    (160, 32, held), (128, 32, (x.map (·.seq.toNat)).getD 0xFFFFFFFF), (64, 8, f.hold)]

/-- FLOWSTATE (R389). -/
def execFlowstate (s : State) : Host.Outcome State Fault Refusal :=
  message 0x50 noLaneFields (onCtx (fun s c m =>
    let label := BitVec.ofNat 32 (param m 7)
    .whole s ((s.flow? c.num label).getD (Flow.fresh c.num label)).report)) s

end Sys2Proof.Machine
end

