-- ==== Sys2Proof/Machine/Dispatch.lean ====
section
/-!
DEFINITION. The dispatcher: one arm for each constructor of Instr, each one call of its meaning.
-/
namespace Sys2Proof.Machine

def exec (i : Instr) (s : State) : Host.Outcome State Fault Refusal :=
  match i with
  | .clauseHeader w => Sys2Proof.Machine.execClauseHeader w s
  | .nop w => Sys2Proof.Machine.execNop w s
  | .iadd w => Sys2Proof.Machine.execIadd w s
  | .isub w => Sys2Proof.Machine.execIsub w s
  | .imul w => Sys2Proof.Machine.execImul w s
  | .imulh w => Sys2Proof.Machine.execImulh w s
  | .imad w => Sys2Proof.Machine.execImad w s
  | .imin w => Sys2Proof.Machine.execImin w s
  | .imax w => Sys2Proof.Machine.execImax w s
  | .iabs w => Sys2Proof.Machine.execIabs w s
  | .ineg w => Sys2Proof.Machine.execIneg w s
  | .idiff w => Sys2Proof.Machine.execIdiff w s
  | .icmp w => Sys2Proof.Machine.execIcmp w s
  | .sel w => Sys2Proof.Machine.execSel w s
  | .icvt w => Sys2Proof.Machine.execIcvt w s
  | .idiv w => Sys2Proof.Machine.execIdiv w s
  | .irem w => Sys2Proof.Machine.execIrem w s
  | .iaddImm w => Sys2Proof.Machine.execIaddImm w s
  | .imulImm w => Sys2Proof.Machine.execImulImm w s
  | .iminImm w => Sys2Proof.Machine.execIminImm w s
  | .imaxImm w => Sys2Proof.Machine.execImaxImm w s
  | .icmpImm w => Sys2Proof.Machine.execIcmpImm w s
  | .andImm w => Sys2Proof.Machine.execAndImm w s
  | .orImm w => Sys2Proof.Machine.execOrImm w s
  | .xorImm w => Sys2Proof.Machine.execXorImm w s
  | .shlImm w => Sys2Proof.Machine.execShlImm w s
  | .shrImm w => Sys2Proof.Machine.execShrImm w s
  | .sarImm w => Sys2Proof.Machine.execSarImm w s
  | .movi w => Sys2Proof.Machine.execMovi w s
  | .and w => Sys2Proof.Machine.execAnd w s
  | .or w => Sys2Proof.Machine.execOr w s
  | .xor w => Sys2Proof.Machine.execXor w s
  | .andn w => Sys2Proof.Machine.execAndn w s
  | .orn w => Sys2Proof.Machine.execOrn w s
  | .not w => Sys2Proof.Machine.execNot w s
  | .lop3 w => Sys2Proof.Machine.execLop3 w s
  | .shl w => Sys2Proof.Machine.execShl w s
  | .shr w => Sys2Proof.Machine.execShr w s
  | .sar w => Sys2Proof.Machine.execSar w s
  | .rol w => Sys2Proof.Machine.execRol w s
  | .ror w => Sys2Proof.Machine.execRor w s
  | .fshl w => Sys2Proof.Machine.execFshl w s
  | .fshr w => Sys2Proof.Machine.execFshr w s
  | .popc w => Sys2Proof.Machine.execPopc w s
  | .clz w => Sys2Proof.Machine.execClz w s
  | .ctz w => Sys2Proof.Machine.execCtz w s
  | .fns w => Sys2Proof.Machine.execFns w s
  | .brev w => Sys2Proof.Machine.execBrev w s
  | .bfx w => Sys2Proof.Machine.execBfx w s
  | .bfxs w => Sys2Proof.Machine.execBfxs w s
  | .bfi w => Sys2Proof.Machine.execBfi w s
  | .pdep w => Sys2Proof.Machine.execPdep w s
  | .pext w => Sys2Proof.Machine.execPext w s
  | .bperm w => Sys2Proof.Machine.execBperm w s
  | .gf2mm w => Sys2Proof.Machine.execGf2mm w s
  | .prmb w => Sys2Proof.Machine.execPrmb w s
  | .mix64 w => Sys2Proof.Machine.execMix64 w s
  | .mov w => Sys2Proof.Machine.execMov w s
  | .rdlane w => Sys2Proof.Machine.execRdlane w s
  | .wrlane w => Sys2Proof.Machine.execWrlane w s
  | .pand w => Sys2Proof.Machine.execPand w s
  | .por w => Sys2Proof.Machine.execPor w s
  | .pxor w => Sys2Proof.Machine.execPxor w s
  | .pnot w => Sys2Proof.Machine.execPnot w s
  | .pmov w => Sys2Proof.Machine.execPmov w s
  | .fadd w => Sys2Proof.Machine.execFadd w s
  | .fsub w => Sys2Proof.Machine.execFsub w s
  | .fmul w => Sys2Proof.Machine.execFmul w s
  | .ffma w => Sys2Proof.Machine.execFfma w s
  | .fmin w => Sys2Proof.Machine.execFmin w s
  | .fmax w => Sys2Proof.Machine.execFmax w s
  | .fcmp w => Sys2Proof.Machine.execFcmp w s
  | .fclass w => Sys2Proof.Machine.execFclass w s
  | .fcvt w => Sys2Proof.Machine.execFcvt w s
  | .frnd w => Sys2Proof.Machine.execFrnd w s
  | .ftoi w => Sys2Proof.Machine.execFtoi w s
  | .itof w => Sys2Proof.Machine.execItof w s
  | .fscl w => Sys2Proof.Machine.execFscl w s
  | .fdiv w => Sys2Proof.Machine.execFdiv w s
  | .fsqrt w => Sys2Proof.Machine.execFsqrt w s
  | .frcp w => Sys2Proof.Machine.execFrcp w s
  | .frsq w => Sys2Proof.Machine.execFrsq w s
  | .fex2 w => Sys2Proof.Machine.execFex2 w s
  | .flg2 w => Sys2Proof.Machine.execFlg2 w s
  | .fsin w => Sys2Proof.Machine.execFsin w s
  | .fcos w => Sys2Proof.Machine.execFcos w s
  | .ftanh w => Sys2Proof.Machine.execFtanh w s
  | .xadd w => Sys2Proof.Machine.execXadd w s
  | .xsub w => Sys2Proof.Machine.execXsub w s
  | .xmul w => Sys2Proof.Machine.execXmul w s
  | .xfma w => Sys2Proof.Machine.execXfma w s
  | .xdiv w => Sys2Proof.Machine.execXdiv w s
  | .xquant w => Sys2Proof.Machine.execXquant w s
  | .xcmp w => Sys2Proof.Machine.execXcmp w s
  | .xcvt w => Sys2Proof.Machine.execXcvt w s
  | .xrnd w => Sys2Proof.Machine.execXrnd w s
  | .xscaleb w => Sys2Proof.Machine.execXscaleb w s
  | .shfl w => Sys2Proof.Machine.execShfl w s
  | .pushl w => Sys2Proof.Machine.execPushl w s
  | .vote w => Sys2Proof.Machine.execVote w s
  | .red w => Sys2Proof.Machine.execRed w s
  | .scan w => Sys2Proof.Machine.execScan w s
  | .matchLanes w => Sys2Proof.Machine.execMatchLanes w s
  | .br w => Sys2Proof.Machine.execBr w s
  | .bru w => Sys2Proof.Machine.execBru w s
  | .call w => Sys2Proof.Machine.execCall w s
  | .jmpi w => Sys2Proof.Machine.execJmpi w s
  | .calli w => Sys2Proof.Machine.execCalli w s
  | .ret w => Sys2Proof.Machine.execRet w s
  | .tcall w => Sys2Proof.Machine.execTcall w s
  | .tret w => Sys2Proof.Machine.execTret w s
  | .exit w => Sys2Proof.Machine.execExit w s
  | .bar w => Sys2Proof.Machine.execBar w s
  | .barArrive w => Sys2Proof.Machine.execBarArrive w s
  | .tbar w => Sys2Proof.Machine.execTbar w s
  | .yield w => Sys2Proof.Machine.execYield w s
  | .sleep w => Sys2Proof.Machine.execSleep w s
  | .relabel w => Sys2Proof.Machine.execRelabel w s
  | .ordrel w => Sys2Proof.Machine.execOrdrel w s
  | .ordskip w => Sys2Proof.Machine.execOrdskip w s
  | .hold w => Sys2Proof.Machine.execHold w s
  | .flowkill w => Sys2Proof.Machine.execFlowkill w s
  | .enq w => Sys2Proof.Machine.execEnq w s
  | .ld w => Sys2Proof.Machine.execLd w s
  | .st w => Sys2Proof.Machine.execSt w s
  | .ldc w => Sys2Proof.Machine.execLdc w s
  | .pref w => Sys2Proof.Machine.execPref w s
  | .cctlInv1 w => Sys2Proof.Machine.execCctlInv1 w s
  | .cctlInv1all w => Sys2Proof.Machine.execCctlInv1all w s
  | .cctlClean2 w => Sys2Proof.Machine.execCctlClean2 w s
  | .cctlFlush2 w => Sys2Proof.Machine.execCctlFlush2 w s
  | .twait w => Sys2Proof.Machine.execTwait w s
  | .tset w => Sys2Proof.Machine.execTset w s
  | .tclr w => Sys2Proof.Machine.execTclr w s
  | .ttest w => Sys2Proof.Machine.execTtest w s
  | .atom w => Sys2Proof.Machine.execAtom w s
  | .cas w => Sys2Proof.Machine.execCas w s
  | .fence w => Sys2Proof.Machine.execFence w s
  | .copyLocal w => Sys2Proof.Machine.execCopyLocal w s
  | .copyRemote w => Sys2Proof.Machine.execCopyRemote w s
  | .copyMulticast w => Sys2Proof.Machine.execCopyMulticast w s
  | .copyDrain w => Sys2Proof.Machine.execCopyDrain w s
  | .tcopy w => Sys2Proof.Machine.execTcopy w s
  | .wnst w => Sys2Proof.Machine.execWnst w s
  | .ringwait w => Sys2Proof.Machine.execRingwait w s
  | .mloop w => Sys2Proof.Machine.execMloop w s
  | .mchainB w => Sys2Proof.Machine.execMchainB w s
  | .mchainE w => Sys2Proof.Machine.execMchainE w s
  | .mzero w => Sys2Proof.Machine.execMzero w s
  | .acrd w => Sys2Proof.Machine.execAcrd w s
  | .acwr w => Sys2Proof.Machine.execAcwr w s
  | .acst w => Sys2Proof.Machine.execAcst w s
  | .acld w => Sys2Proof.Machine.execAcld w s
  | .wait w => Sys2Proof.Machine.execWait w s
  | .htest w => Sys2Proof.Machine.execHtest w s
  | .hcancel w => Sys2Proof.Machine.execHcancel w s
  | .hmovExport w => Sys2Proof.Machine.execHmovExport w s
  | .hmovImport w => Sys2Proof.Machine.execHmovImport w s
  | .ownpass w => Sys2Proof.Machine.execOwnpass w s
  | .owntake w => Sys2Proof.Machine.execOwntake w s
  | .evwait w => Sys2Proof.Machine.execEvwait w s
  | .evsig w => Sys2Proof.Machine.execEvsig w s
  | .sigadd w => Sys2Proof.Machine.execSigadd w s
  | .sigwait w => Sys2Proof.Machine.execSigwait w s
  | .time w => Sys2Proof.Machine.execTime w s
  | .trap w => Sys2Proof.Machine.execTrap w s
  | .bkpt w => Sys2Proof.Machine.execBkpt w s
  | .rtt w => Sys2Proof.Machine.execRtt w s
  | .csrr w => Sys2Proof.Machine.execCsrr w s
  | .csrw w => Sys2Proof.Machine.execCsrw w s
  | .launch ctx q => Sys2Proof.Machine.execLaunch ctx q s
  | .flowlaunch ctx q => Sys2Proof.Machine.execFlowlaunch ctx q s
  | .barrierAnd ctx q => Sys2Proof.Machine.execBarrierAnd ctx q s
  | .barrierOr ctx q => Sys2Proof.Machine.execBarrierOr ctx q s
  | .copyPacket ctx q => Sys2Proof.Machine.execCopyPacket ctx q s
  | .tickcfg ctx q => Sys2Proof.Machine.execTickcfg ctx q s
  | .tickcfgStop ctx q => Sys2Proof.Machine.execTickcfgStop ctx q s
  | .packetStart ctx q n => Sys2Proof.Machine.execPacketStart ctx q n s
  | .packetComplete ctx q n => Sys2Proof.Machine.execPacketComplete ctx q n s
  | .barrierEvaluate ctx q n => Sys2Proof.Machine.execBarrierEvaluate ctx q n s
  | .queueExamine ctx q => Sys2Proof.Machine.execQueueExamine ctx q s
  | .queueSlotMap ctx q => Sys2Proof.Machine.execQueueSlotMap ctx q s
  | .timeSliceEnd slot => Sys2Proof.Machine.execTimeSliceEnd slot s
  | .placeWorkgroup wid => Sys2Proof.Machine.execPlaceWorkgroup wid s
  | .preempt wid => Sys2Proof.Machine.execPreempt wid s
  | .flowEntryTake ctx q n => Sys2Proof.Machine.execFlowEntryTake ctx q n s
  | .packingDelayExpiry ctx q n => Sys2Proof.Machine.execPackingDelayExpiry ctx q n s
  | .sleepExpiry core slot => Sys2Proof.Machine.execSleepExpiry core slot s
  | .signalPoll core slot => Sys2Proof.Machine.execSignalPoll core slot s
  | .eventPoll core slot => Sys2Proof.Machine.execEventPoll core slot s
  | .engineQueueStart op => Sys2Proof.Machine.execEngineQueueStart op s
  | .engineOperationComplete op => Sys2Proof.Machine.execEngineOperationComplete op s
  | .arrivalAdmit a => Sys2Proof.Machine.execArrivalAdmit a s
  | .remoteArrivalBeat b => Sys2Proof.Machine.execRemoteArrivalBeat b s
  | .tagWaitTimeout w => Sys2Proof.Machine.execTagWaitTimeout w s
  | .kstep op j => Sys2Proof.Machine.execKstep op j s
  | .matrixCommandPerform core => Sys2Proof.Machine.execMatrixCommandPerform core s
  | .winnowShortlist op => Sys2Proof.Machine.execWinnowShortlist op s
  | .remoteRequest r => Sys2Proof.Machine.execRemoteRequest r s
  | .remoteStoreLine l => Sys2Proof.Machine.execRemoteStoreLine l s
  | .remoteResponse r => Sys2Proof.Machine.execRemoteResponse r s
  | .wcAgeing core line => Sys2Proof.Machine.execWcAgeing core line s
  | .flitReceive f => Sys2Proof.Machine.execFlitReceive f s
  | .replayRequest peer plane seq => Sys2Proof.Machine.execReplayRequest peer plane seq s
  | .channelSilence peer plane => Sys2Proof.Machine.execChannelSilence peer plane s
  | .healthWindow peer plane => Sys2Proof.Machine.execHealthWindow peer plane s
  | .healthReport r => Sys2Proof.Machine.execHealthReport r s
  | .linkUp l => Sys2Proof.Machine.execLinkUp l s
  | .ingestFrame port payload => Sys2Proof.Machine.execIngestFrame port payload s
  | .tickDue ctx stream => Sys2Proof.Machine.execTickDue ctx stream s
  | .tickGraceExpiry ctx stream => Sys2Proof.Machine.execTickGraceExpiry ctx stream s
  | .ptpSync y => Sys2Proof.Machine.execPtpSync y s
  | .samplerSample core => Sys2Proof.Machine.execSamplerSample core s
  | .ringConsumedPoll r => Sys2Proof.Machine.execRingConsumedPoll r s
  | .uncorrectableError e => Sys2Proof.Machine.execUncorrectableError e s
  | .powerMeasure m => Sys2Proof.Machine.execPowerMeasure m s
  | .thermalTrip die milli => Sys2Proof.Machine.execThermalTrip die milli s
  | .powerOn rail => Sys2Proof.Machine.execPowerOn rail s
  | .imageFetchComplete r => Sys2Proof.Machine.execImageFetchComplete r s
  | .configRequest r => Sys2Proof.Machine.execConfigRequest r s
  | .hostBar2Access r => Sys2Proof.Machine.execHostBar2Access r s
  | .doorbell value => Sys2Proof.Machine.execDoorbell value s
  | .registerWrite offset data => Sys2Proof.Machine.execRegisterWrite offset data s
  | .longLatencyResult core slot id => Sys2Proof.Machine.execLongLatencyResult core slot id s
  | .copyUnit op unit => Sys2Proof.Machine.execCopyUnit op unit s
  | .junctionTemperature r => Sys2Proof.Machine.execJunctionTemperature r s
  | .unassignedEncoding word => Sys2Proof.Machine.execUnassignedEncoding word s
  | .unassignedPacketType ctx q => Sys2Proof.Machine.execUnassignedPacketType ctx q s
  | .darkLimitExpiry => Sys2Proof.Machine.execDarkLimitExpiry s
  | .tbHoldover => Sys2Proof.Machine.execTbHoldover s
  | .gleanerSweep => Sys2Proof.Machine.execGleanerSweep s
  | .glctlOnce => Sys2Proof.Machine.execGlctlOnce s
  | .coolantFlowLow => Sys2Proof.Machine.execCoolantFlowLow s
  | .idleEntry => Sys2Proof.Machine.execIdleEntry s
  | .resetRelease => Sys2Proof.Machine.execResetRelease s
  | .bootSourceRetry => Sys2Proof.Machine.execBootSourceRetry s
  | .telemetrySend => Sys2Proof.Machine.execTelemetrySend s
  | .coreClockCycle => Sys2Proof.Machine.execCoreClockCycle s
  | .attach => Sys2Proof.Machine.execAttach s
  | .detach => Sys2Proof.Machine.execDetach s
  | .ctxcreate => Sys2Proof.Machine.execCtxcreate s
  | .ctxdestroy => Sys2Proof.Machine.execCtxdestroy s
  | .faultring => Sys2Proof.Machine.execFaultring s
  | .servring => Sys2Proof.Machine.execServring s
  | .storelog => Sys2Proof.Machine.execStorelog s
  | .savepool => Sys2Proof.Machine.execSavepool s
  | .podform => Sys2Proof.Machine.execPodform s
  | .exportCtx => Sys2Proof.Machine.execExportCtx s
  | .bar2base => Sys2Proof.Machine.execBar2base s
  | .hostatomic => Sys2Proof.Machine.execHostatomic s
  | .fabparam => Sys2Proof.Machine.execFabparam s
  | .streamparam => Sys2Proof.Machine.execStreamparam s
  | .powercap => Sys2Proof.Machine.execPowercap s
  | .powerstate => Sys2Proof.Machine.execPowerstate s
  | .telemetry => Sys2Proof.Machine.execTelemetry s
  | .rollback => Sys2Proof.Machine.execRollback s
  | .journalclr => Sys2Proof.Machine.execJournalclr s
  | .imgpiece => Sys2Proof.Machine.execImgpiece s
  | .imgdone => Sys2Proof.Machine.execImgdone s
  | .ctxcsr => Sys2Proof.Machine.execCtxcsr s
  | .devcsr => Sys2Proof.Machine.execDevcsr s
  | .resume => Sys2Proof.Machine.execResume s
  | .redirect => Sys2Proof.Machine.execRedirect s
  | .kill => Sys2Proof.Machine.execKill s
  | .read => Sys2Proof.Machine.execRead s
  | .write => Sys2Proof.Machine.execWrite s
  | .halt => Sys2Proof.Machine.execHalt s
  | .step => Sys2Proof.Machine.execStep s
  | .resumeDbg => Sys2Proof.Machine.execResumeDbg s
  | .trace => Sys2Proof.Machine.execTrace s
  | .breakpoint => Sys2Proof.Machine.execBreakpoint s
  | .inval => Sys2Proof.Machine.execInval s
  | .sethwm => Sys2Proof.Machine.execSethwm s
  | .resumepage => Sys2Proof.Machine.execResumepage s
  | .engresume => Sys2Proof.Machine.execEngresume s
  | .engend => Sys2Proof.Machine.execEngend s
  | .endlaunch => Sys2Proof.Machine.execEndlaunch s
  | .ctxsave => Sys2Proof.Machine.execCtxsave s
  | .ctxrestore => Sys2Proof.Machine.execCtxrestore s
  | .chretire => Sys2Proof.Machine.execChretire s
  | .chrestore => Sys2Proof.Machine.execChrestore s
  | .slreplay => Sys2Proof.Machine.execSlreplay s
  | .sldiscard => Sys2Proof.Machine.execSldiscard s
  | .podhold => Sys2Proof.Machine.execPodhold s
  | .podset => Sys2Proof.Machine.execPodset s
  | .flowstate => Sys2Proof.Machine.execFlowstate s
  | .unassignedMessageOp => Sys2Proof.Machine.execUnassignedMessageOp s

end Sys2Proof.Machine
end

