-- ==== Sys2Proof/Machine/Step.lean ====
section
/-!
DEFINITION. One step of the machine: the next move is made, and an instruction's step ends with what follows its execution.
-/
namespace Sys2Proof.Machine

/-- What follows an instruction. -/
def runReady (r : Ready) : Host.Outcome State Fault Refusal :=
  match r with
  | .done s => finish s
  | .run i s =>
    match s.issue, s.cx? with
    | some is, some cx =>
      match exec i s with
      | .next t => finish (t.afterIssue is cx.g cx.w)
      | r => r
    | _, _ => exec i s

/-- A move is made. -/
def runMove (m : Input) (s : State) : Host.Outcome State Fault Refusal :=
  match m with
  | .ev i => exec i s
  | .issue core slot => runReady (s.ready? core slot)
  | .hostMem a bs => finish (s.hostWrite a bs)
  | .portMsg chain m => finish (s.portMessage chain m)
  | .hostRead off n => finish (if s.answersBar 0 then s.emit (.hostRead (s.bar0Read off n)) else s)
  | .condition p => finish { s with boot := { s.boot with part := p } }
  | .flash c j => finish { s with boot := { s.boot with config := c, journal := j } }
  | .restart cold => finish (s.restart cold)

/-- One step. -/
def step (s : State) : Host.Outcome State Fault Refusal := runMove s.pop.1 s.pop.2

/-- A state whose next step fetches and runs the instruction with the given bits (log 2). -/
def State.withFetchWord (s : State) (nbits w : Nat) : State := s.place (tableBytes nbits w)

end Sys2Proof.Machine
end

