-- ==== Sys2Proof/Safety.lean ====
section
/-!
DEFINITION. What counts as a safe run: every step gives a next state, and the memories keep their canonical form.
-/
namespace Sys2Proof.Safety

open Sys2Proof.Machine

/-- A step that neither faults nor is refused. -/
def Goes (s : State) : Prop := ∃ t, Machine.step s = .next t

/-- A run of n steps that all go on. -/
def Runs : Nat → State → Prop
  | 0, _ => True
  | n + 1, s => ∃ t, Machine.step s = .next t ∧ Runs n t

/-- Every memory of the state is in its canonical form. -/
def MemoryOk (s : State) : Prop :=
  Memory.wf s.mem.hbm = true ∧ Memory.wf s.mem.host = true ∧ Memory.wf s.host.stage = true ∧ Memory.wf s.host.cfg = true ∧
  Memory.wf s.boot.image = true ∧ ∀ g ∈ s.wgs, Memory.wf g.data = true

end Sys2Proof.Safety
end

