-- ==== Sys2Proof/Certificates/Slice0/Obligations.lean ====
section
/-!
DEFINITION. The statements for the provers: what spec/ says of the Kreny, as propositions about this model. The namespace
Sys2Proof.Claims holds the words in which they speak.
-/
open Sys2Proof Sys2Proof.Machine

/-! ### How the statements speak -/

namespace Sys2Proof.Claims

/-- An instruction executes: its issue stands in a workgroup of a context, and no access of the step has left the HBM. -/
def At (s : State) (cx : Cx) : Prop := s.cx? = some cx ∧ s.hole = none

/-- What an instruction in the frame of R114 does in each executing lane; on the scalar unit it is computed once (R122). -/
def laneOuts (i : Instr) (e : Entry) (s : State) (cx : Cx) : List (Nat × LaneOut) :=
  if (form i).scalarUnit then e.uni s cx (form i).px else cx.lanes.map (fun l => (l, e.lane s cx (form i).px l))

/-- The state after an instruction whose lanes all complete: the warp's lanes take what `outs` says, nothing else changes. -/
def after (i : Instr) (s : State) (cx : Cx) (outs : List (Nat × LaneOut)) : State :=
  s.mapWarp cx.wid cx.k (fun w => w.commit cx.next (form i).long (form i).run.toNat outs)

/-- Element e of a source of an integer type as an exact integer, with MOD's |·| and −(·) (R124). -/
def intElem (t : BitVec 4) (abs neg : Bool) (x : Word) (e : Nat) : Int :=
  let v := intOf (tySigned t) (elemBits t) (elemAt t x e)
  let v := if abs then (v.natAbs : Int) else v
  if neg then -v else v

/-- R124: the member's function of the exact elements, fitted to the type. -/
def intRule (w : FmtA) (f : Nat → Int → Int → Int → Int) (vs : List Val) : AluRes :=
  plainRes vs (ofElems w.ty ((elems w.ty).map (fun e =>
    fit (w.mod.getLsbD 3) (tySigned w.ty) (elemBits w.ty)
      (f (elemBits w.ty) (intElem w.ty (w.mod.getLsbD 0) (w.mod.getLsbD 2) (argv vs 0) e)
        (intElem w.ty false (w.mod.getLsbD 1) (argv vs 1) e) (intElem w.ty false false (argv vs 2) e)))))

/-- A member of R125 with its sources. -/
def intMember (w : FmtA) (srcs : List Code) (f : Nat → Int → Int → Int → Int) : Entry :=
  { dst := w.d, ty := w.ty, srcs := srcs.map (fun c => (c, w.ty)), fn := fun _ vs => intRule w f vs }

/-- The condition codes of R126 on integers. -/
def intCond (cc : Nat) (a b : Int) : Bool :=
  match cc with
  | 0 => decide (a = b)
  | 1 => decide (a ≠ b)
  | 2 => decide (a < b)
  | 3 => decide (a ≤ b)
  | 4 => decide (b < a)
  | 5 => decide (b ≤ a)
  | 6 => true
  | _ => false

/-- The integer instructions of family 0x10 (R125 to R129). -/
def integerRule : Instr → Option Entry
  | .iadd w => some (intMember w [w.a, w.b] (fun _ a b _ => a + b))
  | .isub w => some (intMember w [w.a, w.b] (fun _ a b _ => a - b))
  | .imul w => some (intMember w [w.a, w.b] (fun _ a b _ => a * b))
  | .imulh w => some (intMember w [w.a, w.b] (fun n a b _ => a * b / (2 ^ n : Nat)))
  | .imad w => some (intMember w [w.a, w.b, w.c] (fun _ a b c => a * b + c))
  | .imin w => some (intMember w [w.a, w.b] (fun _ a b _ => if b < a then b else a))
  | .imax w => some (intMember w [w.a, w.b] (fun _ a b _ => if a < b then b else a))
  | .iabs w => some (intMember w [w.a] (fun _ a _ _ => (a.natAbs : Int)))
  | .ineg w => some (intMember w [w.a] (fun _ a _ _ => -a))
  | .idiff w => some (intMember w [w.a, w.b] (fun _ a b _ => ((a - b).natAbs : Int)))
  | .icmp w => some
      { dst := w.d, ty := w.ty, toPred := true, srcs := [(w.a, w.ty), (w.b, w.ty)],
        fn := fun _ vs => plainRes vs (if intCond (w.c.toNat % 8)
          (intElem w.ty (w.mod.getLsbD 0) (w.mod.getLsbD 2) (argv vs 0) 0)
          (intElem w.ty false (w.mod.getLsbD 1) (argv vs 1) 0) then 1 else 0) }
  | .sel w => some
      { dst := w.d, ty := w.ty, srcs := [(w.a, w.ty), (w.b, w.ty)], preds := [w.c.toNat % 8], guard := w.mod,
        fn := fun _ vs => match vs with
          | [a, b, p] => { r := { v := if p.v == 1 then a.v else b.v, p := (if p.v == 1 then a.p else b.p) || p.p } }
          | _ => { r := { v := 0 } } }
  | .icvt w => some
      { dst := w.d, ty := w.ty, srcs := [(w.a, w.ts)],
        fn := fun _ vs => plainRes vs (BitVec.ofNat 64 (fit (w.mod.getLsbD 3) (tySigned w.ty) (elemBits w.ty)
          (intOf (tySigned w.ts) (elemBits w.ts) (argv vs 0).toNat))) }
  | .idiv w => some
      { dst := w.d, ty := w.ty, srcs := [(w.a, w.ty), (w.b, w.ty)],
        fn := fun _ vs =>
          let n := elemBits w.ty
          let a := intOf (tySigned w.ty) n (argv vs 0).toNat
          let b := intOf (tySigned w.ty) n (argv vs 1).toNat
          if (argv vs 1).toNat % 2 ^ n == 0 then
            { plainRes vs (BitVec.ofNat 64 (2 ^ n - 1)) [{ dz := true }] with div0 := true }
          else plainRes vs (BitVec.ofNat 64 (wrap n (Int.tdiv a b))) }
  | .irem w => some
      { dst := w.d, ty := w.ty, srcs := [(w.a, w.ty), (w.b, w.ty)],
        fn := fun _ vs =>
          let n := elemBits w.ty
          let a := intOf (tySigned w.ty) n (argv vs 0).toNat
          let b := intOf (tySigned w.ty) n (argv vs 1).toNat
          if (argv vs 1).toNat % 2 ^ n == 0 then { plainRes vs (argv vs 0) [{ dz := true }] with div0 := true }
          else plainRes vs (BitVec.ofNat 64 (wrap n (Int.tmod a b))) }
  | _ => none

/-- The immediate of R130: the bit pattern on a 32-bit type, sign-extended on a 64-bit type, with XIMM above it. -/
def immOf (w : FmtI) (t : BitVec 4) : Word :=
  if tyWide t then
    match w.px with
    | none => w.imm.signExtend 64
    | some p => (p.ximm ++ w.imm).signExtend 64
  else w.imm.setWidth 64

/-- The immediate of ICMP in format I (R131). -/
def immOfCmp (w : FmtI) (t : BitVec 4) : Word :=
  let low : BitVec 29 := w.imm.extractLsb' 0 29
  if tyWide t then
    match w.px with
    | none => low.signExtend 64
    | some p => (p.ximm ++ low).signExtend 64
  else (low.signExtend 32).setWidth 64

/-- A member of R131: `t` is its type, `f` its effect on the source and the immediate. -/
def immMember (w : FmtI) (dflt : BitVec 4) (f : BitVec 4 → Word → Word → Word) : Entry :=
  { dst := w.d, ty := w.ty dflt, srcs := [(w.a, w.ty dflt)],
    fn := fun _ vs => plainRes vs (f (w.ty dflt) (argv vs 0) (immOf w (w.ty dflt))) }

/-- An exact integer function of the one element, wrapped (R130, R131). -/
def immInt (f : Int → Int → Int) (t : BitVec 4) (a b : Word) : Word :=
  ofElems t ((elems t).map (fun e =>
    fit false (tySigned t) (elemBits t) (f (intElem t false false a e) (intElem t false false b e))))

/-- A shift by the immediate read as an unsigned number (R131, R133). -/
def immShift (w : FmtI) (dflt : BitVec 4) (f : Nat → Nat → Nat → Nat) : Entry :=
  { dst := w.d, ty := w.ty dflt, srcs := [(w.a, w.ty dflt)],
    fn := fun _ vs => plainRes vs (BitVec.ofNat 64 (f (elemBits (w.ty dflt)) (argv vs 0).toNat w.imm.toNat)) }

/-- The shifts of R133 on one element of n bits: the amount is not taken modulo n. -/
def shiftLeft (n x k : Nat) : Nat := if n ≤ k then 0 else x * 2 ^ k % 2 ^ n
def shiftRight (n x k : Nat) : Nat := if n ≤ k then 0 else x / 2 ^ k
def shiftArith (n x k : Nat) : Nat :=
  let neg := 2 ^ (n - 1) ≤ x
  if n ≤ k then ones n neg else x / 2 ^ k + (if neg then 2 ^ n - 2 ^ (n - k) else 0)

/-- The integer immediates of family 0x11 (R130, R131). -/
def immediateRule : Instr → Option Entry
  | .iaddImm w => some (immMember w 0 (immInt (fun a b => a + b)))
  | .imulImm w => some (immMember w 0 (immInt (fun a b => a * b)))
  | .iminImm w => some (immMember w 0 (immInt (fun a b => if b < a then b else a)))
  | .imaxImm w => some (immMember w 0 (immInt (fun a b => if a < b then b else a)))
  | .icmpImm w => some
      { dst := w.d, ty := w.ty 0, toPred := true, srcs := [(w.a, w.ty 0)],
        fn := fun _ vs => plainRes vs (if intCond (w.imm.toNat / 2 ^ 29) (intElem (w.ty 0) false false (argv vs 0) 0)
          (intElem (w.ty 0) false false (immOfCmp w (w.ty 0)) 0) then 1 else 0) }
  | .andImm w => some (immMember w 1 (fun t a b => Machine.cut t (a &&& b)))
  | .orImm w => some (immMember w 1 (fun t a b => Machine.cut t (a ||| b)))
  | .xorImm w => some (immMember w 1 (fun t a b => Machine.cut t (a ^^^ b)))
  | .shlImm w => some (immShift w 1 shiftLeft)
  | .shrImm w => some (immShift w 1 shiftRight)
  | .sarImm w => some (immShift w 0 shiftArith)
  | .movi w => some { dst := w.d, ty := w.ty 1, srcs := [], fn := fun _ _ => plainRes [] (immOf w (w.ty 1)) }
  | _ => none

end Sys2Proof.Claims

/-- R124 to R131: an instruction of family 0x10 or 0x11 whose lanes take no trap and use no poison writes, in each lane, the value its
rule gives, and the lane moves on; the rest of the machine is unchanged. -/
def Obligations.IntegerInstructionsExecute : Prop :=
  ∀ (i : Instr) (e : Entry) (s : State) (cx : Cx), Claims.integerRule i = some e ∨ Claims.immediateRule i = some e →
    Claims.At s cx → stopsOf (Claims.laneOuts i e s cx) = [] →
    exec i s = .next (Claims.after i s cx (Claims.laneOuts i e s cx))

namespace Sys2Proof.Claims

/-- A bitwise function over the operand width (R132). -/
def bitwise (w : FmtA) (srcs : List Code) (f : Word → Word → Word → Word) : Entry :=
  { dst := w.d, ty := w.ty, srcs := srcs.map (fun c => (c, w.ty)),
    fn := fun _ vs => plainRes vs (Machine.cut w.ty (f (argv vs 0) (argv vs 1) (argv vs 2))) }

/-- A function of elements of n bits, element by element (R133, R134). -/
def elementwise (w : FmtA) (srcs : List Code) (f : Nat → Nat → Nat → Nat → Nat) : Entry :=
  { dst := w.d, ty := w.ty, srcs := srcs.map (fun c => (c, w.ty)),
    fn := fun _ vs => plainRes vs (ofElems w.ty ((elems w.ty).map (fun e =>
      f (elemBits w.ty) (elemAt w.ty (argv vs 0) e) (elemAt w.ty (argv vs 1) e) (elemAt w.ty (argv vs 2) e)))) }

/-- Rotation left of n bits by k mod n (R134). -/
def rotateLeft (n x k : Nat) : Nat := x * 2 ^ (k % n) % 2 ^ n + x / 2 ^ (n - k % n)

/-- The logic and shift instructions of family 0x12 (R132 to R134). -/
def logicRule : Instr → Option Entry
  | .and w => some (bitwise w [w.a, w.b] (fun a b _ => a &&& b))
  | .or w => some (bitwise w [w.a, w.b] (fun a b _ => a ||| b))
  | .xor w => some (bitwise w [w.a, w.b] (fun a b _ => a ^^^ b))
  | .andn w => some (bitwise w [w.a, w.b] (fun a b _ => a &&& ~~~b))
  | .orn w => some (bitwise w [w.a, w.b] (fun a b _ => a ||| ~~~b))
  | .not w => some (bitwise w [w.a] (fun a _ _ => ~~~a))
  | .lop3 w => some (bitwise w [w.a, w.b, w.d] (fun a b d => lop3Fn (w.c.toNat % 256) a b d))
  | .shl w => some (elementwise w [w.a, w.b] (fun n x k _ => shiftLeft n x k))
  | .shr w => some (elementwise w [w.a, w.b] (fun n x k _ => shiftRight n x k))
  | .sar w => some (elementwise w [w.a, w.b] (fun n x k _ => shiftArith n x k))
  | .rol w => some (elementwise w [w.a, w.b] (fun n x k _ => rotateLeft n x k))
  | .ror w => some (elementwise w [w.a, w.b] (fun n x k _ => rotateLeft n x (n - k % n)))
  | .fshl w => some (elementwise w [w.a, w.b, w.c]
      (fun n x y k => (x * 2 ^ n + y) * 2 ^ (min k (2 * n)) % 2 ^ (2 * n) / 2 ^ n))
  | .fshr w => some (elementwise w [w.a, w.b, w.c]
      (fun n x y k => (x * 2 ^ n + y) / 2 ^ (min k (2 * n)) % 2 ^ n))
  | _ => none

/-- A function of the whole operand of n bits, of an n32 in a second source, or of two operands (R135 to R137). -/
def whole (w : FmtA) (srcs : List (Code × BitVec 4)) (f : Nat → Nat → Nat → Nat → Nat) : Entry :=
  { dst := w.d, ty := w.ty, srcs := srcs,
    fn := fun _ vs => plainRes vs
      (BitVec.ofNat 64 (f (valBits w.ty) (argv vs 0).toNat (argv vs 1).toNat (argv vs 2).toNat)) }

/-- The positions of the set bits of an n-bit number, rising. -/
def onesOf (n x : Nat) : List Nat := (List.range n).filter (fun i => x.testBit i)

/-- The bit instructions of family 0x13 (R135 to R141). -/
def bitRule : Instr → Option Entry
  | .popc w => some (whole w [(w.a, w.ty)] (fun n x _ _ => (onesOf n x).length))
  | .clz w => some (whole w [(w.a, w.ty)] (fun n x _ _ => clzFn n x))
  | .ctz w => some (whole w [(w.a, w.ty)] (fun n x _ _ => (onesOf n x).headD n))
  | .fns w => some (whole w [(w.a, w.ty), (w.b, 1)] (fun n x k _ => ((onesOf n x)[k]?).getD (2 ^ n - 1)))
  | .brev w => some (whole w [(w.a, w.ty)] (fun n x _ _ => ofBits n (fun i => x.testBit (n - 1 - i))))
  | .bfx w => some (whole w [(w.a, w.ty), (w.b, 1)] (fun n x k _ => bfxFn n x k))
  | .bfxs w => some (whole w [(w.a, w.ty), (w.b, 1)] (fun n x k _ => bfxsFn n x k))
  | .bfi w => some (whole w [(w.a, w.ty), (w.b, w.ty), (w.c, 1)] (fun n x y k => bfiFn n x y k))
  | .pdep w => some (whole w [(w.a, w.ty), (w.b, w.ty)] (fun n x m _ => pdepFn n x m (w.c.getLsbD 0)))
  | .pext w => some (whole w [(w.a, w.ty), (w.b, w.ty)] (fun n x m _ => pextFn n x m (w.c.getLsbD 0)))
  | .bperm w => some
      { dst := w.d, ty := w.ty, srcs := (w.a, w.ty) :: planeCodes w.b,
        fn := fun _ vs => plainRes vs (bpermFn (argv vs 0) ((vs.drop 1).map (·.v))) }
  | .gf2mm w => some
      { dst := w.d, ty := w.ty, srcs := [(w.a, w.ty), (w.b, w.ty)],
        fn := fun _ vs => plainRes vs (gf2mmFn (argv vs 0) (argv vs 1)) }
  | .prmb w => some
      { dst := w.d, ty := w.ty, srcs := [(w.a, w.ty), (w.b, w.ty), (w.c, w.ty)],
        fn := fun _ vs => plainRes vs (prmbFn (argv vs 0) (argv vs 1) (argv vs 2)) }
  | .mix64 w => some
      { dst := w.d, ty := w.ty, srcs := [(w.a, w.ty)], fn := fun _ vs => plainRes vs (Machine.mix64 (argv vs 0)) }
  | _ => none

/-- The moves and predicate instructions of family 0x14 in the frame of R114 (R142, R145, R146); PMOV form 1 reads p0 to p6 and 1. -/
def moveRule : Instr → Option Entry
  | .mov w => some { dst := w.d, ty := w.ty, srcs := [(w.a, w.ty)], fn := fun _ vs => { r := (vs[0]?).getD { v := 0 } } }
  | .pand w => some (predicate w [w.a, w.b] (fun a b => if a == 1 && b == 1 then 1 else 0))
  | .por w => some (predicate w [w.a, w.b] (fun a b => if a == 1 || b == 1 then 1 else 0))
  | .pxor w => some (predicate w [w.a, w.b] (fun a b => if (a == 1) != (b == 1) then 1 else 0))
  | .pnot w => some (predicate w [w.a] (fun a _ => if a == 1 then 0 else 1))
  | .pmov w =>
    if w.c.toNat % 4 = 1 then some
      { dst := w.d, ty := 1, srcs := [], preds := List.range 7,
        fn := fun _ vs => plainRes vs (BitVec.ofNat 64 ((vs.zipIdx).foldl (fun a v => a + v.1.v.toNat * 2 ^ v.2) 128)) }
    else if w.c.toNat % 4 = 2 then none
    else some
      { dst := w.d, ty := w.ty, toPred := true, srcs := [], preds := [w.a.toNat % 8],
        fn := fun _ vs => { r := (vs[0]?).getD { v := 0 } } }
  | _ => none
where
  /-- A predicate from one or two predicates. -/
  predicate (w : FmtA) (srcs : List Code) (f : Word → Word → Word) : Entry :=
    { dst := w.d, ty := w.ty, toPred := true, srcs := [], preds := srcs.map (fun c => c.toNat % 8),
      fn := fun _ vs => plainRes vs (f (argv vs 0) (argv vs 1)) }

/-- Lane register k, or the pair from k, as it stands with its poison: a window of the lane adds nothing (R106, R143). -/
def standing (x : Lane) (t : BitVec 4) (k : Nat) : Val :=
  match x.v[k]?, x.v[k + 1]? with
  | some a, some b =>
    if tyWide t then { v := a.val.setWidth 64 ||| b.val.setWidth 64 <<< 32, p := a.poison || b.poison }
    else { v := Machine.cut t (a.val.setWidth 64), p := a.poison }
  | some a, none => { v := Machine.cut t (a.val.setWidth 64), p := a.poison }
  | none, some b => if tyWide t then { v := b.val.setWidth 64 <<< 32, p := b.poison } else { v := Machine.cut t 0 }
  | none, none => { v := Machine.cut t 0 }

/-- What lane l receives from an instruction whose own mask decides its destination (R107, R167): `zero` where the mask excludes
it and MZ is set. -/
def byMask (cx : Cx) (px : Option Px) (zero : List ResWrite) (out : Lane → LaneOut) (l : Nat) : LaneOut :=
  match cx.lane? l with
  | none => .skip
  | some x =>
    match gateMask x px with
    | .poison => .stop (poisonStop x 3)
    | .masked => if zeroing px then .write zero 0 0 else .skip
    | _ => out x

end Sys2Proof.Claims

/-- R132 to R141: an instruction of family 0x12 or 0x13 writes, in each lane, the bits that its rule gives, and nothing else changes. -/
def Obligations.LogicAndBitInstructionsExecute : Prop :=
  ∀ (i : Instr) (e : Entry) (s : State) (cx : Cx), Claims.logicRule i = some e ∨ Claims.bitRule i = some e → Claims.At s cx →
    stopsOf (Claims.laneOuts i e s cx) = [] → exec i s = .next (Claims.after i s cx (Claims.laneOuts i e s cx))

/-- R142 to R146: MOV, PAND, POR, PXOR, PNOT and PMOV forms 0 and 1 in the frame; PMOV form 2 writes p0 to p6 from bits [6:0] of its
source; RDLANE writes the value and poison bit that lane m's register holds in every executing lane, the poison of n adding
nothing (log 72); WRLANE writes lane m's register. -/
def Obligations.MovesAndPredicatesExecute : Prop :=
  (∀ (i : Instr) (e : Entry) (s : State) (cx : Cx), Claims.moveRule i = some e → Claims.At s cx →
    stopsOf (Claims.laneOuts i e s cx) = [] → exec i s = .next (Claims.after i s cx (Claims.laneOuts i e s cx))) ∧
  (∀ (w : FmtA) (s : State) (cx : Cx), w.c.toNat % 4 = 2 → Claims.At s cx →
    let bits := fun l v => (List.range 7).map (fun k =>
      ({ lane := some l, dst := .pred k, val := if v.v.getLsbD k then 1 else 0, poison := v.p } : ResWrite))
    let outs := cx.lanes.map (fun l => (l, Claims.byMask cx w.px (bits l { v := 0 })
      (fun _ => .write (bits l (readAt s cx (form (.pmov w)).scalarUnit l 1 w.a)) 0 0) l))
    stopsOf outs = [] → exec (.pmov w) s = .next (s.mapWarp cx.wid cx.k (fun y => y.commit cx.next false 0 outs))) ∧
  (∀ (w : FmtA) (s : State) (cx : Cx) (m : Nat) (v : Val), Claims.At s cx →
    m = (readUni s cx 1 w.b).v.toNat % cx.w.lanes.length →
    cx.w.pendingFor m (destsOf w.a w.ty) = false →
    v = (match cx.lane? m with
      | none => { v := 0 }
      | some x => if x.st = .absent then { v := 0 } else Claims.standing x w.ty w.a.toNat) →
    let outs := cx.lanes.map (fun l => (l, Claims.byMask cx w.px (destWrites l w.d w.ty 0 false)
      (fun _ => .write (destWrites l w.d w.ty v.v v.p) 0 0) l))
    stopsOf outs = [] → exec (.rdlane w) s = .next (s.mapWarp cx.wid cx.k (fun y => y.commit cx.next false 0 outs))) ∧
  (∀ (w : FmtA) (s : State) (cx : Cx) (m : Nat) (x : Lane) (v : Val), Claims.At s cx →
    m = (readUni s cx 1 w.b).v.toNat % cx.w.lanes.length → cx.lane? m = some x → v = readUni s cx w.ty w.a →
    exec (.wrlane w) s = .next ((if x.live then s.mapWarp cx.wid cx.k (fun y =>
        (destWrites m w.d w.ty v.v v.p).foldl (fun y z => y.writeOver m z) y) else s).mapWarp cx.wid cx.k
      (fun y => y.commit cx.next false 0 (cx.lanes.map (fun l => (l, .skip))))))

namespace Sys2Proof.Claims

/-- A member of families 0x18 and 0x19: MOD's signs on the sources, the function of the elements' bit patterns under the rounding
attribute, and MOD's clamp after rounding (R147). -/
def float (w : FmtA) (srcs : List Code) (f : BinFmt → Rm → Nat → Nat → Nat → FRes) : Entry :=
  { dst := w.d, ty := w.ty, srcs := srcs.map (fun c => (c, w.ty)),
    fn := fun rm vs =>
      let rs := (elems w.ty).map (fun e =>
        f (fmtOf w.ty) rm (fModSign (fmtOf w.ty) (w.mod.getLsbD 2) (w.mod.getLsbD 0) (elemAt w.ty (argv vs 0) e))
          (fModSign (fmtOf w.ty) (w.mod.getLsbD 1) false (elemAt w.ty (argv vs 1) e)) (elemAt w.ty (argv vs 2) e))
      plainRes vs (ofElems w.ty (rs.map (fun r => if w.mod.getLsbD 3 then fSat (fmtOf w.ty) r.bits else r.bits)))
        (rs.map (·.c)) }

/-- A member of one source as a value. -/
def float1 (w : FmtA) (f : BinFmt → Rm → FVal → FRes) : Entry := float w [w.a] (fun g rm a _ _ => f g rm (unpack g a))

/-- The floating-point instructions (R148 to R151, R153, R157) but the conversions. -/
def floatRule : Instr → Option Entry
  | .fadd w => some (float w [w.a, w.b] (fun g rm a b _ => fAdd g rm (unpack g a) (unpack g b)))
  | .fsub w => some (float w [w.a, w.b] (fun g rm a b _ => fAdd g rm (unpack g a) (unpack g b).neg))
  | .fmul w => some (float w [w.a, w.b] (fun g rm a b _ => fMul g rm (unpack g a) (unpack g b)))
  | .ffma w => some (float w [w.a, w.b, w.c] (fun g rm a b c => fFma g rm (unpack g a) (unpack g b) (unpack g c)))
  | .fmin w => some (float w [w.a, w.b] (fun g _ a b _ => fMinMax g false a b))
  | .fmax w => some (float w [w.a, w.b] (fun g _ a b _ => fMinMax g true a b))
  | .frnd w => some (float w [w.a] (fun g rm a _ _ => fRnd g rm a))
  | .fdiv w => some (float w [w.a, w.b] (fun g rm a b _ => fDiv g rm (unpack g a) (unpack g b)))
  | .fsqrt w => some (float1 w fSqrt)
  | .frcp w => some (float1 w fRcp)
  | .frsq w => some (float1 w fRsq)
  | .fex2 w => some (float1 w fEx2)
  | .flg2 w => some (float1 w fLg2)
  | .fsin w => some (float1 w fSin)
  | .fcos w => some (float1 w fCos)
  | .ftanh w => some (float1 w fTanh)
  | .fclass w => some
      { dst := w.d, ty := 1, srcs := [(w.a, w.ty)],
        fn := fun _ vs => plainRes vs (BitVec.ofNat 64 ((elems w.ty).foldl
          (fun acc e => acc + fClass (fmtOf w.ty) (elemAt w.ty (argv vs 0) e) * 2 ^ (16 * e)) 0)) }
  | .fcmp w => some
      { dst := w.d, ty := w.ty, toPred := true, srcs := [(w.a, w.ty), (w.b, w.ty)],
        fn := fun _ vs =>
          let g := fmtOf w.ty
          let a := unpack g (fModSign g (w.mod.getLsbD 2) (w.mod.getLsbD 0) (elemAt w.ty (argv vs 0) 0))
          let b := unpack g (fModSign g (w.mod.getLsbD 1) false (elemAt w.ty (argv vs 1) 0))
          plainRes vs (if condHolds (w.c.toNat % 8) (fOrd a b) then 1 else 0)
            [{ nv := condInvalid (w.c.toNat % 8) (fOrd a b) (a.isSnan || b.isSnan) }] }
  | _ => none

/-- The conversions and the scaling of R152 and R154 to R156. -/
def convertRule : Instr → Option Entry
  | .fcvt w =>
    let two := elemCount w.ty == 2 && elemCount w.ts == 1
    let hi := elemCount w.ty == 1 && elemCount w.ts == 2 && w.c.getLsbD 4
    let src := fun x e => fModSign (fmtOf w.ts) (w.mod.getLsbD 2) (w.mod.getLsbD 0) (elemAt w.ts x e)
    some
      { dst := w.d, ty := w.ty, srcs := (w.a, w.ts) :: (if two then [(w.b, w.ts)] else []),
        fn := fun rm vs =>
          let rs := (elems w.ty).map (fun e => fCvt (fmtOf w.ty) (fmtOf w.ts) rm
            (if two then (if e == 0 then src (argv vs 0) 0 else elemAt w.ts (argv vs 1) 0)
             else src (argv vs 0) (if hi then 1 else e)))
          plainRes vs (ofElems w.ty (rs.map (fun r => if w.mod.getLsbD 3 then fSat (fmtOf w.ty) r.bits else r.bits)))
            (rs.map (·.c)) }
  | .ftoi w => some
      { dst := w.d, ty := w.ty, srcs := [(w.a, w.ts)],
        fn := fun rm vs =>
          let r := fToI (tySigned w.ty) (elemBits w.ty) rm
            (unpack (fmtOf w.ts) (fModSign (fmtOf w.ts) (w.mod.getLsbD 2) (w.mod.getLsbD 0) (elemAt w.ts (argv vs 0) 0)))
          plainRes vs (BitVec.ofNat 64 r.1) [r.2] }
  | .itof w => some
      { dst := w.d, ty := w.ty, srcs := [(w.a, w.ts)],
        fn := fun rm vs =>
          let r := fOfI (fmtOf w.ty) rm (intOf (tySigned w.ts) (elemBits w.ts) (argv vs 0).toNat)
          plainRes vs (BitVec.ofNat 64 r.bits) [r.c] }
  | .fscl w =>
    let bt : BitVec 4 := if elemCount w.ty == 2 then 6 else 0
    some
      { dst := w.d, ty := w.ty, srcs := [(w.a, w.ty), (w.b, bt)],
        fn := fun rm vs =>
          let rs := (elems w.ty).map (fun e => fScale (fmtOf w.ty) rm
            (fModSign (fmtOf w.ty) (w.mod.getLsbD 2) (w.mod.getLsbD 0) (elemAt w.ty (argv vs 0) e))
            (signedOf (elemBits bt) (elemAt bt (argv vs 1) e)))
          plainRes vs (ofElems w.ty (rs.map (fun r => if w.mod.getLsbD 3 then fSat (fmtOf w.ty) r.bits else r.bits)))
            (rs.map (·.c)) }
  | _ => none

/-- A member of family 0x1A (R159). -/
def decimal (w : FmtA) (srcs : List (Code × BitVec 4)) (f : Rm → DVal → DVal → Word → FRes) : Entry :=
  { dst := w.d, ty := w.ty, srcs := srcs, dec := true,
    fn := fun rm vs =>
      let r := f rm (decUnpack (decModSign (w.mod.getLsbD 2) (w.mod.getLsbD 0) (argv vs 0).toNat))
        (decUnpack (decModSign (w.mod.getLsbD 1) false (argv vs 1).toNat)) (argv vs 2)
      plainRes vs (BitVec.ofNat 64 r.bits) [r.c] }

/-- The decimal instructions (R160 to R165). -/
def decimalRule : Instr → Option Entry
  | .xadd w => some (decimal w [(w.a, w.ty), (w.b, w.ty)] (fun rm a b _ => decAdd rm a b))
  | .xsub w => some (decimal w [(w.a, w.ty), (w.b, w.ty)] (fun rm a b _ => decAdd rm a b.neg))
  | .xmul w => some (decimal w [(w.a, w.ty), (w.b, w.ty)] (fun rm a b _ => decMul rm a b))
  | .xfma w => some (decimal w [(w.a, w.ty), (w.b, w.ty), (w.c, w.ty)] (fun rm a b c => decFma rm a b (decUnpack c.toNat)))
  | .xdiv w => some (decimal w [(w.a, w.ty), (w.b, w.ty)] (fun rm a b _ => decDiv rm a b))
  | .xquant w => some (decimal w [(w.a, w.ty), (w.b, w.ty)] (fun rm a b _ => decQuant rm a b))
  | .xrnd w => some (decimal w [(w.a, w.ty)] (fun rm a _ _ => decRnd rm a))
  | .xscaleb w => some
      { dst := w.d, ty := w.ty, srcs := [(w.a, w.ty), (w.b, 0)], dec := true,
        fn := fun rm vs =>
          let r := decScale rm (decUnpack (decModSign (w.mod.getLsbD 2) (w.mod.getLsbD 0) (argv vs 0).toNat))
            (signedOf 32 (argv vs 1).toNat)
          plainRes vs (BitVec.ofNat 64 r.bits) [r.c] }
  | .xcmp w => some
      { dst := w.d, ty := w.ty, toPred := true, srcs := [(w.a, w.ty), (w.b, w.ty)], dec := true,
        fn := fun _ vs =>
          let a := decUnpack (decModSign (w.mod.getLsbD 2) (w.mod.getLsbD 0) (argv vs 0).toNat)
          let b := decUnpack (decModSign (w.mod.getLsbD 1) false (argv vs 1).toNat)
          plainRes vs (if condHolds (w.c.toNat % 8) (decOrd a b) then 1 else 0)
            [{ nv := condInvalid (w.c.toNat % 8) (decOrd a b) (a.isSnan || b.isSnan) }] }
  | .xcvt w => some
      { dst := w.d, ty := w.ty, srcs := [(w.a, w.ts)], dec := true,
        fn := fun rm vs =>
          let x := argv vs 0
          let d := decUnpack (decModSign (w.mod.getLsbD 2) (w.mod.getLsbD 0) x.toNat)
          let one := fun (r : FRes) => plainRes vs (BitVec.ofNat 64 r.bits) [r.c]
          if w.ty == 14 then
            if tyI1 w.ts then one (decOfInt rm (intSource w.ts (w.mod.getLsbD 2) (w.mod.getLsbD 0) x))
            else one (decOfBin rm (unpack (fmtOf w.ts)
              (fModSign (fmtOf w.ts) (w.mod.getLsbD 2) (w.mod.getLsbD 0) (elemAt w.ts x 0))))
          else if tyI1 w.ty then
            let r := decToInt (tySigned w.ty) (elemBits w.ty) rm d
            plainRes vs (BitVec.ofNat 64 r.1) [r.2]
          else one (decToBin (fmtOf w.ty) rm d) }
  | _ => none

end Sys2Proof.Claims

/-- R147 to R151, R153, R157: a floating-point or special-function instruction whose lanes take no trap writes, in each lane, the
value its rule gives and adds its flags; with a long latency the value is pending. Nothing else changes. -/
def Obligations.FloatInstructionsExecute : Prop :=
  ∀ (i : Instr) (e : Entry) (s : State) (cx : Cx), Claims.floatRule i = some e → Claims.At s cx →
    stopsOf (Claims.laneOuts i e s cx) = [] → exec i s = .next (Claims.after i s cx (Claims.laneOuts i e s cx))

/-- R152, R154 to R156: the same of FCVT, FTOI, ITOF and FSCL. -/
def Obligations.ConversionsExecute : Prop :=
  ∀ (i : Instr) (e : Entry) (s : State) (cx : Cx), Claims.convertRule i = some e → Claims.At s cx →
    stopsOf (Claims.laneOuts i e s cx) = [] → exec i s = .next (Claims.after i s cx (Claims.laneOuts i e s cx))

/-- R159 to R165: the same of the decimal instructions. -/
def Obligations.DecimalInstructionsExecute : Prop :=
  ∀ (i : Instr) (e : Entry) (s : State) (cx : Cx), Claims.decimalRule i = some e → Claims.At s cx →
    stopsOf (Claims.laneOuts i e s cx) = [] → exec i s = .next (Claims.after i s cx (Claims.laneOuts i e s cx))

namespace Sys2Proof.Claims

/-- The executing lanes each take what `out` gives them, and the warp commits it at once. -/
def cross (s : State) (cx : Cx) (out : Nat → LaneOut) : State :=
  s.mapWarp cx.wid cx.k (fun w => w.commit cx.next false 0 (cx.lanes.map (fun l => (l, out l))))

/-- The participants' values of an operand with their poison, in ascending rank (R171). -/
def inputs (s : State) (cx : Cx) (w : FmtA) : List Part3 :=
  cx.lanes.map (fun l => { v := (readOp s cx l w.ty w.a).v, p := (readOp s cx l w.ty w.a).p })

/-- The result of RED over the participants (R171, R172): an exact sum of integers fitted once, or the rounds of the tree. -/
def reduced (s : State) (cx : Cx) (w : FmtA) : Part3 :=
  if w.c.toNat % 8 == 0 && tyI1 w.ty then redSum w.ty (w.mod.getLsbD 3) (inputs s cx w)
  else ((redTree (redPair (w.c.toNat % 8) w.ty (redRm cx w)) 6 (inputs s cx w)).head?).getD { v := 0 }

/-- The result of SCAN for the i-th participant (R171, R172): inclusive, or exclusive from the identity. -/
def scanned (s : State) (cx : Cx) (w : FmtA) (i : Nat) : Part3 :=
  let all := scanAll (w.c.toNat % 8) w (redRm cx w) (inputs s cx w)
  if w.c.getLsbD 3 then (if i == 0 then { v := scanIdentity (w.c.toNat % 8) w.ty } else (all[i - 1]?).getD { v := 0 })
  else (all[i]?).getD { v := 0 }

/-- The executing lanes of lane l's innermost team (R38). -/
def innermost (cx : Cx) (l : Nat) : List Nat :=
  cx.lanes.filter (fun j => match cx.lane? l, cx.lane? j with
    | some x, some y => y.inner == x.inner && y.level == x.level
    | _, _ => false)

/-- Each executing lane goes to its address. -/
def goAll (s : State) (cx : Cx) (act : State → Nat → State) (pc : Nat → Word) : State :=
  cx.lanes.foldl (fun s l => (act s l).mapLane cx.wid cx.k l (fun x => x.goto (pc l))) s

/-- Whether lane l takes a branch: its guard holds (R98, R174). -/
def taken (cx : Cx) (g : BitVec 4) (l : Nat) : Bool :=
  match cx.lane? l with
  | some x => ((x.pred (g.toNat % 8)).v == 1) != g.getLsbD 3
  | none => false

/-- The word that a format-B word names: DISP40 words from the word itself (R102). -/
def target (w : FmtB) (cx : Cx) : Word := cx.wpc + w.disp.signExtend 64 * 8

end Sys2Proof.Claims

/-- R168, R169: SHFL gives each participant the value of the participant at the rank that its mode names, or its own when there is
none; PUSHL gives it the value of the highest-ranked participant that names its rank, or leaves it. -/
def Obligations.ShuffleAndPushExecute : Prop :=
  (∀ (w : FmtA) (s : State) (cx : Cx), Claims.At s cx →
    let out := Claims.byMask cx w.px
    let got := fun l =>
      match (shflRank (w.c.toNat % 4) (cx.rank l) cx.teamSize (readOp s cx l 1 w.b).v).bind cx.atRank with
      | some j => readOp s cx j w.ty w.a
      | none => readOp s cx l w.ty w.a
    let outs := fun l => out (destWrites l w.d w.ty 0 false)
      (fun _ => .write (destWrites l w.d w.ty (got l).v ((got l).p || (readOp s cx l 1 w.b).p)) 0 0) l
    stopsOf (cx.lanes.map (fun l => (l, outs l))) = [] → exec (.shfl w) s = .next (Claims.cross s cx outs)) ∧
  (∀ (w : FmtA) (s : State) (cx : Cx), Claims.At s cx →
    let outs := fun l => Claims.byMask cx w.px (destWrites l w.d w.ty 0 false)
      (fun _ =>
        match (cx.lanes.filter (fun j => (readOp s cx j 1 w.b).v.toNat == cx.rank l)).getLast? with
        | none => .skip
        | some j => .write (destWrites l w.d w.ty (readOp s cx j w.ty w.a).v
            ((readOp s cx j w.ty w.a).p || (readOp s cx j 1 w.b).p)) 0 0) l
    stopsOf (cx.lanes.map (fun l => (l, outs l))) = [] → exec (.pushl w) s = .next (Claims.cross s cx outs))

/-- R170 to R173: VOTE, RED, SCAN and MATCH give every participant the result over all participants of its innermost team. -/
def Obligations.TeamReductionsExecute : Prop :=
  (∀ (w : FmtA) (s : State) (cx : Cx), Claims.At s cx →
    let m := w.c.toNat % 8
    let ws := fun l (v : Word) (p : Bool) => if m ≤ 2 then predWrites l w.d (v != 0) p else destWrites l w.d w.ty v p
    let yes := cx.lanes.filter (fun l => match cx.lane? l with | some x => (x.pred (w.a.toNat % 8)).v == 1 | none => false)
    let p := cx.lanes.any (fun l => match cx.lane? l with | some x => (x.pred (w.a.toNat % 8)).p | none => false)
    let v : Word :=
      if m = 0 then (if yes.isEmpty then 0 else 1)
      else if m = 1 then (if yes.length = cx.lanes.length then 1 else 0)
      else if m = 2 then (if yes.isEmpty ∨ yes.length = cx.lanes.length then 1 else 0)
      else if m = 3 then maskOf (yes.map cx.rank) else BitVec.ofNat 64 yes.length
    let outs := fun l => Claims.byMask cx w.px (ws l 0 false)
      (fun _ => if 3 ≤ m && Code.isScalar w.d && !cx.root then .stop cx.illegal else .write (ws l v p) 0 0) l
    stopsOf (cx.lanes.map (fun l => (l, outs l))) = [] → exec (.vote w) s = .next (Claims.cross s cx outs)) ∧
  (∀ (w : FmtA) (s : State) (cx : Cx), Claims.At s cx →
    let outs := fun l => Claims.byMask cx w.px (destWrites l w.d w.ty 0 false)
      (fun x => redOut cx w l x (Claims.reduced s cx w)) l
    stopsOf (cx.lanes.map (fun l => (l, outs l))) = [] → exec (.red w) s = .next (Claims.cross s cx outs)) ∧
  (∀ (w : FmtA) (s : State) (cx : Cx), Claims.At s cx →
    let outs := fun l => Claims.byMask cx w.px (destWrites l w.d w.ty 0 false)
      (fun x => redOut cx w l x (Claims.scanned s cx w (cx.lanes.takeWhile (· != l)).length)) l
    stopsOf (cx.lanes.map (fun l => (l, outs l))) = [] → exec (.scan w) s = .next (Claims.cross s cx outs)) ∧
  (∀ (w : FmtA) (s : State) (cx : Cx), Claims.At s cx →
    let same := fun l => cx.lanes.filter (fun j => (readOp s cx j w.ty w.a).v == (readOp s cx l w.ty w.a).v)
    let outs := fun l => Claims.byMask cx w.px (destWrites l w.d 3 0 false)
      (fun _ => .write (destWrites l w.d 3 (maskOf ((same l).map cx.rank))
        (cx.lanes.any (fun j => (readOp s cx j w.ty w.a).p))) 0 0) l
    stopsOf (cx.lanes.map (fun l => (l, outs l))) = [] → exec (.matchLanes w) s = .next (Claims.cross s cx outs))

/-- R174, R175, R177: a branch, uniform branch or indirect jump sends each executing lane to its target: BR the lanes whose guard
holds, BRU every lane where the lowest lane goes, counting a difference of the lanes' outcomes in UNIFCNT, JMPI each lane to the
address it reads. -/
def Obligations.BranchesGoToTheirTargets : Prop :=
  (∀ (w : FmtB) (s : State) (cx : Cx), Claims.At s cx →
    (∀ l ∈ cx.lanes, ∀ x, cx.lane? l = some x → (x.pred (w.guard.toNat % 8)).p = false) →
    exec (.br w) s = .next (Claims.goAll s cx (fun s _ => s)
      (fun l => if Claims.taken cx w.guard l then Claims.target w cx else cx.next))) ∧
  (∀ (w : FmtB) (s : State) (cx : Cx), Claims.At s cx → cx.lanes ≠ [] →
    (∀ l ∈ cx.lanes, ∃ x, cx.lane? l = some x ∧ (x.pred (w.guard.toNat % 8)).p = false) →
    let lead := Claims.taken cx w.guard cx.low
    let differ := cx.lanes.any (fun l => Claims.taken cx w.guard l != lead)
    (∀ l ∈ cx.lanes, ∀ x, cx.lane? l = some x → Claims.taken cx w.guard l ≠ lead → x.trapen.getLsbD 16 = false) →
    exec (.bru w) s = .next (Claims.goAll
      (if differ then s.mapWarp cx.wid cx.k (fun y =>
        { y with unifcnt := if y.unifcnt = 0xFFFFFFFF then y.unifcnt else y.unifcnt + 1 }) else s)
      cx (fun s _ => s) (fun _ => if lead then Claims.target w cx else cx.next))) ∧
  (∀ (w : FmtA) (s : State) (cx : Cx), Claims.At s cx → (∀ l ∈ cx.lanes, (cx.lane? l).isSome) →
    (∀ l ∈ cx.lanes, (readOp s cx l 3 w.a).p = false) →
    exec (.jmpi w) s = .next (Claims.goAll s cx (fun s _ => s) (fun l => (readOp s cx l 3 w.a).v)))

/-- R174, R176 to R178: a call pushes the address after the instruction and goes to its target; a return pops the newest frame and
goes to the address it holds. The result stands where the pushed or reloaded frame does not leave the HBM (log 14). -/
def Obligations.CallsPushAndReturnsPop : Prop :=
  (∀ (w : FmtB) (s : State) (cx : Cx), s.cx? = some cx →
    (∀ l ∈ cx.lanes, ∃ x, cx.lane? l = some x ∧ (x.pred (w.guard.toNat % 8)).p = false ∧
      (Claims.taken cx w.guard l → ∃ bs, s.canPush cx l x = .bytes bs)) →
    let t := Claims.goAll s cx (fun s l => if Claims.taken cx w.guard l then s.callFrame cx l else s)
      (fun l => if Claims.taken cx w.guard l then Claims.target w cx else cx.next)
    t.hole = none → exec (.call w) s = .next t) ∧
  (∀ (w : FmtA) (s : State) (cx : Cx), s.cx? = some cx →
    (∀ l ∈ cx.lanes, ∃ x, cx.lane? l = some x ∧ (readOp s cx l 3 w.a).p = false ∧ ∃ bs, s.canPush cx l x = .bytes bs) →
    let t := Claims.goAll s cx (fun s l => s.callFrame cx l) (fun l => (readOp s cx l 3 w.a).v)
    t.hole = none → exec (.calli w) s = .next t) ∧
  (∀ (w : FmtA) (s : State) (cx : Cx) (frame : Nat → Word), s.cx? = some cx →
    (∀ l ∈ cx.lanes, ∃ x, cx.lane? l = some x ∧ s.frameStalls cx l x = false ∧
      (s.ready cx l x).2.ret.head? = some (frame l) ∧ isTeamFrame (frame l) = false) →
    let pop := fun (t : State) (l : Nat) =>
      match cx.lane? l with
      | none => t
      | some x =>
        let r := t.popFrame cx.ctx cx.g cx.w l (s.ready cx l x).2
        r.1.mapLane cx.wid cx.k l (fun _ => r.2)
    let t := Claims.goAll (s.readFrames cx) cx pop (fun l => frameAddr (frame l))
    t.hole = none → exec (.ret w) s = .next t)

/-- R38, R179, R180, R182, R337: TCALL divides each innermost team that stands at it by itself and opens one join for it, and each
lane pushes its frame, enters the subteam of its callee and goes to that callee; TRET parks the lanes at their join and lets complete
joins go on. -/
def Obligations.TeamCallsOpenAndCloseJoins : Prop :=
  (∀ (w : FmtA) (s : State) (cx : Cx) (n : Nat), s.cx? = some cx → w.c.toNat = 0x180 + n →
    let goal := (List.range n).map (fun i => readUni s cx 3 (w.a + BitVec.ofNat 9 i))
    let ws := (List.range n).map (fun i => bitsOf (readUni s cx 3 w.b).v.toNat (8 * i) 8)
    (readUni s cx 3 w.b).p = false → goal.any (·.p) = false → ws.foldl (· + ·) 0 ≠ 0 →
    (∀ l ∈ cx.lanes, ∃ x, cx.lane? l = some x ∧ x.level ≠ 31 ∧ ∃ bs, s.canOpen cx l x = .bytes bs) →
    let team := Claims.innermost cx
    let callee := fun l => (((assign 0 (shares (team l).length ws) (team l)).find? (fun p => p.1 == l)).map (·.2)).getD 0
    let records := (cx.lanes.filter (fun l => (team l).head? == some l)).map (fun l =>
      ({ level := ((cx.lane? l).map (·.level)).getD 0 + 1, members := maskOf (team l), returned := 0 } : JoinRec))
    let opened := s.mapWarp cx.wid cx.k (fun y => { y with joins := y.joins ++ records })
    let t := cx.lanes.foldl (fun s l =>
      (s.openTeam cx (maskOf ((team l).filter (fun j => callee j == callee l))) (callee l) l).mapLane cx.wid cx.k l
        (fun x => x.goto (((goal[callee l]?).map (·.v)).getD 0))) opened
    t.hole = none → exec (.tcall w) s = .next t) ∧
  (∀ (w : FmtA) (s : State) (cx : Cx), s.cx? = some cx →
    (∀ l ∈ cx.lanes, ∃ x f fs, cx.lane? l = some x ∧ x.level ≠ 0 ∧ s.frameStalls cx l x = false ∧
      (s.ready cx l x).2.ret = f :: fs ∧ isTeamFrame f = true) →
    let t := State.settleJoins cx.wid cx.k 64 ((s.readFrames cx).mapWarp cx.wid cx.k (fun y =>
      cx.lanes.foldl (fun y l =>
        { y.mapLane l (fun x => { (s.ready cx l x).2.advance cx.pc with st := .join }) with
          joins := y.joins.map (fun j =>
            if hasLane j.members l && (match y.lanes[l]? with | some x => x.level == j.level | none => false) then
              { j with returned := j.returned ||| maskOf [l] }
            else j) }) y))
    t.hole = none → exec (.tret w) s = .next t)

/-- R183: EXIT ends the items of the executing lanes, whose lanes become Exited, lets joins and the barrier complete, and retires
workgroups that are done. -/
def Obligations.ExitEndsItems : Prop :=
  ∀ (w : FmtA) (s : State) (cx : Cx), s.cx? = some cx →
    (∀ l ∈ cx.lanes, ∀ x, cx.lane? l = some x → x.dbg.step = false) →
    let ended := cx.lanes.foldl (fun s l =>
      match s.wg? cx.wid, s.lane? cx.wid cx.k l with
      | some g, some x =>
        if x.live then
          let s := (s.endItem g x).mapWarp cx.wid cx.k (fun y => y.exitLane l)
          s.mapCtx g.pkt.ctx (fun c => { c with evRegs := c.evRegs.filter (fun r => !(match r.waiter with
            | .lane wid k m => wid == cx.wid && k == cx.k && (s.waitersOf wid k m r.event r.target).isEmpty
            | .packet _ => false)) })
        else s
      | _, _ => s) s
    let t := ((State.settleJoins cx.wid cx.k 64 ended).mapWg cx.wid Wg.settleBarrier).tidy
    t.hole = none → exec (.exit w) s = .next t

/-- R184 to R187: the first arrival of a warp at a workgroup barrier from the root team is recorded, with BAR its lanes wait and with
BAR.arrive they go on, and the generation completes when every warp has arrived; in the same generation, lanes that reach the
arrival's word for the first time take part and all others wait for its end; TBAR and YIELD go on; SLEEP sets the warp's
deadline, at most 1000000 ns ahead, and goes on. -/
def Obligations.BarriersAndGivingWay : Prop :=
  (∀ (arrive : Bool) (w : FmtA) (s : State) (cx : Cx) (low : Lane), Claims.At s cx → cx.lane? cx.low = some low →
    low.level = 0 → cx.k ∉ cx.g.barHere →
    let lane := fun (x : Lane) =>
      if arrive then { x.goto cx.next with st := .active }
      else { x with st := .waiting, wait := some { on := .barrier cx.g.barGen, since := s.now } }
    exec (if arrive then .barArrive w else .bar w) s = .next
      (((s.mapWarp cx.wid cx.k (fun y => y.mapLanes cx.lanes lane)).mapWarp cx.wid cx.k (fun y =>
          { y with lastBar := some { gen := cx.g.barGen, pc := cx.pc, next := cx.next, arrive := arrive, lanes := maskOf cx.lanes },
                   pendBar := if arrive then some cx.g.barGen else y.pendBar })).mapWg cx.wid (fun g =>
        { g with barHere := g.barHere ++ [cx.k] }.settleBarrier))) ∧
  (∀ (arrive : Bool) (w : FmtA) (s : State) (cx : Cx) (low : Lane) (b : BarArrival), Claims.At s cx →
    cx.lane? cx.low = some low → low.level = 0 → cx.k ∈ cx.g.barHere → cx.w.lastBar = some b →
    let late := cx.lanes.filter (fun l => b.pc == cx.pc && !hasLane b.lanes l)
    let again := cx.lanes.filter (fun l => !late.elem l)
    let lane := fun (x : Lane) =>
      if arrive then { x.goto cx.next with st := .active }
      else { x with st := .waiting, wait := some { on := .barrier b.gen, since := s.now } }
    exec (if arrive then .barArrive w else .bar w) s = .next
      (((s.mapWarp cx.wid cx.k (fun y => y.mapLanes late lane)).mapWarp cx.wid cx.k (fun y =>
          { y with lastBar := y.lastBar.map (fun b => { b with lanes := b.lanes ||| maskOf late }) })).mapWarp cx.wid cx.k
        (fun y => again.foldl (fun y l => y.mapLane l (fun x => x.stall s.now (.barrier b.gen) false)) y))) ∧
  (∀ (w : FmtA) (s : State) (cx : Cx), Claims.At s cx →
    exec (.tbar w) s = .next (Claims.goAll s cx (fun s _ => s) (fun _ => cx.next))) ∧
  (∀ (w : FmtA) (s : State) (cx : Cx), Claims.At s cx →
    exec (.yield w) s = .next ((Claims.goAll s cx (fun s _ => s) (fun _ => cx.next)).mapWarp cx.wid cx.k
      (fun y => { y with rotate := true }))) ∧
  (∀ (w : FmtA) (s : State) (cx : Cx), Claims.At s cx →
    exec (.sleep w) s = .next ((Claims.goAll s cx (fun s _ => s) (fun _ => cx.next)).mapWarp cx.wid cx.k
      (fun y => { y with sleep := some (s.time.tb + 2200 * min (readUni s cx 1 w.a).v.toNat 1000000) })))

/-- R93, R96, R110, R111: a clause header whose handles are not pending or invalid puts its lanes into the clause; NOP only moves its
lanes on; a word that R111 refuses at step 1 stops every arriving lane with ILLEGAL. -/
def Obligations.HeadersNopsAndUnassignedWords : Prop :=
  (∀ (w : FmtH) (s : State) (cx : Cx), Claims.At s cx →
    (∀ h < 16, w.hwait.getLsbD h = true →
      s.handleSt ((cx.w.h[h]?).getD .invalid) ≠ .invalid ∧ s.handleSt ((cx.w.h[h]?).getD .invalid) ≠ .pending) →
    (w.barw = true → cx.w.pendBar ≠ some cx.g.barGen) →
    exec (.clauseHeader w) s = .next (s.mapWarp cx.wid cx.k (fun y =>
      { y.mapLanes cx.lanes (fun x =>
          { x with clause := some { hdr := cx.wpc, words := w.count.toNat + 1, cls := w.cls.toNat }, pc := cx.wpc + 8,
                   wait := none }) with
        rotate := y.rotate || w.yh }))) ∧
  (∀ (w : FmtN) (s : State) (cx : Cx), Claims.At s cx →
    exec (.nop w) s = .next (Claims.cross s cx (fun _ => .write [] 0 0))) ∧
  (∀ (v : Word) (s : State) (cx : Cx), s.cx? = some cx →
    let stop := Stop.fault .illegal v (256 * wordMajor v + 1)
    let t := (Claims.cross s cx (fun _ => .stop stop)).stopLanes cx.wid cx.k cx.pc cx.next false
      (cx.lanes.map (fun l => (l, stop)))
    t.hole = none → exec (.unassignedEncoding v) s = .next t)

namespace Sys2Proof.Claims

/-- The executing lanes take effect one after another in ascending order, each lane's effect whole (R188). -/
def inTurn (cx : Cx) (f : State → Nat → Lane → State × LaneOut) (s : State) : State × List (Nat × LaneOut) :=
  cx.lanes.foldl (fun acc l =>
    match acc.1.lane? cx.wid cx.k l with
    | none => acc
    | some x => ((f acc.1 l x).1, acc.2 ++ [(l, (f acc.1 l x).2)])) (s, [])

/-- A lane of a flow instruction that is done. -/
def done : LaneOut := .write [] 0 0

/-- One lane's effect of RELABEL, ORDREL, ORDSKIP, HOLD and FLOWKILL (R188 to R193); a poisoned operand or one out of range stops the
lane. `below` holds each flow queue's WIDX as FLOWKILL has read it. -/
def flowRule (cx : Cx) (below : List (Word × Word)) : Instr → Option (State → Nat → Lane → State × LaneOut)
  | .relabel w => some (fun s l x =>
      let label := readOp s cx l 1 w.a
      let cls := readOp s cx l 1 w.b
      if !cx.g.flow then (s, .stop cx.illegal)
      else if label.p || cls.p then (s, .stop (poisonStop x 6))
      else if 3 < cls.v.toNat then (s, .stop cx.illegal)
      else
        match x.item with
        | none => (s, done)
        | some it => (s.relabel cx l it (label.v.setWidth 32) cls.v.toNat, done))
  | .ordrel w => some (fun s l x =>
      let len := readUni s cx 1 w.b
      let n := len.v.toNat
      if len.p then (s, .stop (poisonStop x 6))
      else if n % 4 != 0 || n < 4 || 64 < n || 8 * ((cx.g.kernel.regs + 7) / 8) < w.a.toNat + n / 4 then
        (s, .stop cx.illegal)
      else
        let words := (List.range (n / 4)).map (fun i => x.reg (w.a.toNat + i))
        if words.any (·.p) then (s, .stop (poisonStop x 6))
        else
          let bytes := words.flatMap (fun v => leBytes 4 v.v.toNat)
          match x.item with
          | none => (s, done)
          | some it => if it.owes cx.g then s.releaseOnce cx l it (.record bytes cx.g.pkt) else s.deliverNow cx bytes)
  | .ordskip _ => some (fun s l x =>
      match x.item with
      | none => (s, done)
      | some it => if it.owes cx.g then s.releaseOnce cx l it .skip else (s, done))
  | .hold w => some (fun s l x =>
      let d := readOp s cx l 1 w.a
      if !cx.g.flow then (s, .stop cx.illegal)
      else if d.p then (s, .stop (poisonStop x 6))
      else if 255 < d.v.toNat then (s, .stop cx.illegal)
      else
        match x.item with
        | none => (s, done)
        | some it =>
          ((s.mapFlow cx.ctx.num it.label (fun f => { f with hold := d.v.toNat })).drain cx.ctx.num it.label, done))
  | .flowkill w => some (fun s l x =>
      let label := readOp s cx l 1 w.a
      if label.p then (s, .stop (poisonStop x 6)) else (s.flowKill cx.ctx (label.v.setWidth 32) below, done))
  | _ => none

end Sys2Proof.Claims

/-- R36, R188 to R193: RELABEL, ORDREL, ORDSKIP, HOLD and FLOWKILL, where no lane stops, take effect lane by lane in ascending order,
and every lane goes on; ORDREL finds no store to a peer outstanding and no page of its ring in repair; FLOWKILL reads the WIDX of each
flow queue first and, unless a read must wait, cancels the handles of each label's warps, drops its entries below WIDX, its records and
its exclusion, and ends its items everywhere. -/
def Obligations.FlowInstructionsTakeEffectInLaneOrder : Prop :=
  ∀ (i : Instr) (f : State → Nat → Lane → State × LaneOut) (s : State) (cx : Cx), s.cx? = some cx →
    Claims.flowRule cx (s.killBelow cx.ctx) i = some f → (∀ w, i = .ordrel w → s.wcQuiet cx.g.core = true ∧ s.ordrelHold cx = none) →
    let read := match i with | .flowkill _ => (s.agentGets 6 cx.ctx (s.killReads cx.ctx)).1 | _ => s
    let r := Claims.inTurn cx f read
    let u := r.1.mapWarp cx.wid cx.k (fun y => y.commit cx.next false 0 r.2)
    (∀ w p, i = .flowkill w → s.killStall cx.ctx = some p →
      let t := read.stall cx (cx.lanes.map (fun l => (l, .repair p, false)))
      t.hole = none → exec i s = .next t) ∧
    (waitsOf r.2 = [] → stopsOf r.2 = [] →
      ((∀ w, i ≠ .flowkill w) → u.hole = none → exec i s = .next u) ∧
      (∀ w, i = .flowkill w → s.killStall cx.ctx = none → (u.endKilled).tidy.hole = none →
        exec i s = .next (u.endKilled).tidy))

/-- R29, R31: an item that joins a flow takes the flow's next number, owes a release if its class is ordered, stands last in line if its
class is atomic, and the flow's number grows by one; other flows are unchanged. -/
def Obligations.JoiningAFlowTakesTheNextNumber : Prop :=
  ∀ (s : State) (ctx cls dispatch : Nat) (label : W32),
    let r := s.joinFlow ctx label cls dispatch
    let before := (s.flow? ctx label).getD (Flow.fresh ctx label)
    r.2 = before.next ∧
    (∃ f, r.1.flow? ctx label = some f ∧ f.next = before.next + 1 ∧ f.hold = before.hold ∧
      (f.items = if cls % 2 = 1 then before.items ++ [{ seq := before.next, dispatch := dispatch, rel := .none }]
        else before.items) ∧
      (f.excl = if 2 ≤ cls then before.excl ++ [{ seq := before.next, dispatch := dispatch, holds := false }]
        else before.excl)) ∧
    (∀ c l, (c, l) ≠ (ctx, label) → r.1.flow? c l = s.flow? c l) ∧ r.1.mem = s.mem ∧ r.1.wgs = s.wgs

namespace Sys2Proof.Claims

/-- What an access of a lane asks of peers: its parts, and for a store that is sent alone the lines of each part at a peer (R307). -/
def askedParts (gather : Loc → Bool) (acc : Nat) (loc : Loc) (ps : List Part) : List Part :=
  if acc = 1 ∧ gather loc = false then ps.flatMap (fun p => if p.atPeer then p.split else [p]) else ps

/-- Every acting lane is left out, or its access lies at `loc` and can be made now: nothing stops it, its core's buffer is quiet where
it drains first, no peer has to answer and no store waits for an entry of the buffer, and it waits for nothing. -/
def Ready (s : State) (cx : Cx) (drains gather : Loc → Bool) (sz sp acc : Nat) (holds : State → Nat → Word → Loc → Option LaneOut)
    (plan : List MemPlan) : Prop :=
  ∀ p ∈ plan, match p.2 with
    | .error o => o = .skip ∨ ∃ ws, o = .write ws 0 0
    | .ok (a, loc) => (drains loc = true → s.wcQuiet cx.g.core = true) ∧ holds s p.1 a loc = none ∧
        match loc with
        | .mem ps => ∀ q ∈ askedParts gather acc loc ps, s.peerNeed cx p.1 (gather loc) (memDetail 0 sz sp acc) q = .none
        | .scr _ _ => True
        | _ => False

/-- The accesses of the acting lanes, in ascending order. -/
def performed (perform : State → Nat → Word → Loc → State × LaneOut) : List MemPlan → State → State × List (Nat × LaneOut)
  | [], s => (s, [])
  | (l, .error o) :: ps, s => ((performed perform ps s).1, (l, o) :: (performed perform ps s).2)
  | (l, .ok (a, loc)) :: ps, s =>
    let x := perform s l a loc
    ((performed perform ps x.1).1, (l, x.2) :: (performed perform ps x.1).2)

/-- The state after the accesses: the lanes take their results, and used answers of peers are forgotten. -/
def accessed (s : State) (cx : Cx) (su long : Bool) (run : Nat) (perform : State → Nat → Word → Loc → State × LaneOut)
    (plan : List MemPlan) : State :=
  let r := performed perform plan s
  (r.1.forget cx.wid cx.k cx.lanes).commit cx su long run (spreadOuts cx su r.2)

/-- An ordinary access waits for nothing more. -/
def noHold : State → Nat → Word → Loc → Option LaneOut := fun _ _ _ _ => none

end Sys2Proof.Claims

/-- R202, R203: a load whose lanes' accesses are ready gives each lane the bytes at its address, with their poison, as a pending
result. -/
def Obligations.LoadsReadTheirBytes : Prop :=
  ∀ (w : FmtM) (s : State) (cx : Cx), s.cx? = some cx →
    let su := (form (.ld w)).scalarUnit
    let plan := (actors cx su).map (loadPlan s cx su w)
    let t := Claims.accessed s cx su true w.run.toNat (fun s l _ loc =>
      (s.locTouch cx loc, .write (loadWrites l w.d (s.locBytes cx l loc (szBytes w.sz))) 0 0)) plan
    Claims.Ready s cx (drainsFirst 0 0) (fun _ => false) w.sz.toNat w.sp.toNat 0 Claims.noHold plan → t.hole = none →
    exec (.ld w) s = .next t

/-- R204: a store whose lanes' accesses are ready writes each lane's data at its address, in ascending order of the lanes. -/
def Obligations.StoresWriteTheirBytes : Prop :=
  ∀ (w : FmtM) (s : State) (cx : Cx), s.cx? = some cx →
    let su := (form (.st w)).scalarUnit
    let drains := fun loc => w.sp != 2 && drainsFirst w.ord.toNat w.scope.toNat loc
    let plan := (actors cx su).map (fun l => guardedPlan s cx su w l (storeData s cx su l w).2 true .store)
    let t := Claims.accessed s cx su false 0 (fun s l _ loc =>
      (s.locWrite cx l (drains loc) loc (storeData s cx su l w).1, .write [] 0 0)) plan
    Claims.Ready s cx drains (fun loc => !drains loc) w.sz.toNat w.sp.toNat 1 (fun s _ a loc => fillingHold s a loc w.sz.toNat 1) plan →
    t.hole = none → exec (.st w) s = .next t

/-- R60, R205: a consuming load whose lanes' tiles are all ready reads them together and then consumes each tile once. -/
def Obligations.ConsumingLoadsReadThenConsume : Prop :=
  ∀ (w : FmtM) (s : State) (cx : Cx), s.cx? = some cx →
    let su := (form (.ldc w)).scalarUnit
    let n := szBytes w.sz
    let plan := (actors cx su).map (loadPlan s cx su w)
    let t := (planTiles plan n).foldl (fun s t => s.mapWg t.1 (fun g => g.consume t.2))
      (Claims.accessed s cx su true w.run.toNat
        (fun s l _ loc => (s, .write (loadWrites l w.d (s.locBytes cx l loc n)) 0 0)) plan)
    Claims.Ready s cx (fun _ => false) (fun _ => false) w.sz.toNat 0 0
      (fun s _ a loc => jointHold s plan w.sz.toNat n a loc) plan →
    t.hole = none → exec (.ldc w) s = .next t

/-- R208 to R210: ATOM and CAS whose lanes' accesses are ready each perform one read-modify-write, in ascending order of the lanes,
and give the old value. -/
def Obligations.AtomicsReadModifyWrite : Prop :=
  (∀ (w : FmtM) (s : State) (cx : Cx), s.cx? = some cx →
    let su := (form (.atom w)).scalarUnit
    let op := w.disp.toNat % 16
    let nr := w.disp.getLsbD 4
    let d := fun l => readAt s cx su l (szTy w.sz) w.d
    let plan := (actors cx su).map (fun l => guardedPlan s cx su w l (d l).p false .atomic)
    let t := Claims.accessed s cx su (!nr) w.run.toNat (fun s l _ loc =>
      let r := s.rmw cx l loc (szBytes w.sz) (fun m => some (atomFn op w.sz.toNat m (d l).v.toNat))
      (r.1, .write (if nr then [] else destWrites l w.d (szTy w.sz) r.2.v r.2.p) 0 0)) plan
    Claims.Ready s cx (drainsFirst w.ord.toNat w.scope.toNat) (fun _ => false) w.sz.toNat w.sp.toNat 2 (fun s _ a loc =>
      (hostAtomic s loc (op == 0 || op == 8) a w.sz.toNat w.sp.toNat).orElse (fun _ => fillingHold s a loc w.sz.toNat 2)) plan →
    t.hole = none → exec (.atom w) s = .next t) ∧
  (∀ (w : FmtM) (s : State) (cx : Cx), s.cx? = some cx →
    let exp := fun l => readOp s cx l (szTy w.sz) w.d
    let new := fun l => readOp s cx l (szTy w.sz) (w.d + (if w.sz == 3 then 2 else 1))
    let plan := cx.lanes.map (fun l => guardedPlan s cx false w l ((exp l).p || (new l).p) false .atomic)
    let t := Claims.accessed s cx false true w.run.toNat (fun s l _ loc =>
      let r := s.rmw cx l loc (szBytes w.sz) (fun m => if m == (exp l).v.toNat then some (new l).v.toNat else none)
      (r.1, .write (destWrites l w.d (szTy w.sz) r.2.v r.2.p) 0 0)) plan
    Claims.Ready s cx (drainsFirst w.ord.toNat w.scope.toNat) (fun _ => false) w.sz.toNat w.sp.toNat 2 (fun s _ a loc =>
      (hostAtomic s loc true a w.sz.toNat w.sp.toNat).orElse (fun _ => fillingHold s a loc w.sz.toNat 2)) plan →
    t.hole = none → exec (.cas w) s = .next t)

/-- R59, R207: TWAIT on tiles that are ready goes on; TSET makes its tile FULL with its count; TCLR makes it EMPTY, and zeroes a POISON
tile; TTEST reads the tag. -/
def Obligations.TagInstructionsSetAndTest : Prop :=
  (∀ (w : FmtM) (s : State) (cx : Cx), s.cx? = some cx →
    let plan := cx.lanes.map (tagPlan s cx w)
    let tiles := plan.map (fun p => match p.2 with | .ok (a, loc) => (p.1, Except.ok (a &&& ~~~0xFF, loc)) | _ => p)
    let t := Claims.accessed s cx false false 0 (fun s _ _ _ => (s, .write [] 0 0)) plan
    Claims.Ready s cx (fun _ => false) (fun _ => false) w.sz.toNat 0 0
      (fun s _ a loc => jointHold s tiles w.sz.toNat 1 (a &&& ~~~0xFF) loc) plan →
    t.hole = none → exec (.twait w) s = .next t) ∧
  (∀ (w : FmtM) (s : State) (cx : Cx), s.cx? = some cx →
    let plan := cx.lanes.map (tagPlan s cx w)
    let n := fun l => (readOp s cx l 1 w.d).v.toNat
    let t := Claims.accessed s cx false false 0 (fun s l _ loc =>
      match loc with
      | .scr o off => (s.mapWg o (fun g => g.setTag (off / 256) (.full (n l))), .write [] 0 0)
      | _ => (s, .skip)) plan
    (∀ l ∈ cx.lanes, 1 ≤ n l ∧ n l ≤ 8) →
    Claims.Ready s cx (fun _ => false) (fun _ => false) w.sz.toNat 0 0
      (fun s _ a loc => fillingHold s (a &&& ~~~0xFF) loc w.sz.toNat 0 1) plan →
    t.hole = none → exec (.tset w) s = .next t) ∧
  (∀ (w : FmtM) (s : State) (cx : Cx), s.cx? = some cx →
    let plan := cx.lanes.map (tagPlan s cx w)
    let t := Claims.accessed s cx false false 0 (fun s _ _ loc =>
      match loc with
      | .scr o off =>
        ((if s.tag o (off / 256) = .poison then s.scrWrite o off (List.replicate 256 0) else s).mapWg o
          (fun g => g.setTag (off / 256) .empty), .write [] 0 0)
      | _ => (s, .skip)) plan
    Claims.Ready s cx (fun _ => false) (fun _ => false) w.sz.toNat 0 0
      (fun s _ a loc => fillingHold s (a &&& ~~~0xFF) loc w.sz.toNat 0 1) plan →
    t.hole = none → exec (.tclr w) s = .next t) ∧
  (∀ (w : FmtM) (s : State) (cx : Cx), s.cx? = some cx →
    let plan := cx.lanes.map (tagPlan s cx w)
    let t := Claims.accessed s cx false false 0 (fun s l _ loc =>
      match loc with
      | .scr o off => (s, .write (destWrites l w.d 1 (BitVec.ofNat 64 (s.tag o (off / 256)).value) false) 0 0)
      | _ => (s, .skip)) plan
    Claims.Ready s cx (fun _ => false) (fun _ => false) w.sz.toNat 0 0 Claims.noHold plan →
    t.hole = none → exec (.ttest w) s = .next t)

/-- R206, R211: PREF and CCTL with unpoisoned addresses change what the caches hold of the lines that their lanes name, ignore an
address that does not translate, and change no memory; a FENCE with nothing outstanding to a peer only goes on. Which lines a cache
holds, in which order they leave it and which are dirty is the model's own account of them (log 6), and that a FENCE of the lane's own
accesses has nothing to wait for rests on the model's performing them in order as they execute (log 13). -/
def Obligations.CacheHintsAndFencesGoOn : Prop :=
  (∀ (i : Instr) (w : FmtM) (f : Nat → Nat → MemState → MemState) (s : State) (cx : Cx), Claims.At s cx →
    (i = .pref w ∧ f = (fun core line m =>
        if w.d.toNat % 4 = 0 then (m.fill2 line false).fill1 core line else m.fill2 line false) ∨
     i = .cctlInv1 w ∧ f = (fun core line m => { m with l1 := m.l1.filter (fun x => x != (core, line)) }) ∨
     i = .cctlInv1all w ∧ f = (fun core _ m => { m with l1 := m.l1.filter (fun x => x.1 != core) }) ∨
     i = .cctlClean2 w ∧
       f = (fun _ line m => { m with l2 := m.l2.map (fun x => if x.1 == line then (line, false) else x) }) ∨
     i = .cctlFlush2 w ∧ f = (fun _ line m => { m with l2 := m.l2.filter (fun x => x.1 != line) })) →
    let su := (form i).scalarUnit
    let ls := actors cx su
    (∀ l ∈ ls, (cx.lane? l).isSome ∧ (addrOf s cx su l w true).p = false) → cx.lanes ≠ [] →
    exec i s = .next ((ls.foldl (fun s l =>
        match s.hintLine cx l (addrOf s cx su l w true).v with
        | some line => { s with mem := f cx.g.core line s.mem }
        | none => s) s).mapWarp cx.wid cx.k (fun y =>
      y.commit cx.next false 0 (cx.lanes.map (fun l => (l, .skip)))))) ∧
  (∀ (w : FmtM) (s : State) (cx : Cx), Claims.At s cx → s.wcQuiet cx.g.core = true →
    exec (.fence w) s = .next (Claims.cross s cx (fun _ => .skip)))

/-- R194: ENQ whose lanes' packets lie in readable memory without poison puts each lane's packet into the user queue that it names,
in ascending order of the lanes, and gives the status. Where a queue's descriptor lies at a peer each lane ends on its own: one whose
answers the lanes before it have used up waits. -/
def Obligations.EnqueuePutsPackets : Prop :=
  ∀ (w : FmtA) (s : State) (cx : Cx), s.cx? = some cx →
    let q := fun l => (readOp s cx l 1 w.b).v.toNat
    let bytes := fun (s : State) l loc => (s.locBytes cx l loc 64).map (·.1)
    let plan := cx.lanes.map (enqPlan s cx w)
    let perform := fun (s : State) (l : Nat) (_ : Word) loc =>
      match cx.lane? l with
      | none => (s, .skip)
      | some x =>
        let s := s.locTouch cx loc
        if (s.locBytes cx l loc 64).any (·.2) then (s, flowPoison x)
        else
          let r := s.enqueue cx.ctx (q l) (bytes s l loc)
          match r.2 with
          | .error va => (r.1, .wait (.repair (va / 4096)) false)
          | .ok st => (r.1, .write (destWrites l w.d 1 (BitVec.ofNat 64 st) false) 0 0)
    let r := Claims.performed perform plan s
    let t := if cx.lanes.any (fun l => s.queueAtPeer cx.ctx (q l)) then
        (r.1.forget cx.wid cx.k (answeredLanes r.2)).commitEach cx false false 0 r.2
      else (r.1.forget cx.wid cx.k cx.lanes).commit cx false false 0 r.2
    Claims.Ready s cx (drainsFirst 0 0) (fun _ => false) 6 0 0 (fun s l _ loc =>
      match (s.enqueue cx.ctx (q l) (bytes s l loc)).2 with
      | .error va => some (.wait (.repair (va / 4096)) false)
      | .ok _ => none) plan →
    t.hole = none → exec (.enq w) s = .next t

namespace Sys2Proof.Claims

/-- A memory side of an engine word: n bytes at `a`, in scratch or in global memory (R212). -/
def Side (cx : Cx) (scr : Bool) (a : Word) (n : Nat) (m : Ep) : Prop :=
  match scr, m with
  | true, .scr o b => cx.g.scratch a.toNat n = some (o, b)
  | false, .glob v => v = a
  | _, _ => False

/-- A uniform operand of an engine word that is not poisoned, with its value. -/
def Uniform (s : State) (cx : Cx) (t : BitVec 4) (c : Code) (v : Word) : Prop := readUni s cx t c = { v := v, p := false }

/-- The event-and-map operand of COPY (R217): bits [15:0] the event, bits [31:16] the map, 0 where D is 0. -/
def EventMap (s : State) (cx : Cx) (w : FmtE) (ev map : Nat) : Prop :=
  ∃ d : Word, ev = bitsOf d.toNat 0 16 ∧ map = bitsOf d.toNat 16 16 ∧
    ((w.d = 0 ∧ d = 0) ∨ (w.d ≠ 0 ∧ Uniform s cx 1 w.d d))

/-- The checks of a COPY of mode 0 to 2 pass: the rights, the size, the alignment and the source (R212, R217). -/
def CopyFits (s : State) (cx : Cx) (w : FmtE) (a b : Word) (n ev map : Nat) (src : Ep) : Prop :=
  cx.producer = true ∧ Uniform s cx 3 w.a a ∧ Uniform s cx 3 w.b b ∧ (∃ v, Uniform s cx 1 w.c v ∧ n = v.toNat) ∧
  EventMap s cx w ev map ∧ n % 16 = 0 ∧ n ≤ 2 ^ 24 ∧ b.toNat % 16 = 0 ∧ Side cx w.sscr b n src

/-- R217 to R221: the operation that a COPY word issues, with its event. -/
def Copies (s : State) (cx : Cx) (i : Instr) (kind : OpKind) (ev : Nat) : Prop :=
  match i with
  | .copyLocal w => ∃ a b n src dst, w.mode = 0 ∧ CopyFits s cx w a b n ev 0 src ∧ a.toNat % 16 = 0 ∧ Side cx w.dscr a n dst ∧
      kind = .copy dst src n (w.cc + 1)
  | .copyRemote w => ∃ a b n src, w.mode = 1 ∧ CopyFits s cx w a b n ev 0 src ∧ bitsOf a.toNat 32 21 % 16 = 0 ∧
      kind = .remote none false
        [(0, { peer := bitsOf a.toNat 60 4, alloc := a.setWidth 32, off := bitsOf a.toNat 32 21 })] src n (w.cc + 1)
  | .copyMulticast w => ∃ a b n map src, w.mode = 2 ∧ CopyFits s cx w a b n ev map src ∧ a.toNat % 8 = 0 ∧
      kind = .remote (some (a, map)) true [] src n (w.cc + 1)
  | .copyDrain w => ∃ p : Word, cx.producer = true ∧ Uniform s cx 1 w.a p ∧ p.toNat ≤ 15 ∧ EventMap s cx w ev 0 ∧
      kind = .drain p.toNat
  | _ => False

/-- R222: the descriptor of a TCOPY, from its two registers and its count of panels. -/
def conversion (x y : Word) (n : Nat) : Convert where
  fmt := bitsOf x.toNat 0 4
  planes := bitsOf x.toNat 8 4 + 1
  se := bitsOf x.toNat 16 8
  pitch := bitsOf x.toNat 32 32
  spitch := bitsOf y.toNat 48 16
  scale := BitVec.ofNat 64 (bitsOf y.toNat 0 48)
  panels := n

/-- R222 to R224: the operation that TCOPY and WNST issue. -/
def Converts (s : State) (cx : Cx) (i : Instr) (kind : OpKind) : Prop :=
  match i with
  | .tcopy w => ∃ (a b x y n : Word) (src dst : Ep), cx.producer = true ∧ Uniform s cx 3 w.a a ∧ Uniform s cx 3 w.b b ∧
      Uniform s cx 3 w.c x ∧ Uniform s cx 3 (w.c + 1) y ∧ Uniform s cx 1 w.d n ∧
      let c := conversion x y n.toNat
      c.fmt ≤ 8 ∧ (c.fmt = 8 → c.planes = 1) ∧ 1 ≤ c.panels ∧ c.panels ≤ 256 ∧ a.toNat % 256 = 0 ∧
      Side cx true a (256 * (if c.fmt = 8 then 26 else 3 * c.planes + 2) * c.panels) dst ∧
      Side cx w.sscr b (spanBytes 128 c.pitch c.rowBytes) src ∧ kind = .tcopy dst src c (w.cc + 1)
  | .wnst w => ∃ (a b base n : Word) (src : Ep), cx.producer = true ∧ Uniform s cx 3 w.a a ∧ Uniform s cx 3 w.b b ∧
      Uniform s cx 1 w.c base ∧ Uniform s cx 1 w.d n ∧ 1 ≤ n.toNat ∧ n.toNat ≤ 16384 ∧ b.toNat % 4096 = 0 ∧ b.toNat < 2 ^ 48 ∧
      (∀ f, s.translate (dieOf cx.g.core) 1000 cx.ctx b.toNat = .ok f → f.target = .hbm) ∧
      (∀ h, s.translate (dieOf cx.g.core) 1000 cx.ctx b.toNat ≠ .hole h) ∧
      Side cx w.sscr a (4 * n.toNat) src ∧ kind = .wnst src (w.flags.getLsbD 4) b base.toNat n.toNat
  | _ => False

/-- R227, R228, R231, R233: the matrix command that MLOOP, MZERO, ACST and ACLD issue. -/
def Commands (s : State) (cx : Cx) (i : Instr) (kind : OpKind) : Prop :=
  let moves := fun (w : FmtE) (a row col d : Word) (m : Ep) (rows cols pitch : Nat) =>
    Uniform s cx 3 w.a a ∧ Uniform s cx 1 w.b row ∧ Uniform s cx 1 w.c col ∧ Uniform s cx 1 w.d d ∧
    rows = 16 * (bitsOf w.flags.toNat 4 4 + 1) ∧ cols = 16 * (bitsOf d.toNat 24 4 + 1) ∧ pitch = bitsOf d.toNat 0 24 ∧
    pitch % 16 = 0 ∧ row.toNat % 16 = 0 ∧ col.toNat % 16 = 0 ∧ row.toNat + rows ≤ cx.g.acc.length ∧ col.toNat + cols ≤ 256 ∧
    let width := cols * (if w.flags.toNat % 4 = 0 then 4 else 2)
    width ≤ pitch ∧ Side cx (w.flags.getLsbD 2) a (spanBytes rows pitch width) m
  match i with
  | .mloop w => ∃ x y z u : Word, Uniform s cx 3 (w.a + 0) x ∧ Uniform s cx 3 (w.a + 1) y ∧ Uniform s cx 3 (w.a + 2) z ∧
      Uniform s cx 3 (w.a + 3) u ∧ mloopIllegal x.toNat y.toNat z.toNat u.toNat = false ∧
      let d := MloopDesc.ofWords x.toNat y.toNat z.toNat u.toNat
      d.a.base % 256 = 0 ∧ d.b.base % 256 = 0 ∧ d.row0 % 16 = 0 ∧ d.col0 % 16 = 0 ∧ d.rowinc % 16 = 0 ∧ d.colinc % 16 = 0 ∧
      (cx.g.scratch d.a.base (256 * d.a.stride * d.a.count)).isSome ∧
      (cx.g.scratch d.b.base (256 * d.b.stride * d.b.count)).isSome ∧
      (∀ r < d.regions, d.row r + 128 ≤ cx.g.acc.length ∧ d.col r + 128 ≤ 256) ∧ kind = .mloop d
  | .mzero w => ∃ row col rows cols : Word, Uniform s cx 1 w.a row ∧ Uniform s cx 1 w.b col ∧ Uniform s cx 1 w.c rows ∧
      Uniform s cx 1 w.d cols ∧ rows.toNat % 16 = 0 ∧ 1 ≤ rows.toNat ∧ rows.toNat ≤ 512 ∧ cols.toNat % 16 = 0 ∧
      1 ≤ cols.toNat ∧ cols.toNat ≤ 256 ∧ row.toNat % 16 = 0 ∧ col.toNat % 16 = 0 ∧
      row.toNat + rows.toNat ≤ cx.g.acc.length ∧ col.toNat + cols.toNat ≤ 256 ∧
      kind = .mzero row.toNat col.toNat rows.toNat cols.toNat
  | .acst w => ∃ (a row col d : Word) (m : Ep) (rows cols pitch : Nat), moves w a row col d m rows cols pitch ∧
      kind = .acst m row.toNat col.toNat rows cols pitch (w.flags.toNat % 4)
  | .acld w => ∃ (a row col d : Word) (m : Ep) (rows cols pitch : Nat), moves w a row col d m rows cols pitch ∧
      kind = .acld m row.toNat col.toNat rows cols pitch (w.flags.toNat % 4)
  | _ => False

/-- The handle that an engine word names. -/
def handleOf : Instr → Nat
  | .copyLocal w | .copyRemote w | .copyMulticast w | .copyDrain w | .tcopy w | .wnst w | .mloop w | .mzero w | .acst w | .acld w
  | .ownpass w | .owntake w => w.h.toNat
  | _ => 0

/-- An engine word can issue: its handle is not pending, and the scoreboard and the queue have room (R68, R201, R213, R226). -/
def CanIssue (s : State) (cx : Cx) (h : Nat) (kind : OpKind) : Prop :=
  s.handleSt ((cx.w.h[h]?).getD .invalid) ≠ .pending ∧ (kind.board.isSome → (s.board cx.g.core).length < 32) ∧
  s.queueRoom cx.g.core cx.wid kind.queue = true

/-- The operation stands last in its queue, the handle is bound to it, the completion record's number is taken, and the lanes go on. -/
def issued (s : State) (cx : Cx) (h : Nat) (kind : OpKind) (ev : Nat) : State :=
  cross (s.issueOp cx (some h) kind ev) cx (fun _ => .write [] 0 0)

end Sys2Proof.Claims

/-- R213, R217 to R224: a COPY, TCOPY or WNST whose operands pass the checks issues its operation and goes on. -/
def Obligations.CopiesAndConversionsAreIssued : Prop :=
  ∀ (i : Instr) (s : State) (cx : Cx) (kind : OpKind) (ev : Nat), Claims.At s cx →
    Claims.Copies s cx i kind ev ∨ (ev = 0 ∧ Claims.Converts s cx i kind) →
    Claims.CanIssue s cx (Claims.handleOf i) kind → exec i s = .next (Claims.issued s cx (Claims.handleOf i) kind ev)

/-- R226 to R228, R230, R231, R233: a matrix command whose operands pass the checks stands in the matrix queue, and so does a chain
marker, which opens or closes the warp's chain. -/
def Obligations.MatrixCommandsAreQueued : Prop :=
  (∀ (i : Instr) (s : State) (cx : Cx) (kind : OpKind), Claims.At s cx → Claims.Commands s cx i kind →
    Claims.CanIssue s cx (Claims.handleOf i) kind → exec i s = .next (Claims.issued s cx (Claims.handleOf i) kind 0)) ∧
  (∀ (opens : Bool) (w : FmtE) (s : State) (cx : Cx), Claims.At s cx → cx.w.chain.isSome = !opens →
    s.queueRoom cx.g.core cx.wid .matrix = true →
    exec (if opens then .mchainB w else .mchainE w) s = .next (Claims.cross
      ((s.issueOp cx none (.chain opens) 0).mapWarp cx.wid cx.k (fun y =>
        { y with chain := if opens then some s.nextOp else none })) cx (fun _ => .write [] 0 0)))

/-- R225: RINGWAIT on a slot whose record has the PHASE it asks for gives its first 8 bytes. R232: ACRD gives lane l elements of row
row0 + l of the accumulator, once no command that writes one of them is outstanding; ACWR writes them from the lane's registers. -/
def Obligations.LanesReadRecordsAndTheAccumulator : Prop :=
  (∀ (w : FmtE) (s : State) (cx : Cx) (a ph : Word), s.cx? = some cx →
    Claims.Uniform s cx 3 w.a a → Claims.Uniform s cx 1 w.b ph → ph.toNat ≤ 1 → a.toNat % 32 = 0 →
    let plan : List MemPlan := cx.lanes.map (fun l => (l, .ok (a, s.locate cx l 0 3 .load false a)))
    let t := Claims.accessed s cx false true w.run.toNat (fun s l _ loc =>
      (s.locTouch cx loc, .write (destWrites l w.d 3 (pval (s.locBytes cx l loc 8)).v (pval (s.locBytes cx l loc 8)).p) 0 0)) plan
    Claims.Ready s cx (drainsFirst 0 0) (fun _ => false) 3 0 0 (fun s l _ loc =>
      if bitsOf (pval (s.locBytes cx l loc 8)).v.toNat 24 1 = ph.toNat then none else some (.wait (.ring a ph.toNat) false)) plan →
    t.hole = none → exec (.ringwait w) s = .next t) ∧
  (∀ (w : FmtE) (s : State) (cx : Cx) (row col n : Word), Claims.At s cx → Claims.Uniform s cx 1 w.a row →
    Claims.Uniform s cx 1 w.b col → Claims.Uniform s cx 1 w.c n → 1 ≤ n.toNat → n.toNat ≤ 16 →
    w.d.toNat + n.toNat ≤ 8 * ((cx.g.kernel.regs + 7) / 8) → row.toNat % 16 = 0 → col.toNat % 16 = 0 →
    row.toNat + cx.w.lanes.length ≤ cx.g.acc.length → col.toNat + n.toNat ≤ 256 →
    s.accBusy cx.wid row.toNat col.toNat cx.w.lanes.length n.toNat = false →
    exec (.acrd w) s = .next (s.mapWarp cx.wid cx.k (fun y => y.commit cx.next true w.run.toNat (cx.lanes.map (fun l =>
      (l, .write ((List.range n.toNat).map (fun i =>
        { lane := some l, dst := .lane (w.d.toNat + i), val := (cx.g.accAt (row.toNat + l) (col.toNat + i)).setWidth 64,
          poison := false })) 0 0)))))) ∧
  (∀ (w : FmtE) (s : State) (cx : Cx) (row col n : Word), Claims.At s cx → Claims.Uniform s cx 1 w.a row →
    Claims.Uniform s cx 1 w.b col → Claims.Uniform s cx 1 w.c n → 1 ≤ n.toNat → n.toNat ≤ 16 →
    w.d.toNat + n.toNat ≤ 8 * ((cx.g.kernel.regs + 7) / 8) → row.toNat % 16 = 0 → col.toNat % 16 = 0 →
    row.toNat + cx.w.lanes.length ≤ cx.g.acc.length → col.toNat + n.toNat ≤ 256 →
    s.accBusy cx.wid row.toNat col.toNat cx.w.lanes.length n.toNat = false →
    let val := fun l i => readOp s cx l 1 (w.d + BitVec.ofNat 9 i)
    (∀ l ∈ cx.lanes, (cx.lane? l).isSome ∧ ∀ i < n.toNat, (val l i).p = false) →
    exec (.acwr w) s = .next (Claims.cross
      (cx.lanes.foldl (fun s l => s.accMap cx.wid (row.toNat + l) col.toNat 1 n.toNat (fun _ i x =>
        if i < n.toNat then (val l i).v.setWidth 32 else x)) s) cx (fun _ => .write [] 0 0)))

/-- R234 to R237: WAIT on a handle that is left goes on, with its status if asked; HTEST tells whether the handle is left; HCANCEL
cancels the operation; HMOV gives a token for the handle, and binds a handle by a token whose handle still holds it. -/
def Obligations.HandlesAreWaitedForTestedCancelledAndMoved : Prop :=
  (∀ (w : FmtE) (s : State) (cx : Cx) (r : OpStatus) (c : Byte), Claims.At s cx →
    s.handleSt (cx.w.handle w.h.toNat) = .left r c →
    exec (.wait w) s = .next (
      if w.flags.getLsbD 0 then s.mapWarp cx.wid cx.k (fun y => y.commit cx.next true w.run.toNat (cx.lanes.map (fun l =>
        (l, .write (destWrites l w.d 1 (BitVec.ofNat 64 (r.code + 256 * c.toNat)) false) 0 0))))
      else Claims.cross s cx (fun _ => .write [] 0 0))) ∧
  (∀ (w : FmtE) (s : State) (cx : Cx), Claims.At s cx → s.handleSt (cx.w.handle w.h.toNat) ≠ .invalid →
    exec (.htest w) s = .next (Claims.cross s cx (fun l =>
      .write (predWrites l w.d (decide (s.handleSt (cx.w.handle w.h.toNat) ≠ .pending)) false) 0 0))) ∧
  (∀ (w : FmtE) (s : State) (cx : Cx) (id gen : Nat), s.cx? = some cx → cx.w.handle w.h.toNat = .bound id gen →
    let t := (Claims.cross (s.cancelOp id) cx (fun _ => .write [] 0 0)).tidy
    t.hole = none → exec (.hcancel w) s = .next t) ∧
  (∀ (w : FmtE) (s : State) (cx : Cx) (id gen : Nat), Claims.At s cx → cx.w.handle w.h.toNat = .bound id gen →
    exec (.hmovExport w) s = .next (s.mapWarp cx.wid cx.k (fun y => y.commit cx.next true w.run.toNat (cx.lanes.map (fun l =>
      (l, .write (destWrites l w.a 3 (handleToken gen cx.g.core cx.w.slot w.h.toNat) false) 0 0)))))) ∧
  (∀ (w : FmtE) (s : State) (cx : Cx) (v : Word) (wid k : Nat) (y : Warp) (id gen : Nat), Claims.At s cx →
    s.handleSt (cx.w.handle w.h.toNat) ≠ .pending → Claims.Uniform s cx 3 w.a v →
    bitsOf v.toNat 11 7 = cx.g.core % 128 → s.slot? cx.g.core (bitsOf v.toNat 4 7) = some (wid, k) → s.warp? wid k = some y →
    y.handle (bitsOf v.toNat 0 4) = .bound id gen → gen = bitsOf v.toNat 18 30 →
    exec (.hmovImport w) s = .next (Claims.cross (s.bind cx.wid cx.k w.h.toNat id) cx (fun _ => .write [] 0 0)))

/-- R238: OWNPASS of a range of the workgroup's allocation or of a whole buffer it holds, and OWNTAKE, stand until they meet; passes
that can be taken are taken at once. -/
def Obligations.OwnershipIsPassedAndTaken : Prop :=
  (∀ (w : FmtE) (s : State) (cx : Cx) (off n slot : Word) (kind : OpKind), s.cx? = some cx → cx.g.kernel.stages ≠ 1 →
    Claims.Uniform s cx 1 w.a off → Claims.Uniform s cx 1 w.b n → Claims.Uniform s cx 1 w.c slot → slot.toNat ≤ 15 →
    off.toNat % 256 = 0 → n.toNat % 256 = 0 →
    (if off.toNat < 2 ^ 24 then (cx.g.scratch off.toNat n.toNat).isSome ∧
        kind = .ownpass slot.toNat { slot := slot.toNat, origin := cx.wid, tile := off.toNat / 256, count := n.toNat / 256 } none
      else ∃ x, cx.g.wins.find? (fun x => 2 ^ 24 * (x.slot + 1) == off.toNat && 256 * x.count == n.toNat) = some x ∧
        kind = .ownpass slot.toNat { x with slot := slot.toNat } (some x.slot)) →
    Claims.CanIssue s cx w.h.toNat kind →
    let t := (Claims.issued s cx w.h.toNat kind 0).tidy
    t.hole = none → exec (.ownpass w) s = .next t) ∧
  (∀ (w : FmtE) (s : State) (cx : Cx) (slot : Word), s.cx? = some cx → Claims.Uniform s cx 1 w.c slot → slot.toNat ≤ 15 →
    Claims.CanIssue s cx w.h.toNat (.owntake slot.toNat) →
    let t := (Claims.issued s cx w.h.toNat (.owntake slot.toNat) 0).tidy
    t.hole = none → exec (.owntake w) s = .next t)

namespace Sys2Proof.Claims

/-- The warp commits what the acting lanes give; on the scalar unit each executing lane shares it (R122). -/
def spread (s : State) (cx : Cx) (su long : Bool) (run : Nat) (out : Nat → LaneOut) : State :=
  s.mapWarp cx.wid cx.k (fun y => y.commit cx.next long run (spreadOuts cx su ((actors cx su).map (fun l => (l, out l)))))

/-- The plan of a signal's access in each acting lane: 8 bytes of global memory at the lane's address (R241), an update or a read. -/
def signalPlans (s : State) (cx : Cx) (su : Bool) (w : FmtA) (k : AccKind) : List MemPlan :=
  (actors cx su).map (fun l => (l, .ok ((readAt s cx su l 3 w.a).v, s.locate cx l 0 3 k false (readAt s cx su l 3 w.a).v)))

/-- The operands of a signal instruction are there, not poisoned, and the addresses aligned. -/
def SignalOperands (s : State) (cx : Cx) (su : Bool) (w : FmtA) : Prop :=
  ∀ l ∈ actors cx su, (cx.lane? l).isSome ∧ (readAt s cx su l 3 w.a).p = false ∧ (readAt s cx su l 3 w.b).p = false ∧
    (readAt s cx su l 3 w.a).v.toNat % 8 = 0

end Sys2Proof.Claims

/-- R239, R240: EVWAIT on events that have reached their targets gives their counts and goes on; EVSIG adds to events. R241: SIGADD adds
to the 64-bit value at its address at once and wakes the device's waiters on it; SIGWAIT on a value that meets its condition gives
the value and goes on. R242: TIME gives the timebase in nanoseconds. -/
def Obligations.EventsSignalsAndTime : Prop :=
  (∀ (w : FmtA) (s : State) (cx : Cx), Claims.At s cx →
    let su := (form (.evwait w)).scalarUnit
    let e := fun l => readAt s cx su l 1 w.a
    let t := fun l => readAt s cx su l 1 w.b
    (∀ l ∈ actors cx su, (cx.lane? l).isSome ∧ (e l).p = false ∧ (t l).p = false ∧ 1 ≤ (e l).v.toNat ∧ (e l).v.toNat < 65536 ∧
      (cx.ctx.event (e l).v.toNat - (t l).v.setWidth 32).toNat < 2 ^ 31) →
    exec (.evwait w) s = .next (Claims.spread s cx su true w.run.toNat (fun l =>
      .write (destWrites l w.d 1 ((cx.ctx.event (e l).v.toNat).setWidth 64) false) 0 0))) ∧
  (∀ (w : FmtA) (s : State) (cx : Cx), s.cx? = some cx →
    let su := (form (.evsig w)).scalarUnit
    let e := fun l => readAt s cx su l 1 w.a
    let n := fun l => readAt s cx su l 1 w.b
    (∀ l ∈ actors cx su, (cx.lane? l).isSome ∧ (e l).p = false ∧ (n l).p = false ∧ 1 ≤ (e l).v.toNat ∧ (e l).v.toNat < 65536 ∧
      1 ≤ (n l).v.toNat ∧ (n l).v.toNat < 65536) →
    let t := Claims.spread ((actors cx su).foldl (fun s l => s.evAdd cx.ctx.num (e l).v.toNat ((n l).v.setWidth 32)) s) cx su
      false 0 (fun _ => .write [] 0 0)
    t.hole = none → exec (.evsig w) s = .next t) ∧
  (∀ (w : FmtA) (s : State) (cx : Cx), s.cx? = some cx →
    let su := (form (.sigadd w)).scalarUnit
    let v := fun l => (readAt s cx su l 3 w.b).v
    let plan := Claims.signalPlans s cx su w .signal
    let t := Claims.accessed s cx su false 0 (fun s l _ loc =>
      let r := (s.rmw cx l loc 8 (fun m => some ((m + (v l).toNat) % 2 ^ 64))).1
      (match loc with | .mem (p :: _) => r.wakeSignal p.sigKey | _ => r, .write [] 0 0)) plan
    Claims.SignalOperands s cx su w →
    Claims.Ready s cx (fun _ => true) (fun _ => false) 3 0 2 (fun s _ a loc => hostAtomic s loc true a 3 0) plan →
    t.hole = none → exec (.sigadd w) s = .next t) ∧
  (∀ (w : FmtA) (s : State) (cx : Cx), s.cx? = some cx →
    let su := (form (.sigwait w)).scalarUnit
    let plan := Claims.signalPlans s cx su w .await
    let m := fun (s : State) l loc => pval (s.locBytes cx l loc 8)
    let t := Claims.accessed s cx su true w.run.toNat (fun s l _ loc =>
      (s.locTouch cx loc, .write (destWrites l w.d 3 (m s l loc).v (m s l loc).p) 0 0)) plan
    Claims.SignalOperands s cx su w →
    Claims.Ready s cx (drainsFirst 0 0) (fun _ => false) 3 0 0 (fun s l _ loc =>
      if Claims.intCond (w.c.toNat % 8) (m s l loc).v.toInt (readAt s cx su l 3 w.b).v.toInt then none
      else some (.wait (.signal (loc.sigKey.getD 0) (w.c.toNat % 8) (readAt s cx su l 3 w.b).v su) true)) plan →
    t.hole = none → exec (.sigwait w) s = .next t) ∧
  (∀ (w : FmtA) (s : State) (cx : Cx), Claims.At s cx →
    exec (.time w) s = .next (s.mapWarp cx.wid cx.k (fun y => y.commit cx.next true w.run.toNat (cx.lanes.map (fun l =>
      (l, .write (destWrites l w.d 3 (BitVec.ofNat 64 (s.time.tb / 2200)) false) 0 0))))))

/-- R195, R196: TRAP in lanes outside their handler, with a handler installed, enters it in each of them with the code in TRAPADDR;
otherwise, and always for BKPT, the lanes park with a record, BKPT's lanes after their instruction. -/
def Obligations.TrapsAndBreakpointsStopTheirLanes : Prop :=
  (∀ (w : FmtA) (s : State) (cx : Cx), Claims.At s cx → cx.w.trapvec ≠ 0 →
    (∀ l ∈ cx.lanes, ∃ x, cx.lane? l = some x ∧ x.handler = false) →
    exec (.trap w) s = .next (cx.lanes.foldl (fun s l => s.mapWarp cx.wid cx.k (fun y =>
      y.enterTrap l .trapInsn 0 (((readUni s cx 1 w.a).v.setWidth 32).setWidth 64) cx.pc cx.next)) s)) ∧
  (∀ (w : FmtA) (s : State) (cx : Cx), s.cx? = some cx →
    (∀ l ∈ cx.lanes, ∃ x, cx.lane? l = some x ∧ (cx.w.trapvec = 0 ∨ x.handler = true)) →
    let a : Word := ((readUni s cx 1 w.a).v.setWidth 32).setWidth 64
    let t := State.parkAll cx.wid cx.k cx.pc false cx.lanes.length (cx.lanes.map (fun l => (l, (Cause.trapInsn, 0, a, 0)))) s
    t.hole = none → exec (.trap w) s = .next t) ∧
  (∀ (w : FmtA) (s : State) (cx : Cx), s.cx? = some cx →
    let t := State.parkAll cx.wid cx.k cx.pc false cx.lanes.length (cx.lanes.map (fun l => (l, (Cause.bkpt, 1, (0 : Word), 0))))
      (s.mapWarp cx.wid cx.k (fun y => y.mapLanes cx.lanes (fun x => x.advance cx.next)))
    t.hole = none → exec (.bkpt w) s = .next t)

/-- R197: RTT in lanes that are in their handler leaves it: each goes to its TRAPRET, in the clause that the trap saved, also where
TRAPPC has been written since (DESIGN CHOICE, log 82). -/
def Obligations.ReturnFromTrapLeavesTheHandler : Prop :=
  ∀ (w : FmtA) (s : State) (cx : Cx), Claims.At s cx → (∀ l ∈ cx.lanes, ∃ x, cx.lane? l = some x ∧ x.handler = true) →
    exec (.rtt w) s = .next (s.mapWarp cx.wid cx.k (fun y => y.mapLanes cx.lanes (fun x =>
      { x with handler := false, pc := x.trapret, clause := x.trapClause, trapClause := none, wait := none,
               windows := (x.advance x.trapret).windows })))

/-- R198, R199, R318: CSRR gives the register's value, and CSRW writes the register, per lane or once with the value of the highest lane;
in a context that is not privileged, every lane that names COPYMODE or a register of the device stops with PROTECTION and nothing is read
or written (the record's ADDR and DETAIL are 0: log 56). -/
def Obligations.SystemRegistersAreReadAndWritten : Prop :=
  (∀ (w : FmtA) (s : State) (cx : Cx), Claims.At s cx → (w.csr = 0x30 ∨ 0x100 ≤ w.csr → cx.ctx.priv = true) →
    exec (.csrr w) s = .next (Claims.cross s cx (fun l =>
      match cx.lane? (if Code.isScalar w.d then cx.low else l) with
      | none => .skip
      | some x =>
        let v := csrRead s cx.ctx cx.g cx.w x w.csr
        .write (destWrites l w.d w.ty (if w.ty = 1 then v &&& 0xFFFFFFFF else v) false) 0 0))) ∧
  (∀ (w : FmtA) (s : State) (cx : Cx), s.cx? = some cx → (w.csr = 0x30 ∨ 0x100 ≤ w.csr → cx.ctx.priv = true) →
    cx.lanes ≠ [] → (∀ l ∈ cx.lanes, ∃ x, cx.lane? l = some x) → (∀ l ∈ cx.lanes, (readOp s cx l w.ty w.a).p = false) →
    (∀ l ∈ cx.lanes, csrRefuses w.csr (readOp s cx l w.ty w.a).v = false) →
    let v := fun l =>
      let a := (readOp s cx l w.ty w.a).v
      match cx.lane? l with
      | some x => if csrWide w.csr && w.ty == 1 then
          csrRead s cx.ctx cx.g cx.w x w.csr &&& 0xFFFFFFFF00000000 ||| a &&& 0xFFFFFFFF else a
      | none => a
    let writers := if csrPerLane w.csr then cx.lanes else cx.lanes.getLast?.toList
    let t := Claims.cross (writers.foldl (fun s l => s.csrWrite cx.ctx.num cx.wid cx.k l w.csr (v l)) s) cx
      (fun _ => .write [] 0 0)
    t.hole = none → exec (.csrw w) s = .next t) ∧
  (∀ (w : FmtA) (s : State) (cx : Cx), s.cx? = some cx → (w.csr = 0x30 ∨ 0x100 ≤ w.csr) → cx.ctx.priv = false →
    (∀ l ∈ cx.lanes, ∃ x, cx.lane? l = some x) →
    let stop := Stop.fault .protection 0 0
    let t := (Claims.cross s cx (fun _ => .stop stop)).stopLanes cx.wid cx.k cx.pc cx.next false (cx.lanes.map (fun l => (l, stop)))
    t.hole = none → exec (.csrw w) s = .next t ∧ ((∃ x, cx.lane? cx.low = some x) → exec (.csrr w) s = .next t))

namespace Sys2Proof.Claims

/-- The instructions that take a packet, with the queue and what the packet's 64 bytes must be. -/
def takes : Instr → Option (Nat × Nat × (List Byte → Prop))
  | .launch ctx q => some (ctx, q, fun bs => pktType bs = 1)
  | .flowlaunch ctx q => some (ctx, q, fun bs => pktType bs = 2)
  | .barrierAnd ctx q => some (ctx, q, fun bs => pktType bs = 3)
  | .barrierOr ctx q => some (ctx, q, fun bs => pktType bs = 4)
  | .copyPacket ctx q => some (ctx, q, fun bs => pktType bs = 5)
  | .tickcfg ctx q => some (ctx, q, fun bs => pktType bs = 6 ∧ field bs 288 32 ≠ 0)
  | .tickcfgStop ctx q => some (ctx, q, fun bs => pktType bs = 6 ∧ field bs 288 32 = 0)
  | .unassignedPacketType ctx q => some (ctx, q, fun bs => pktType bs = 0 ∨ 6 < pktType bs)
  | _ => none

/-- A queue whose next packet may be taken (R269, R271, R281): `d` is its descriptor, `bs` the packet's 64 bytes, `r` the state after the
descriptor has been read, and `t` that after RIDX has advanced and the packet and what it names have been read, where a launch has taken
its identifier. -/
structure Takes (s : State) (c : Context) (q : Nat) (d : QDesc) (bs : List Byte) (r t : State) : Prop where
  context : s.ctx? c.num = some c
  saved   : c.saved = false
  there   : q < c.qcount
  mapped  : (s.slotOf c.num q).isSome
  next    : s.maySucceed c.num q = true
  works   : ((s.queue? c.num q).map (·.blocked)).getD false = false
  desc    : ∃ db, s.agentRead 0 c (c.qtab.toNat + 32 * q) 32 = .bytes db ∧ d = QDesc.ofBytes db
  read    : r = s.agentUsed 0 c (c.qtab.toNat + 32 * q) 32
  fit     : d.pver = 1 ∧ d.cls ≤ 3 ∧ 4 ≤ d.log2n ∧ d.log2n ≤ 16
  enabled : d.state = 0
  waits   : d.waiting ≠ 0
  packet  : r.agentRead 1 c (d.at d.ridx) 64 = .bytes bs ∧ bs ≠ []
  power   : s.power.tripped = false
  moved   : ∃ u got, r.agentWrite c (c.qtab.toNat + 32 * q + 16) (leBytes 8 (d.ridx + 1)) = (u, .bytes got) ∧
    let v := (u.agentGets 1 c ((d.at d.ridx, 64) :: pktReads bs)).1
    t = (if pktType bs = 1 ∨ pktType bs = 2 then { v with launches := r.launches + 1 } else v)

/-- The packet in progress. -/
def packet (c : Context) (q : Nat) (d : QDesc) (bs : List Byte) (started : Bool) (b : PktBody) : Pkt :=
  { key := { ctx := c.num, q := q, num := d.ridx }, csig := BitVec.ofNat 64 (field bs 64 64), tag := BitVec.ofNat 32 (field bs 32 32),
    bar := field bs 8 1 == 1, addr := d.at d.ridx, started := started, aborted := false, watch := 0, owes := none, body := b }

/-- A packet stands last among those in progress. -/
def enter (t : State) (p : Pkt) : State := { t with pkts := t.pkts ++ [p] }

/-- The release ring that a launch opens. -/
def openRing (c : Context) (q : Nat) (d : QDesc) (base len : Nat) (t : State) : State :=
  { t with rings := t.rings ++ [{ key := { ctx := c.num, q := q, num := d.ridx }, ctx := c.num, base := BitVec.ofNat 64 base,
                                  len := len, count := 0 }] }

/-- What a packet that passes its check does when it is taken (R271, R274 to R277, R294). -/
def accepted (c : Context) (q : Nat) (d : QDesc) (bs : List Byte) (t : State) (b : PktBody) : State :=
  match b with
  | .launch l =>
    if l.flow then
      let t := openRing c q d (field bs 320 64) (field bs 384 32) t
      if t.fqdBusy { ctx := c.num, q := q, num := d.ridx } l.fqd then enter t (packet c q d bs false b)
      else enter t (packet c q d bs true (.launch
        { l with budget := if l.budget.isSome && c.tbudget != 0 then some c.tbudget.toNat else none }))
    else
      let t := if field bs 384 64 != 0 then openRing c q d (field bs 384 64) (field bs 448 32) t else t
      ({ enter t (packet c q d bs true (.launch { l with firstDispatch := t.dispatch })) with
          dispatch := t.dispatch + l.gx * l.gy * l.gz * l.kernel.stages }).openColumn { ctx := c.num, q := q, num := d.ridx }
  | .barrier _ deps =>
    let p := { packet c q d bs true b with watch := min (signalsOf deps).length (1024 - t.watchCount 0) }
    (deps.foldl (fun t x => match x with | .event e n => t.evRegister c.num e n (.packet p.key) | _ => t) (enter t p)).evaluate c p
  | .copy _ =>
    match t.copyCore with
    | some core =>
      { enter t (packet c q d bs true (.copy t.nextOp)) with
        ops := t.ops ++ [packetOp t (packet c q d bs false b) core bs], nextOp := t.nextOp + 1, nextWid := t.nextWid + 1 }
    | none => t
  | .done => (enter t (packet c q d bs true .done)).configure (Stream.ofPacket c.num bs)

end Sys2Proof.Claims

/-- R27, R271 to R278, R294: the next packet of a mapped queue in STATE 0, when it passes its check, is taken and begins: a launch opens
its ring and its first workgroups, a flow launch begins if no earlier one holds its flow queue, a barrier registers for its events
and is evaluated, a COPY issues its operation, a TICKCFG configures or stops its stream. A packet that its check refuses, one of an
unassigned TYPE among them, is taken and aborted: the signal is marked, and the queue stops with ERR 1. That a COPY packet goes to the
lowest core with a free entry is the model's choice (log 60), that taking, checking and starting are one event is too (log 61), and so
is the dispatch number of each stage of a column (log 51); die 0 watches the signals of a barrier, the first ones that still fit (log
67); and a release ring's count starts at 0 in each launch (log 88). -/
def Obligations.PacketsAreTakenOrRefused : Prop :=
  (∀ (i : Instr) (kind : List Byte → Prop) (s r : State) (c : Context) (q : Nat) (d : QDesc) (bs : List Byte) (t : State)
    (b : PktBody), Claims.takes i = some (c.num, q, kind) → kind bs → Claims.Takes s c q d bs r t →
    r.checkPacket c r.launches bs = .ok b → t.pkt? { ctx := c.num, q := q, num := d.ridx } = none →
    (pktType bs = 5 → r.copyCore.isSome) →
    (Claims.accepted c q d bs t b).hole = none → exec i s = .next (Claims.accepted c q d bs t b)) ∧
  (∀ (i : Instr) (kind : List Byte → Prop) (s r : State) (c : Context) (q : Nat) (d : QDesc) (bs : List Byte) (t u v : State)
    (cause : Byte) (e : Option Cause),
    Claims.takes i = some (c.num, q, kind) → kind bs → Claims.Takes s c q d bs r t →
    (r.checkPacket c r.launches bs = .refuse cause ∨ (cause = 0 ∧ (pktType bs = 0 ∨ 6 < pktType bs))) →
    (pktType bs = 5 → r.copyCore.isSome) →
    t.csig c (BitVec.ofNat 64 (field bs 64 64)) 6 (BitVec.ofNat 64 (2 ^ 63)) = .ok (u, e) →
    u.stopQueue c (Claims.packet c q d bs false .done) 1 cause = .ok v →
    v.hole = none → exec i s = .next v)

/-- R271, R275, R276, R278: a flow launch that waited starts when its flow queue is free; PACKET_START takes the queue's next packet; a
packet whose work is over completes, its signal falling by one; a barrier whose entries are met is over, and one that has failed
aborts with ERR 2 and the cause that made the first signal unreadable. -/
def Obligations.PacketsStartAndComplete : Prop :=
  (∀ (ctx q n : Nat) (s : State) (c : Context) (p : Pkt) (l : Launch), s.hole = none → s.ctx? ctx = some c →
    s.pkt? { ctx := ctx, q := q, num := n } = some p → p.started = false → p.body = .launch l → l.flow = true →
    s.fqdBusy p.key l.fqd = false →
    exec (.packetStart ctx q n) s = .next ((s.mapPkt p.key (fun p => { p with started := true })).mapLaunch p.key (fun l =>
      { l with budget := if l.budget.isSome && c.tbudget != 0 then some c.tbudget.toNat else none }))) ∧
  (∀ (ctx q n : Nat) (s : State) (c : Context) (bs : List Byte), s.ctx? ctx = some c →
    s.pkt? { ctx := ctx, q := q, num := n } = none → s.agentRead 0 c (c.qtab.toNat + 32 * q + 16) 8 = .bytes bs → leNat bs = n →
    let t := (s.agentUsed 0 c (c.qtab.toNat + 32 * q + 16) 8).takePacket ctx q (fun _ => true)
    t.hole = none → exec (.packetStart ctx q n) s = .next t) ∧
  (∀ (ctx q n : Nat) (s t : State) (c : Context) (p : Pkt), s.ctx? ctx = some c → s.pkt? { ctx := ctx, q := q, num := n } = some p →
    p.started = true → p.owes = none → s.pktOver p = some none →
    (s.dropPkt p.key).csig c p.csig 0 (-1) = .ok (t, none) →
    (t.dropOps.examine c q).hole = none → exec (.packetComplete ctx q n) s = .next (t.dropOps.examine c q)) ∧
  (∀ (ctx q n : Nat) (s : State) (c : Context) (p : Pkt) (all : Bool) (deps : List BarDep) (xs : List (Option DepSt)),
    s.ctx? ctx = some c → s.pkt? { ctx := ctx, q := q, num := n } = some p → p.started = true → p.owes = none →
    p.body = .barrier all deps → allSome (deps.map (s.depState c)) = some xs →
    let used := xs.filterMap id
    let good := used = [] ∨ (if all then ∀ x ∈ used, x = .met else ∃ x ∈ used, x = .met)
    let bad := used ≠ [] ∧ ¬ good ∧ (if all then ∃ x ∈ used, x = .failed else ∀ x ∈ used, x = .failed)
    let read := (s.agentGets 2 c (depReads deps)).1
    (good → read.hole = none →
      exec (.barrierEvaluate ctx q n) s = .next (read.mapPkt p.key (fun p => { p with body := .done }))) ∧
    let t := read.abortPkt c p 2 (((deps.findSome? (s.depCause c)).map Cause.code).getD 0)
    (bad → t.hole = none → exec (.barrierEvaluate ctx q n) s = .next t))

/-- R269, R281, R388, R393: examining a queue makes it ready when it has a started packet or, enabled and in order, one that waits; a
descriptor out of range is written STATE 2 with ERR 5, and one that cannot be read blocks the queue, once its record has room. R281, R282: the waiting queue of
the highest class, the longest waiting first, takes the lowest free slot (the model's choice, log 61), or the slot that the lowest
class below its own, or any class if its own is 3, has held longest, and that eviction is made at once (log 61); a descriptor that is
unfit is written (log 26); when the slice of a class's holder ends, a waiting queue of the class takes its slot, or else the next slot
of the class becomes the holder. -/
def Obligations.QueuesAreExaminedAndTakeSlots : Prop :=
  (∀ (ctx q : Nat) (s : State) (c : Context), s.ctx? ctx = some c → c.saved = false → q < c.qcount →
    ((s.queue? c.num q).map (·.blocked)).getD false = false →
    let read := s.agentUsed 0 c (c.qtab.toNat + 32 * q) 32
    (∀ db, s.agentRead 0 c (c.qtab.toNat + 32 * q) 32 = .bytes db → (QDesc.ofBytes db).unfit = false →
      ((QDesc.ofBytes db).state = 0 → (QDesc.ofBytes db).err = 0) →
      let t := read.setReady c.num q (QDesc.ofBytes db).cls
        (s.hasStarted c.num q || decide ((QDesc.ofBytes db).state = 0 ∧ (QDesc.ofBytes db).waiting ≠ 0))
      t.hole = none → exec (.queueExamine ctx q) s = .next t) ∧
    (∀ db t, s.agentRead 0 c (c.qtab.toNat + 32 * q) 32 = .bytes db → (QDesc.ofBytes db).unfit = true →
      ¬ ((QDesc.ofBytes db).state = 2 ∧ (QDesc.ofBytes db).err = 5) → read.putQState c q 2 5 = .ok t → t.hole = none →
      exec (.queueExamine ctx q) s = .next (t.setReady c.num q (((s.queue? c.num q).map (·.cls)).getD 0) (s.hasStarted c.num q))) ∧
    (∀ cause a t, s.agentRead 0 c (c.qtab.toNat + 32 * q) 32 = .fail cause a → s.blockQueue c q cause = .ok t → t.hole = none →
      exec (.queueExamine ctx q) s = .next
        (t.setReady c.num q (((s.queue? c.num q).map (·.cls)).getD 0) (s.hasStarted c.num q)))) ∧
  (∀ (ctx q : Nat) (s : State) (x : Queue), s.queue? ctx q = some x → s.firstWaiting x = true →
    (∀ i, (List.range 64).find? (fun i => !s.slots.any (fun y => y.slot == i)) = some i → s.hole = none →
      exec (.queueSlotMap ctx q) s = .next (s.mapTo x i)) ∧
    (∀ y, (∀ i < 64, s.slots.any (fun y => y.slot == i) = true) → s.evictable x.cls = some y →
      ((s.evict y).mapTo x y.slot).hole = none → exec (.queueSlotMap ctx q) s = .next ((s.evict y).mapTo x y.slot))) ∧
  (∀ (slot : Nat) (s : State) (y : Slot), s.slots.find? (fun y => y.slot == slot) = some y → y.holder = true → y.sliceEnd ≤ s.now →
    (∀ x, s.queues.find? (fun x => x.cls == y.cls && decide (y.cls < 3) && s.firstWaiting x && s.slots.length == 64) = some x →
      ((s.evict y).mapTo x slot).hole = none → exec (.timeSliceEnd slot) s = .next ((s.evict y).mapTo x slot)) ∧
    (s.hole = none → (∀ x ∈ s.queues, x.cls = y.cls → s.firstWaiting x = false) →
      ∃ z ∈ s.slots, z.cls = y.cls ∧
        (∀ w ∈ s.slots, w.cls = y.cls → slot < w.slot → slot < z.slot ∧ z.slot ≤ w.slot) ∧
        ((∀ w ∈ s.slots, w.cls = y.cls → w.slot ≤ slot) → ∀ w ∈ s.slots, w.cls = y.cls → z.slot ≤ w.slot) ∧
        exec (.timeSliceEnd slot) s = .next { s with slots := s.slots.map (fun x =>
          if x.slot == z.slot then
            { x with holder := true, due := s.unfit z,
                     sliceEnd := s.now + 1000 * ((s.ctx? z.ctx).map (·.tslice)).getD 500 }
          else if x.cls == y.cls then { x with holder := false } else x) }))

/-- R282 to R284: the column of a slot's next workgroup becomes resident on the core with the most free warp slots, and a grid's next
column is laid out; joins in it that waited for masks are looked at again, and it claims no more room; a workgroup whose room a slot may
claim for one that fits nowhere is pre-empted, and counted. Which free tiles and warp slots it takes (log 60) and the dispatch
number of each stage of a column (log 51) are the model's choices. -/
def Obligations.WorkgroupsArePlacedAndPreempted : Prop :=
  (∀ (wid core : Nat) (s t : State) (g : Wg) (x : Slot), s.wg? wid = some g → s.slotOf g.pkt.ctx g.pkt.q = some x →
    s.power.tripped = false → s.mayPlace x = true → (∃ h ∈ s.waitingOf x, h.wid ∈ s.column g) →
    s.chooseCore (s.column g) = some core → State.putAll core (s.column g) s = some t →
    let r := (s.column g).foldl State.retryJoins t
    let t := { r with slots := r.slots.map (fun (y : Slot) => { y with due := y.due.filter (fun n => !(s.column g).elem n) }) }
    let u := if g.st = .pending then t.openColumn g.pkt else t
    u.hole = none → exec (.placeWorkgroup wid) s = .next u) ∧
  (∀ (wid n : Nat) (s : State) (g h v : Wg) (x : Slot), s.wg? wid = some g → x ∈ s.slots → h ∈ s.waitingOf x → h.wid = n →
    s.chooseCore (s.column h) = none → s.victim x n = some v → v.wid ∈ s.column g →
    let t := (s.saveWgs (s.column g)).bumpBy 0x130 (s.column g).length
    t.hole = none → exec (.preempt wid) s = .next t)

/-- R28 to R30, R275, R285: a running flow launch takes the entry at its queue's RIDX: RIDX advances, the entry becomes an item with
its flow's next number and the next dispatch number, and it is packed, or kept for its flow's exclusion; a warp that has waited for
the packing delay starts. -/
def Obligations.FlowEntriesBecomeItems : Prop :=
  (∀ (ctx q n : Nat) (s t : State) (c : Context) (p : Pkt) (l : Launch) (fb eb got : List Byte), s.ctx? ctx = some c →
    s.pkt? { ctx := ctx, q := q, num := n } = some p → p.body = .launch l → l.flow = true → p.started = true → p.aborted = false →
    p.owes = none → c.saved = false → (s.slotOf ctx q).isSome → s.offers.all (fun o => !(o.ctx == c.num && o.fqd == l.fqd)) →
    l.closed = false → s.agentRead 3 c l.fqd.toNat 32 = .bytes fb → field fb 64 64 ≠ field fb 128 64 → field fb 192 8 ≤ 20 →
    let entry := field fb 0 64 + 16 * (field fb 128 64 % 2 ^ field fb 192 8)
    let r := s.agentUsed 3 c l.fqd.toNat 32
    r.agentRead 3 c entry 16 = .bytes eb →
    let r := r.agentUsed 3 c entry 16
    let label := BitVec.ofNat 32 (field eb 0 32)
    r.kills.all (fun k => !(k.ctx == c.num && k.fqd == l.fqd && k.label == label && decide (field fb 128 64 < k.below.toNat))) →
    r.pendingOf c.num label < 2 ^ 31 →
    r.agentWrite c (l.fqd.toNat + 16) (leBytes 8 (field fb 128 64 + 1)) = (t, .bytes got) →
    let j := { t with dispatch := t.dispatch + 1 }.joinFlow c.num label (field eb 64 2) t.dispatch
    let it : Item :=
      { label := label, cls := field eb 64 2, seq := j.2, payload := BitVec.ofNat 32 (field eb 32 32), dispatch := t.dispatch }
    let u := (j.1.mapLaunch p.key (fun l =>
      { l with taken := l.taken + 1, closed := l.closed || l.budget == some (l.taken + 1) })).enrol p.key it
    u.hole = none → exec (.flowEntryTake ctx q n) s = .next u) ∧
  (∀ (ctx q n : Nat) (s : State) (p : Pkt) (l : Launch), s.pkt? { ctx := ctx, q := q, num := n } = some p → p.body = .launch l →
    l.filling ≠ [] → l.fillAt + l.delay ≤ s.now → (s.startFlowWarp p.key).hole = none →
    exec (.packingDelayExpiry ctx q n) s = .next (s.startFlowWarp p.key))

namespace Sys2Proof.Claims

/-- An operation that is not over, with its context. -/
def Running (s : State) (id : Nat) (o : Op) (c : Context) (st : OpSt) : Prop :=
  s.op? id = some o ∧ s.ctx? o.ctx = some c ∧ o.st = st

/-- A unit can be performed: it has not been, no arrival of its operation waits for a tile, and the compute dies have power (R332). -/
def UnitFree (s : State) (o : Op) (u : Nat) : Prop := u ∉ o.units ∧ s.arrivalHolds o = false ∧ s.power.tripped = false

/-- A k-step is the engine's next: outside a chain the next of its MLOOP, inside one of the chain's first 16 that are not performed,
where no earlier one is ready (R262). -/
def NextStep (s : State) (o : Op) (g : Wg) (j : Nat) : Prop :=
  (o.chain = none ∧ j = o.units.length) ∨
  ∃ k i, o.chain = some k ∧ (s.chainSteps k).findIdx? (fun x => x.1.id == o.id && x.2.2 == j) = some i ∧
    ∀ x ∈ (s.chainSteps k).take i, (x.2.1.unready g x.2.2).isSome

/-- A tag wait of an operation that has lasted longer than TAGTO: for a tile that it reads, or else of its arrival into a tile of an
allocation that is not saved (R57, R61, R359). -/
def Overdue (s : State) (o : Op) (x : TileWait) : Prop :=
  s.timedOut o.ctx x.since = true ∧
  ((o.waitAt = some x ∧ s.waitHolds o x = true) ∨
   ((∀ y, o.waitAt = some y → s.waitHolds o y = true → s.timedOut o.ctx y.since = false) ∧ o.destAt = some x ∧
     s.arrivalFree o x.origin x.tile = false ∧ ∀ g, s.wg? x.origin = some g → g.st ≠ .saved))

/-- An operation has begun. -/
def begun (s : State) (o : Op) : State := s.mapOp o.id (fun o => { o with st := .started })

/-- The other operations that go unit by unit, COPY to this device's memory apart: the units of one, and the state after its unit u. -/
def unitOf (s : State) (o : Op) (c : Context) (u : Nat) : Option (Nat × State) :=
  match o.kind with
  | .remote none multi ts src n cc => some (n / 16, s.remoteUnit o c u multi ts src n cc)
  | .tcopy dst src d _ => some (16 * d.tiles * d.panels, s.tcopyUnit o c u dst src d)
  | .wnst src _ region base count => some (count, s.winnowUnit o c u src region base count)
  | .acst mem row col rows cols pitch fmt => some (rows * (cols * accSize fmt / 16), s.acstUnit o c u mem row col rows cols pitch fmt)
  | .acld mem row col rows cols pitch fmt => some (rows * (cols * accSize fmt / 16), s.acldUnit o c u mem row col rows cols pitch fmt)
  | _ => none

end Sys2Proof.Claims

/-- R213, R218, R219, R221 to R224, R233: an operation starts when what its queue has ahead of it lets it: a COPY of no bytes ends at
once, and a multicast reads its table. A unit, in any order, is performed once: one of a COPY reads its 16 bytes, writes them at the
destination and is counted in COPYBYTES, and those of the other operations have their kind's effect. R226 to R231: the matrix engine's
next command that may begin is performed, or begins if it goes unit by unit; a k-step whose tiles are ready adds its products, consumes the tiles
and, if it is the last, ends the MLOOP, and one with a tile that is not ready waits for it. R214 to R216: an operation that is done
ends in issue order, behind those of its workgroup that a save has taken out of the queue too, with its completion record posted if it has one, and its event grows by 1; a record whose page is missing is held
and reported. A multicast reads its table once, at its start (the model's choice, log 46). R298, R299: the shortlist of a row's last
part is delivered after the warp's earlier parts. -/
def Obligations.EnginesPerformAndCompleteOperations : Prop :=
  (∀ (id : Nat) (s : State) (o : Op) (c : Context), Claims.Running s id o c .queued → s.startHeld o = false →
    (∀ dst src cc, o.kind = .copy dst src 0 cc → (s.settle o.id .ok 0 0).tidy.hole = none →
      exec (.engineQueueStart id) s = .next (s.settle o.id .ok 0 0).tidy) ∧
    (∀ dst src n cc, o.kind = .copy dst src n cc → n ≠ 0 → (Claims.begun s o).tidy.hole = none →
      exec (.engineQueueStart id) s = .next (Claims.begun s o).tidy) ∧
    (∀ dst src d cc, o.kind = .tcopy dst src d cc → (Claims.begun s o).tidy.hole = none →
      exec (.engineQueueStart id) s = .next (Claims.begun s o).tidy) ∧
    (∀ multi ts src n cc, o.kind = .remote none multi ts src n cc → ((Claims.begun s o).endRemote o.id).tidy.hole = none →
      exec (.engineQueueStart id) s = .next ((Claims.begun s o).endRemote o.id).tidy) ∧
    (∀ a map multi ts src n cc, o.kind = .remote (some (a, map)) multi ts src n cc →
      ((Claims.begun s o).readTable o c a map src n cc).tidy.hole = none →
      exec (.engineQueueStart id) s = .next ((Claims.begun s o).readTable o c a map src n cc).tidy) ∧
    (∀ p, o.kind = .drain p → (s.startDrain o p).tidy.hole = none →
      exec (.engineQueueStart id) s = .next (s.startDrain o p).tidy) ∧
    (∀ src last region base count, o.kind = .wnst src last region base count → o.header = [] →
      (s.winnowStart o c region base count).tidy.hole = none →
      exec (.engineQueueStart id) s = .next (s.winnowStart o c region base count).tidy)) ∧
  (∀ (id u : Nat) (s t : State) (o : Op) (c : Context) (dst src : Ep) (n cc : Nat) (bs : List PByte),
    Claims.Running s id o c .started → Claims.UnitFree s o u → o.kind = .copy dst src n cc → u < n / 16 →
    s.epSrc o c u src (16 * u) 16 = .bytes bs → s.epDst o c u dst (16 * u) bs = (t, true) →
    let r := (((t.epTouch o c false src (16 * u) 16).bumpBy 0x123 16).unitDone id u 16 (n / 16)).tidy
    r.hole = none → exec (.copyUnit id u) s = .next r) ∧
  (∀ (id u n : Nat) (s t : State) (o : Op) (c : Context), Claims.Running s id o c .started → Claims.UnitFree s o u →
    Claims.unitOf s o c u = some (n, t) → u < n → t.tidy.hole = none → exec (.copyUnit id u) s = .next t.tidy) ∧
  (∀ (id u n cc map : Nat) (a : Word) (multi : Bool) (ts : List (Nat × Member)) (src : Ep) (s : State) (o : Op) (c : Context),
    Claims.Running s id o c .started → Claims.UnitFree s o u → o.kind = .remote (some (a, map)) multi ts src n cc →
    (s.readTable o c a map src n cc).hole = none → exec (.copyUnit id u) s = .next (s.readTable o c a map src n cc)) ∧
  (∀ (core : Nat) (s : State) (o : Op),
    s.ops.find? (fun o => o.core == core && o.kind.queue == .matrix && o.st == .queued && s.matrixFree o) = some o →
    (∀ row col rows cols, o.kind = .mzero row col rows cols →
      let t := ((s.accMap o.wid row col rows cols (fun _ _ _ => 0)).settle o.id .ok 0 0).tidy
      t.hole = none → exec (.matrixCommandPerform core) s = .next t) ∧
    (∀ b, o.kind = .chain b → ((s.settle o.id .ok 0 0).tidy).hole = none →
      exec (.matrixCommandPerform core) s = .next (s.settle o.id .ok 0 0).tidy) ∧
    ((∃ d, o.kind = .mloop d) ∨ (∃ mem row col rows cols pitch fmt, o.kind = .acst mem row col rows cols pitch fmt ∨
        o.kind = .acld mem row col rows cols pitch fmt) → s.hole = none →
      exec (.matrixCommandPerform core) s = .next (Claims.begun s o))) ∧
  (∀ (id j : Nat) (s : State) (o : Op) (g : Wg) (d : MloopDesc), s.op? id = some o → o.kind = .mloop d → s.wg? o.wid = some g →
    o.st = .started → j < d.ksteps → j ∉ o.units → Claims.NextStep s o g j → s.stepFree o d j = true →
    let tiles := (d.a.tiles j ++ d.b.tiles j).foldl (fun acc t => if acc.elem t then acc else acc ++ [t]) []
    (∀ x, tiles.find? (fun t => !(g.tag t).ready) = some x → s.hole = none → exec (.kstep id j) s = .next (s.waitTile o j g.wid x)) ∧
    ((∀ t ∈ tiles, (g.tag t).ready = true) →
    let rows := (d.a.marks g (d.a.slotAt j)).map (· + 128 * (j / d.kper))
    let cols := (d.b.marks g (d.b.slotAt j)).map (· + 128 * (j / d.kper))
    let t := ((((s.applyStep o g d j).mapWg g.wid (fun g => tiles.foldl Wg.consume g)).bump 0x122).mapOp id (fun o =>
      { o with units := o.units ++ [j], rowMarks := o.rowMarks ++ rows.filter (fun x => !o.rowMarks.elem x),
               colMarks := o.colMarks ++ cols.filter (fun x => !o.colMarks.elem x), waitAt := none }))
    (o.units.length + 1 < d.ksteps → t.hole = none → exec (.kstep id j) s = .next t) ∧
    (∀ p, o.units.length + 1 = d.ksteps → t.op? id = some p →
      let r : OpStatus := if p.rowMarks.isEmpty && p.colMarks.isEmpty && !p.pois then .ok else .poisoned
      let u := ((t.drainMloop p d).settle id r 0 0).tidy
      u.hole = none → exec (.kstep id j) s = .next u))) ∧
  (∀ (id : Nat) (s : State) (o : Op) (c : Context), Claims.Running s id o c .done → s.ahead o = [] →
    (∀ a ∈ s.ops, a.id < id → a.wid = o.wid → a.kind.queue = o.kind.queue → a.st = .ended) → o.held = [] →
    (∀ r ∈ s.fab.remote, r.wid = id → r.warp = 2001 → r.answer ≠ none) →
    let f := { s with fab := { s.fab with remote := s.fab.remote.filter (fun r => !(r.ofOp id && (2000 ≤ r.warp || r.answer.isSome))) } }
    let ends := fun (t : State) => ((t.mapOp id (fun o => { o with st := .ended })).evAdd o.ctx o.event 1).tidy
    (o.rnum = none → (ends f).hole = none → exec (.engineOperationComplete id) s = .next (ends f)) ∧
    (∀ x t got, o.rnum = some x →
      f.agentWrite c (c.recordAt o.home x) (o.record s.now (phaseOf x c.crlen)) o.core o.slot = (t, .bytes got) →
      (ends t).hole = none → exec (.engineOperationComplete id) s = .next (ends t)) ∧
    (∀ x t a, o.rnum = some x →
      f.agentWrite c (c.recordAt o.home x) (o.record s.now (phaseOf x c.crlen)) o.core o.slot = (t, .fail .xlateMiss a) →
      (t.holdUnit o a 1).hole = none → exec (.engineOperationComplete id) s = .next (t.holdUnit o a 1))) ∧
  (∀ (id pa : Nat) (s : State) (o : Op) (c : Context) (src : Ep) (region : Word) (base count : Nat) (row : List (Nat × W32)) (bad : Bool),
    Claims.Running s id o c .started → o.kind = .wnst src true region base count → o.units.length = count →
    (∀ p ∈ s.ops, p.id < id → p.wid = o.wid → p.warp = o.warp → (p.st = .done ∨ p.st = .ended) ∨
      ∀ a b r d e, p.kind = .wnst a b r d e → r ≠ region) →
    s.headerAt o c region = .at_ pa → s.rowOf o c region (s.winnow? c.num pa).seen = .ok (row, bad) →
    let h := leNat o.header
    let w := s.winnow? c.num pa
    let read := w.seen.foldl (fun s i => s.unitTouch o c false (region.toNat + 4096 + 4 * i) 4) s
    let t := ((read.mapOp id (fun o => { o with pois := o.pois || bad })).deliverShort { o with pois := o.pois || bad } pa
      (shortRecord w (bitsOf h 152 8) (BitVec.ofNat 32 (bitsOf h 192 32)) row)).tidy
    t.hole = none → exec (.winnowShortlist id) s = .next t)

/-- R56, R59, R219: a beat that reaches the device is dropped with its report when its allocation is not live, when it lies past the
allocation's end or when its copy has timed out; otherwise it is written into its tile when the tile takes it, and waits at the
ingress behind a FULL tile, behind what already waits for the tile, while the workgroup is saved, and behind 256 beats of its sender.
A waiting beat is admitted in its turn, or dropped when its allocation has gone. A local arrival begins when its tile is EMPTY; a
POISON tile that it writes whole is filled again, and otherwise takes the bytes and makes the copy POISONED. R61, R359: a tag wait
that has lasted longer than TAGTO ends: the lanes that wait at one instruction park with a record, an operation ends with FAULT, and a
copy's waiting beats are dropped. What reaches a tile while another waits there takes its turn by one count of all the arrivals that
wait. That the due lanes of one instruction park together in one record is the model's choice (log 28), and so is 256 times the tile as the
faulting address of an operation (log 40). -/
def Obligations.ArrivalsFillTilesAndWaitsTimeOut : Prop :=
  (∀ (b : Beat) (s : State), s.allocOf b.alloc = none → (s.answerBeat b .stale).tidy.hole = none →
    exec (.remoteArrivalBeat b) s = .next (s.answerBeat b .stale).tidy) ∧
  (∀ (b : Beat) (s : State) (g : Wg), s.allocOf b.alloc = some g →
    (256 * g.tiles < b.off + b.data.length → (s.answerBeat b (.fault Cause.protection.code)).tidy.hole = none →
      exec (.remoteArrivalBeat b) s = .next (s.answerBeat b (.fault Cause.protection.code)).tidy) ∧
    (b.off + b.data.length ≤ 256 * g.tiles → (b.sender, b.copy) ∈ s.fab.dropped →
      (s.answerBeat b (.fault Cause.tagTimeout.code)).tidy.hole = none →
      exec (.remoteArrivalBeat b) s = .next (s.answerBeat b (.fault Cause.tagTimeout.code)).tidy) ∧
    (∀ t, b.off + b.data.length ≤ 256 * g.tiles → (b.sender, b.copy) ∉ s.fab.dropped → g.st ≠ .saved → s.ingress b.sender < 256 →
      s.begunBeat g b = true ∨ (tileQueue g (b.off / 256) s.fab.arrivals = false ∧
        s.localAhead g.wid (b.off / 256) s.fab.nextWait = false) →
      s.admitBeat g b = some t → t.tidy.hole = none → exec (.remoteArrivalBeat b) s = .next t.tidy) ∧
    (b.off + b.data.length ≤ 256 * g.tiles → (b.sender, b.copy) ∉ s.fab.dropped →
      g.st = .saved ∨ 256 ≤ s.ingress b.sender ∨ s.admitBeat g b = none ∨
        (s.begunBeat g b = false ∧ (tileQueue g (b.off / 256) s.fab.arrivals = true ∨
          s.localAhead g.wid (b.off / 256) s.fab.nextWait = true)) →
      let x : Waiting :=
        { beat := b, since := if g.st = WgSt.saved then 0 else s.now, here := decide (s.ingress b.sender < 256), no := s.fab.nextWait }
      let t := { s with fab := { s.fab with nextWait := s.fab.nextWait + 1, arrivals := s.fab.arrivals ++ [x] } }.tidy
      t.hole = none → exec (.remoteArrivalBeat b) s = .next t)) ∧
  (∀ (n : Nat) (s : State) (x : Waiting), s.fab.arrivals[n]? = some x →
    let left := { s with fab := { s.fab with arrivals := s.fab.arrivals.eraseIdx n } }
    (s.allocOf x.beat.alloc = none → (left.answerBeat x.beat .stale).promote.tidy.hole = none →
      exec (.arrivalAdmit (.ingress n)) s = .next (left.answerBeat x.beat .stale).promote.tidy) ∧
    (∀ g t, s.allocOf x.beat.alloc = some g → g.st ≠ .saved → x.here = true →
      s.begunBeat g x.beat = true ∨ (tileQueue g (x.beat.off / 256) (s.fab.arrivals.take n) = false ∧
        s.localAhead g.wid (x.beat.off / 256) x.no = false) →
      left.admitBeat g x.beat = some t → t.promote.tidy.hole = none →
      exec (.arrivalAdmit (.ingress n)) s = .next t.promote.tidy)) ∧
  (∀ (id t w cc : Nat) (rs : List (Nat × Nat)) (s : State) (o : Op), s.hole = none → s.op? id = some o →
    o.kind.dest = some (w, rs, cc) → o.st = .started → o.kind.cover t ≠ 0 → t ∉ o.begun → s.arrivalAhead o w t = false →
    (∀ x, o.destAt = some x → x.tile = t) →
    let no := match o.destAt with | some x => if x.origin = w ∧ x.tile = t then x.no else s.fab.nextWait | none => s.fab.nextWait
    s.beatAhead w t no = false → s.localAhead w t no = false →
    let start := fun (s : State) => s.mapOp o.id (fun o => { o with begun := o.begun ++ [t], destAt := none })
    let fill := s.mapWg w (fun g => g.setTag t (.filling (.op o.id) (o.kind.cover t) o.kind.count false))
    (s.tag w t = .empty ∨ s.tag w t = .poison ∧ o.kind.cover t = 256 →
      exec (.arrivalAdmit (.localOp id t)) s = .next (start fill)) ∧
    (s.tag w t = .poison → o.kind.cover t ≠ 256 →
      exec (.arrivalAdmit (.localOp id t)) s = .next (start (s.mapOp o.id (fun o => { o with pois := true })))) ∧
    (s.tag w t ≠ .empty → s.tag w t ≠ .poison → exec (.arrivalAdmit (.localOp id t)) s = .next (s.waitDest o w t))) ∧
  (∀ (core slot wid k : Nat) (s : State) (g : Wg) (w : Warp) (pc : Word) (ls : List (Nat × Nat × Nat)), s.slot? core slot = some (wid, k) →
    s.wg? wid = some g → s.warp? wid k = some w →
    let due := (w.numbered.filterMap (fun x => x.2.tagWait.map (fun t => (x.1, x.2.pc, t)))).filter (fun x =>
      s.timedOut g.pkt.ctx x.2.2.2.2)
    (due.head?).map (·.2.1) = some pc → ls = (due.filter (fun y => y.2.1 == pc)).map (fun y => (y.1, y.2.2.1, y.2.2.2.1)) →
    (s.parkTags g k pc ls).hole = none → exec (.tagWaitTimeout (.lanes core slot)) s = .next (s.parkTags g k pc ls)) ∧
  (∀ (id u : Nat) (s : State) (o : Op) (x : TileWait), s.op? id = some o → o.st = .started → Claims.Overdue s o x →
    let a := BitVec.ofNat 64 (256 * x.tile)
    let fault := fun (s : State) => (s.settle o.id .fault Cause.tagTimeout.code a).tidy
    (∀ d, o.kind = .mloop d → (fault ((s.bump 0x12F).drainMloop o d)).hole = none →
      exec (.tagWaitTimeout (.mloop id)) s = .next (fault ((s.bump 0x12F).drainMloop o d))) ∧
    (∀ table multi ts src n cc, o.kind = .remote table multi ts src n cc →
      ((s.bump 0x12F).unitFail o .fault Cause.tagTimeout.code a).tidy.hole = none →
      exec (.tagWaitTimeout (.arrival (.localOp id u))) s = .next ((s.bump 0x12F).unitFail o .fault Cause.tagTimeout.code a).tidy) ∧
    (((∃ dst src n cc, o.kind = .copy dst src n cc) ∨ (∃ dst src d cc, o.kind = .tcopy dst src d cc) ∨
        (∃ src last region base count, o.kind = .wnst src last region base count ∧ (last = true → o.units.length ≠ count)) ∨
        (∃ mem row col rows cols pitch fmt, o.kind = .acst mem row col rows cols pitch fmt ∨
          o.kind = .acld mem row col rows cols pitch fmt)) →
      (fault (s.bump 0x12F)).hole = none →
      exec (.tagWaitTimeout (.arrival (.localOp id u))) s = .next (fault (s.bump 0x12F))) ∧
    (∀ src region base pa, o.kind = .wnst src true region base o.units.length → ∀ c, s.ctx? o.ctx = some c →
      (s.bump 0x12F).headerAt o c region = .at_ pa →
      ((s.bump 0x12F).winnowEnd o pa .fault Cause.tagTimeout.code a).tidy.hole = none →
      exec (.tagWaitTimeout (.arrival (.localOp id u))) s = .next
        ((s.bump 0x12F).winnowEnd o pa .fault Cause.tagTimeout.code a).tidy)) ∧
  (∀ (n : Nat) (s : State) (x : Waiting) (g : Wg), s.fab.arrivals[n]? = some x → s.allocOf x.beat.alloc = some g → g.st ≠ .saved →
    x.here = true → s.timedOut g.pkt.ctx x.since = true →
    let t := ((({ s with fab := { s.fab with dropped := s.fab.dropped ++ [(x.beat.sender, x.beat.copy)] } }.bump 0x12F).dropBeats
      (fun y => y.beat.sender == x.beat.sender && y.beat.copy == x.beat.copy) (.fault Cause.tagTimeout.code))).tidy
    t.hole = none → exec (.tagWaitTimeout (.arrival (.ingress n))) s = .next t)

namespace Sys2Proof.Claims

/-- The context that a sender's accesses use (R317), or the number 0xFFFF of none. -/
def exportCtx (s : State) (sender : Nat) : Nat := ((s.exportOf sender).map (·.num)).getD 0xFFFF

/-- Why a store line cannot be performed: no export context, a check that stops it, or a page that is not HBM. -/
def lineStops (s : State) (l : PeerLine) (cause : Byte) : Prop :=
  (s.exportOf l.sender = none ∧ cause = Cause.xlateMiss.code) ∨
  ∃ c, s.exportOf l.sender = some c ∧
    ((∃ x a d, s.checkPart 0 1002 c .store l.addr.toNat 128 = .stop x a d ∧ cause = x.code) ∨
     ∃ p, s.checkPart 0 1002 c .store l.addr.toNat 128 = .ok [p] ∧ p.leaf.target ≠ .hbm ∧ cause = Cause.protection.code)

/-- A line waits behind an earlier one of its export page (R245). -/
def LineBehind (s : State) (l : PeerLine) : Prop :=
  ∃ m ∈ s.fab.lines, m.addr.toNat / 4096 = l.addr.toNat / 4096 ∧
    (m.sender = l.sender ∨ (s.exportOf m.sender).map (·.num) = (s.exportOf l.sender).map (·.num))

/-- What is held back for the state goes on (R34, R182, R304, R383), and workgroups that are done retire. -/
def goesOn (s : State) : State := s.goOnAll.tidy

end Sys2Proof.Claims

/-- R305 to R307, R317, R380, R381: a peer's request to an exported page of this device is performed and answered; one without an
export context, one that its checks stop and one to a page that is not HBM are answered with their cause; one to a page in repair, by
the store log or by its page table, waits, and where no export context exists the page stands there with the context number 0xFFFF (log
37). A store line is performed and acknowledged; one that cannot be performed is logged, its page
is in repair from then on, and it is acknowledged; one to a page in repair is logged behind the page's earlier ones, and waits while the
log has no room and behind an earlier line of its page that waits. A response settles what it answers, and what waited for it goes on; an
entry of a write-combining buffer that has aged is sent, unless its peer is held, the allowance is used up (log 70 for its number) or
earlier stores of its core to the line have not been performed. -/
def Obligations.PeersAreServed : Prop :=
  (∀ (r : PeerRequest) (s : State) (c : Context) (ps : List Part), s.exportOf r.sender = some c →
    s.repairOf c.num (r.addr.toNat / 4096) r.sender = none →
    s.checkRange 0 1002 c (match r.what with | .load => .load | _ => .atomic) r.addr.toNat r.bytes = .ok ps →
    (∀ p ∈ ps, p.leaf.target = .hbm) → (s.performRequest c r ps).hole = none →
    exec (.remoteRequest r) s = .next (s.performRequest c r ps)) ∧
  (∀ (r : PeerRequest) (s : State), s.hole = none → s.exportOf r.sender = none →
    (s.repairOf 0xFFFF (r.addr.toNat / 4096) r.sender = none →
      exec (.remoteRequest r) s = .next (s.respond r.sender r.tag (.fault Cause.xlateMiss.code))) ∧
    ((s.repairOf 0xFFFF (r.addr.toNat / 4096) r.sender).isSome →
      exec (.remoteRequest r) s = .next { s with fab := { s.fab with requests := s.fab.requests ++ [r] } })) ∧
  (∀ (r : PeerRequest) (s : State) (c : Context), s.hole = none → s.exportOf r.sender = some c →
    (((s.repairOf c.num (r.addr.toNat / 4096) r.sender).isSome ∨
        ∃ on, s.checkRange 0 1002 c (match r.what with | .load => .load | _ => .atomic) r.addr.toNat r.bytes = .wait on) →
      exec (.remoteRequest r) s = .next { s with fab := { s.fab with requests := s.fab.requests ++ [r] } }) ∧
    (∀ x a d, s.repairOf c.num (r.addr.toNat / 4096) r.sender = none →
      s.checkRange 0 1002 c (match r.what with | .load => .load | _ => .atomic) r.addr.toNat r.bytes = .stop x a d →
      exec (.remoteRequest r) s = .next (s.respond r.sender r.tag (.fault x.code))) ∧
    (∀ ps p, s.repairOf c.num (r.addr.toNat / 4096) r.sender = none →
      s.checkRange 0 1002 c (match r.what with | .load => .load | _ => .atomic) r.addr.toNat r.bytes = .ok ps → p ∈ ps →
      p.leaf.target ≠ .hbm → exec (.remoteRequest r) s = .next (s.respond r.sender r.tag (.fault Cause.protection.code)))) ∧
  (∀ (l : PeerLine) (s : State), s.hole = none → Claims.LineBehind s l →
    exec (.remoteStoreLine l) s = .next { s with fab := { s.fab with lines := s.fab.lines ++ [l] } }) ∧
  (∀ (l : PeerLine) (s : State) (c : Context) (p : Part), ¬ Claims.LineBehind s l → s.exportOf l.sender = some c →
    s.repairOf c.num (l.addr.toNat / 4096) l.sender = none → s.checkPart 0 1002 c .store l.addr.toNat 128 = .ok [p] →
    p.leaf.target = .hbm →
    let t := ((s.writeLine p.pa l).targetTouch c true [p]).respond l.sender l.tag .ack
    t.hole = none → exec (.remoteStoreLine l) s = .next t) ∧
  (∀ (l : PeerLine) (s : State) (c : Context) (on : WaitOn), s.hole = none → ¬ Claims.LineBehind s l → s.exportOf l.sender = some c →
    s.repairOf c.num (l.addr.toNat / 4096) l.sender = none → s.checkPart 0 1002 c .store l.addr.toNat 128 = .wait on →
    exec (.remoteStoreLine l) s = .next { s with fab := { s.fab with lines := s.fab.lines ++ [l] } }) ∧
  (∀ (l : PeerLine) (s : State) (r : Repair), s.hole = none → ¬ Claims.LineBehind s l →
    s.repairOf (Claims.exportCtx s l.sender) (l.addr.toNat / 4096) l.sender = some r →
    let t := (({ s with fab := { s.fab with repair := s.fab.repair.map (fun (x : Repair) =>
        if x.ctx == r.ctx && x.page == l.addr.toNat / 4096 then { x with log := x.log ++ [l] } else x) } }.postStoreLog
      (logEntry l r.ctx 0)).respond l.sender l.tag .ack)
    (s.logRoom = true → t.hole = none → exec (.remoteStoreLine l) s = .next t) ∧
    (s.logRoom = false →
      exec (.remoteStoreLine l) s = .next { s with fab := { s.fab with lines := s.fab.lines ++ [l] } })) ∧
  (∀ (l : PeerLine) (s : State) (cause : Byte), ¬ Claims.LineBehind s l → Claims.lineStops s l cause →
    let ctx := Claims.exportCtx s l.sender
    s.repairOf ctx (l.addr.toNat / 4096) l.sender = none →
    let t := (({ s with fab := { s.fab with repair := s.fab.repair ++
        [({ ctx := ctx, page := l.addr.toNat / 4096, log := [l] } : Repair)] } }.postStoreLog
      (logEntry l ctx cause)).respond l.sender l.tag .ack)
    (s.logRoom = true → s.fab.repair.length < 64 → t.hole = none → exec (.remoteStoreLine l) s = .next t) ∧
    (s.logRoom = false ∨ 64 ≤ s.fab.repair.length → s.hole = none →
      exec (.remoteStoreLine l) s = .next { s with fab := { s.fab with lines := s.fab.lines ++ [l] } })) ∧
  (∀ (r : PeerResponse) (s : State),
    let t := Claims.goesOn { s with fab := { s.fab with
      wc := s.fab.wc.filter (fun e => e.tag != some r.tag),
      remote := (s.fab.remote.filter (fun (x : Remote) => x.tag != r.tag || s.awaited x)).map (fun (x : Remote) =>
                                            if x.tag == r.tag then { x with answer := some r.answer } else x) } }
    t.hole = none → exec (.remoteResponse r) s = .next t) ∧
  (∀ (core line : Nat) (s : State) (e : WcLine), s.fab.wc.filter (fun e => e.tag == none && (e.core == core &&
      e.line == line && decide (e.since + s.fab.ageing < s.now))) = [e] →
    let sent := ∃ y ∈ s.fab.wc, y.core = e.core ∧ y.peer = e.peer ∧ y.line = e.line ∧ y.tag.isSome
    (s.heldPeer e.peer = false → s.allowed e.peer false = true → ¬ sent → (s.sendLine e).hole = none →
      exec (.wcAgeing core line) s = .next (s.sendLine e)) ∧
    (s.heldPeer e.peer = true ∨ s.allowed e.peer false = false ∨ sent → s.hole = none → exec (.wcAgeing core line) s = .next s))

namespace Sys2Proof.Claims

/-- A channel that the device has, and the state with it changed: what its replay buffer holds goes over another channel to the peer
when it goes down (R378), and a peer that no channel reaches any more becomes unreachable (R382). -/
def chanTo (s : State) (peer plane : Nat) (f : Channel → Channel) : State := s.withChans (onChan peer plane f)

end Sys2Proof.Claims

/-- R378, R379, R382, R383, R303: a flit with an error of at most 32 bits in one burst is corrected and counted; a flit in sequence is
passed on and counted, one that is damaged is asked for again and the ninth in a row takes the channel down, and one out of sequence
is discarded, and counts as replayed while a replay is awaited, damaged or not. Flits are sent again from the replay buffer, and over
another channel when theirs goes down; silence takes a channel down in both directions, and a channel that a forming pod has asked for has failed; a window's errors lower the channel's health, and below the threshold
it is retired, which the peer is told from version 3 on; a report of it ends the sending for good. Link-up with the pod's identifier
and a common version brings the directions of a channel up that are not retired, with the full score unless it was dark for a pod
change or its peer is held, and a held peer goes on, and so does what waited for it; the dark limit, which runs from each peer's hold,
makes the kept peers that have not come back unreachable. The count of discarded flits, the end of sending on a channel that is down, the
failed channel of a forming pod and where the dark limit starts are readings of the rules (log 38), and that flits take the channels in
turn is the model's choice (log 77). -/
def Obligations.ChannelsCarryFlitsAndFail : Prop :=
  (∀ (f : Flit) (s : State) (c : Channel), s.hole = none → s.chan? f.peer f.plane = some c → c.up = false →
    exec (.flitReceive f) s = .next s) ∧
  (∀ (f : Flit) (s : State) (c : Channel), s.chan? f.peer f.plane = some c → c.up = true →
    let u := if f.burst ≠ 0 ∧ f.burst ≤ 32 then Claims.chanTo (s.bump 0x128) f.peer f.plane (fun c => { c with fixed := c.fixed + 1 }) else s
    (f.crcBad = false → f.burst ≤ 32 → f.seq = c.expect →
      let t := (Claims.chanTo u f.peer f.plane (fun c => { c with expect := c.expect + 1, fails := 0 })).bump 0x127
      t.hole = none → exec (.flitReceive f) s = .next t) ∧
    (f.crcBad = false → f.burst ≤ 32 → f.seq ≠ c.expect →
      let t := if c.fails = 0 then u else Claims.chanTo u f.peer f.plane (fun c => { c with replays := c.replays + 1 })
      t.hole = none → exec (.flitReceive f) s = .next t) ∧
    (f.crcBad = true ∨ 32 < f.burst → f.seq = c.expect → c.fails < 8 →
      let t := (Claims.chanTo u f.peer f.plane (fun c => { c with fails := c.fails + 1, replays := c.replays + 1 })).emit
        (.replay f.peer f.plane c.expect)
      t.hole = none → exec (.flitReceive f) s = .next t) ∧
    (f.crcBad = true ∨ 32 < f.burst → f.seq = c.expect → 8 ≤ c.fails →
      let t := Claims.chanTo u f.peer f.plane (fun c => { c with up := false, sendUp := false, fails := 0 })
      t.hole = none → exec (.flitReceive f) s = .next t) ∧
    (f.crcBad = true ∨ 32 < f.burst → f.seq ≠ c.expect →
      let t := if c.fails = 0 then u else Claims.chanTo u f.peer f.plane (fun c => { c with replays := c.replays + 1 })
      t.hole = none → exec (.flitReceive f) s = .next t)) ∧
  (∀ (peer plane : Nat) (seq : Byte) (s : State) (c : Channel), s.hole = none → s.chan? peer plane = some c → c.sendUp = true →
    (c.lastSeq - seq).toNat + 1 ≤ c.sent →
    exec (.replayRequest peer plane seq.toNat) s = .next ((s.bumpBy 0x129 ((c.lastSeq - seq).toNat + 1)).emit
      (.resend peer plane seq ((c.lastSeq - seq).toNat + 1)))) ∧
  (∀ (peer plane : Nat) (s : State) (c : Channel), s.heldPeer peer = false → s.chan? peer plane = some c →
    let t := Claims.chanTo s peer plane (fun c => { c with up := false, sendUp := false })
    t.hole = none → exec (.channelSilence peer plane) s = .next t) ∧
  (∀ (peer plane : Nat) (s : State) (m : BitVec 16), s.hole = none → s.heldPeer peer = false → s.chan? peer plane = none →
    s.fab.forming = some m → m.getLsbD peer = true → plane < 64 →
    exec (.channelSilence peer plane) s = .next
      { s with fab := { s.fab with chans := s.fab.chans ++ [Channel.fresh peer plane 1] } }) ∧
  (∀ (peer plane : Nat) (s : State) (c : Channel), s.chan? peer plane = some c → c.up = true → s.heldPeer peer = false →
    let h := healthAfter c.health c.fixed c.replays
    let gone := decide (h < s.fab.threshold)
    let u := Claims.chanTo s peer plane (fun c => { c with
      health := h, fixed := 0, replays := 0, retired := c.retired || gone, up := !gone,
      sendUp := c.sendUp && !(gone && decide (c.ver < 3)) })
    let t := if 3 ≤ c.ver then u.emit (.health peer plane h gone) else u
    t.hole = none → exec (.healthWindow peer plane) s = .next t) ∧
  (∀ (r : HealthReport) (s : State),
    let t := if r.retired = true then Claims.chanTo s r.peer r.plane (fun c => { c with sendUp := false, sendRet := true }) else s
    t.hole = none → exec (.healthReport r) s = .next t) ∧
  (∀ (c : Channel) (s : State) (i : Nat) (x : Channel), s.fab.nextChan c.peer = some i → s.fab.chans[i]? = some x → c.sent ≠ 0 →
    s.moveFlits c = { s with
      fab := { s.fab with chans := s.fab.chans.modify i (fun y => { y with lastSeq := y.lastSeq + BitVec.ofNat 8 c.sent,
                                                                           sent := min 128 (y.sent + c.sent) }),
                          turn := s.fab.turn + 1 },
      out := s.out ++ [.moved c.peer c.plane c.sent x.plane] }) ∧
  (∀ (l : LinkFrame) (s : State), s.power.pstate ≠ 2 → l.podId = s.fab.podId → 1 ≤ l.verHi →
    l.verLo ≤ min 3 l.verHi → s.fab.members.getLsbD l.peer = true → l.peer ≠ s.fab.index → l.plane < 64 →
    let ver := min 3 l.verHi
    let up := fun (c : Channel) => { Channel.fresh l.peer l.plane ver with
      up := !c.retired, sendUp := !c.sendRet && !(c.retired && decide (ver < 3)), retired := c.retired, sendRet := c.sendRet,
      health := if c.dark = true ∨ c.retired = true ∨ s.heldPeer l.peer = true then c.health else 1023 }
    (s.heldPeer l.peer = false → s.chan? l.peer l.plane = none →
      let t := Claims.goesOn { s with fab := { s.fab with
        chans := s.fab.chans ++ [{ Channel.fresh l.peer l.plane ver with up := true, sendUp := true }] } }
      t.hole = none → exec (.linkUp l) s = .next t) ∧
    (∀ c, s.chan? l.peer l.plane = some c →
      let t := { s with fab := { s.fab with chans := s.fab.chans.map (fun c =>
        if c.peer = l.peer ∧ c.plane = l.plane then up c else c) } }
      let r := Claims.goesOn (if s.heldPeer l.peer then t.relock l.peer else t)
      r.hole = none → exec (.linkUp l) s = .next r)) ∧
  (∀ (p : Nat) (s : State) (w : PodWait), s.fab.podWait = some w → s.heldPeer p = true → w.keep.getLsbD p = true →
    s.reachable p = true →
    s.relock p = { s with fab := { s.fab with
      held := s.fab.held &&& ~~~(BitVec.ofNat 16 (2 ^ p)),
      podWait := some { w with done := w.done ||| BitVec.ofNat 16 (2 ^ p) },
      wc := s.fab.wc.map (fun e => if e.peer == p then { e with since := s.now - e.since } else e) } }) ∧
  (∀ (s : State) (w : PodWait), s.fab.podWait = some w →
    let t := ((List.range 16).filter (fun p =>
      s.heldPeer p && w.keep.getLsbD p && decide (s.heldSince p + w.limit ≤ s.now))).foldl State.cutPeer s
    t.hole = none → exec .darkLimitExpiry s = .next t)

/-- R291 to R295, R357: a datagram on another port is no frame; a frame is counted by the first thing that is wrong with it (of a
payload that ends in its header, the fields that are there are looked at first, log 63); one in order is counted and its tokens are
written in order, and then a WAIT stream offers a tick that has become ready; while a page that a token needs is in repair, or its stamp
is asked for at a peer (log 24), the frame waits. A tick that is due is offered to its flow queue as an item of class 1, late ones under
their policy, once the stamps of its tokens have been read. -/
def Obligations.FramesAreIngestedAndTicksOffered : Prop :=
  (∀ (port : Nat) (payload : List Byte) (s : State), s.hole = none → port ≠ s.host.ingestPort →
    exec (.ingestFrame port payload) s = .next s) ∧
  (∀ (payload : List Byte) (s : State), s.hole = none →
    let h := payload.take 32
    let wrong := (2 ≤ h.length ∧ field h 0 16 ≠ 0xB5D7) ∨ (4 ≤ h.length ∧ field h 24 8 ≠ 1) ∨ field h 16 8 ≠ 0 ∨ field h 32 32 ≠ 0 ∨
      field h 128 16 ≠ 0 ∨ (24 ≤ h.length ∧ field h 160 32 = 0) ∨ (20 ≤ h.length ∧ field h 144 16 = 0)
    let found := s.streams.find? (fun x => x.id == BitVec.ofNat 32 (field h 64 32) && x.active)
    (wrong → exec (.ingestFrame s.host.ingestPort payload) s = .next (s.bump 0x12B)) ∧
    (¬ wrong → payload.length < 12 → exec (.ingestFrame s.host.ingestPort payload) s = .next (s.bump 0x12D)) ∧
    (¬ wrong → 12 ≤ payload.length → found = none → exec (.ingestFrame s.host.ingestPort payload) s = .next (s.bump 0x12C)) ∧
    (∀ x, ¬ wrong → 12 ≤ payload.length → found = some x → payload.length ≠ 32 + field h 144 16 * x.tsize →
      exec (.ingestFrame s.host.ingestPort payload) s = .next (s.bump 0x12D)) ∧
    (∀ x c, ¬ wrong → found = some x → payload.length = 32 + field h 144 16 * x.tsize → s.ctx? x.ctx = some c →
      let toks := frameTokens x payload
      let read := s.readStamps c x (toks.map (·.1))
      let stalls := s.tokenStalls c x (toks.map (·.1))
      (read.2 = false → stalls = [] →
        let t := State.ingestTokens s c x toks [] (read.1.bump 0x12A)
        let u := if x.policy = 0 ∧ c.saved = false ∧ x.t0 + x.next * x.period ≤ t.now ∧ t.tickReady c x = true then t.offerTick x false else t
        u.hole = none → exec (.ingestFrame s.host.ingestPort payload) s = .next u) ∧
      (read.2 = true ∨ stalls ≠ [] →
        let t := stalls.foldl (fun s n => State.agentWait s 4 c (x.slotAt n) x.tsize) (if read.2 then read.1 else s)
        t.hole = none → exec (.ingestFrame s.host.ingestPort payload) s = .next
          { t with agenda := t.agenda ++ [.ev (.ingestFrame t.host.ingestPort payload)] }))) ∧
  (∀ (ctx id : Nat) (s : State) (x : Stream) (c : Context), s.stream? ctx (BitVec.ofNat 32 id) = some (x, c) →
    let ready := s.tickReady c x
    let read := s.readStamps c x x.tokens
    (read.2 = false →
      (x.t0 + x.next * x.period ≤ s.now → (x.policy = 0 → ready = true) → (read.1.offerTick x (!ready)).hole = none →
        exec (.tickDue ctx id) s = .next (read.1.offerTick x (!ready))) ∧
      (x.policy = 0 → x.t0 + x.next * x.period + x.grace ≤ s.now → (read.1.offerTick x (!ready)).hole = none →
        exec (.tickGraceExpiry ctx id) s = .next (read.1.offerTick x (!ready)))) ∧
    (read.2 = true → x.t0 + x.next * x.period ≤ s.now → read.1.hole = none → exec (.tickDue ctx id) s = .next read.1))

/-- R2, R288, R289, R290, R322, R326: a core clock cycle changes no counter but its own, those of the lanes' cycles and those that the
records of the cores sampled in it count in, and the timebase runs on by its rate; a valid Sync slews the timebase, or steps it while
there is no context, with what the device has to do some time later (log 8), and sets the lock state; one of another domain, master or
port is ignored, and 3 s without one hold it over (log 8 for the unit of the timebase and the sign of an offset). -/
def Obligations.TimeRunsAndFollowsItsMaster : Prop :=
  (∀ (s : State), ∃ r, (∀ k, (k < 0x50 ∨ 0x78 ≤ k) → r[k]? = s.obs.regs[k]?) ∧
    let t := s.obs.sampling.foldl State.sampleCore { s with obs := { s.obs with regs := r } }
    (t.hole = none → exec .coreClockCycle s = .next { t.bump 0x120 with
      time := { s.time with tb := (s.time.tb + (2000 + s.time.slew)).toNat },
      obs := { (t.bump 0x120).obs with executed := [], sampling := [], clocks := s.obs.clocks + 1 } }) ∧
    (∀ v, t.obs.regs[0x20]? = some v → (t.bump 0x120).obs.regs[0x20]? = some (v + 1))) ∧
  (∀ (y : PtpSync) (s : State), s.hole = none →
    (y.domain ≠ s.host.ptpDomain ∨ y.chosen = false ∨ s.host.ethPorts.testBit y.port.toNat = false) →
    exec (.ptpSync y) s = .next s) ∧
  (∀ (y : PtpSync) (s : State), s.hole = none → y.domain = s.host.ptpDomain → y.chosen = true →
    s.host.ethPorts.testBit y.port.toNat = true →
    let off : Int := (s.now : Int) - ((y.origin : Int) + y.correction + y.delay)
    let good := if off.natAbs < 100 then s.time.good + 1 else 0
    (s.ctxs ≠ [] → exec (.ptpSync y) s = .next { s with time :=
      { tb := s.time.tb, slew := if off = 0 then 0 else if 0 < off then -1 else 1,
        state := if 16 ≤ good ∨ s.time.state = 2 then 2 else 1, ever := s.time.ever || decide (16 ≤ good), port := y.port,
        errb := y.errb, good := good, lastSync := s.time.tb, holdAt := s.time.tb } }) ∧
    (s.ctxs = [] →
      let tb := ((s.time.tb : Int) - 2200 * off).toNat
      exec (.ptpSync y) s = .next { s.stepTime tb with time :=
        { tb := tb, slew := 0, state := if 16 ≤ good ∨ s.time.state = 2 then 2 else 1, ever := s.time.ever || decide (16 ≤ good),
          port := y.port, errb := y.errb, good := good, lastSync := tb, holdAt := tb } })) ∧
  (∀ (s : State), s.hole = none → s.time.state ≠ 3 → s.time.lastSync + 3000000000 * 2200 ≤ s.time.tb →
    exec .tbHoldover s = .next { s with time := { s.time with state := 3, slew := 0, good := 0, holdAt := s.time.tb } })

/-- R106, R187, R241, R280: a pending result is written when it comes; a deadline that has passed ends a warp's sleep; lanes of a warp
slot that wait for a signal or an event evaluate again. -/
def Obligations.WaitsOfAWarpSlotEnd : Prop :=
  ∀ (core slot wid k : Nat) (s : State), s.hole = none → s.slot? core slot = some (wid, k) →
    (∀ id, exec (.longLatencyResult core slot id) s = .next (s.mapWarp wid k (fun w =>
      (w.results.find? (fun r => r.id == id)).elim w (fun r =>
        { r.writes.foldl Warp.apply w with results := (r.writes.foldl Warp.apply w).results.filter (fun r => r.id != id) })))) ∧
    exec (.sleepExpiry core slot) s = .next (s.mapWarp wid k (fun w =>
      { w with sleep := w.sleep.bind (fun t => if t < s.time.tb then none else some t) })) ∧
    exec (.signalPoll core slot) s = .next (s.mapWarp wid k (fun w => { w with lanes := w.lanes.map (fun x =>
      match x.wait with | some { on := .signal .., .. } => x.rouse | _ => x) })) ∧
    exec (.eventPoll core slot) s = .next (s.mapWarp wid k (fun w => { w with lanes := w.lanes.map (fun x =>
      match x.wait with | some { on := .event .., .. } => x.rouse | _ => x) }))

/-- R323 to R326, R348, R381: the Gleaner writes its slot when a period is over, skipping others that are over too, or when ONCE is
written; a core is sampled at each period of core clocks, and the clock's end records its next resident warp, at the PC at which it
executed; reading a ring's consumed count, behind its last slot at a physical address (log 16; a read of HBM, log 49), posts the records
that wait, and one of the store log takes the lines that wait too. -/
def Obligations.CountersAndSamplesAreRecorded : Prop :=
  (∀ (s : State),
    let period := 2200000 * bitsOf (s.devReg 0x101).toNat 32 32
    period ≠ 0 → s.obs.nextSweep ≤ s.time.tb → s.sweep.hole = none →
    exec .gleanerSweep s = .next { s.sweep with obs :=
      { s.sweep.obs with nextSweep := s.obs.nextSweep + period * ((s.time.tb - s.obs.nextSweep) / period + 1) } }) ∧
  (∀ (s : State), s.devReg 0x101 = devKeeps 0x101 (s.devReg 0x101) → 1 < s.obs.regs.length → s.sweep.hole = none →
    exec .glctlOnce s = .next s.sweep) ∧
  (∀ (core : Nat) (s : State) (due : Nat),
    let ctl := (s.devReg 0x103).toNat
    let period := bitsOf ctl 32 32
    s.hole = none → period ≠ 0 → (ctl % 2 = 1 ∨ bitsOf ctl 1 7 = core) → s.obs.sampleAt[core]? = some due → due ≤ s.obs.clocks →
    exec (.samplerSample core) s = .next { s with obs :=
      { s.obs with sampleAt := s.obs.sampleAt.set core (due + period), sampling := s.obs.sampling ++ [core] } }) ∧
  (∀ (core : Nat) (s : State) (g : Wg) (w : Warp), s.nextWarp core ((s.obs.nextSlot[core]?).getD 0) = some (g, w) →
    let es := s.obs.executed.filter (fun e => e.core == core && e.slot == w.slot)
    s.sampleCore core = State.postSample { s with obs := { s.obs with nextSlot := s.obs.nextSlot.set core ((w.slot + 1) % Config.slotsPerCore) } }
      ((es.head?.map (·.pc)).getD (w.minPc.getD 0)) (es.foldl (fun m e => m ||| e.lanes) 0) g.launchId core w.slot 0
      (majority (s.classes g w))) ∧
  (∀ (s : State) (x y : Ring), s.fring = some x →
    let u := s.physUsed false (x.base + 64 * x.len) 8
    u.fring = some y →
    let r := ringDrain 64 y.waiting u { y with consumed := leNat (u.hbmRead (y.base + 64 * y.len) 8) }
    r.1.hole = none → exec (.ringConsumedPoll .fault) s = .next { r.1 with fring := some r.2 }) ∧
  (∀ (s : State) (x y : Ring), s.sring = some x →
    let u := s.physUsed false (x.base + 64 * x.len) 8
    u.sring = some y →
    let r := ringDrain 64 y.waiting u { y with consumed := leNat (u.hbmRead (y.base + 64 * y.len) 8) }
    r.1.hole = none → exec (.ringConsumedPoll .service) s = .next { r.1 with sring := some r.2 }) ∧
  (∀ (s : State) (x y : Ring), s.slog = some x →
    let u := s.physUsed false (x.base + 256 * x.len) 8
    u.slog = some y →
    let r := ringDrain 256 y.waiting u { y with consumed := leNat (u.hbmRead (y.base + 256 * y.len) 8) }
    let t := State.serveStalled { r.1 with slog := some r.2 }
    t.hole = none → exec (.ringConsumedPoll .storeLog) s = .next t)

/-- R330 to R334, R376: a measurement joins the running average of 10 ms and the samples of the telemetry; the device paces since the
average has passed the cap and until it is below it, or while it is hot; coolant that runs low under load lowers the cap to 900 W; a die
above 115 °C saves every context, says in its record how many workgroups of both dies that saved, and loses what the caches hold (both
dies' L1, L2 and translations: log 6), whether it is a sensor's reading or the trip that says so; an idle device enters P1 after 1 ms; once a second telemetry goes to its collector over the management port. -/
def Obligations.PowerAndHeatAreManaged : Prop :=
  let paced := fun (p : Power) =>
    let sum := p.watts.foldl (· + ·) 0
    let all := p.cap * p.watts.length
    let passed := decide (all < sum) || (p.passed && decide (all ≤ sum))
    { p with passed := passed, pacing := p.hot || passed }
  let tripped := fun (s : State) (die milli : Nat) =>
    let n := (s.wgs.filter (fun g => g.st == .resident)).length
    let t := ((s.ctxs.map (·.num)).foldl State.saveContext s).drainWc (fun _ => true)
    ({ t with power := paced { t.power with temp := milli, hot := true, tripped := true },
              mem := { t.mem with l1 := [], l2 := [], tlb := [], above := [] } }.postService
      (serviceRecord t.now 0 n milli 0 0 0xFFFF die 0 0 0 0 0 3)).emit (.mail "thermal trip")
  (∀ (m : Measurement) (s : State), s.hole = none → exec (.powerMeasure m) s = .next
    { s with power := paced { s.power with watts := (m.watts :: s.power.watts).take 100,
                                           samples := ({ m := m, pstate := s.power.pstate } :: s.power.samples).take 10000 } }) ∧
  (∀ (die milli : Nat) (s : State), (115000 < milli → s.power.tripped = true) → s.hole = none →
    exec (.junctionTemperature { die := die, milli := milli }) s = .next { s with power := paced { s.power with
      temp := milli, hot := if 105000 < milli then true else if milli ≤ 100000 then false else s.power.hot,
      tripped := if milli ≤ 95000 then false else s.power.tripped } }) ∧
  (∀ (die milli : Nat) (s : State), 115000 < milli → (tripped s die milli).hole = none →
    (s.power.tripped = false → exec (.junctionTemperature { die := die, milli := milli }) s = .next (tripped s die milli)) ∧
    exec (.thermalTrip die milli) s = .next (tripped s die milli)) ∧
  (∀ (s : State), s.hole = none →
    (s.power.pstate = 0 → exec .coolantFlowLow s = .next { s with power := paced { s.power with cap := min s.power.cap 900 } }) ∧
    (s.power.pstate ≠ 0 → exec .coolantFlowLow s = .next s)) ∧
  (∀ (s : State), s.hole = none → s.idle = true → s.power.idle = none →
    exec .idleEntry s = .next { s with power := { s.power with idle := some s.now } }) ∧
  (∀ (s : State) (t : Nat), s.hole = none → s.idle = true → s.power.idle = some t → s.power.pstate = 0 → t + 1000000 ≤ s.now →
    exec .idleEntry s = .next { s with power := { s.power with pstate := 1 } }) ∧
  (∀ (s : State), s.hole = none →
    (s.host.collector ≠ (0, 0, 0) → s.boot.ported = true → s.power.sendAt ≤ s.now → exec .telemetrySend s = .next
      ({ s with power := { s.power with samples := [], sendAt := s.now + 1000000000 } }.emit (.telemetry s.power.samples))) ∧
    (s.host.collector = (0, 0, 0) ∨ s.boot.ported = false ∨ s.now < s.power.sendAt → exec .telemetrySend s = .next s))

namespace Sys2Proof.Claims

/-- Start-up goes on without a source: the next one is tried, and without any it waits 10 s (R319, R386). -/
def NextSource (s : State) (left : List Nat) (b : Boot) : Prop :=
  b = { s.boot with journal := b.journal, left := left, retryAt := if left = [] then some (s.now + 10000000000) else none }

/-- Steps 5 to 8 on an image (R319, R320): one that is accepted brings the device to ready, unless a stack or a die-to-die link fails
to train; after another the next source is tried. -/
def Booted (s : State) (src : Nat) (image : List Byte) (b : Boot) : Prop :=
  if Config.xmssValid image = true ∧ s.boot.rollback ≤ Config.imageLevel image then
    let trained : Prop := (s.boot.part.weak &&& ~~~s.boot.hbmSlow) ||| s.boot.part.dead = 0 ∧ s.boot.part.dies = true
    b = { s.boot with
      journal := b.journal, level := Config.imageLevel image, fwver := Config.imageVersion image, measure := Config.shake256 image,
      step := if s.boot.part.dies = true ∧ (s.boot.part.weak &&& ~~~s.boot.hbmSlow) ||| s.boot.part.dead = 0 then 8 else 7,
      ready := b.ready, stopped := b.stopped } ∧
      (trained → b.ready = true ∧ b.stopped = s.boot.stopped) ∧ (¬ trained → b.ready = s.boot.ready ∧ b.stopped = true)
  else NextSource s (s.boot.left.filter (· != src)) b

end Sys2Proof.Claims

/-- R6, R13, R319, R320, R329, R385, R386: the rails come up in their order, and then reset is released and the steps of start-up
begin, the link at the highest rate that both ends share under the step's alteration and the sources in the order of the boot
configuration and the journal; an image that a source delivers over a chain to the trust root in step 4 is taken if its signature is
good and its level is not below the rollback level, and the device is then ready, unless a stack or a die-to-die link fails to train,
which stops the start; a source that fails leaves its place to the next one, and after the last they are tried again after a wait. A
journal entry carries its CRC. A reset keeps the flash, the fuses and the host's memory, and the rest is as after reset. What fails is
the condition of the part in the state, and a start goes on past a link or a port that fails (log 12). -/
def Obligations.StartUpGoesStepByStep : Prop :=
  (∀ (r : Rail) (s : State), s.hole = none → railOrder[s.power.rails.length]? = some r →
    exec (.powerOn r) s = .next { s with power := { s.power with rails := s.power.rails ++ [r] } }) ∧
  (∀ (s : State), s.hole = none → s.power.inReset = true →
    s.power.rails = [.vddAux, .vddIod, .vddHbm, .vddqHbm, .vddCmp, .vddOpt] →
    ∃ b, exec .resetRelease s = .next { s with boot := b, power := { s.power with inReset := false } } ∧ b.step = 4 ∧
      b.start = s.boot.start + 1 ∧ b.ready = false ∧ b.stopped = false ∧ b.rollback = s.boot.rollback ∧ b.part = s.boot.part ∧
      b.config = s.boot.config ∧ b.image = [] ∧ b.alt = s.boot.alterations ∧ b.hbmSlow = s.boot.slowMap ∧
      b.order = s.boot.sourcesBy s.boot.alterations ∧ b.left = b.order ∧
      b.retryAt = (if b.order = [] then some (s.now + 10000000000) else none) ∧
      (∀ a, s.boot.alterations[1]? = some a →
        (match pcieOf a with
        | some most =>
          let rate := if 7 ≤ most.1 ∧ 7 ∈ s.boot.part.rates then 7 else if 6 ≤ most.1 ∧ 6 ∈ s.boot.part.rates then 6
            else if 5 ≤ most.1 ∧ 5 ∈ s.boot.part.rates then 5 else 0
          let lanes := min most.2 s.boot.part.lanes
          let width := if 16 ≤ lanes then 16 else if 8 ≤ lanes then 8 else if 4 ≤ lanes then 4 else 0
          let up := rate ≠ 0 ∧ width ≠ 0 ∧ rate ≤ s.boot.part.rate ∧ width ≤ s.boot.part.width
          (up → b.rate = rate ∧ b.width = width) ∧ (¬ up → b.rate = 0 ∧ b.width = 0)
        | none => b.rate = 0 ∧ b.width = 0))) ∧
  (∀ (src : Nat) (f : Fetch) (s : State), s.hole = none → s.boot.takes src .https = true → ∃ b,
    exec (.imageFetchComplete { source := src, got := some f }) s = .next { s with boot := b } ∧
    (if Config.chainsTo s.boot.config.trust f.chain = true ∧ f.image.length ≤ 2 ^ 26 then Claims.Booted s src f.image b
     else Claims.NextSource s (s.boot.left.filter (· != src)) b)) ∧
  (∀ (src : Nat) (s : State), s.hole = none → s.boot.takes src .https = true → ∃ b,
    exec (.imageFetchComplete { source := src, got := none }) s = .next { s with boot := b } ∧
    Claims.NextSource s (s.boot.left.filter (· != src)) b) ∧
  (∀ (s : State) (t : Nat), s.hole = none → s.boot.retryAt = some t → t ≤ s.now → ∃ b,
    exec .bootSourceRetry s = .next { s with boot := b } ∧ Claims.NextSource s s.boot.order b) ∧
  (∀ (b : Boot) (step outcome arg : Nat), ∃ e : JournalEntry,
    b.note step outcome arg = { b with journal := (b.journal ++ [e]).drop (b.journal.length + 1 - 4096) } ∧
    e.start = b.start ∧ e.arg = BitVec.ofNat 32 arg ∧ e.alt = (b.alt[step - 1]?).getD 0 ∧ e.outcome = outcome ∧ e.step = step ∧
    e.check = crc32 (leBytes 12 (packFields [(64, 32, e.start.toNat), (32, 32, e.arg.toNat), (16, 8, e.alt), (8, 8, e.outcome),
      (0, 8, e.step)]))) ∧
  (∀ (cold : Bool) (rest : List Input) (s : State), s.agenda = .restart cold :: rest → ∃ t, step s = .next t ∧ t.agenda = rest ∧
    t.boot = { Boot.reset with part := s.boot.part, config := s.boot.config, start := s.boot.start, journal := s.boot.journal,
                               rollback := s.boot.rollback } ∧
    t.power = { Power.reset with rails := if cold then [] else s.power.rails } ∧ t.mem = { MemState.reset with host := s.mem.host } ∧
    t.ctxs = [] ∧ t.wgs = [] ∧ t.fab = Fabric.reset ∧ t.host = HostPort.reset ∧ t.time = Time.reset ∧ t.obs = Observe.reset)

/-- R309 to R312, R315, R319, R361, R362: configuration requests while step 2 has not ended, or has failed (log 43), are retried and afterwards answered, with the
class code, the two BARs and MSI-X as R309 and R310 give them (where they stand is PRESUMED, log 80); a BAR answers once the host has
assigned it. BAR2 reads and writes HBM untranslated, through L2, and reports the errors that a read finds (for no context, at
core and warp 0, with the physical address: log 50), and before the device is ready reads as 0
and discards writes; a doorbell has its queue examined, and one that named a queue that could not be read has it read again. SEND puts
the message of MSGIN into the inbox, a write of MSGIN of any size changes its bytes (log 81), and a write outside the registers changes nothing. A host read
of BAR0 gives READY, the version of the image, MSGIN, the reply and its sequence number, and 0 where a register is write-only or the
device not ready; a message on the management port joins the inbox if its certificate
chains to the trust root. An uncorrectable error
poisons its granule or the granules of its L2 line, to be found by the first access; drops its L1 line; makes its tile POISON, with the arrival into it POISONED, its
accumulator element the NaN with the MLOOPs that write it POISONED, and sets its register's poison bit, each with a notification once
(log 79); or stands in its page-table or instruction granule until it is read. -/
def Obligations.TheHostPortAndErrorsReachTheMachine : Prop :=
  (∀ (r : ConfigRequest) (s : State), s.hole = none → s.boot.linked = false →
    exec (.configRequest r) s = .next (s.emit (.config none))) ∧
  (∀ (r : ConfigRequest) (s : State), s.hole = none → s.boot.linked = true → r.write = false →
    exec (.configRequest r) s = .next (s.emit (.config (some (s.cfgRead r.offset))))) ∧
  (∀ (r : ConfigRequest) (s : State), s.hole = none → s.boot.linked = true → r.write = true →
    exec (.configRequest r) s = .next ({ s with host := { s.host with
      cfg := Memory.write s.host.cfg (r.offset / 4 * 4) (leBytes 4 r.value.toNat) } }.emit (.config (some r.value)))) ∧
  (∀ (s : State), (s.cfgRead 8).toNat / 2 ^ 8 = 0x120000 ∧ (s.cfgRead 0x10).toNat % 2 ^ 26 = 4 ∧ s.cfgRead 0x18 = 0xC ∧
    (s.cfgRead 0x1C).toNat % 16 = 0 ∧ s.cfgRead 0x84 = 0x3000 ∧ s.cfgRead 0x88 = 0xB000) ∧
  (∀ (value : Word) (off n : Nat) (bs : List Byte) (s : State), s.hole = none →
    (s.answersBar 2 = false → exec (.hostBar2Access (.read off n)) s = .next s ∧ exec (.hostBar2Access (.write off bs)) s = .next s) ∧
    (s.answersBar 0 = false → exec (.registerWrite off bs) s = .next s ∧ exec (.doorbell value) s = .next s)) ∧
  (∀ (off n : Nat) (bs : List Byte) (s : State), s.hole = none → s.answersBar 2 = true → s.boot.ready = false →
    (off + n ≤ 2 ^ 36 → exec (.hostBar2Access (.read off n)) s = .next (s.emit (.hostRead (List.replicate n 0)))) ∧
    exec (.hostBar2Access (.write off bs)) s = .next s) ∧
  (∀ (off n : Nat) (s : State), s.hole = none → s.answersBar 2 = true → s.boot.ready = true → off + n ≤ 2 ^ 36 →
    s.host.bar2 * 2 ^ 36 + off + n ≤ Config.hbmBytes →
    (∀ g ∈ s.mem.unfound, overlaps (16 * g.1) 16 (s.host.bar2 * 2 ^ 36 + off) n = false) →
    exec (.hostBar2Access (.read off n)) s = .next
      (((s.bumpBy 0x124 n).fillLines none false (linesOf (s.host.bar2 * 2 ^ 36 + off) n)).emit (.hostRead
        (Memory.read s.mem.hbm (s.host.bar2 * 2 ^ 36 + off) n)))) ∧
  (∀ (off n : Nat) (s : State), s.answersBar 2 = true → s.boot.ready = true → off + n ≤ 2 ^ 36 →
    s.host.bar2 * 2 ^ 36 + off + n ≤ Config.hbmBytes →
    let found := s.mem.unfound.filter (fun g => overlaps (16 * g.1) 16 (s.host.bar2 * 2 ^ 36 + off) n)
    let u := found.foldl (fun (s : State) g => s.notify 0xFFFF 0 0 (16 * g.1) g.2)
      { s with mem := { s.mem with unfound := s.mem.unfound.filter (fun g => !found.elem g) } }
    let t := ((u.bumpBy 0x124 n).fillLines none false (linesOf (s.host.bar2 * 2 ^ 36 + off) n)).emit
      (.hostRead (s.hbmRead (s.host.bar2 * 2 ^ 36 + off) n))
    t.hole = none → exec (.hostBar2Access (.read off n)) s = .next t) ∧
  (∀ (off : Nat) (bs : List Byte) (s : State), s.answersBar 2 = true → s.boot.ready = true → off + bs.length ≤ 2 ^ 36 →
    s.host.bar2 * 2 ^ 36 + off + bs.length ≤ Config.hbmBytes →
    let t := (s.hbmWrite (s.host.bar2 * 2 ^ 36 + off) bs).physUsed true (s.host.bar2 * 2 ^ 36 + off) bs.length
    t.hole = none → exec (.hostBar2Access (.write off bs)) s = .next t) ∧
  (∀ (value : Word) (s : State) (c : Context), s.answersBar 0 = true → s.boot.ready = true →
    s.ctx? (bitsOf value.toNat 16 32) = some c →
    let q := bitsOf value.toNat 0 16
    (s.queue? (bitsOf value.toNat 16 32) q = none → (s.examine c q).hole = none → exec (.doorbell value) s = .next (s.examine c q)) ∧
    (∀ x, s.queue? (bitsOf value.toNat 16 32) q = some x →
      let t := (s.mapQueue (bitsOf value.toNat 16 32) q (fun x => { x with blocked := false })).examine c q
      t.hole = none → exec (.doorbell value) s = .next t)) ∧
  (∀ (seq : W32) (s : State), s.hole = none → s.answersBar 0 = true → seq ≠ 0 → (∀ x ∈ s.host.inbox, x.1 = none) →
    exec (.registerWrite 0x1040 (leBytes 4 seq.toNat)) s = .next
      { s with host := { s.host with inbox := s.host.inbox ++ [(some seq, s.host.msgIn)] } }) ∧
  (∀ (k : Nat) (bs : List Byte) (s : State), s.hole = none → s.answersBar 0 = true → 0 < bs.length → k + bs.length ≤ 64 →
    let m := Memory.write (Memory.write [] 0 (leBytes 64 s.host.msgIn.toNat)) k bs
    exec (.registerWrite (0x1000 + k) bs) s = .next
      { s with host := { s.host with msgIn := BitVec.ofNat 512 (leNat (Memory.read m 0 64)) } }) ∧
  (∀ (off : Nat) (bs : List Byte) (s : State), s.hole = none → s.answersBar 0 = true → off < 0x1000 → off + bs.length ≤ 0x1000 →
    exec (.registerWrite off bs) s = .next s) ∧
  (∀ (g : Nat) (s : State), s.hole = none →
    (g ∉ s.mem.poison → exec (.uncorrectableError (.hbm g)) s = .next
      { s with mem := { s.mem with poison := s.mem.poison ++ [g], unfound := s.mem.unfound ++ [(g, 1)] } }) ∧
    (g ∈ s.mem.poison → exec (.uncorrectableError (.hbm g)) s = .next s)) ∧
  (∀ (line : Nat) (s : State), (∀ i < 8, i + 8 * line ∉ s.mem.poison) → s.hole = none →
    let gs := (List.range 8).map (· + 8 * line)
    exec (.uncorrectableError (.l2 line)) s = .next
      { s with mem := { s.mem with poison := s.mem.poison ++ gs, unfound := s.mem.unfound ++ gs.map (fun g => (g, 2)) } }) ∧
  (∀ (core slot tile : Nat) (s : State) (g : Wg),
    s.wgs.find? (fun g => g.st == .resident && g.core == core && decide (g.tileBase ≤ tile) && decide (tile < g.tileBase + g.tiles)) =
      some g →
    let spoilt := match g.tag (tile - g.tileBase) with
      | .filling (.sender p c) .. => s.fab.spoilt ++ [(p, c, g.wid, tile - g.tileBase)]
      | _ => s.fab.spoilt
    let u := { s with fab := { s.fab with spoilt := spoilt } }.mapWg g.wid (fun g => g.setTag (tile - g.tileBase) .poison)
    let t := (match g.tag (tile - g.tileBase) with
      | .filling (.op i) .. => u.mapOp i (fun o => { o with pois := true })
      | _ => u).notify g.pkt.ctx core slot (256 * (tile - g.tileBase)) 4
    (g.tag (tile - g.tileBase) ≠ .poison → t.hole = none → exec (.uncorrectableError (.tile core slot tile)) s = .next t) ∧
    (g.tag (tile - g.tileBase) = .poison → s.hole = none → exec (.uncorrectableError (.tile core slot tile)) s = .next s)) ∧
  (∀ (core slot row col wid k : Nat) (s : State) (g : Wg), s.slot? core slot = some (wid, k) → s.wg? wid = some g →
    row < g.acc.length → col < 256 →
    let u := (s.accMap g.wid row col 1 1 (fun _ _ _ => 0x7FC00000)).mapOps (fun o =>
      match o.kind with
      | .mloop _ =>
        if o.wid == g.wid && o.running && o.kind.accWrites.any (fun r => regionsMeet row col 1 1 r.1 r.2.1 r.2.2.1 r.2.2.2) then
          { o with pois := true }
        else o
      | _ => o)
    let told : Told := { wid := g.wid, warp := 0, lane := 0, sub := 5, addr := 256 * row + col }
    let t := { u with mem := { u.mem with told := u.mem.told ++ [told] } }.notify g.pkt.ctx core slot (256 * row + col) 5
    (told ∉ u.mem.told → t.hole = none → exec (.uncorrectableError (.acc core slot row col)) s = .next t) ∧
    (told ∈ u.mem.told → u.hole = none → exec (.uncorrectableError (.acc core slot row col)) s = .next u)) ∧
  (∀ (a : Nat) (s : State), s.hole = none →
    exec (.uncorrectableError (.pte a)) s = .next { s with mem := { s.mem with badPte := a :: s.mem.badPte.filter (· != a) } } ∧
    exec (.uncorrectableError (.instr a)) s = .next
      { s with mem := { s.mem with badInstr := a :: s.mem.badInstr.filter (· != a) } }) ∧
  (∀ (core line : Nat) (s : State), s.hole = none → exec (.uncorrectableError (.l1 core line)) s = .next
    { s with mem := { s.mem with l1 := s.mem.l1.filter (fun x => x != (core, line)) } }) ∧
  (∀ (core slot lane wid k : Nat) (code : Code) (s : State) (g : Wg), s.slot? core slot = some (wid, k) → s.wg? wid = some g →
    let u := s.mapWarp wid k (fun w => w.errReg lane code.toNat)
    let told : Told := { wid := wid, warp := k, lane := if code.isScalar then 0 else lane, sub := 6, addr := code.toNat }
    let t := { u with mem := { u.mem with told := u.mem.told ++ [told] } }.notify g.pkt.ctx core slot code.toNat 6
    let i : Instr := .uncorrectableError (.reg core slot lane code)
    (u.stands told = true → told ∉ u.mem.told → t.hole = none → exec i s = .next t) ∧
    (u.stands told = false ∨ told ∈ u.mem.told → u.hole = none → exec i s = .next u)) ∧
  (∀ (off n : Nat) (rest : List Input) (s : State), s.hole = none → s.answersBar 0 = true → s.agenda = .hostRead off n :: rest →
    step s = .next (({ s.forgetTold with free := s.free + 1, agenda := rest }).emit (.hostRead (s.bar0Read off n)))) ∧
  (∀ (chain : List Byte) (m : Msg) (rest : List Input) (s : State), s.hole = none → s.boot.ported = true →
    s.agenda = .portMsg chain m :: rest →
    let came := if Config.chainsTo s.boot.config.trust chain = true then [(none, m)] else []
    step s = .next { s.forgetTold with free := s.free + 1, agenda := rest,
                                       host := { s.host with inbox := s.host.inbox ++ came } }) ∧
  (∀ (s : State),
    (s.bar0Byte 0).getLsbD 0 = s.boot.ready ∧ (∀ k < 8, s.bar0Byte (8 + k) = BitVec.ofNat 8 (s.boot.fwver.toNat / 256 ^ k % 256)) ∧
    (∀ k < 64, s.bar0Byte (0x1000 + k) = BitVec.ofNat 8 (s.host.msgIn.toNat / 256 ^ k % 256) ∧
      s.bar0Byte (0x1800 + k) = BitVec.ofNat 8 (s.host.reply.toNat / 256 ^ k % 256)) ∧
    (∀ k < 4, s.bar0Byte (0x1840 + k) = BitVec.ofNat 8 (s.host.rseq.toNat / 256 ^ k % 256) ∧ s.bar0Byte (0x1040 + k) = 0) ∧
    (∀ k < 8, s.bar0Byte (0x2000 + k) = 0) ∧ (∀ off, 0x1000000 ≤ off → s.bar0Byte off = 0) ∧
    (s.boot.ready = false → ∀ off, 0x2000 ≤ off → s.bar0Byte off = 0))

namespace Sys2Proof.Claims

/-- The oldest message that waits, from SEND or the management port, is an operation that the device does not turn away: a driver is
attached where one is needed, with a version that has the operation (R314, R315, R316, R384). -/
def Asked (s : State) (op : Nat) (src : Option W32) (m : Nat) : Prop :=
  ∃ msg rest, s.host.inbox = (src, msg) :: rest ∧ m = msg.toNat ∧ m % 256 = op ∧
    ((op = 0x60 ∨ op = 0x73 ∨ op = 0x74) ∨ s.host.attached.isSome) ∧
    (0x40 ≤ op → op ≤ 0x45 → s.host.attached ≠ some 1)

/-- The reply of R347: status, value and extra. -/
def replied (s : State) (src : Option W32) (status value extra : Nat) : State :=
  s.answer src (status % 256 + value % 2 ^ 64 * 2 ^ 64 + extra % 2 ^ 64 * 2 ^ 128)

/-- Parameters P1 to P7 after the first n are 0 (R316). -/
def Only (n m : Nat) : Prop := ∀ i, n < i → i ≤ 7 → param m i = 0

/-- A ring that a message names: base, length and vector are in order, and no context exists (R348, R363, R380). -/
def RingFits (s : State) (align m : Nat) : Prop :=
  Only 3 m ∧ s.ctxs = [] ∧ param m 1 % align = 0 ∧ (∃ k, 6 ≤ k ∧ k ≤ 16 ∧ param m 2 = 2 ^ k) ∧ param m 3 < 2048

/-- The ring named: it counts from 0, and the records that wait go on waiting. -/
def ringOf (old : Option Ring) (m : Nat) : Ring :=
  { base := param m 1, len := param m 2, vector := param m 3, posted := 0, consumed := 0, waiting := (old.map (·.waiting)).getD [] }

/-- R317: what the session, ring, pod, power and firmware messages do when they succeed: the operation, the state after it, and the
value that the reply holds. -/
def manages (s : State) (m : Nat) (i : Instr) (op : Nat) (t : State) (v : Nat) : Prop :=
  match i with
  | .attach => op = 0x60 ∧ Only 1 m ∧ s.host.attached = none ∧ v = min 2 (bitsOf (param m 1) 8 8) ∧ 1 ≤ v ∧ bitsOf (param m 1) 0 8 ≤ v ∧
      t = { s with host := { s.host with attached := some v } }
  | .detach => op = 0x61 ∧ Only 0 m ∧ s.ctxs = [] ∧ v = 0 ∧ t = { s with host := { s.host with attached := none } }
  | .ctxcreate => op = 0x62 ∧ Only 2 m ∧ s.fring.isSome ∧ s.sring.isSome ∧ s.slog.isSome ∧ s.pool.isSome ∧ s.power.pstate ≠ 2 ∧
      param m 1 % 64 = 0 ∧ param m 1 + 64 ≤ Config.hbmBytes ∧ s.freeCtx = some v ∧
      let c := Context.ofBytes v ((param m 2).testBit 0) (Memory.read s.mem.hbm (param m 1) 64)
      c.fits = true ∧ t = { s.physUsed false (param m 1) 64 with ctxs := s.ctxs ++ [c] }
  | .ctxdestroy => op = 0x63 ∧ Only 0 m ∧ v = 0 ∧ (s.ctx? (msgCtx m)).isSome ∧
      (∀ p ∈ s.pkts, p.key.ctx = msgCtx m → p.launch? = none) ∧ (∀ g ∈ s.wgs, g.pkt.ctx ≠ msgCtx m) ∧ t = s.dropCtx (msgCtx m)
  | .faultring => op = 0x64 ∧ RingFits s 64 m ∧ v = 0 ∧ t = { s with fring := some (ringOf s.fring m) }
  | .servring => op = 0x65 ∧ RingFits s 64 m ∧ v = 0 ∧ t = { s with sring := some (ringOf s.sring m) }
  | .storelog => op = 0x66 ∧ RingFits s 256 m ∧ v = 0 ∧ t = { s with slog := some (ringOf s.slog m) }
  | .savepool => op = 0x67 ∧ Only 2 m ∧ s.ctxs = [] ∧ param m 1 % 4096 = 0 ∧ 673 * 2 ^ 20 ≤ param m 2 ∧ v = 0 ∧
      t = { s with pool := some (param m 1, param m 2) }
  | .podform => op = 0x68 ∧ Only 3 m ∧
      let own := bitsOf (param m 2) 0 4
      let map := bitsOf (param m 3) 0 16
      map.testBit own = true ∧
      let u := if s.fab.forming.isSome then s else s.formPod (bitsOf (param m 1) 0 32) own map
      u.formed own map = true ∧ v = u.reachMap ∧ t = { u with fab := { u.fab with forming := none } }
  | .exportCtx => op = 0x69 ∧ Only 1 m ∧ v = 0 ∧
      let rest := s.fab.exports.filter (fun x => x.1 != bitsOf (param m 1) 0 4)
      ((msgCtx m = 0xFFFF ∧ t = { s with fab := { s.fab with exports := rest } }) ∨
       (msgCtx m ≠ 0xFFFF ∧ (s.ctx? (msgCtx m)).isSome ∧
        t = State.serveStalled { s with fab := { s.fab with exports := rest ++ [(bitsOf (param m 1) 0 4, msgCtx m)] } }))
  | .bar2base => op = 0x6A ∧ Only 1 m ∧ v = 0 ∧ t = { s with host := { s.host with bar2 := param m 1 } }
  | .hostatomic => op = 0x6B ∧ Only 1 m ∧ v = 0 ∧ t = { s with host := { s.host with atomics := (param m 1).testBit 0 } }
  | .fabparam => op = 0x6C ∧ Only 2 m ∧ v = 0 ∧ (param m 1 = 0 ∨ (100 ≤ param m 1 ∧ param m 1 ≤ 100000)) ∧
      t = { s with fab := { s.fab with
        ageing := if param m 1 = 0 then s.fab.ageing else param m 1,
        threshold := if (param m 2).testBit 15 then bitsOf (param m 2) 0 10 else s.fab.threshold } }
  | .streamparam => op = 0x6D ∧ Only 3 m ∧ v = 0 ∧ t = { s with host := { s.host with
      ptpDomain := bitsOf (param m 1) 0 7, ingestPort := bitsOf (param m 2) 0 16, ethPorts := bitsOf (param m 3) 0 2 } }
  | .powercap => op = 0x6E ∧ Only 1 m ∧ v = 0 ∧ 900 ≤ param m 1 ∧ param m 1 ≤ 1800 ∧
      t = { s with power := Power.paced { s.power with cap := param m 1 } }
  | .powerstate => op = 0x6F ∧ Only 1 m ∧ v = 0 ∧ ((param m 1 = 2 ∧ s.ctxs = [] ∧ t = if s.power.pstate = 2 then s else s.standby) ∨
      (param m 1 = 0 ∧ t = if s.power.pstate = 2 then s.leaveStandby else s))
  | .telemetry => op = 0x70 ∧ Only 3 m ∧ v = 0 ∧ t = { s with
      host := { s.host with collector := (BitVec.ofNat 64 (param m 1), BitVec.ofNat 64 (param m 2), bitsOf (param m 3) 0 16) },
      power := { s.power with sendAt := s.now + 1000000000 } }
  | .rollback => op = 0x71 ∧ Only 1 m ∧ v = 0 ∧ s.boot.rollback ≤ param m 1 ∧ param m 1 ≤ s.boot.level ∧
      t = { s with boot := { s.boot with rollback := param m 1 } }
  | .journalclr => op = 0x72 ∧ Only 0 m ∧ v = 0 ∧ t = { s with boot := { s.boot with journal := [], alt := List.replicate 8 0 } }
  | .imgpiece => op = 0x73 ∧ Only 2 m ∧ v = 0 ∧ s.boot.hostSource.isSome ∧ param m 1 % 4096 = 0 ∧ param m 2 % 16 = 0 ∧ 16 ≤ param m 2 ∧
      param m 2 ≤ 2 ^ 24 ∧ param m 1 + param m 2 ≤ 2 ^ 26 ∧
      t = { s with boot := { s.boot with image := Memory.write s.boot.image (param m 1) (Memory.read s.host.stage 0 (param m 2)) } }
  | .ctxcsr => op = 0x75 ∧ Only 3 m ∧ ∃ c d, s.ctx? (msgCtx m) = some c ∧ (param m 1 = 0x18 ∨ param m 1 = 0x30) ∧
      d = (if (param m 3).testBit 0 then c.csrPut (param m 1) (csrKeeps (param m 1) (BitVec.ofNat 64 (param m 2))) else c) ∧
      v = (if param m 1 = 0x18 then d.tbudget.toNat else d.copymode.toNat) ∧ t = s.mapCtx c.num (fun _ => d)
  | .devcsr => op = 0x76 ∧ Only 3 m ∧ 0x100 ≤ param m 1 ∧ csrAssigned (param m 1) = true ∧
      t = (if (param m 3).testBit 0 then s.devWrite (param m 1) (BitVec.ofNat 64 (param m 2)) else s) ∧
      v = (t.devReg (param m 1)).toNat
  | _ => False

/-- Every named lane holds a record of a KIND. -/
def Records (x : Target) (kind : Nat → Prop) : Prop := x.lanes ≠ [] ∧ ∀ l ∈ x.lanes, ∃ p, l.st = .parked p ∧ kind p.kind

/-- CORE, WARP, LANES and REG of R347 are 0. -/
def NoLanes (m : Nat) : Prop := bitsOf m 34 7 = 0 ∧ bitsOf m 41 7 = 0 ∧ bitsOf m 368 16 = 0 ∧ bitsOf m 384 64 = 0

/-- R347, R351, R327: what the driver and the debugger do to lanes: the operation, the state, the value and the extra of the reply. -/
def steers (s : State) (m : Nat) (i : Instr) (op : Nat) (t : State) (v e : Nat) : Prop :=
  match i with
  | .resume => op = 0x01 ∧ v = 0 ∧ e = 0 ∧ ∃ x, s.target m = some x ∧ Records x (· ≠ 0) ∧ t = s.onTarget x Lane.goOn
  | .redirect => op = 0x02 ∧ v = 0 ∧ e = 0 ∧ ∃ x, s.target m = some x ∧ Records x (fun _ => True) ∧ param m 7 % 8 = 0 ∧
      param m 7 < 2 ^ 48 ∧
      t = (s.onTarget x (fun l => { l.goOn with
        pc := BitVec.ofNat 64 (param m 7), clause := if l.park?.any (fun p => (l.place p.pc).isSome) then l.clause else none,
        dbg := { l.goOn.dbg with passed := false } })).forget x.g.wid x.k x.ls
  | .kill => op = 0x03 ∧ v = 0 ∧ e = 0 ∧ ∃ x, s.target m = some x ∧ (∀ l ∈ x.lanes, l.isParked = true) ∧
      t = (s.killLanes x.g.wid x.k x.ls).tidy
  | .read => op = 0x04 ∧ t = s ∧ ∃ x l rest, s.target m = some x ∧ x.lanes = l :: rest ∧
      let r := bitsOf m 368 16
      let all := ∀ y ∈ x.lanes, y.isParked = true
      let one := ∃ y ∈ x.lanes, y.isParked = true
      ((r < 0x100 ∧ all ∧ (∀ y ∈ x.w.lanes, r < y.v.length) ∧ ∃ y, l.v[r]? = some y ∧ v = y.val.toNat ∧
          e = y.poison.toNat * 2 ^ 63) ∨
       (0x100 ≤ r ∧ r < 0x140 ∧ one ∧ ∃ y, x.w.s[r - 0x100]? = some y ∧ v = y.val.toNat ∧ e = y.poison.toNat * 2 ^ 63) ∨
       (r = 0x140 ∧ all ∧ v = l.predBits ∧ e = ((l.p.take 7).any (·.poison)).toNat * 2 ^ 63) ∨
       (0x1000 ≤ r ∧ csrAssigned (r - 0x1000) = true ∧ (if csrPerLane (r - 0x1000) then all else one) ∧
        v = (csrRead s x.ctx x.g x.w l (r - 0x1000)).toNat ∧ e = 0))
  | .write => op = 0x05 ∧ v = 0 ∧ e = 0 ∧ ∃ x, s.target m = some x ∧
      let r := bitsOf m 368 16
      let n : Word := BitVec.ofNat 64 (param m 7)
      let all := ∀ y ∈ x.lanes, y.isParked = true
      let one := ∃ y ∈ x.lanes, y.isParked = true
      ((r < 0x100 ∧ all ∧ (∀ y ∈ x.w.lanes, r < y.v.length) ∧
        t = s.mapWarp x.g.wid x.k (fun w => x.ls.foldl (fun w l => w.driverPut l (.lane r) n) w)) ∨
       (0x100 ≤ r ∧ r < 0x140 ∧ one ∧ r - 0x100 < x.w.s.length ∧ t = s.mapWarp x.g.wid x.k (fun w =>
          (List.range w.lanes.length).foldl (fun w l => w.driverPut l (.scalar (r - 0x100)) n) w)) ∨
       (r = 0x140 ∧ all ∧ t = s.mapWarp x.g.wid x.k (fun w => x.ls.foldl (fun w l => (List.range 7).foldl (fun w k =>
          w.driverPut l (.pred k) (BitVec.ofNat 64 (bitsOf n.toNat k 1))) w) w)) ∨
       (0x1000 ≤ r ∧ csrAssigned (r - 0x1000) = true ∧ (if csrPerLane (r - 0x1000) then all else one) ∧
        csrRefuses (r - 0x1000) n = false ∧
        t = (if csrPerLane (r - 0x1000) then x.ls else x.ls.take 1).foldl (fun s l =>
          s.csrWrite x.ctx.num x.g.wid x.k l (r - 0x1000) n) s))
  | .halt => op = 0x10 ∧ v = 0 ∧ e = 0 ∧ ∃ x, s.target m = some x ∧
      let named := x.ls.filterMap (fun l => (x.w.lanes[l]?).map (fun y => (l, y)))
      let now := if x.w.sleep.isSome then [] else named.filter (fun y => y.2.st == .active && (match y.2.wait with
        | some z => (match z.on with | .tag .. | .event .. | .signal .. | .barrier _ => false | _ => true)
        | none => true))
      let later := named.filter (fun y => y.2.live && y.2.park?.isNone && !now.any (fun z => z.1 == y.1))
      t = (s.mapWarp x.g.wid x.k (fun w => w.mapLanes (later.map (·.1)) (fun y => { y with dbg := { y.dbg with halt := some 1 } }))).debugPark
        x.g.wid x.k (now.map (fun y => (y.1, y.2.pc, 1)))
  | .step => op = 0x11 ∧ v = 0 ∧ e = 0 ∧ ∃ x, s.target m = some x ∧
      (∀ l ∈ x.lanes, l.live = true ∧ l.st ≠ .join ∧ l.st ≠ .exclusion ∧ ∀ p, l.park? = some p → p.kind ≠ 0) ∧
      t = s.onTarget x (fun l =>
        let y := if l.park?.isSome then l.goOn else l
        { y with dbg := { y.dbg with step := true, halt := none } })
  | .resumeDbg => op = 0x12 ∧ v = 0 ∧ e = 0 ∧ ∃ x, s.target m = some x ∧ Records x (· = 2) ∧ t = s.onTarget x Lane.goOn
  | .trace => op = 0x13 ∧ v = 0 ∧ e = 0 ∧ ∃ x, s.target m = some x ∧
      t = s.onTarget x (fun l => { l with dbg := { l.dbg with trace := (param m 7).testBit 0 } })
  | .breakpoint => op = 0x14 ∧ v = 0 ∧ e = 0 ∧
      let put := fun (new : List Breakpoint) => s.mapCtx (msgCtx m) (fun c =>
        { c with breaks := c.breaks.filter (fun b => b.slot != bitsOf m 368 16 % 8) ++ new })
      ((param m 7 = 0 ∧ (s.ctx? (msgCtx m)).isSome ∧ t = put []) ∨
       (param m 7 ≠ 0 ∧ ∃ x, s.target m = some x ∧ t = put [
          { slot := bitsOf m 368 16 % 8, core := x.g.core, warp := x.w.slot, lanes := BitVec.ofNat 64 (param m 6),
            pc := BitVec.ofNat 64 (param m 7) }]))
  | _ => False

/-- What INVAL does at once: the translations of the pages, of large pages that meet them too, and entries above them that lead to one,
are dropped; what stalled is tried again, and the context's stores to peers leave (R307, R355). -/
def invalidated (s : State) (ctx first pages : Nat) : State :=
  let hits := fun (tag n : Nat) => decide (tag * n < first + pages) && decide (first < (tag + 1) * n)
  if s.host.inval.isSome then s
  else ((State.serveStalled { s with mem := { s.mem with
    tlb := s.mem.tlb.filter (fun x => x.ctx != ctx || !hits x.page (2 ^ (x.leaf.size - 12))),
    above := s.mem.above.filter (fun x => x.ctx != ctx || !hits x.tag (2 ^ ((walkShifts[x.level - 1]?).getD 12 - 12))) } }).goOnAll).drainWc
      (fun e => e.ctxs.elem ctx)

/-- R355, R366, R372, R375, R381, R383, R384: what the driver does to pages, operations, launches, contexts, channels and the pod. -/
def recovers (s : State) (m : Nat) (i : Instr) (op : Nat) (t : State) (v : Nat) : Prop :=
  let c? := s.ctx? (msgCtx m)
  let p := param m 7
  match i with
  | .inval => op = 0x20 ∧ v = 0 ∧ NoLanes m ∧ c?.isSome ∧ bitsOf p 2 10 = 0 ∧ p % 4 ≠ 3 ∧
      let pages := 512 ^ (p % 4)
      let first := p / 4096 / pages * pages
      let since := s.host.inval.getD (s.fab.nextTag, s.now)
      let u := invalidated s (msgCtx m) first pages
      u.xlInFlight (msgCtx m) first pages (if s.host.inval.isSome then since.1 else u.fab.nextTag) since.2 = false ∧
      t = { u with host := { u.host with inval := none } }
  | .sethwm => op = 0x21 ∧ v = 0 ∧ NoLanes m ∧ (∃ c, c? = some c ∧ c.privhwm.toNat ≤ p) ∧ p % 4096 = 0 ∧ p ≤ 2 ^ 20 ∧
      t = s.mapCtx (msgCtx m) (fun c => { c with privhwm := BitVec.ofNat 32 p })
  | .resumepage => op = 0x22 ∧ v = 0 ∧ NoLanes m ∧ c?.isSome ∧
      let go := fun (g : Wg) => { g with warps := g.warps.map (fun w => { w with lanes := w.lanes.map (fun x =>
        if x.onPage (p / 4096) then x.goOn else x) }) }
      t = { s with wgs := s.wgs.map (fun g => if g.pkt.ctx == msgCtx m then go g else g) }
  | .engresume => op = 0x30 ∧ v = 0 ∧ noLaneMask m = true ∧ c?.isSome ∧ msgCore m < Config.cores ∧
      ∃ o, s.heldOp (msgCtx m) (msgCore m) p = some o ∧ t = s.mapOp o.id (fun o => { o with held := [] })
  | .engend => op = 0x31 ∧ v = 0 ∧ noLaneMask m = true ∧ c?.isSome ∧ msgCore m < Config.cores ∧
      ∃ o, s.heldOp (msgCtx m) (msgCore m) p = some o ∧ t = s.endHeld o
  | .endlaunch => op = 0x32 ∧ v = 0 ∧ noLaneMask m = true ∧ ∃ c x l, c? = some c ∧
      s.pkt? { ctx := c.num, q := p % 65536, num := p / 65536 } = some x ∧ x.body = .launch l ∧ t = s.endLaunch c x l
  | .ctxsave => op = 0x33 ∧ v = 0 ∧ noLaneMask m = true ∧ c?.isSome ∧ t = s.saveContext (msgCtx m)
  | .ctxrestore => op = 0x34 ∧ v = 0 ∧ noLaneMask m = true ∧ ∃ c, c? = some c ∧ c.saved = true ∧
      t = (s.queues.filter (fun q => q.ctx == c.num)).foldl (fun s q => s.examine { c with saved := false } q.q)
        (s.mapCtx c.num (fun _ => { c with saved := false }))
  | .chretire => op = 0x40 ∧ v = 0 ∧ NoLanes m ∧ ∃ c, s.chan? (bitsOf p 8 4) (bitsOf p 0 6) = some c ∧
      let u := s.withChans (onChan c.peer c.plane (fun c => { c with retired := true, sendRet := true, up := false, sendUp := false }))
      t = if 3 ≤ c.ver then u.emit (.health c.peer c.plane c.health true) else u
  | .chrestore => op = 0x41 ∧ v = 0 ∧ NoLanes m ∧ ∃ c, s.chan? (bitsOf p 8 4) (bitsOf p 0 6) = some c ∧
      let u := s.withChans (onChan c.peer c.plane (fun c => { c with retired := false, sendRet := false, health := 1023 }))
      t = if u.power.pstate = 2 then u else u.emit (.linkFrame c.peer c.plane)
  | .slreplay => op = 0x42 ∧ v = 0 ∧ NoLanes m ∧ (msgCtx m = 0xFFFF ∨ c?.isSome) ∧
      ∃ r, s.fab.repair.find? (fun r => r.ctx == msgCtx m && r.page == p / 4096) = some r ∧ s.replayPage r = some t
  | .sldiscard => op = 0x43 ∧ v = 0 ∧ NoLanes m ∧ (msgCtx m = 0xFFFF ∨ c?.isSome) ∧
      ∃ r, s.fab.repair.find? (fun r => r.ctx == msgCtx m && r.page == p / 4096) = some r ∧
        t = (s.endRepair r.ctx r.page).serveStalled
  | .podhold => op = 0x44 ∧ v = 0 ∧ NoLanes m ∧
      let u := if s.fab.holding then s else s.hold (BitVec.ofNat 16 p)
      u.holdBusy = false ∧ t = { u with fab := { u.fab with holding := false } }
  | .podset => op = 0x45 ∧ NoLanes m ∧ (s.fab.podWait.isSome ∨ s.fab.held ≠ 0) ∧
      let u := if s.fab.podWait.isSome then s
        else s.podSet (BitVec.ofNat 16 p) (if bitsOf p 32 16 = 0 then 100 else bitsOf p 32 16)
      ∃ w, u.fab.podWait = some w ∧ u.fab.held = 0 ∧ v = w.done.toNat ∧ t = { u with fab := { u.fab with podWait := none } }
  | _ => False

end Sys2Proof.Claims

/-- R314 to R317: the oldest message that waits, when it is a management message whose parameters and conditions are in order, has its
effect and is answered with status 0 and its value (log 30: a ring that is named again counts from 0 and keeps the records that wait,
EXPORT tries stalled requests again, and POWERSTATE 0 outside P2 is answered with 0); IMGDONE boots the image that has been sent if its signature is good and its level is
not below the rollback level, and otherwise goes on with the next source and is answered with status 3. -/
def Obligations.ManagementMessagesAreAnswered : Prop :=
  (∀ (i : Instr) (op : Nat) (src : Option W32) (m v : Nat) (s t : State), Claims.Asked s op src m → Claims.manages s m i op t v →
    t.hole = none → exec i s = .next (Claims.replied t src 0 v 0)) ∧
  (∀ (src : Option W32) (m host : Nat) (s : State), Claims.Asked s 0x74 src m → Claims.Only 1 m → s.boot.hostSource = some host →
    param m 1 ≤ 2 ^ 26 → s.hole = none →
    let image := Memory.read s.boot.image 0 (param m 1)
    let good := Config.xmssValid image = true ∧ s.boot.rollback ≤ Config.imageLevel image
    ∃ b, exec .imgdone s = .next (Claims.replied { s with boot := b } src (if good then 0 else 3) 0 0) ∧
      Claims.Booted s host image b)

/-- R327, R347, R351: messages that resume, redirect, kill, read, write, halt, step or trace the lanes that they name, or set a
breakpoint (log 31: a breakpoint is cleared by its context alone, and STEP takes lanes that are active, waiting or parked at a record
other than KIND 0), and R316, R355, R366, R372, R375, R381, R383, R384, R389: messages about pages, operations, launches, contexts, channels
and the pod have their effect and are answered with status 0 (CHRETIRE retires both directions of the channel, log 38), FLOWSTATE with its own reply; INVAL waits for the
accesses in flight that may use what it drops; an operation that is not assigned is answered with status 5. -/
def Obligations.DriverMessagesAreAnswered : Prop :=
  (∀ (i : Instr) (op : Nat) (src : Option W32) (m v e : Nat) (s t : State), Claims.Asked s op src m →
    Claims.steers s m i op t v e → t.hole = none → exec i s = .next (Claims.replied t src 0 v e)) ∧
  (∀ (i : Instr) (op : Nat) (src : Option W32) (m v : Nat) (s t : State), Claims.Asked s op src m → Claims.recovers s m i op t v →
    t.hole = none → exec i s = .next (Claims.replied t src 0 v 0)) ∧
  (∀ (src : Option W32) (m : Nat) (s : State), Claims.Asked s 0x20 src m → Claims.NoLanes m → (s.ctx? (msgCtx m)).isSome →
    bitsOf (param m 7) 2 10 = 0 → param m 7 % 4 ≠ 3 →
    let pages := 512 ^ (param m 7 % 4)
    let first := param m 7 / 4096 / pages * pages
    let since := s.host.inval.getD (s.fab.nextTag, s.now)
    let u := Claims.invalidated s (msgCtx m) first pages
    let tag := if s.host.inval.isSome then since.1 else u.fab.nextTag
    u.xlInFlight (msgCtx m) first pages tag since.2 = true → u.hole = none →
    exec .inval s = .next { u with host := { u.host with inval := some (tag, since.2) } }) ∧
  (∀ (src : Option W32) (m : Nat) (s : State), Claims.Asked s 0x50 src m → Claims.NoLanes m → (s.ctx? (msgCtx m)).isSome →
    s.hole = none →
    let f := (s.flow? (msgCtx m) (BitVec.ofNat 32 (param m 7))).getD (Flow.fresh (msgCtx m) (BitVec.ofNat 32 (param m 7)))
    exec .flowstate s = .next (s.answer src f.report)) ∧
  (∀ (op : Nat) (src : Option W32) (m : Nat) (s : State), Claims.Asked s op src m → opAssigned op = false →
    s.host.attached.isSome → s.hole = none →
    exec .unassignedMessageOp s = .next (Claims.replied s src 5 0 0))

namespace Sys2Proof.Claims

/-- The instructions in the frame of R114, with their entries. -/
def InFrame (i : Instr) (e : Entry) : Prop :=
  integerRule i = some e ∨ immediateRule i = some e ∨ logicRule i = some e ∨ bitRule i = some e ∨ moveRule i = some e ∨
  floatRule i = some e ∨ convertRule i = some e ∨ decimalRule i = some e

/-- The registers that an entry names as its destination (R42, R43): p7 discards writes, so it is none. -/
def names (e : Entry) : Dest → Bool
  | .lane k => !e.toPred && Code.isLane e.dst && (k == e.dst.toNat || (tyWide e.ty && k == e.dst.toNat + 1))
  | .pred k => e.toPred && k == e.dst.toNat % 8 && k != 7
  | .scalar k => !e.toPred && Code.isScalar e.dst && k == e.dst.toNat - 0x100

/-- Nothing differs between the states but one warp of one workgroup, and in it only its lanes, its scalar registers and its pending
results. -/
def OnlyWarp (s t : State) (cx : Cx) (w : Warp) : Prop :=
  t = { s with wgs := t.wgs } ∧ (∀ n, n ≠ cx.wid → t.wg? n = s.wg? n) ∧
  ∃ g, t.wg? cx.wid = some g ∧ g = { cx.g with warps := g.warps } ∧ (∀ k, k ≠ cx.k → g.warps[k]? = cx.g.warps[k]?) ∧
    g.warps[cx.k]? = some w ∧ w = { cx.w with lanes := w.lanes, s := w.s, results := w.results, nextRes := w.nextRes }

/-- The bytes of HBM, of host memory and of scratchpad outside what `hbm`, `host` and `scr` name read as before, and so do the tags. -/
def MemoryKept (s t : State) (hbm host : Nat → Prop) (scr : Nat → Nat → Prop) : Prop :=
  (∀ a, ¬ hbm a → Memory.get t.mem.hbm a = Memory.get s.mem.hbm a) ∧
  (∀ a, ¬ host a → Memory.get t.mem.host a = Memory.get s.mem.host a) ∧
  (∀ n g', t.wg? n = some g' → ∃ g, s.wg? n = some g ∧ g'.tags = g.tags ∧
    ∀ a, ¬ scr n a → Memory.get g'.data a = Memory.get g.data a)

/-- The physical bytes of a target that the plan's accesses cover. -/
def covered (plan : List MemPlan) (target : PageTarget) (a : Nat) : Prop :=
  ∃ p ∈ plan, ∃ v ps, p.2 = .ok (v, .mem ps) ∧ ∃ q ∈ ps, q.leaf.target = target ∧ q.pa ≤ a ∧ a < q.pa + q.n

/-- The bytes of a workgroup's scratchpad that the plan's accesses of n bytes cover. -/
def coveredScr (plan : List MemPlan) (n wid a : Nat) : Prop :=
  ∃ p ∈ plan, ∃ v off, p.2 = .ok (v, .scr wid off) ∧ off ≤ a ∧ a < off + n

/-- No register of the warp has changed yet: its lanes' registers and predicates and its scalar registers read as before. -/
def RegistersKept (t : State) (cx : Cx) : Prop :=
  ∃ w, t.warp? cx.wid cx.k = some w ∧ w.s = cx.w.s ∧
    ∀ (l : Nat) (x : Lane), cx.w.lanes[l]? = some x → ∃ y : Lane, w.lanes[l]? = some y ∧ y.v = x.v ∧ y.p = x.p

/-- What follows an instruction that goes on. -/
def andThen (o : Host.Outcome State Fault Refusal) (f : State → State) : Host.Outcome State Fault Refusal :=
  match o with
  | .next t => finish (f t)
  | r => r

/-- The words at a PC as bytes: one word, or a PX word and the word after it, which every lane's clause has room for; `wpc` and `word`
are the address and the value of the instruction's own word. -/
def Words (s : State) (c : Context) (g : Wg) (w : Warp) (pc : Word) (ls : List Nat) (first wpc word : Word) (bs : List Byte) : Prop :=
  s.fetch c g.core pc = .word first ∧
  ((wordMajor first ≠ 1 ∧ wpc = pc ∧ word = first ∧ bs = leBytes 8 first.toNat) ∨
   (wordMajor first = 1 ∧ wpc = pc + 8 ∧ s.fetch c g.core (pc + 8) = .word word ∧
    bs = leBytes 8 first.toNat ++ leBytes 8 word.toNat ∧ ∀ l ∈ ls, s.pxFits c g.core w pc l = true))

/-- The state in which the lanes `es` of the warp execute the instruction. -/
def issuing (u : State) (is : Issue) : State :=
  { u.mapWarp is.wid is.warp (fun y => y.mapLanes is.lanes (fun x => { x with st := .active })) with issue := some is }

end Sys2Proof.Claims

/-- R92 to R110: every well-formed instruction of one or two words is what the decoder reads from its encoding, with every operand at
every value, and the bytes after it are left. -/
def Obligations.EncodedInstructionsDecode : Prop :=
  ∀ (i : Instr) (rest : List Byte), Instr.wf i = true → Instr.isWord i = true →
    decodeBytes (encodeBytes i ++ rest) = .ok (i, rest)

/-- R92 to R111: a word, or a PX word with the word after it, that the decoder accepts is the encoding of the instruction that it names,
so no bit of an accepted word is without meaning and no two words name one instruction. -/
def Obligations.AcceptedWordsAreEncodings : Prop :=
  (∀ (w : Word) (i : Instr), decodeWords none w = .ok i → encode i = [w]) ∧
  (∀ (p w : Word) (i : Instr), wordMajor p = 1 → wordUnassigned w = false → decodeWords (some p) w = .ok i → encode i = [p, w])

/-- R21, R23, R92 to R96, R106, R111, R327: a step that issues a warp slot whose front stands at words that decode to an instruction
within its clause is that instruction's meaning in the lanes at the front, at a convergence point in the team for which it proceeds,
after the words have been read through the L2 (log 49) and followed by what comes after an execution. -/
def Obligations.StepRunsTheDecodedInstruction : Prop :=
  ∀ (s : State) (core slot : Nat) (rest : List Input) (wid k : Nat) (g : Wg) (c : Context) (w : Warp) (pc first wpc word : Word)
    (bs : List Byte) (i : Instr) (ls : List Nat),
    let s1 := { s.forgetTold with free := s.free + 1, agenda := rest }
    s.agenda = .issue core slot :: rest → s.slot? core slot = some (wid, k) → s.wg? wid = some g → g.warps[k]? = some w →
    s.ctx? g.pkt.ctx = some c → w.sleep = none → w.halts = [] → w.front = some (pc, ls) → breakHits c g w ls pc = [] →
    Claims.Words s1 c g w pc ls first wpc word bs → decodeBytes bs = .ok (i, []) → beyondDeclared g.kernel i = false →
    (∀ l ∈ ls, ∃ x, w.lanes[l]? = some x ∧
      s1.breaksForm c g.core x pc first (if wordMajor first = 1 then 2 else 1) (wordMajor word) = false) →
    let runs := fun (u : State) (v : Warp) (front : List Nat) =>
      let es := front.filter (fun l => match v.lanes[l]? with
        | some x => (match x.wait with | some y => !y.asleep | none => true)
        | none => true)
      es ≠ [] → ((∀ h, i ≠ .clauseHeader h) → ∀ l ∈ es, v.mustWait l = false) →
      let is : Issue := { wid := wid, warp := k, lanes := es, pc := pc, wpc := wpc, word := word }
      let f := (Claims.issuing u is).useFetch c g.core w.slot (s1.fetchParts c g.core pc)
      ∀ g' v', f.wg? wid = some g' → g'.warps[k]? = some v' →
        step s = Claims.andThen (exec i f) (fun t => t.afterIssue is g' v')
    (Instr.converges i = false → runs s1 w ls) ∧
    (Instr.converges i = true →
      let u := s1.mapWarp wid k (fun y => y.mapLanes ls (fun x => { x with st := .waiting, wait := none }))
      ∀ v, u.warp? wid k = some v → runs u v (v.team ls))

/-- R93 to R103, R125, R126, R148, R174, R198, R203, R234: words that spec/ gives in full decode to the instructions that it gives them
for. -/
def Obligations.WordsOfTheSpecDecode : Prop :=
  decodeTableWord 64 0x10000A0101000280 = some (.iadd
    { d := 5, a := 1, b := 2, c := 0, ty := 0, mod := 0b1010, run := 0, px := none }) ∧
  decodeTableWord 64 0x1028040101808000 = some (.icmp
    { d := 2, a := 1, b := 3, c := 2, ty := 0, mod := 0, run := 0, px := none }) ∧
  decodeTableWord 128 0x180C06010100E0000102000000000000 = some (.ffma
    { d := 3, a := 1, b := 2, c := 3, ty := 8, mod := 0, run := 0,
      px := some { me := false, mp := 0, rm := 1, mz := false, e := 0, ximm := 0 } }) ∧
  decodeTableWord 64 0x281980FFFFFFFFFC = some (.bru { guard := 0b1001, u := true, disp := BitVec.ofInt 40 (-4), px := none }) ∧
  decodeTableWord 64 0x3800340B00C58001 = some (.ld
    { d := 6, a := 0x102, b := 0x180, sz := 3, sp := 0, ord := 1, scope := 3, guard := 0, run := 0, disp := 1, px := none }) ∧
  decodeTableWord 64 0x4303000000002001 = some (.wait
    { h := 3, a := 0, b := 0, c := 0, d := 2, run := 0, flags := 1, px := none }) ∧
  decodeTableWord 64 0x4002834120B07039 = some (.copyRemote
    { h := 2, a := 0x106, b := 0x104, c := 0x105, d := 0x107, run := 0, flags := 0x39, px := none }) ∧
  decodeTableWord 64 0x500E080090000C00 = some (.csrr
    { d := 0x104, a := 0, b := 0x120, c := 0, ty := 3, mod := 0, run := 0, px := none }) ∧
  decodeTableWord 64 0 = some (.unassignedEncoding 0)

/-- R27, R29, R55, R76, R290, R301, R319, R321, R331: the device right after reset. The first launch takes the count 0, the first
item the dispatch number 0, die 0 the allocation id 1 and die 1 the id 2; the counters are 0, the timebase has never locked, the
device is in no pod, its module's cap is 1800 W, and it holds no context. Its memories list nothing and so have their canonical form
(that unwritten bytes read as 0 is the model's choice, log 5). -/
def Obligations.ResetHoldsTheInvariant : Prop :=
  Safety.MemoryOk State.reset ∧ State.reset.launches = 0 ∧ State.reset.dispatch = 0 ∧ State.reset.allocNext = [1, 2] ∧
  (∀ r, 0x120 ≤ r → r ≤ 0x177 → State.reset.devReg r = 0) ∧ State.reset.time.state = 0 ∧ State.reset.time.ever = false ∧
  State.reset.fab.index = 0 ∧ State.reset.fab.members = 0 ∧ State.reset.power.cap = 1800 ∧ State.reset.ctxs = [] ∧
  State.reset.power.inReset = true ∧ State.reset.boot.ready = false

/-- Every memory keeps its canonical form: if a step goes on from a state whose HBM, host memory, scratchpads, message area,
configuration space and image staging are in it, they are in it after the step. -/
def Obligations.StepKeepsMemoryCanonical : Prop :=
  ∀ s t : State, Safety.MemoryOk s → step s = .next t → Safety.MemoryOk t

/-- R196: a user trap outside the handler, with a handler installed, enters it in its lane: TRAPCAUSE holds the cause and the
condition, TRAPPC the instruction's address, TRAPADDR the address given, TRAPRET the next instruction's address or the one the trap
names; the lane's windows close and its pending results are written; the in-handler state is set and the PC is TRAPVEC; its team, its
item and the other lanes are as before. In the handler, or without one, the trap is a fault. -/
def Obligations.TrapEntrySavesAndGoesToTheHandler : Prop :=
  (∀ (w : Warp) (l : Nat) (x : Lane) (c : Cause) (cond : BitVec 5) (addr pc ret : Word), w.lanes[l]? = some x →
    let v := w.enterTrap l c cond addr pc ret
    let due := (w.results.filter (fun r => hasLane r.lanes l)).flatMap (fun r =>
      r.writes.filter (fun z => z.lane == some l || z.lane == none))
    (∃ y, v.lanes[l]? = some y ∧
      y.v = due.foldl (fun v z => match z.dst, z.lane with
        | .lane k, some _ => v.set k { val := z.val.setWidth 32, poison := z.poison }
        | _, _ => v) x.v ∧
      y.p = due.foldl (fun p z => match z.dst, z.lane with
        | .pred k, some _ => if k < 7 then p.set k { val := z.val.setWidth 1, poison := z.poison } else p
        | _, _ => p) x.p ∧ y.trapcause.toNat = c.code.toNat + 2 ^ 16 * cond.toNat ∧ y.trappc = pc ∧ y.trapaddr = addr ∧
      y.trapret = ret ∧ y.windows = [] ∧ y.handler = true ∧ y.pc = w.trapvec ∧ y.trapClause = x.clause ∧ y.teams = x.teams ∧
      y.inner = x.inner ∧ y.level = x.level ∧ y.item = x.item ∧ y.trapen = x.trapen) ∧
    v.s = due.foldl (fun s z => match z.dst with
      | .scalar k => s.set k { val := z.val, poison := z.poison }
      | _ => s) w.s ∧
    (∀ r ∈ v.results, hasLane r.lanes l = false) ∧ (∀ j, j ≠ l → v.lanes[j]? = w.lanes[j]?)) ∧
  (∀ (s : State) (wid k l : Nat) (w : Warp) (x : Lane) (c : Cause) (cond : BitVec 5) (addr pc next : Word) (ret : Option Word)
    (detail : Nat), s.warp? wid k = some w → w.lanes[l]? = some x →
    let t := s.stopLanes wid k pc next false [(l, .trap c cond addr ret detail)]
    (w.trapvec ≠ 0 → x.handler = false →
      t = s.mapWarp wid k (fun w => w.enterTrap l c cond addr pc (match ret with | none => next | some a => a))) ∧
    (w.trapvec = 0 ∨ x.handler = true → ∃ y p, t.lane? wid k l = some y ∧ y.st = .parked p ∧ p.cause = c ∧ p.kind = 0 ∧
      p.addr = addr ∧ p.pc = pc ∧ y.pc = x.pc ∧ y.handler = x.handler))

/-- R20, R42, R387: when a warp starts, its lane registers and predicates hold 0, s0 holds the address of the kernel's data section,
s1 the argument address, the other declared scalar registers 0, and every handle is invalid; p7 reads true, and a write to it is
discarded. -/
def Obligations.WarpsStartWithTheirRegisters : Prop :=
  (∀ (k : Kernel) (args : Word) (items : List (Option Item)),
    let w := Warp.start k args items
    w.lanes.length = items.length ∧ w.s.length = k.scalars ∧ w.h = List.replicate 16 .invalid ∧
    (∀ r, w.s[0]? = some r → r = { val := k.data, poison := false }) ∧ (∀ r, w.s[1]? = some r → r = { val := args, poison := false }) ∧
    (∀ j r, 2 ≤ j → w.s[j]? = some r → r = { val := 0, poison := false }) ∧
    (∀ (l : Nat) (x : Lane), w.lanes[l]? = some x → x.v.length = 8 * ((k.regs + 7) / 8) ∧ (∀ r ∈ x.v, r = { val := 0, poison := false }) ∧
      x.pc = k.entry ∧ (∀ j, j < 7 → x.pred j = { v := 0, p := false }) ∧ x.pred 7 = { v := 1, p := false })) ∧
  (∀ (x : Lane) (v : Word) (p : Bool), x.pred 7 = { v := 1, p := false } ∧ x.put (.pred 7) v p = x)

/-- R42, R43, R46, R76, R106, R114: what an instruction of the families 0x10 to 0x14 and 0x18 to 0x1A in the frame leaves alone when no
lane stops: every register but its destination (p7 discards the write), every lane that does not execute, all memory, every other
warp and workgroup, the handles, the trap and mode registers, the teams; binary instructions keep DECSTAT and decimal ones FPSTAT, and
a sticky flag that was set stays set. -/
def Obligations.ArithmeticChangesOnlyItsDestination : Prop :=
  ∀ (i : Instr) (e : Entry) (s t : State) (cx : Cx), Claims.InFrame i e → Claims.At s cx →
    stopsOf (Claims.laneOuts i e s cx) = [] → exec i s = .next t →
    ∃ w, Claims.OnlyWarp s t cx w ∧ (∀ k, Claims.names e (.scalar k) = false → w.s[k]? = cx.w.s[k]?) ∧
      ∀ (l : Nat) (x : Lane), cx.w.lanes[l]? = some x → ∃ y : Lane, w.lanes[l]? = some y ∧ (l ∉ cx.lanes → y = x) ∧
        y = { x with v := y.v, p := y.p, pc := y.pc, wait := y.wait, windows := y.windows, fpstat := y.fpstat, decstat := y.decstat } ∧
        (∀ k, Claims.names e (.lane k) = false → y.v[k]? = x.v[k]?) ∧ (∀ k, Claims.names e (.pred k) = false → y.p[k]? = x.p[k]?) ∧
        (e.dec = false → y.decstat = x.decstat) ∧ (e.dec = true → y.fpstat = x.fpstat) ∧
        y.fpstat &&& x.fpstat = x.fpstat ∧ y.decstat &&& x.decstat = x.decstat ∧
        y.fpstat >>> 5 = x.fpstat >>> 5 ∧ y.decstat >>> 5 = x.decstat >>> 5

/-- R203, R204: what a load and a store leave alone when no lane stops or waits and no error of HBM is unreported: a load changes no
byte of memory and no tag; a store changes only the bytes at the addresses that its lanes' plans name, the parts of a translated
access or the scratch range; neither changes a register before its result comes. -/
def Obligations.LoadsAndStoresChangeOnlyTheirBytes : Prop :=
  (∀ (w : FmtM) (s t : State) (cx : Cx), Claims.At s cx → s.mem.unfound = [] →
    Claims.Ready s cx (drainsFirst 0 0) (fun _ => false) w.sz.toNat w.sp.toNat 0 Claims.noHold
      ((actors cx (form (.ld w)).scalarUnit).map (loadPlan s cx (form (.ld w)).scalarUnit w)) →
    exec (.ld w) s = .next t →
    Claims.MemoryKept s t (fun _ => False) (fun _ => False) (fun _ _ => False) ∧ Claims.RegistersKept t cx) ∧
  (∀ (w : FmtM) (s t : State) (cx : Cx), Claims.At s cx → s.mem.unfound = [] →
    let su := (form (.st w)).scalarUnit
    let drains := fun loc => w.sp != 2 && drainsFirst w.ord.toNat w.scope.toNat loc
    let plan := (actors cx su).map (fun l => guardedPlan s cx su w l (storeData s cx su l w).2 true .store)
    Claims.Ready s cx drains (fun loc => !drains loc) w.sz.toNat w.sp.toNat 1 (fun s _ a loc => fillingHold s a loc w.sz.toNat 1) plan →
    exec (.st w) s = .next t →
    Claims.MemoryKept s t (Claims.covered plan .hbm) (Claims.covered plan .host) (Claims.coveredScr plan (szBytes w.sz)) ∧
    Claims.RegistersKept t cx)
end

