-- ==== Sys2Proof/Laws/Encoding.lean ====
section
/-!
SUPPORT. What the encoder writes and the decoder reads: each field of a format comes back (R93, R97 to R103), the opcode and
function bits stand where the decoder looks, the must-be-zero bits are zero, and eight bytes hold a word (R3).
-/
namespace Sys2Proof.Laws.Encoding


theorem ext_lo {n m : Nat} (a : BitVec n) (b : BitVec m) (s len : Nat) (h : s + len ≤ m) :
    (a ++ b).extractLsb' s len = b.extractLsb' s len := by
  apply BitVec.eq_of_getLsbD_eq
  intro i hi
  simp only [BitVec.getLsbD_extractLsb', BitVec.getLsbD_append, hi, decide_true, Bool.true_and]
  rw [if_pos (by omega)]
theorem ext_hi {n m : Nat} (a : BitVec n) (b : BitVec m) (s len : Nat) (h : m ≤ s) :
    (a ++ b).extractLsb' s len = a.extractLsb' (s - m) len := by
  apply BitVec.eq_of_getLsbD_eq
  intro i hi
  simp only [BitVec.getLsbD_extractLsb', BitVec.getLsbD_append, hi, decide_true, Bool.true_and]
  rw [if_neg (by omega)]
  congr 1; omega
theorem ext_all {n : Nat} (a : BitVec n) : a.extractLsb' 0 n = a := by
  apply BitVec.eq_of_getLsbD_eq
  intro i hi
  simp [hi]
theorem bit_lo {n m : Nat} (a : BitVec n) (b : BitVec m) (s : Nat) (h : s < m) : (a ++ b).getLsbD s = b.getLsbD s := by
  rw [BitVec.getLsbD_append, if_pos h]
theorem bit_hi {n m : Nat} (a : BitVec n) (b : BitVec m) (s : Nat) (h : m ≤ s) : (a ++ b).getLsbD s = a.getLsbD (s - m) := by
  rw [BitVec.getLsbD_append, if_neg (by omega)]


theorem ext_all0 {n : Nat} (a : BitVec n) (s : Nat) (h : s = 0) : a.extractLsb' s n = a := by
  subst h; exact ext_all a
theorem bit_ofBool (b : Bool) (s : Nat) (h : s = 0) : (BitVec.ofBool b).getLsbD s = b := by
  subst h; cases b <;> rfl

theorem A_ofWord (px : Option Px) (opc fn : Nat) (w : FmtA) : FmtA.ofWord px (w.toWord opc fn) = { w with px := px } := by
  cases w
  simp only [FmtA.ofWord, FmtA.toWord, FmtA.mk.injEq, and_true]
  refine ⟨?_, ?_, ?_, ?_, ?_, ?_, ?_⟩ <;>
  · repeat rw [ext_hi _ _ _ _ (by omega)]
    try rw [ext_lo _ _ _ _ (by omega)]
    exact ext_all0 _ _ (by omega)

theorem I_ofWord (px : Option Px) (opc fn : Nat) (w : FmtI) : FmtI.ofWord px (w.toWord opc fn) = { w with px := px } := by
  cases w
  simp only [FmtI.ofWord, FmtI.toWord, FmtI.mk.injEq, and_true]
  refine ⟨?_, ?_, ?_⟩ <;>
  · repeat rw [ext_hi _ _ _ _ (by omega)]
    try rw [ext_lo _ _ _ _ (by omega)]
    exact ext_all0 _ _ (by omega)

theorem M_ofWord (px : Option Px) (opc fn : Nat) (w : FmtM) : FmtM.ofWord px (w.toWord opc fn) = { w with px := px } := by
  cases w
  simp only [FmtM.ofWord, FmtM.toWord, FmtM.mk.injEq, and_true]
  refine ⟨?_, ?_, ?_, ?_, ?_, ?_, ?_, ?_, ?_, ?_⟩ <;>
  · repeat rw [ext_hi _ _ _ _ (by omega)]
    try rw [ext_lo _ _ _ _ (by omega)]
    exact ext_all0 _ _ (by omega)

theorem E_ofWord (px : Option Px) (opc fn : Nat) (w : FmtE) : FmtE.ofWord px (w.toWord opc fn) = { w with px := px } := by
  cases w
  simp only [FmtE.ofWord, FmtE.toWord, FmtE.mk.injEq, and_true]
  refine ⟨?_, ?_, ?_, ?_, ?_, ?_, ?_⟩ <;>
  · repeat rw [ext_hi _ _ _ _ (by omega)]
    try rw [ext_lo _ _ _ _ (by omega)]
    exact ext_all0 _ _ (by omega)

theorem B_ofWord (px : Option Px) (opc fn : Nat) (w : FmtB) : FmtB.ofWord px (w.toWord opc fn) = { w with px := px } := by
  cases w
  simp only [FmtB.ofWord, FmtB.toWord, FmtB.mk.injEq, and_true]
  refine ⟨?_, ?_, ?_⟩
  · repeat rw [ext_hi _ _ _ _ (by omega)]
    rw [ext_lo _ _ _ _ (by omega)]
    exact ext_all0 _ _ (by omega)
  · repeat rw [bit_hi _ _ _ (by omega)]
    rw [bit_lo _ _ _ (by omega)]
    exact bit_ofBool _ _ (by omega)
  · rw [ext_lo _ _ _ _ (by omega)]
    exact ext_all0 _ _ (by omega)

theorem H_ofWord (w : FmtH) : FmtH.ofWord w.toWord = w := by
  cases w
  simp only [FmtH.ofWord, FmtH.toWord, FmtH.mk.injEq]
  refine ⟨?_, ?_, ?_, ?_, ?_⟩
  · repeat rw [ext_hi _ _ _ _ (by omega)]
    rw [ext_lo _ _ _ _ (by omega)]
    exact ext_all0 _ _ (by omega)
  · repeat rw [ext_hi _ _ _ _ (by omega)]
    rw [ext_lo _ _ _ _ (by omega)]
    exact ext_all0 _ _ (by omega)
  · repeat rw [ext_hi _ _ _ _ (by omega)]
    rw [ext_lo _ _ _ _ (by omega)]
    exact ext_all0 _ _ (by omega)
  · repeat rw [bit_hi _ _ _ (by omega)]
    rw [bit_lo _ _ _ (by omega)]
    exact bit_ofBool _ _ (by omega)
  · repeat rw [bit_hi _ _ _ (by omega)]
    rw [bit_lo _ _ _ (by omega)]
    exact bit_ofBool _ _ (by omega)

theorem P_ofWord (w : Px) : Px.ofWord w.toWord = w := by
  cases w
  simp only [Px.ofWord, Px.toWord, Px.mk.injEq]
  refine ⟨?_, ?_, ?_, ?_, ?_, ?_⟩
  · repeat rw [bit_hi _ _ _ (by omega)]
    rw [bit_lo _ _ _ (by omega)]
    exact bit_ofBool _ _ (by omega)
  · repeat rw [ext_hi _ _ _ _ (by omega)]
    rw [ext_lo _ _ _ _ (by omega)]
    exact ext_all0 _ _ (by omega)
  · repeat rw [ext_hi _ _ _ _ (by omega)]
    rw [ext_lo _ _ _ _ (by omega)]
    exact ext_all0 _ _ (by omega)
  · repeat rw [bit_hi _ _ _ (by omega)]
    rw [bit_lo _ _ _ (by omega)]
    exact bit_ofBool _ _ (by omega)
  · repeat rw [ext_hi _ _ _ _ (by omega)]
    rw [ext_lo _ _ _ _ (by omega)]
    exact ext_all0 _ _ (by omega)
  · repeat rw [ext_hi _ _ _ _ (by omega)]
    rw [ext_lo _ _ _ _ (by omega)]
    exact ext_all0 _ _ (by omega)

theorem P_mbz (w : Px) : w.toWord.extractLsb' 24 15 = 0 := by
  unfold Px.toWord
  rw [ext_hi _ _ _ _ (by omega)]
  rw [ext_lo _ _ _ _ (by omega)]
  exact ext_all0 _ _ (by omega)
theorem P_major (w : Px) : w.toWord.extractLsb' 56 8 = 0x01#8 := by
  unfold Px.toWord
  repeat rw [ext_hi _ _ _ _ (by omega)]
  exact ext_all0 _ _ (by omega)
theorem H_major (w : FmtH) : w.toWord.extractLsb' 56 8 = 0x02#8 := by
  unfold FmtH.toWord
  repeat rw [ext_hi _ _ _ _ (by omega)]
  exact ext_all0 _ _ (by omega)
theorem H_mbz (w : FmtH) : w.toWord.extractLsb' 0 31 = 0 := by
  unfold FmtH.toWord
  rw [ext_lo _ _ _ _ (by omega)]
  exact ext_all0 _ _ (by omega)

theorem A_major (opc fn : Nat) (w : FmtA) : (w.toWord opc fn).extractLsb' 56 8 = BitVec.ofNat 8 opc := by
  unfold FmtA.toWord
  repeat rw [ext_hi _ _ _ _ (by omega)]
  exact ext_all0 _ _ (by omega)
theorem A_fn (opc fn : Nat) (w : FmtA) : (w.toWord opc fn).extractLsb' 50 6 = BitVec.ofNat 6 fn := by
  unfold FmtA.toWord
  repeat rw [ext_hi _ _ _ _ (by omega)]
  rw [ext_lo _ _ _ _ (by omega)]
  exact ext_all0 _ _ (by omega)
theorem A_mbz (opc fn : Nat) (w : FmtA) : (w.toWord opc fn).extractLsb' 0 2 = 0 := by
  unfold FmtA.toWord
  rw [ext_lo _ _ _ _ (by omega)]
  exact ext_all0 _ _ (by omega)
theorem I_major (opc fn : Nat) (w : FmtI) : (w.toWord opc fn).extractLsb' 56 8 = BitVec.ofNat 8 opc := by
  unfold FmtI.toWord
  repeat rw [ext_hi _ _ _ _ (by omega)]
  exact ext_all0 _ _ (by omega)
theorem I_fn (opc fn : Nat) (w : FmtI) : (w.toWord opc fn).extractLsb' 50 6 = BitVec.ofNat 6 fn := by
  unfold FmtI.toWord
  repeat rw [ext_hi _ _ _ _ (by omega)]
  rw [ext_lo _ _ _ _ (by omega)]
  exact ext_all0 _ _ (by omega)
theorem M_major (opc fn : Nat) (w : FmtM) : (w.toWord opc fn).extractLsb' 56 8 = BitVec.ofNat 8 opc := by
  unfold FmtM.toWord
  repeat rw [ext_hi _ _ _ _ (by omega)]
  exact ext_all0 _ _ (by omega)
theorem M_fn (opc fn : Nat) (w : FmtM) : (w.toWord opc fn).extractLsb' 52 4 = BitVec.ofNat 4 fn := by
  unfold FmtM.toWord
  repeat rw [ext_hi _ _ _ _ (by omega)]
  rw [ext_lo _ _ _ _ (by omega)]
  exact ext_all0 _ _ (by omega)
theorem E_major (opc fn : Nat) (w : FmtE) : (w.toWord opc fn).extractLsb' 56 8 = BitVec.ofNat 8 opc := by
  unfold FmtE.toWord
  repeat rw [ext_hi _ _ _ _ (by omega)]
  exact ext_all0 _ _ (by omega)
theorem E_fn (opc fn : Nat) (w : FmtE) : (w.toWord opc fn).extractLsb' 52 4 = BitVec.ofNat 4 fn := by
  unfold FmtE.toWord
  repeat rw [ext_hi _ _ _ _ (by omega)]
  rw [ext_lo _ _ _ _ (by omega)]
  exact ext_all0 _ _ (by omega)
theorem B_major (opc fn : Nat) (w : FmtB) : (w.toWord opc fn).extractLsb' 56 8 = BitVec.ofNat 8 opc := by
  unfold FmtB.toWord
  repeat rw [ext_hi _ _ _ _ (by omega)]
  exact ext_all0 _ _ (by omega)
theorem B_fn (opc fn : Nat) (w : FmtB) : (w.toWord opc fn).extractLsb' 52 4 = BitVec.ofNat 4 fn := by
  unfold FmtB.toWord
  repeat rw [ext_hi _ _ _ _ (by omega)]
  rw [ext_lo _ _ _ _ (by omega)]
  exact ext_all0 _ _ (by omega)
theorem B_mbz (opc fn : Nat) (w : FmtB) : (w.toWord opc fn).extractLsb' 40 7 = 0 := by
  unfold FmtB.toWord
  repeat rw [ext_hi _ _ _ _ (by omega)]
  rw [ext_lo _ _ _ _ (by omega)]
  exact ext_all0 _ _ (by omega)

/-! ### A word is what its fields write -/

theorem ext_join {n : Nat} (x : BitVec n) (s k m : Nat) (t : Nat) (h : t = s + k) :
    x.extractLsb' t m ++ x.extractLsb' s k = x.extractLsb' s (m + k) := by
  subst h
  apply BitVec.eq_of_getLsbD_eq
  intro i hi
  simp only [BitVec.getLsbD_extractLsb', BitVec.getLsbD_append]
  by_cases h : i < k
  · simp [h]; intro _; omega
  · rw [if_neg h]
    have h1 : i - k < m := by omega
    simp only [h1, hi, decide_true, Bool.true_and]
    congr 1; omega

theorem bit_join {n : Nat} (x : BitVec n) (s : Nat) : BitVec.ofBool (x.getLsbD s) = x.extractLsb' s 1 := by
  apply BitVec.eq_of_getLsbD_eq
  intro i hi
  have : i = 0 := by omega
  subst this
  simp

theorem A_toWord (px : Option Px) (opc fn : Nat) (w : Word) (h1 : w.extractLsb' 56 8 = BitVec.ofNat 8 opc)
    (h2 : w.extractLsb' 50 6 = BitVec.ofNat 6 fn) (h3 : w.extractLsb' 0 2 = 0) : (FmtA.ofWord px w).toWord opc fn = w := by
  unfold FmtA.toWord FmtA.ofWord
  rw [← h1, ← h2, show (0#2) = w.extractLsb' 0 2 from h3.symm]
  repeat rw [ext_join _ _ _ _ _ (by omega)]
  exact ext_all0 _ _ rfl

theorem I_toWord (px : Option Px) (opc fn : Nat) (w : Word) (h1 : w.extractLsb' 56 8 = BitVec.ofNat 8 opc)
    (h2 : w.extractLsb' 50 6 = BitVec.ofNat 6 fn) : (FmtI.ofWord px w).toWord opc fn = w := by
  unfold FmtI.toWord FmtI.ofWord
  rw [← h1, ← h2]
  repeat rw [ext_join _ _ _ _ _ (by omega)]
  exact ext_all0 _ _ rfl

theorem M_toWord (px : Option Px) (opc fn : Nat) (w : Word) (h1 : w.extractLsb' 56 8 = BitVec.ofNat 8 opc)
    (h2 : w.extractLsb' 52 4 = BitVec.ofNat 4 fn) : (FmtM.ofWord px w).toWord opc fn = w := by
  unfold FmtM.toWord FmtM.ofWord
  rw [← h1, ← h2]
  repeat rw [ext_join _ _ _ _ _ (by omega)]
  exact ext_all0 _ _ rfl

theorem E_toWord (px : Option Px) (opc fn : Nat) (w : Word) (h1 : w.extractLsb' 56 8 = BitVec.ofNat 8 opc)
    (h2 : w.extractLsb' 52 4 = BitVec.ofNat 4 fn) : (FmtE.ofWord px w).toWord opc fn = w := by
  unfold FmtE.toWord FmtE.ofWord
  rw [← h1, ← h2]
  repeat rw [ext_join _ _ _ _ _ (by omega)]
  exact ext_all0 _ _ rfl

theorem B_toWord (px : Option Px) (opc fn : Nat) (w : Word) (h1 : w.extractLsb' 56 8 = BitVec.ofNat 8 opc)
    (h2 : w.extractLsb' 52 4 = BitVec.ofNat 4 fn) (h3 : w.extractLsb' 40 7 = 0) : (FmtB.ofWord px w).toWord opc fn = w := by
  unfold FmtB.toWord FmtB.ofWord
  rw [← h1, ← h2, bit_join, show (0#7) = w.extractLsb' 40 7 from h3.symm]
  repeat rw [ext_join _ _ _ _ _ (by omega)]
  exact ext_all0 _ _ rfl

theorem H_toWord (w : Word) (h1 : w.extractLsb' 56 8 = 0x02#8) (h3 : w.extractLsb' 0 31 = 0) : (FmtH.ofWord w).toWord = w := by
  unfold FmtH.toWord FmtH.ofWord
  rw [← h1, bit_join, bit_join, show (0#31) = w.extractLsb' 0 31 from h3.symm]
  repeat rw [ext_join _ _ _ _ _ (by omega)]
  exact ext_all0 _ _ rfl

theorem P_toWord (w : Word) (h1 : w.extractLsb' 56 8 = 0x01#8) (h3 : w.extractLsb' 24 15 = 0) : (Px.ofWord w).toWord = w := by
  unfold Px.toWord Px.ofWord
  rw [← h1, bit_join, bit_join, show (0#15) = w.extractLsb' 24 15 from h3.symm]
  repeat rw [ext_join _ _ _ _ _ (by omega)]
  exact ext_all0 _ _ rfl

/-! ### Bytes -/

theorem leNat_leBytes (n x : Nat) : leNat (leBytes n x) = x % 256 ^ n := by
  induction n generalizing x with
  | zero => simp [leNat, leBytes, Nat.mod_one]
  | succ n ih =>
    simp only [leNat, leBytes, ih, BitVec.toNat_ofNat]
    rw [show 256 ^ (n + 1) = 256 * 256 ^ n from by rw [Nat.pow_succ, Nat.mul_comm], Nat.mod_mul]
    omega
theorem length_leBytes (n x : Nat) : (leBytes n x).length = n := by
  induction n generalizing x with
  | zero => rfl
  | succ n ih => simp [leBytes, ih]
theorem wordOf_leBytes (w : Word) : wordOf (leBytes 8 w.toNat) = w := by
  unfold wordOf
  rw [leNat_leBytes]
  apply BitVec.eq_of_toNat_eq
  have := w.isLt
  simp only [BitVec.toNat_ofNat]
  omega
theorem take_word (w : Word) (rest : List Byte) : wordOf ((leBytes 8 w.toNat ++ rest).take 8) = w := by
  rw [List.take_left' (length_leBytes 8 _), wordOf_leBytes]
theorem drop_word (w : Word) (rest : List Byte) : (leBytes 8 w.toNat ++ rest).drop 8 = rest :=
  List.drop_left' (length_leBytes 8 _)

/-! ### Decoding one word, and a word after its PX word -/

theorem decodeBytes_word (w : Word) (rest : List Byte) (h : wordMajor w ≠ 0x01) :
    decodeBytes (leBytes 8 w.toNat ++ rest) = (decodeWords none w).map (fun i => (i, rest)) := by
  unfold decodeBytes
  rw [if_neg (by simp [length_leBytes])]
  simp only [take_word, drop_word]
  rw [if_neg (by simpa using h)]
theorem decodeBytes_pair (p : Px) (w : Word) (rest : List Byte) :
    decodeBytes (leBytes 8 p.toWord.toNat ++ (leBytes 8 w.toNat ++ rest)) =
      (decodeWords (some p.toWord) w).map (fun i => (i, rest)) := by
  unfold decodeBytes
  rw [if_neg (by simp [length_leBytes])]
  simp only [take_word, drop_word]
  rw [if_pos (by simp [wordMajor, P_major]), if_neg (by simp [length_leBytes])]

/-! ### An instruction that its word names is decoded from its bytes -/

theorem toNat_major (w : Word) : w.toNat / 2 ^ 56 = wordMajor w := by
  unfold wordMajor
  rw [BitVec.extractLsb'_toNat, Nat.shiftRight_eq_div_pow]
  have := w.isLt
  omega

theorem checked_wf {i : Instr} (h : i.wf = true) : checked i true = .ok i := by
  simp only [Instr.wf, Bool.and_eq_true, beq_iff_eq] at h
  simp [checked, h.1]

theorem decodes_words (i : Instr) (px : Option Px) (w : Word) (rest : List Byte) (hi : i.wf = true)
    (h1 : majorAssigned (wordMajor w) = true) (h2 : wordMajor w ≠ 1) (h3 : wordMajor w ≠ 2) (hm : wordMbz w = true)
    (hp : parse px w = some i) : decodeBytes ((withPx px w).flatMap (fun w => leBytes 8 w.toNat) ++ rest) = .ok (i, rest) := by
  cases px with
  | none =>
    simp only [withPx, List.flatMap_cons, List.flatMap_nil, List.append_nil]
    rw [decodeBytes_word _ _ h2]
    simp only [decodeWords, wordUnassigned, toNat_major, h1, Bool.not_true, Bool.false_eq_true, if_false, Option.map_none, hp, hm,
      Option.isSome_none, Bool.false_and, Bool.or_false, beq_iff_eq, h2, Bool.true_and, checked_wf hi]
    rfl
  | some p =>
    simp only [withPx, List.flatMap_cons, List.flatMap_nil, List.append_nil, List.append_assoc]
    rw [decodeBytes_pair]
    simp only [decodeWords, wordUnassigned, toNat_major, h1, Bool.not_true, Bool.false_eq_true, if_false, Option.map_some,
      P_ofWord, hp, hm, P_mbz, Option.isSome_some, Bool.true_and, beq_iff_eq, Bool.or_eq_true, h2, h3, or_self, beq_self_eq_true,
      checked_wf hi]
    rfl

theorem decodes_A (i : Instr) (opc fn : Nat) (w : FmtA) (rest : List Byte) (hi : i.wf = true)
    (h : opc ∈ [0x10, 0x12, 0x13, 0x14, 0x18, 0x19, 0x1A, 0x20, 0x29, 0x30, 0x48, 0x50])
    (hp : parse w.px (w.toWord opc fn) = some i) : decodeBytes ((withPx w.px (w.toWord opc fn)).flatMap (fun w => leBytes 8 w.toNat) ++ rest) = .ok (i, rest) := by
  have hm : wordMajor (w.toWord opc fn) = opc := by
    simp only [wordMajor, A_major, BitVec.toNat_ofNat]
    simp only [List.mem_cons, List.not_mem_nil, or_false] at h
    omega
  simp only [List.mem_cons, List.not_mem_nil, or_false] at h
  apply decodes_words _ _ _ _ hi _ _ _ _ hp
  · rw [hm]; rcases h with h|h|h|h|h|h|h|h|h|h|h|h <;> subst h <;> rfl
  · rw [hm]; omega
  · rw [hm]; omega
  · unfold wordMbz; rw [hm]
    rcases h with h|h|h|h|h|h|h|h|h|h|h|h <;> subst h <;> simp [A_mbz]

theorem decodes_I (i : Instr) (fn : Nat) (w : FmtI) (rest : List Byte) (hi : i.wf = true)
    (hp : parse w.px (w.toWord 0x11 fn) = some i) : decodeBytes ((withPx w.px (w.toWord 0x11 fn)).flatMap (fun w => leBytes 8 w.toNat) ++ rest) = .ok (i, rest) := by
  have hm : wordMajor (w.toWord 0x11 fn) = 0x11 := by
    simp [wordMajor, I_major, BitVec.toNat_ofNat]
  apply decodes_words _ _ _ _ hi _ _ _ _ hp
  · rw [hm]; rfl
  · rw [hm]; omega
  · rw [hm]; omega
  · unfold wordMbz; rw [hm]; rfl

theorem decodes_B (i : Instr) (fn : Nat) (w : FmtB) (rest : List Byte) (hi : i.wf = true)
    (hp : parse w.px (w.toWord 0x28 fn) = some i) : decodeBytes ((withPx w.px (w.toWord 0x28 fn)).flatMap (fun w => leBytes 8 w.toNat) ++ rest) = .ok (i, rest) := by
  have hm : wordMajor (w.toWord 0x28 fn) = 0x28 := by
    simp [wordMajor, B_major, BitVec.toNat_ofNat]
  apply decodes_words _ _ _ _ hi _ _ _ _ hp
  · rw [hm]; rfl
  · rw [hm]; omega
  · rw [hm]; omega
  · unfold wordMbz; rw [hm]; simp [B_mbz]

theorem decodes_M (i : Instr) (opc fn : Nat) (w : FmtM) (rest : List Byte) (hi : i.wf = true)
    (h : opc ∈ [0x38, 0x39, 0x3A, 0x3B]) 
    (hp : parse w.px (w.toWord opc fn) = some i) : decodeBytes ((withPx w.px (w.toWord opc fn)).flatMap (fun w => leBytes 8 w.toNat) ++ rest) = .ok (i, rest) := by
  have hm : wordMajor (w.toWord opc fn) = opc := by
    simp only [wordMajor, M_major, BitVec.toNat_ofNat]
    simp only [List.mem_cons, List.not_mem_nil, or_false] at h
    omega
  simp only [List.mem_cons, List.not_mem_nil, or_false] at h
  apply decodes_words _ _ _ _ hi _ _ _ _ hp
  · rw [hm]; rcases h with h|h|h|h <;> subst h <;> rfl
  · rw [hm]; omega
  · rw [hm]; omega
  · unfold wordMbz; rw [hm]
    rcases h with h|h|h|h <;> subst h <;> simp 

theorem decodes_E (i : Instr) (opc fn : Nat) (w : FmtE) (rest : List Byte) (hi : i.wf = true)
    (h : opc ∈ [0x40, 0x41, 0x42, 0x43]) 
    (hp : parse w.px (w.toWord opc fn) = some i) : decodeBytes ((withPx w.px (w.toWord opc fn)).flatMap (fun w => leBytes 8 w.toNat) ++ rest) = .ok (i, rest) := by
  have hm : wordMajor (w.toWord opc fn) = opc := by
    simp only [wordMajor, E_major, BitVec.toNat_ofNat]
    simp only [List.mem_cons, List.not_mem_nil, or_false] at h
    omega
  simp only [List.mem_cons, List.not_mem_nil, or_false] at h
  apply decodes_words _ _ _ _ hi _ _ _ _ hp
  · rw [hm]; rcases h with h|h|h|h <;> subst h <;> rfl
  · rw [hm]; omega
  · rw [hm]; omega
  · unfold wordMbz; rw [hm]
    rcases h with h|h|h|h <;> subst h <;> simp

end Sys2Proof.Laws.Encoding
end

