-- ==== Sys2Proof/Laws/Memory.lean ====
section
/-!
SUPPORT. What reads and writes of a memory do: a read after a write, and that every write keeps the canonical form.
-/
namespace Sys2Proof.Machine

/-- A form that holds from k holds from any lower key. -/
theorem Memory.wfFrom_le {m : Memory} {j k : Nat} (h : Memory.wfFrom k m = true) (hj : j ≤ k) : Memory.wfFrom j m = true := by
  cases m with
  | nil => rfl
  | cons c m =>
    simp only [Memory.wfFrom, Bool.and_eq_true, decide_eq_true_eq] at h ⊢
    exact ⟨⟨by omega, h.1.2⟩, h.2⟩

/-- No entry lies below the key from which the form holds. -/
theorem Memory.get_below {m : Memory} {k a : Nat} (h : Memory.wfFrom k m = true) (ha : a < k) : Memory.get m a = 0 := by
  cases m with
  | nil => rfl
  | cons c m =>
    simp only [Memory.wfFrom, Bool.and_eq_true, decide_eq_true_eq] at h
    simp only [Memory.get]
    rw [if_pos (by omega)]

/-- One byte written keeps the canonical form. -/
theorem Memory.wfFrom_set {m : Memory} {k a : Nat} {b : Byte} (h : Memory.wfFrom k m = true) (ha : k ≤ a) :
    Memory.wfFrom k (Memory.set m a b) = true := by
  induction m generalizing k with
  | nil =>
    simp only [Memory.set]
    split <;> simp_all [Memory.wfFrom]
  | cons c m ih =>
    simp only [Memory.wfFrom, Bool.and_eq_true, decide_eq_true_eq] at h
    obtain ⟨⟨hk, hc⟩, hm⟩ := h
    simp only [Memory.set]
    split
    · split
      · simp only [Memory.wfFrom, Bool.and_eq_true, decide_eq_true_eq]
        exact ⟨⟨hk, hc⟩, hm⟩
      · rename_i hlt hb
        simp only [Memory.wfFrom, Bool.and_eq_true, decide_eq_true_eq]
        exact ⟨⟨ha, hb⟩, ⟨⟨by omega, hc⟩, hm⟩⟩
    · split
      · rename_i he
        split
        · exact Memory.wfFrom_le hm (by omega)
        · rename_i hb
          simp only [Memory.wfFrom, Bool.and_eq_true, decide_eq_true_eq]
          exact ⟨⟨ha, hb⟩, by rw [← he]; exact hm⟩
      · simp only [Memory.wfFrom, Bool.and_eq_true, decide_eq_true_eq]
        exact ⟨⟨hk, hc⟩, ih hm (by omega)⟩

/-- One byte written keeps the canonical form. -/
theorem Memory.wf_set {m : Memory} (a : Nat) (b : Byte) (h : Memory.wf m = true) : Memory.wf (Memory.set m a b) = true :=
  Memory.wfFrom_set h (Nat.zero_le a)

/-- Bytes written keep the canonical form. -/
theorem Memory.wf_write {m : Memory} (a : Nat) (bs : List Byte) (h : Memory.wf m = true) :
    Memory.wf (Memory.write m a bs) = true := by
  induction bs generalizing m a with
  | nil => exact h
  | cons b bs ih => exact ih (a + 1) (Memory.wf_set a b h)

/-- The byte written reads back. -/
theorem Memory.get_set_same {m : Memory} {k : Nat} (a : Nat) (b : Byte) (h : Memory.wfFrom k m = true) :
    Memory.get (Memory.set m a b) a = b := by
  induction m generalizing k with
  | nil =>
    simp only [Memory.set]
    split <;> simp_all [Memory.get]
  | cons c m ih =>
    simp only [Memory.wfFrom, Bool.and_eq_true, decide_eq_true_eq] at h
    obtain ⟨⟨hk, hc⟩, hm⟩ := h
    simp only [Memory.set]
    split
    · split
      · simp_all [Memory.get]
      · simp [Memory.get]
    · split
      · split
        · rename_i he hb
          rw [Memory.get_below hm (by omega), hb]
        · simp [Memory.get]
      · rename_i h1 h2
        simp only [Memory.get]
        rw [if_neg h1, if_neg h2]
        exact ih hm

/-- Every other byte reads as before. -/
theorem Memory.get_set_other {m : Memory} {k : Nat} (a : Nat) (b : Byte) {x : Nat} (h : Memory.wfFrom k m = true) (hx : x ≠ a) :
    Memory.get (Memory.set m a b) x = Memory.get m x := by
  induction m generalizing k with
  | nil =>
    simp only [Memory.set]
    split
    · rfl
    · simp only [Memory.get]
      split
      · rfl
      · rw [if_neg (by omega)]
  | cons c m ih =>
    simp only [Memory.wfFrom, Bool.and_eq_true, decide_eq_true_eq] at h
    obtain ⟨⟨hk, hc⟩, hm⟩ := h
    simp only [Memory.set]
    split
    · split
      · rfl
      · simp only [Memory.get]
        split
        · rw [if_pos (by omega)]
        · rw [if_neg (by omega)]
    · split
      · rename_i h1 he
        have hc' : c.1 ≠ x := by omega
        split
        · simp only [Memory.get]
          split
          · exact Memory.get_below hm (by omega)
          · rfl
        · simp only [Memory.get]
          rw [← he]
          split
          · rfl
          · rfl
      · simp only [Memory.get]
        split
        · rfl
        · split
          · rfl
          · exact ih hm

/-- A byte outside the written range reads as before. -/
theorem Memory.get_write_outside {m : Memory} (a : Nat) (bs : List Byte) {x : Nat} (h : Memory.wf m = true)
    (hx : x < a ∨ a + bs.length ≤ x) : Memory.get (Memory.write m a bs) x = Memory.get m x := by
  induction bs generalizing m a with
  | nil => rfl
  | cons b bs ih =>
    simp only [List.length_cons] at hx
    simp only [Memory.write]
    rw [ih (a + 1) (Memory.wf_set a b h) (by omega), Memory.get_set_other a b h (by omega)]

/-- Byte i of the written range reads as the i-th byte written. -/
theorem Memory.get_write_inside {m : Memory} (a : Nat) (bs : List Byte) {i : Nat} (h : Memory.wf m = true)
    (hi : i < bs.length) : Memory.get (Memory.write m a bs) (a + i) = bs[i] := by
  induction bs generalizing m a i with
  | nil => exact absurd hi (Nat.not_lt_zero i)
  | cons b bs ih =>
    simp only [Memory.write]
    cases i with
    | zero =>
      rw [Nat.add_zero, Memory.get_write_outside (a + 1) bs (Memory.wf_set a b h) (by omega)]
      exact Memory.get_set_same a b h
    | succ i =>
      have := ih (a + 1) (Memory.wf_set a b h) (Nat.lt_of_succ_lt_succ hi)
      rw [show a + (i + 1) = a + 1 + i by omega, this, List.getElem_cons_succ]

/-- What was written reads back. -/
theorem Memory.read_write {m : Memory} (a : Nat) (bs : List Byte) (h : Memory.wf m = true) :
    Memory.read (Memory.write m a bs) a bs.length = bs := by
  apply List.ext_getElem
  · simp [Memory.read]
  · intro i h1 h2
    simp only [Memory.read, List.getElem_map, List.getElem_range]
    exact Memory.get_write_inside a bs h h2

end Sys2Proof.Machine
end

