-- ==== Sys2Proof/Laws/State.lean ====
section
/-!
SUPPORT. What each update of the state leaves and changes, field by field: one equation per field and update, true by
definition, so that no proof unfolds a record update.
-/
namespace Sys2Proof.Machine

/-! #### A workgroup changed -/

@[simp] theorem State.mapWg_agenda (s : State) (wid : Nat) (f : Wg → Wg) : (s.mapWg wid f).agenda = s.agenda := rfl
@[simp] theorem State.mapWg_issue (s : State) (wid : Nat) (f : Wg → Wg) : (s.mapWg wid f).issue = s.issue := rfl
@[simp] theorem State.mapWg_hole (s : State) (wid : Nat) (f : Wg → Wg) : (s.mapWg wid f).hole = s.hole := rfl
@[simp] theorem State.mapWg_free (s : State) (wid : Nat) (f : Wg → Wg) : (s.mapWg wid f).free = s.free := rfl
@[simp] theorem State.mapWg_turn (s : State) (wid : Nat) (f : Wg → Wg) : (s.mapWg wid f).turn = s.turn := rfl
@[simp] theorem State.mapWg_out (s : State) (wid : Nat) (f : Wg → Wg) : (s.mapWg wid f).out = s.out := rfl
@[simp] theorem State.mapWg_mem (s : State) (wid : Nat) (f : Wg → Wg) : (s.mapWg wid f).mem = s.mem := rfl
@[simp] theorem State.mapWg_time (s : State) (wid : Nat) (f : Wg → Wg) : (s.mapWg wid f).time = s.time := rfl
@[simp] theorem State.mapWg_obs (s : State) (wid : Nat) (f : Wg → Wg) : (s.mapWg wid f).obs = s.obs := rfl
@[simp] theorem State.mapWg_launches (s : State) (wid : Nat) (f : Wg → Wg) : (s.mapWg wid f).launches = s.launches := rfl
@[simp] theorem State.mapWg_dispatch (s : State) (wid : Nat) (f : Wg → Wg) : (s.mapWg wid f).dispatch = s.dispatch := rfl
@[simp] theorem State.mapWg_allocNext (s : State) (wid : Nat) (f : Wg → Wg) : (s.mapWg wid f).allocNext = s.allocNext := rfl
@[simp] theorem State.mapWg_allocWraps (s : State) (wid : Nat) (f : Wg → Wg) : (s.mapWg wid f).allocWraps = s.allocWraps := rfl
@[simp] theorem State.mapWg_nextWid (s : State) (wid : Nat) (f : Wg → Wg) : (s.mapWg wid f).nextWid = s.nextWid := rfl
@[simp] theorem State.mapWg_nextOp (s : State) (wid : Nat) (f : Wg → Wg) : (s.mapWg wid f).nextOp = s.nextOp := rfl
@[simp] theorem State.mapWg_nextRec (s : State) (wid : Nat) (f : Wg → Wg) : (s.mapWg wid f).nextRec = s.nextRec := rfl
@[simp] theorem State.mapWg_nextGen (s : State) (wid : Nat) (f : Wg → Wg) : (s.mapWg wid f).nextGen = s.nextGen := rfl
@[simp] theorem State.mapWg_ctxs (s : State) (wid : Nat) (f : Wg → Wg) : (s.mapWg wid f).ctxs = s.ctxs := rfl
@[simp] theorem State.mapWg_queues (s : State) (wid : Nat) (f : Wg → Wg) : (s.mapWg wid f).queues = s.queues := rfl
@[simp] theorem State.mapWg_slots (s : State) (wid : Nat) (f : Wg → Wg) : (s.mapWg wid f).slots = s.slots := rfl
@[simp] theorem State.mapWg_pkts (s : State) (wid : Nat) (f : Wg → Wg) : (s.mapWg wid f).pkts = s.pkts := rfl
@[simp] theorem State.mapWg_wgs (s : State) (wid : Nat) (f : Wg → Wg) : (s.mapWg wid f).wgs = s.wgs.map (fun g => if g.wid == wid then f g else g) := rfl
@[simp] theorem State.mapWg_ops (s : State) (wid : Nat) (f : Wg → Wg) : (s.mapWg wid f).ops = s.ops := rfl
@[simp] theorem State.mapWg_flows (s : State) (wid : Nat) (f : Wg → Wg) : (s.mapWg wid f).flows = s.flows := rfl
@[simp] theorem State.mapWg_rings (s : State) (wid : Nat) (f : Wg → Wg) : (s.mapWg wid f).rings = s.rings := rfl
@[simp] theorem State.mapWg_kills (s : State) (wid : Nat) (f : Wg → Wg) : (s.mapWg wid f).kills = s.kills := rfl
@[simp] theorem State.mapWg_streams (s : State) (wid : Nat) (f : Wg → Wg) : (s.mapWg wid f).streams = s.streams := rfl
@[simp] theorem State.mapWg_offers (s : State) (wid : Nat) (f : Wg → Wg) : (s.mapWg wid f).offers = s.offers := rfl
@[simp] theorem State.mapWg_winnow (s : State) (wid : Nat) (f : Wg → Wg) : (s.mapWg wid f).winnow = s.winnow := rfl
@[simp] theorem State.mapWg_fring (s : State) (wid : Nat) (f : Wg → Wg) : (s.mapWg wid f).fring = s.fring := rfl
@[simp] theorem State.mapWg_sring (s : State) (wid : Nat) (f : Wg → Wg) : (s.mapWg wid f).sring = s.sring := rfl
@[simp] theorem State.mapWg_slog (s : State) (wid : Nat) (f : Wg → Wg) : (s.mapWg wid f).slog = s.slog := rfl
@[simp] theorem State.mapWg_pool (s : State) (wid : Nat) (f : Wg → Wg) : (s.mapWg wid f).pool = s.pool := rfl
@[simp] theorem State.mapWg_fab (s : State) (wid : Nat) (f : Wg → Wg) : (s.mapWg wid f).fab = s.fab := rfl
@[simp] theorem State.mapWg_host (s : State) (wid : Nat) (f : Wg → Wg) : (s.mapWg wid f).host = s.host := rfl
@[simp] theorem State.mapWg_boot (s : State) (wid : Nat) (f : Wg → Wg) : (s.mapWg wid f).boot = s.boot := rfl
@[simp] theorem State.mapWg_power (s : State) (wid : Nat) (f : Wg → Wg) : (s.mapWg wid f).power = s.power := rfl

/-! #### A warp changed -/

@[simp] theorem State.mapWarp_agenda (s : State) (wid : Nat) (k : Nat) (f : Warp → Warp) : (s.mapWarp wid k f).agenda = s.agenda := rfl
@[simp] theorem State.mapWarp_issue (s : State) (wid : Nat) (k : Nat) (f : Warp → Warp) : (s.mapWarp wid k f).issue = s.issue := rfl
@[simp] theorem State.mapWarp_hole (s : State) (wid : Nat) (k : Nat) (f : Warp → Warp) : (s.mapWarp wid k f).hole = s.hole := rfl
@[simp] theorem State.mapWarp_free (s : State) (wid : Nat) (k : Nat) (f : Warp → Warp) : (s.mapWarp wid k f).free = s.free := rfl
@[simp] theorem State.mapWarp_turn (s : State) (wid : Nat) (k : Nat) (f : Warp → Warp) : (s.mapWarp wid k f).turn = s.turn := rfl
@[simp] theorem State.mapWarp_out (s : State) (wid : Nat) (k : Nat) (f : Warp → Warp) : (s.mapWarp wid k f).out = s.out := rfl
@[simp] theorem State.mapWarp_mem (s : State) (wid : Nat) (k : Nat) (f : Warp → Warp) : (s.mapWarp wid k f).mem = s.mem := rfl
@[simp] theorem State.mapWarp_time (s : State) (wid : Nat) (k : Nat) (f : Warp → Warp) : (s.mapWarp wid k f).time = s.time := rfl
@[simp] theorem State.mapWarp_obs (s : State) (wid : Nat) (k : Nat) (f : Warp → Warp) : (s.mapWarp wid k f).obs = s.obs := rfl
@[simp] theorem State.mapWarp_launches (s : State) (wid : Nat) (k : Nat) (f : Warp → Warp) : (s.mapWarp wid k f).launches = s.launches := rfl
@[simp] theorem State.mapWarp_dispatch (s : State) (wid : Nat) (k : Nat) (f : Warp → Warp) : (s.mapWarp wid k f).dispatch = s.dispatch := rfl
@[simp] theorem State.mapWarp_allocNext (s : State) (wid : Nat) (k : Nat) (f : Warp → Warp) : (s.mapWarp wid k f).allocNext = s.allocNext := rfl
@[simp] theorem State.mapWarp_allocWraps (s : State) (wid : Nat) (k : Nat) (f : Warp → Warp) : (s.mapWarp wid k f).allocWraps = s.allocWraps := rfl
@[simp] theorem State.mapWarp_nextWid (s : State) (wid : Nat) (k : Nat) (f : Warp → Warp) : (s.mapWarp wid k f).nextWid = s.nextWid := rfl
@[simp] theorem State.mapWarp_nextOp (s : State) (wid : Nat) (k : Nat) (f : Warp → Warp) : (s.mapWarp wid k f).nextOp = s.nextOp := rfl
@[simp] theorem State.mapWarp_nextRec (s : State) (wid : Nat) (k : Nat) (f : Warp → Warp) : (s.mapWarp wid k f).nextRec = s.nextRec := rfl
@[simp] theorem State.mapWarp_nextGen (s : State) (wid : Nat) (k : Nat) (f : Warp → Warp) : (s.mapWarp wid k f).nextGen = s.nextGen := rfl
@[simp] theorem State.mapWarp_ctxs (s : State) (wid : Nat) (k : Nat) (f : Warp → Warp) : (s.mapWarp wid k f).ctxs = s.ctxs := rfl
@[simp] theorem State.mapWarp_queues (s : State) (wid : Nat) (k : Nat) (f : Warp → Warp) : (s.mapWarp wid k f).queues = s.queues := rfl
@[simp] theorem State.mapWarp_slots (s : State) (wid : Nat) (k : Nat) (f : Warp → Warp) : (s.mapWarp wid k f).slots = s.slots := rfl
@[simp] theorem State.mapWarp_pkts (s : State) (wid : Nat) (k : Nat) (f : Warp → Warp) : (s.mapWarp wid k f).pkts = s.pkts := rfl
@[simp] theorem State.mapWarp_wgs (s : State) (wid : Nat) (k : Nat) (f : Warp → Warp) : (s.mapWarp wid k f).wgs = s.wgs.map (fun g => if g.wid == wid then g.mapWarp k f else g) := rfl
@[simp] theorem State.mapWarp_ops (s : State) (wid : Nat) (k : Nat) (f : Warp → Warp) : (s.mapWarp wid k f).ops = s.ops := rfl
@[simp] theorem State.mapWarp_flows (s : State) (wid : Nat) (k : Nat) (f : Warp → Warp) : (s.mapWarp wid k f).flows = s.flows := rfl
@[simp] theorem State.mapWarp_rings (s : State) (wid : Nat) (k : Nat) (f : Warp → Warp) : (s.mapWarp wid k f).rings = s.rings := rfl
@[simp] theorem State.mapWarp_kills (s : State) (wid : Nat) (k : Nat) (f : Warp → Warp) : (s.mapWarp wid k f).kills = s.kills := rfl
@[simp] theorem State.mapWarp_streams (s : State) (wid : Nat) (k : Nat) (f : Warp → Warp) : (s.mapWarp wid k f).streams = s.streams := rfl
@[simp] theorem State.mapWarp_offers (s : State) (wid : Nat) (k : Nat) (f : Warp → Warp) : (s.mapWarp wid k f).offers = s.offers := rfl
@[simp] theorem State.mapWarp_winnow (s : State) (wid : Nat) (k : Nat) (f : Warp → Warp) : (s.mapWarp wid k f).winnow = s.winnow := rfl
@[simp] theorem State.mapWarp_fring (s : State) (wid : Nat) (k : Nat) (f : Warp → Warp) : (s.mapWarp wid k f).fring = s.fring := rfl
@[simp] theorem State.mapWarp_sring (s : State) (wid : Nat) (k : Nat) (f : Warp → Warp) : (s.mapWarp wid k f).sring = s.sring := rfl
@[simp] theorem State.mapWarp_slog (s : State) (wid : Nat) (k : Nat) (f : Warp → Warp) : (s.mapWarp wid k f).slog = s.slog := rfl
@[simp] theorem State.mapWarp_pool (s : State) (wid : Nat) (k : Nat) (f : Warp → Warp) : (s.mapWarp wid k f).pool = s.pool := rfl
@[simp] theorem State.mapWarp_fab (s : State) (wid : Nat) (k : Nat) (f : Warp → Warp) : (s.mapWarp wid k f).fab = s.fab := rfl
@[simp] theorem State.mapWarp_host (s : State) (wid : Nat) (k : Nat) (f : Warp → Warp) : (s.mapWarp wid k f).host = s.host := rfl
@[simp] theorem State.mapWarp_boot (s : State) (wid : Nat) (k : Nat) (f : Warp → Warp) : (s.mapWarp wid k f).boot = s.boot := rfl
@[simp] theorem State.mapWarp_power (s : State) (wid : Nat) (k : Nat) (f : Warp → Warp) : (s.mapWarp wid k f).power = s.power := rfl

/-! #### A context changed -/

@[simp] theorem State.mapCtx_agenda (s : State) (n : Nat) (f : Context → Context) : (s.mapCtx n f).agenda = s.agenda := rfl
@[simp] theorem State.mapCtx_issue (s : State) (n : Nat) (f : Context → Context) : (s.mapCtx n f).issue = s.issue := rfl
@[simp] theorem State.mapCtx_hole (s : State) (n : Nat) (f : Context → Context) : (s.mapCtx n f).hole = s.hole := rfl
@[simp] theorem State.mapCtx_free (s : State) (n : Nat) (f : Context → Context) : (s.mapCtx n f).free = s.free := rfl
@[simp] theorem State.mapCtx_turn (s : State) (n : Nat) (f : Context → Context) : (s.mapCtx n f).turn = s.turn := rfl
@[simp] theorem State.mapCtx_out (s : State) (n : Nat) (f : Context → Context) : (s.mapCtx n f).out = s.out := rfl
@[simp] theorem State.mapCtx_mem (s : State) (n : Nat) (f : Context → Context) : (s.mapCtx n f).mem = s.mem := rfl
@[simp] theorem State.mapCtx_time (s : State) (n : Nat) (f : Context → Context) : (s.mapCtx n f).time = s.time := rfl
@[simp] theorem State.mapCtx_obs (s : State) (n : Nat) (f : Context → Context) : (s.mapCtx n f).obs = s.obs := rfl
@[simp] theorem State.mapCtx_launches (s : State) (n : Nat) (f : Context → Context) : (s.mapCtx n f).launches = s.launches := rfl
@[simp] theorem State.mapCtx_dispatch (s : State) (n : Nat) (f : Context → Context) : (s.mapCtx n f).dispatch = s.dispatch := rfl
@[simp] theorem State.mapCtx_allocNext (s : State) (n : Nat) (f : Context → Context) : (s.mapCtx n f).allocNext = s.allocNext := rfl
@[simp] theorem State.mapCtx_allocWraps (s : State) (n : Nat) (f : Context → Context) : (s.mapCtx n f).allocWraps = s.allocWraps := rfl
@[simp] theorem State.mapCtx_nextWid (s : State) (n : Nat) (f : Context → Context) : (s.mapCtx n f).nextWid = s.nextWid := rfl
@[simp] theorem State.mapCtx_nextOp (s : State) (n : Nat) (f : Context → Context) : (s.mapCtx n f).nextOp = s.nextOp := rfl
@[simp] theorem State.mapCtx_nextRec (s : State) (n : Nat) (f : Context → Context) : (s.mapCtx n f).nextRec = s.nextRec := rfl
@[simp] theorem State.mapCtx_nextGen (s : State) (n : Nat) (f : Context → Context) : (s.mapCtx n f).nextGen = s.nextGen := rfl
@[simp] theorem State.mapCtx_ctxs (s : State) (n : Nat) (f : Context → Context) : (s.mapCtx n f).ctxs = s.ctxs.map (fun c => if c.num == n then f c else c) := rfl
@[simp] theorem State.mapCtx_queues (s : State) (n : Nat) (f : Context → Context) : (s.mapCtx n f).queues = s.queues := rfl
@[simp] theorem State.mapCtx_slots (s : State) (n : Nat) (f : Context → Context) : (s.mapCtx n f).slots = s.slots := rfl
@[simp] theorem State.mapCtx_pkts (s : State) (n : Nat) (f : Context → Context) : (s.mapCtx n f).pkts = s.pkts := rfl
@[simp] theorem State.mapCtx_wgs (s : State) (n : Nat) (f : Context → Context) : (s.mapCtx n f).wgs = s.wgs := rfl
@[simp] theorem State.mapCtx_ops (s : State) (n : Nat) (f : Context → Context) : (s.mapCtx n f).ops = s.ops := rfl
@[simp] theorem State.mapCtx_flows (s : State) (n : Nat) (f : Context → Context) : (s.mapCtx n f).flows = s.flows := rfl
@[simp] theorem State.mapCtx_rings (s : State) (n : Nat) (f : Context → Context) : (s.mapCtx n f).rings = s.rings := rfl
@[simp] theorem State.mapCtx_kills (s : State) (n : Nat) (f : Context → Context) : (s.mapCtx n f).kills = s.kills := rfl
@[simp] theorem State.mapCtx_streams (s : State) (n : Nat) (f : Context → Context) : (s.mapCtx n f).streams = s.streams := rfl
@[simp] theorem State.mapCtx_offers (s : State) (n : Nat) (f : Context → Context) : (s.mapCtx n f).offers = s.offers := rfl
@[simp] theorem State.mapCtx_winnow (s : State) (n : Nat) (f : Context → Context) : (s.mapCtx n f).winnow = s.winnow := rfl
@[simp] theorem State.mapCtx_fring (s : State) (n : Nat) (f : Context → Context) : (s.mapCtx n f).fring = s.fring := rfl
@[simp] theorem State.mapCtx_sring (s : State) (n : Nat) (f : Context → Context) : (s.mapCtx n f).sring = s.sring := rfl
@[simp] theorem State.mapCtx_slog (s : State) (n : Nat) (f : Context → Context) : (s.mapCtx n f).slog = s.slog := rfl
@[simp] theorem State.mapCtx_pool (s : State) (n : Nat) (f : Context → Context) : (s.mapCtx n f).pool = s.pool := rfl
@[simp] theorem State.mapCtx_fab (s : State) (n : Nat) (f : Context → Context) : (s.mapCtx n f).fab = s.fab := rfl
@[simp] theorem State.mapCtx_host (s : State) (n : Nat) (f : Context → Context) : (s.mapCtx n f).host = s.host := rfl
@[simp] theorem State.mapCtx_boot (s : State) (n : Nat) (f : Context → Context) : (s.mapCtx n f).boot = s.boot := rfl
@[simp] theorem State.mapCtx_power (s : State) (n : Nat) (f : Context → Context) : (s.mapCtx n f).power = s.power := rfl

/-! #### An engine operation changed -/

@[simp] theorem State.mapOp_agenda (s : State) (id : Nat) (f : Op → Op) : (s.mapOp id f).agenda = s.agenda := rfl
@[simp] theorem State.mapOp_issue (s : State) (id : Nat) (f : Op → Op) : (s.mapOp id f).issue = s.issue := rfl
@[simp] theorem State.mapOp_hole (s : State) (id : Nat) (f : Op → Op) : (s.mapOp id f).hole = s.hole := rfl
@[simp] theorem State.mapOp_free (s : State) (id : Nat) (f : Op → Op) : (s.mapOp id f).free = s.free := rfl
@[simp] theorem State.mapOp_turn (s : State) (id : Nat) (f : Op → Op) : (s.mapOp id f).turn = s.turn := rfl
@[simp] theorem State.mapOp_out (s : State) (id : Nat) (f : Op → Op) : (s.mapOp id f).out = s.out := rfl
@[simp] theorem State.mapOp_mem (s : State) (id : Nat) (f : Op → Op) : (s.mapOp id f).mem = s.mem := rfl
@[simp] theorem State.mapOp_time (s : State) (id : Nat) (f : Op → Op) : (s.mapOp id f).time = s.time := rfl
@[simp] theorem State.mapOp_obs (s : State) (id : Nat) (f : Op → Op) : (s.mapOp id f).obs = s.obs := rfl
@[simp] theorem State.mapOp_launches (s : State) (id : Nat) (f : Op → Op) : (s.mapOp id f).launches = s.launches := rfl
@[simp] theorem State.mapOp_dispatch (s : State) (id : Nat) (f : Op → Op) : (s.mapOp id f).dispatch = s.dispatch := rfl
@[simp] theorem State.mapOp_allocNext (s : State) (id : Nat) (f : Op → Op) : (s.mapOp id f).allocNext = s.allocNext := rfl
@[simp] theorem State.mapOp_allocWraps (s : State) (id : Nat) (f : Op → Op) : (s.mapOp id f).allocWraps = s.allocWraps := rfl
@[simp] theorem State.mapOp_nextWid (s : State) (id : Nat) (f : Op → Op) : (s.mapOp id f).nextWid = s.nextWid := rfl
@[simp] theorem State.mapOp_nextOp (s : State) (id : Nat) (f : Op → Op) : (s.mapOp id f).nextOp = s.nextOp := rfl
@[simp] theorem State.mapOp_nextRec (s : State) (id : Nat) (f : Op → Op) : (s.mapOp id f).nextRec = s.nextRec := rfl
@[simp] theorem State.mapOp_nextGen (s : State) (id : Nat) (f : Op → Op) : (s.mapOp id f).nextGen = s.nextGen := rfl
@[simp] theorem State.mapOp_ctxs (s : State) (id : Nat) (f : Op → Op) : (s.mapOp id f).ctxs = s.ctxs := rfl
@[simp] theorem State.mapOp_queues (s : State) (id : Nat) (f : Op → Op) : (s.mapOp id f).queues = s.queues := rfl
@[simp] theorem State.mapOp_slots (s : State) (id : Nat) (f : Op → Op) : (s.mapOp id f).slots = s.slots := rfl
@[simp] theorem State.mapOp_pkts (s : State) (id : Nat) (f : Op → Op) : (s.mapOp id f).pkts = s.pkts := rfl
@[simp] theorem State.mapOp_wgs (s : State) (id : Nat) (f : Op → Op) : (s.mapOp id f).wgs = s.wgs := rfl
@[simp] theorem State.mapOp_ops (s : State) (id : Nat) (f : Op → Op) : (s.mapOp id f).ops = s.ops.map (fun o => if o.id == id then f o else o) := rfl
@[simp] theorem State.mapOp_flows (s : State) (id : Nat) (f : Op → Op) : (s.mapOp id f).flows = s.flows := rfl
@[simp] theorem State.mapOp_rings (s : State) (id : Nat) (f : Op → Op) : (s.mapOp id f).rings = s.rings := rfl
@[simp] theorem State.mapOp_kills (s : State) (id : Nat) (f : Op → Op) : (s.mapOp id f).kills = s.kills := rfl
@[simp] theorem State.mapOp_streams (s : State) (id : Nat) (f : Op → Op) : (s.mapOp id f).streams = s.streams := rfl
@[simp] theorem State.mapOp_offers (s : State) (id : Nat) (f : Op → Op) : (s.mapOp id f).offers = s.offers := rfl
@[simp] theorem State.mapOp_winnow (s : State) (id : Nat) (f : Op → Op) : (s.mapOp id f).winnow = s.winnow := rfl
@[simp] theorem State.mapOp_fring (s : State) (id : Nat) (f : Op → Op) : (s.mapOp id f).fring = s.fring := rfl
@[simp] theorem State.mapOp_sring (s : State) (id : Nat) (f : Op → Op) : (s.mapOp id f).sring = s.sring := rfl
@[simp] theorem State.mapOp_slog (s : State) (id : Nat) (f : Op → Op) : (s.mapOp id f).slog = s.slog := rfl
@[simp] theorem State.mapOp_pool (s : State) (id : Nat) (f : Op → Op) : (s.mapOp id f).pool = s.pool := rfl
@[simp] theorem State.mapOp_fab (s : State) (id : Nat) (f : Op → Op) : (s.mapOp id f).fab = s.fab := rfl
@[simp] theorem State.mapOp_host (s : State) (id : Nat) (f : Op → Op) : (s.mapOp id f).host = s.host := rfl
@[simp] theorem State.mapOp_boot (s : State) (id : Nat) (f : Op → Op) : (s.mapOp id f).boot = s.boot := rfl
@[simp] theorem State.mapOp_power (s : State) (id : Nat) (f : Op → Op) : (s.mapOp id f).power = s.power := rfl

/-! #### A packet changed -/

@[simp] theorem State.mapPkt_agenda (s : State) (k : PktKey) (f : Pkt → Pkt) : (s.mapPkt k f).agenda = s.agenda := rfl
@[simp] theorem State.mapPkt_issue (s : State) (k : PktKey) (f : Pkt → Pkt) : (s.mapPkt k f).issue = s.issue := rfl
@[simp] theorem State.mapPkt_hole (s : State) (k : PktKey) (f : Pkt → Pkt) : (s.mapPkt k f).hole = s.hole := rfl
@[simp] theorem State.mapPkt_free (s : State) (k : PktKey) (f : Pkt → Pkt) : (s.mapPkt k f).free = s.free := rfl
@[simp] theorem State.mapPkt_turn (s : State) (k : PktKey) (f : Pkt → Pkt) : (s.mapPkt k f).turn = s.turn := rfl
@[simp] theorem State.mapPkt_out (s : State) (k : PktKey) (f : Pkt → Pkt) : (s.mapPkt k f).out = s.out := rfl
@[simp] theorem State.mapPkt_mem (s : State) (k : PktKey) (f : Pkt → Pkt) : (s.mapPkt k f).mem = s.mem := rfl
@[simp] theorem State.mapPkt_time (s : State) (k : PktKey) (f : Pkt → Pkt) : (s.mapPkt k f).time = s.time := rfl
@[simp] theorem State.mapPkt_obs (s : State) (k : PktKey) (f : Pkt → Pkt) : (s.mapPkt k f).obs = s.obs := rfl
@[simp] theorem State.mapPkt_launches (s : State) (k : PktKey) (f : Pkt → Pkt) : (s.mapPkt k f).launches = s.launches := rfl
@[simp] theorem State.mapPkt_dispatch (s : State) (k : PktKey) (f : Pkt → Pkt) : (s.mapPkt k f).dispatch = s.dispatch := rfl
@[simp] theorem State.mapPkt_allocNext (s : State) (k : PktKey) (f : Pkt → Pkt) : (s.mapPkt k f).allocNext = s.allocNext := rfl
@[simp] theorem State.mapPkt_allocWraps (s : State) (k : PktKey) (f : Pkt → Pkt) : (s.mapPkt k f).allocWraps = s.allocWraps := rfl
@[simp] theorem State.mapPkt_nextWid (s : State) (k : PktKey) (f : Pkt → Pkt) : (s.mapPkt k f).nextWid = s.nextWid := rfl
@[simp] theorem State.mapPkt_nextOp (s : State) (k : PktKey) (f : Pkt → Pkt) : (s.mapPkt k f).nextOp = s.nextOp := rfl
@[simp] theorem State.mapPkt_nextRec (s : State) (k : PktKey) (f : Pkt → Pkt) : (s.mapPkt k f).nextRec = s.nextRec := rfl
@[simp] theorem State.mapPkt_nextGen (s : State) (k : PktKey) (f : Pkt → Pkt) : (s.mapPkt k f).nextGen = s.nextGen := rfl
@[simp] theorem State.mapPkt_ctxs (s : State) (k : PktKey) (f : Pkt → Pkt) : (s.mapPkt k f).ctxs = s.ctxs := rfl
@[simp] theorem State.mapPkt_queues (s : State) (k : PktKey) (f : Pkt → Pkt) : (s.mapPkt k f).queues = s.queues := rfl
@[simp] theorem State.mapPkt_slots (s : State) (k : PktKey) (f : Pkt → Pkt) : (s.mapPkt k f).slots = s.slots := rfl
@[simp] theorem State.mapPkt_pkts (s : State) (k : PktKey) (f : Pkt → Pkt) : (s.mapPkt k f).pkts = s.pkts.map (fun p => if p.key == k then f p else p) := rfl
@[simp] theorem State.mapPkt_wgs (s : State) (k : PktKey) (f : Pkt → Pkt) : (s.mapPkt k f).wgs = s.wgs := rfl
@[simp] theorem State.mapPkt_ops (s : State) (k : PktKey) (f : Pkt → Pkt) : (s.mapPkt k f).ops = s.ops := rfl
@[simp] theorem State.mapPkt_flows (s : State) (k : PktKey) (f : Pkt → Pkt) : (s.mapPkt k f).flows = s.flows := rfl
@[simp] theorem State.mapPkt_rings (s : State) (k : PktKey) (f : Pkt → Pkt) : (s.mapPkt k f).rings = s.rings := rfl
@[simp] theorem State.mapPkt_kills (s : State) (k : PktKey) (f : Pkt → Pkt) : (s.mapPkt k f).kills = s.kills := rfl
@[simp] theorem State.mapPkt_streams (s : State) (k : PktKey) (f : Pkt → Pkt) : (s.mapPkt k f).streams = s.streams := rfl
@[simp] theorem State.mapPkt_offers (s : State) (k : PktKey) (f : Pkt → Pkt) : (s.mapPkt k f).offers = s.offers := rfl
@[simp] theorem State.mapPkt_winnow (s : State) (k : PktKey) (f : Pkt → Pkt) : (s.mapPkt k f).winnow = s.winnow := rfl
@[simp] theorem State.mapPkt_fring (s : State) (k : PktKey) (f : Pkt → Pkt) : (s.mapPkt k f).fring = s.fring := rfl
@[simp] theorem State.mapPkt_sring (s : State) (k : PktKey) (f : Pkt → Pkt) : (s.mapPkt k f).sring = s.sring := rfl
@[simp] theorem State.mapPkt_slog (s : State) (k : PktKey) (f : Pkt → Pkt) : (s.mapPkt k f).slog = s.slog := rfl
@[simp] theorem State.mapPkt_pool (s : State) (k : PktKey) (f : Pkt → Pkt) : (s.mapPkt k f).pool = s.pool := rfl
@[simp] theorem State.mapPkt_fab (s : State) (k : PktKey) (f : Pkt → Pkt) : (s.mapPkt k f).fab = s.fab := rfl
@[simp] theorem State.mapPkt_host (s : State) (k : PktKey) (f : Pkt → Pkt) : (s.mapPkt k f).host = s.host := rfl
@[simp] theorem State.mapPkt_boot (s : State) (k : PktKey) (f : Pkt → Pkt) : (s.mapPkt k f).boot = s.boot := rfl
@[simp] theorem State.mapPkt_power (s : State) (k : PktKey) (f : Pkt → Pkt) : (s.mapPkt k f).power = s.power := rfl

/-! #### A counter grows -/

@[simp] theorem State.bumpBy_agenda (s : State) (reg : Nat) (n : Nat) : (s.bumpBy reg n).agenda = s.agenda := by rw [State.bumpBy]
@[simp] theorem State.bumpBy_issue (s : State) (reg : Nat) (n : Nat) : (s.bumpBy reg n).issue = s.issue := by rw [State.bumpBy]
@[simp] theorem State.bumpBy_hole (s : State) (reg : Nat) (n : Nat) : (s.bumpBy reg n).hole = s.hole := by rw [State.bumpBy]
@[simp] theorem State.bumpBy_free (s : State) (reg : Nat) (n : Nat) : (s.bumpBy reg n).free = s.free := by rw [State.bumpBy]
@[simp] theorem State.bumpBy_turn (s : State) (reg : Nat) (n : Nat) : (s.bumpBy reg n).turn = s.turn := by rw [State.bumpBy]
@[simp] theorem State.bumpBy_out (s : State) (reg : Nat) (n : Nat) : (s.bumpBy reg n).out = s.out := by rw [State.bumpBy]
@[simp] theorem State.bumpBy_mem (s : State) (reg : Nat) (n : Nat) : (s.bumpBy reg n).mem = s.mem := by rw [State.bumpBy]
@[simp] theorem State.bumpBy_time (s : State) (reg : Nat) (n : Nat) : (s.bumpBy reg n).time = s.time := by rw [State.bumpBy]
@[simp] theorem State.bumpBy_obs (s : State) (reg : Nat) (n : Nat) : (s.bumpBy reg n).obs = { s.obs with regs := s.obs.regs.modify (reg - 0x100) (· + BitVec.ofNat 64 n) } := by rw [State.bumpBy]
@[simp] theorem State.bumpBy_launches (s : State) (reg : Nat) (n : Nat) : (s.bumpBy reg n).launches = s.launches := by rw [State.bumpBy]
@[simp] theorem State.bumpBy_dispatch (s : State) (reg : Nat) (n : Nat) : (s.bumpBy reg n).dispatch = s.dispatch := by rw [State.bumpBy]
@[simp] theorem State.bumpBy_allocNext (s : State) (reg : Nat) (n : Nat) : (s.bumpBy reg n).allocNext = s.allocNext := by rw [State.bumpBy]
@[simp] theorem State.bumpBy_allocWraps (s : State) (reg : Nat) (n : Nat) : (s.bumpBy reg n).allocWraps = s.allocWraps := by rw [State.bumpBy]
@[simp] theorem State.bumpBy_nextWid (s : State) (reg : Nat) (n : Nat) : (s.bumpBy reg n).nextWid = s.nextWid := by rw [State.bumpBy]
@[simp] theorem State.bumpBy_nextOp (s : State) (reg : Nat) (n : Nat) : (s.bumpBy reg n).nextOp = s.nextOp := by rw [State.bumpBy]
@[simp] theorem State.bumpBy_nextRec (s : State) (reg : Nat) (n : Nat) : (s.bumpBy reg n).nextRec = s.nextRec := by rw [State.bumpBy]
@[simp] theorem State.bumpBy_nextGen (s : State) (reg : Nat) (n : Nat) : (s.bumpBy reg n).nextGen = s.nextGen := by rw [State.bumpBy]
@[simp] theorem State.bumpBy_ctxs (s : State) (reg : Nat) (n : Nat) : (s.bumpBy reg n).ctxs = s.ctxs := by rw [State.bumpBy]
@[simp] theorem State.bumpBy_queues (s : State) (reg : Nat) (n : Nat) : (s.bumpBy reg n).queues = s.queues := by rw [State.bumpBy]
@[simp] theorem State.bumpBy_slots (s : State) (reg : Nat) (n : Nat) : (s.bumpBy reg n).slots = s.slots := by rw [State.bumpBy]
@[simp] theorem State.bumpBy_pkts (s : State) (reg : Nat) (n : Nat) : (s.bumpBy reg n).pkts = s.pkts := by rw [State.bumpBy]
@[simp] theorem State.bumpBy_wgs (s : State) (reg : Nat) (n : Nat) : (s.bumpBy reg n).wgs = s.wgs := by rw [State.bumpBy]
@[simp] theorem State.bumpBy_ops (s : State) (reg : Nat) (n : Nat) : (s.bumpBy reg n).ops = s.ops := by rw [State.bumpBy]
@[simp] theorem State.bumpBy_flows (s : State) (reg : Nat) (n : Nat) : (s.bumpBy reg n).flows = s.flows := by rw [State.bumpBy]
@[simp] theorem State.bumpBy_rings (s : State) (reg : Nat) (n : Nat) : (s.bumpBy reg n).rings = s.rings := by rw [State.bumpBy]
@[simp] theorem State.bumpBy_kills (s : State) (reg : Nat) (n : Nat) : (s.bumpBy reg n).kills = s.kills := by rw [State.bumpBy]
@[simp] theorem State.bumpBy_streams (s : State) (reg : Nat) (n : Nat) : (s.bumpBy reg n).streams = s.streams := by rw [State.bumpBy]
@[simp] theorem State.bumpBy_offers (s : State) (reg : Nat) (n : Nat) : (s.bumpBy reg n).offers = s.offers := by rw [State.bumpBy]
@[simp] theorem State.bumpBy_winnow (s : State) (reg : Nat) (n : Nat) : (s.bumpBy reg n).winnow = s.winnow := by rw [State.bumpBy]
@[simp] theorem State.bumpBy_fring (s : State) (reg : Nat) (n : Nat) : (s.bumpBy reg n).fring = s.fring := by rw [State.bumpBy]
@[simp] theorem State.bumpBy_sring (s : State) (reg : Nat) (n : Nat) : (s.bumpBy reg n).sring = s.sring := by rw [State.bumpBy]
@[simp] theorem State.bumpBy_slog (s : State) (reg : Nat) (n : Nat) : (s.bumpBy reg n).slog = s.slog := by rw [State.bumpBy]
@[simp] theorem State.bumpBy_pool (s : State) (reg : Nat) (n : Nat) : (s.bumpBy reg n).pool = s.pool := by rw [State.bumpBy]
@[simp] theorem State.bumpBy_fab (s : State) (reg : Nat) (n : Nat) : (s.bumpBy reg n).fab = s.fab := by rw [State.bumpBy]
@[simp] theorem State.bumpBy_host (s : State) (reg : Nat) (n : Nat) : (s.bumpBy reg n).host = s.host := by rw [State.bumpBy]
@[simp] theorem State.bumpBy_boot (s : State) (reg : Nat) (n : Nat) : (s.bumpBy reg n).boot = s.boot := by rw [State.bumpBy]
@[simp] theorem State.bumpBy_power (s : State) (reg : Nat) (n : Nat) : (s.bumpBy reg n).power = s.power := by rw [State.bumpBy]

/-! #### An output leaves -/

@[simp] theorem State.emit_agenda (s : State) (o : Output) : (s.emit o).agenda = s.agenda := rfl
@[simp] theorem State.emit_issue (s : State) (o : Output) : (s.emit o).issue = s.issue := rfl
@[simp] theorem State.emit_hole (s : State) (o : Output) : (s.emit o).hole = s.hole := rfl
@[simp] theorem State.emit_free (s : State) (o : Output) : (s.emit o).free = s.free := rfl
@[simp] theorem State.emit_turn (s : State) (o : Output) : (s.emit o).turn = s.turn := rfl
@[simp] theorem State.emit_out (s : State) (o : Output) : (s.emit o).out = s.out ++ [o] := rfl
@[simp] theorem State.emit_mem (s : State) (o : Output) : (s.emit o).mem = s.mem := rfl
@[simp] theorem State.emit_time (s : State) (o : Output) : (s.emit o).time = s.time := rfl
@[simp] theorem State.emit_obs (s : State) (o : Output) : (s.emit o).obs = s.obs := rfl
@[simp] theorem State.emit_launches (s : State) (o : Output) : (s.emit o).launches = s.launches := rfl
@[simp] theorem State.emit_dispatch (s : State) (o : Output) : (s.emit o).dispatch = s.dispatch := rfl
@[simp] theorem State.emit_allocNext (s : State) (o : Output) : (s.emit o).allocNext = s.allocNext := rfl
@[simp] theorem State.emit_allocWraps (s : State) (o : Output) : (s.emit o).allocWraps = s.allocWraps := rfl
@[simp] theorem State.emit_nextWid (s : State) (o : Output) : (s.emit o).nextWid = s.nextWid := rfl
@[simp] theorem State.emit_nextOp (s : State) (o : Output) : (s.emit o).nextOp = s.nextOp := rfl
@[simp] theorem State.emit_nextRec (s : State) (o : Output) : (s.emit o).nextRec = s.nextRec := rfl
@[simp] theorem State.emit_nextGen (s : State) (o : Output) : (s.emit o).nextGen = s.nextGen := rfl
@[simp] theorem State.emit_ctxs (s : State) (o : Output) : (s.emit o).ctxs = s.ctxs := rfl
@[simp] theorem State.emit_queues (s : State) (o : Output) : (s.emit o).queues = s.queues := rfl
@[simp] theorem State.emit_slots (s : State) (o : Output) : (s.emit o).slots = s.slots := rfl
@[simp] theorem State.emit_pkts (s : State) (o : Output) : (s.emit o).pkts = s.pkts := rfl
@[simp] theorem State.emit_wgs (s : State) (o : Output) : (s.emit o).wgs = s.wgs := rfl
@[simp] theorem State.emit_ops (s : State) (o : Output) : (s.emit o).ops = s.ops := rfl
@[simp] theorem State.emit_flows (s : State) (o : Output) : (s.emit o).flows = s.flows := rfl
@[simp] theorem State.emit_rings (s : State) (o : Output) : (s.emit o).rings = s.rings := rfl
@[simp] theorem State.emit_kills (s : State) (o : Output) : (s.emit o).kills = s.kills := rfl
@[simp] theorem State.emit_streams (s : State) (o : Output) : (s.emit o).streams = s.streams := rfl
@[simp] theorem State.emit_offers (s : State) (o : Output) : (s.emit o).offers = s.offers := rfl
@[simp] theorem State.emit_winnow (s : State) (o : Output) : (s.emit o).winnow = s.winnow := rfl
@[simp] theorem State.emit_fring (s : State) (o : Output) : (s.emit o).fring = s.fring := rfl
@[simp] theorem State.emit_sring (s : State) (o : Output) : (s.emit o).sring = s.sring := rfl
@[simp] theorem State.emit_slog (s : State) (o : Output) : (s.emit o).slog = s.slog := rfl
@[simp] theorem State.emit_pool (s : State) (o : Output) : (s.emit o).pool = s.pool := rfl
@[simp] theorem State.emit_fab (s : State) (o : Output) : (s.emit o).fab = s.fab := rfl
@[simp] theorem State.emit_host (s : State) (o : Output) : (s.emit o).host = s.host := rfl
@[simp] theorem State.emit_boot (s : State) (o : Output) : (s.emit o).boot = s.boot := rfl
@[simp] theorem State.emit_power (s : State) (o : Output) : (s.emit o).power = s.power := rfl

/-! #### Host memory written -/

@[simp] theorem State.hostWrite_agenda (s : State) (a : Nat) (bs : List Byte) : (s.hostWrite a bs).agenda = s.agenda := rfl
@[simp] theorem State.hostWrite_issue (s : State) (a : Nat) (bs : List Byte) : (s.hostWrite a bs).issue = s.issue := rfl
@[simp] theorem State.hostWrite_hole (s : State) (a : Nat) (bs : List Byte) : (s.hostWrite a bs).hole = s.hole := rfl
@[simp] theorem State.hostWrite_free (s : State) (a : Nat) (bs : List Byte) : (s.hostWrite a bs).free = s.free := rfl
@[simp] theorem State.hostWrite_turn (s : State) (a : Nat) (bs : List Byte) : (s.hostWrite a bs).turn = s.turn := rfl
@[simp] theorem State.hostWrite_out (s : State) (a : Nat) (bs : List Byte) : (s.hostWrite a bs).out = s.out := rfl
@[simp] theorem State.hostWrite_mem (s : State) (a : Nat) (bs : List Byte) : (s.hostWrite a bs).mem = { s.mem with host := Memory.write s.mem.host a bs } := rfl
@[simp] theorem State.hostWrite_time (s : State) (a : Nat) (bs : List Byte) : (s.hostWrite a bs).time = s.time := rfl
@[simp] theorem State.hostWrite_obs (s : State) (a : Nat) (bs : List Byte) : (s.hostWrite a bs).obs = s.obs := rfl
@[simp] theorem State.hostWrite_launches (s : State) (a : Nat) (bs : List Byte) : (s.hostWrite a bs).launches = s.launches := rfl
@[simp] theorem State.hostWrite_dispatch (s : State) (a : Nat) (bs : List Byte) : (s.hostWrite a bs).dispatch = s.dispatch := rfl
@[simp] theorem State.hostWrite_allocNext (s : State) (a : Nat) (bs : List Byte) : (s.hostWrite a bs).allocNext = s.allocNext := rfl
@[simp] theorem State.hostWrite_allocWraps (s : State) (a : Nat) (bs : List Byte) : (s.hostWrite a bs).allocWraps = s.allocWraps := rfl
@[simp] theorem State.hostWrite_nextWid (s : State) (a : Nat) (bs : List Byte) : (s.hostWrite a bs).nextWid = s.nextWid := rfl
@[simp] theorem State.hostWrite_nextOp (s : State) (a : Nat) (bs : List Byte) : (s.hostWrite a bs).nextOp = s.nextOp := rfl
@[simp] theorem State.hostWrite_nextRec (s : State) (a : Nat) (bs : List Byte) : (s.hostWrite a bs).nextRec = s.nextRec := rfl
@[simp] theorem State.hostWrite_nextGen (s : State) (a : Nat) (bs : List Byte) : (s.hostWrite a bs).nextGen = s.nextGen := rfl
@[simp] theorem State.hostWrite_ctxs (s : State) (a : Nat) (bs : List Byte) : (s.hostWrite a bs).ctxs = s.ctxs := rfl
@[simp] theorem State.hostWrite_queues (s : State) (a : Nat) (bs : List Byte) : (s.hostWrite a bs).queues = s.queues := rfl
@[simp] theorem State.hostWrite_slots (s : State) (a : Nat) (bs : List Byte) : (s.hostWrite a bs).slots = s.slots := rfl
@[simp] theorem State.hostWrite_pkts (s : State) (a : Nat) (bs : List Byte) : (s.hostWrite a bs).pkts = s.pkts := rfl
@[simp] theorem State.hostWrite_wgs (s : State) (a : Nat) (bs : List Byte) : (s.hostWrite a bs).wgs = s.wgs := rfl
@[simp] theorem State.hostWrite_ops (s : State) (a : Nat) (bs : List Byte) : (s.hostWrite a bs).ops = s.ops := rfl
@[simp] theorem State.hostWrite_flows (s : State) (a : Nat) (bs : List Byte) : (s.hostWrite a bs).flows = s.flows := rfl
@[simp] theorem State.hostWrite_rings (s : State) (a : Nat) (bs : List Byte) : (s.hostWrite a bs).rings = s.rings := rfl
@[simp] theorem State.hostWrite_kills (s : State) (a : Nat) (bs : List Byte) : (s.hostWrite a bs).kills = s.kills := rfl
@[simp] theorem State.hostWrite_streams (s : State) (a : Nat) (bs : List Byte) : (s.hostWrite a bs).streams = s.streams := rfl
@[simp] theorem State.hostWrite_offers (s : State) (a : Nat) (bs : List Byte) : (s.hostWrite a bs).offers = s.offers := rfl
@[simp] theorem State.hostWrite_winnow (s : State) (a : Nat) (bs : List Byte) : (s.hostWrite a bs).winnow = s.winnow := rfl
@[simp] theorem State.hostWrite_fring (s : State) (a : Nat) (bs : List Byte) : (s.hostWrite a bs).fring = s.fring := rfl
@[simp] theorem State.hostWrite_sring (s : State) (a : Nat) (bs : List Byte) : (s.hostWrite a bs).sring = s.sring := rfl
@[simp] theorem State.hostWrite_slog (s : State) (a : Nat) (bs : List Byte) : (s.hostWrite a bs).slog = s.slog := rfl
@[simp] theorem State.hostWrite_pool (s : State) (a : Nat) (bs : List Byte) : (s.hostWrite a bs).pool = s.pool := rfl
@[simp] theorem State.hostWrite_fab (s : State) (a : Nat) (bs : List Byte) : (s.hostWrite a bs).fab = s.fab := rfl
@[simp] theorem State.hostWrite_host (s : State) (a : Nat) (bs : List Byte) : (s.hostWrite a bs).host = s.host := rfl
@[simp] theorem State.hostWrite_boot (s : State) (a : Nat) (bs : List Byte) : (s.hostWrite a bs).boot = s.boot := rfl
@[simp] theorem State.hostWrite_power (s : State) (a : Nat) (bs : List Byte) : (s.hostWrite a bs).power = s.power := rfl

/-! #### A lane changed -/

@[simp] theorem Warp.mapLane_slot (w : Warp) (l : Nat) (f : Lane → Lane) : (w.mapLane l f).slot = w.slot := rfl
@[simp] theorem Warp.mapLane_lanes (w : Warp) (l : Nat) (f : Lane → Lane) : (w.mapLane l f).lanes = w.lanes.modify l f := rfl
@[simp] theorem Warp.mapLane_s (w : Warp) (l : Nat) (f : Lane → Lane) : (w.mapLane l f).s = w.s := rfl
@[simp] theorem Warp.mapLane_h (w : Warp) (l : Nat) (f : Lane → Lane) : (w.mapLane l f).h = w.h := rfl
@[simp] theorem Warp.mapLane_nbv (w : Warp) (l : Nat) (f : Lane → Lane) : (w.mapLane l f).nbv = w.nbv := rfl
@[simp] theorem Warp.mapLane_unifcnt (w : Warp) (l : Nat) (f : Lane → Lane) : (w.mapLane l f).unifcnt = w.unifcnt := rfl
@[simp] theorem Warp.mapLane_trapvec (w : Warp) (l : Nat) (f : Lane → Lane) : (w.mapLane l f).trapvec = w.trapvec := rfl
@[simp] theorem Warp.mapLane_sleep (w : Warp) (l : Nat) (f : Lane → Lane) : (w.mapLane l f).sleep = w.sleep := rfl
@[simp] theorem Warp.mapLane_chain (w : Warp) (l : Nat) (f : Lane → Lane) : (w.mapLane l f).chain = w.chain := rfl
@[simp] theorem Warp.mapLane_pendBar (w : Warp) (l : Nat) (f : Lane → Lane) : (w.mapLane l f).pendBar = w.pendBar := rfl
@[simp] theorem Warp.mapLane_lastBar (w : Warp) (l : Nat) (f : Lane → Lane) : (w.mapLane l f).lastBar = w.lastBar := rfl
@[simp] theorem Warp.mapLane_joins (w : Warp) (l : Nat) (f : Lane → Lane) : (w.mapLane l f).joins = w.joins := rfl
@[simp] theorem Warp.mapLane_pslot (w : Warp) (l : Nat) (f : Lane → Lane) : (w.mapLane l f).pslot = w.pslot := rfl
@[simp] theorem Warp.mapLane_results (w : Warp) (l : Nat) (f : Lane → Lane) : (w.mapLane l f).results = w.results := rfl
@[simp] theorem Warp.mapLane_nextRes (w : Warp) (l : Nat) (f : Lane → Lane) : (w.mapLane l f).nextRes = w.nextRes := rfl
@[simp] theorem Warp.mapLane_rotate (w : Warp) (l : Nat) (f : Lane → Lane) : (w.mapLane l f).rotate = w.rotate := rfl

/-! #### A warp of a workgroup changed -/

@[simp] theorem Wg.mapWarp_wid (g : Wg) (k : Nat) (f : Warp → Warp) : (g.mapWarp k f).wid = g.wid := rfl
@[simp] theorem Wg.mapWarp_pkt (g : Wg) (k : Nat) (f : Warp → Warp) : (g.mapWarp k f).pkt = g.pkt := rfl
@[simp] theorem Wg.mapWarp_linear (g : Wg) (k : Nat) (f : Warp → Warp) : (g.mapWarp k f).linear = g.linear := rfl
@[simp] theorem Wg.mapWarp_gx (g : Wg) (k : Nat) (f : Warp → Warp) : (g.mapWarp k f).gx = g.gx := rfl
@[simp] theorem Wg.mapWarp_gy (g : Wg) (k : Nat) (f : Warp → Warp) : (g.mapWarp k f).gy = g.gy := rfl
@[simp] theorem Wg.mapWarp_gz (g : Wg) (k : Nat) (f : Warp → Warp) : (g.mapWarp k f).gz = g.gz := rfl
@[simp] theorem Wg.mapWarp_stage (g : Wg) (k : Nat) (f : Warp → Warp) : (g.mapWarp k f).stage = g.stage := rfl
@[simp] theorem Wg.mapWarp_column (g : Wg) (k : Nat) (f : Warp → Warp) : (g.mapWarp k f).column = g.column := rfl
@[simp] theorem Wg.mapWarp_dispatch (g : Wg) (k : Nat) (f : Warp → Warp) : (g.mapWarp k f).dispatch = g.dispatch := rfl
@[simp] theorem Wg.mapWarp_kernel (g : Wg) (k : Nat) (f : Warp → Warp) : (g.mapWarp k f).kernel = g.kernel := rfl
@[simp] theorem Wg.mapWarp_flow (g : Wg) (k : Nat) (f : Warp → Warp) : (g.mapWarp k f).flow = g.flow := rfl
@[simp] theorem Wg.mapWarp_launchId (g : Wg) (k : Nat) (f : Warp → Warp) : (g.mapWarp k f).launchId = g.launchId := rfl
@[simp] theorem Wg.mapWarp_slotSz (g : Wg) (k : Nat) (f : Warp → Warp) : (g.mapWarp k f).slotSz = g.slotSz := rfl
@[simp] theorem Wg.mapWarp_core (g : Wg) (k : Nat) (f : Warp → Warp) : (g.mapWarp k f).core = g.core := rfl
@[simp] theorem Wg.mapWarp_st (g : Wg) (k : Nat) (f : Warp → Warp) : (g.mapWarp k f).st = g.st := rfl
@[simp] theorem Wg.mapWarp_fresh (g : Wg) (k : Nat) (f : Warp → Warp) : (g.mapWarp k f).fresh = g.fresh := rfl
@[simp] theorem Wg.mapWarp_warps (g : Wg) (k : Nat) (f : Warp → Warp) : (g.mapWarp k f).warps = g.warps.modify k f := rfl
@[simp] theorem Wg.mapWarp_allocId (g : Wg) (k : Nat) (f : Warp → Warp) : (g.mapWarp k f).allocId = g.allocId := rfl
@[simp] theorem Wg.mapWarp_tileBase (g : Wg) (k : Nat) (f : Warp → Warp) : (g.mapWarp k f).tileBase = g.tileBase := rfl
@[simp] theorem Wg.mapWarp_tiles (g : Wg) (k : Nat) (f : Warp → Warp) : (g.mapWarp k f).tiles = g.tiles := rfl
@[simp] theorem Wg.mapWarp_data (g : Wg) (k : Nat) (f : Warp → Warp) : (g.mapWarp k f).data = g.data := rfl
@[simp] theorem Wg.mapWarp_tags (g : Wg) (k : Nat) (f : Warp → Warp) : (g.mapWarp k f).tags = g.tags := rfl
@[simp] theorem Wg.mapWarp_out (g : Wg) (k : Nat) (f : Warp → Warp) : (g.mapWarp k f).out = g.out := rfl
@[simp] theorem Wg.mapWarp_wins (g : Wg) (k : Nat) (f : Warp → Warp) : (g.mapWarp k f).wins = g.wins := rfl
@[simp] theorem Wg.mapWarp_acc (g : Wg) (k : Nat) (f : Warp → Warp) : (g.mapWarp k f).acc = g.acc := rfl
@[simp] theorem Wg.mapWarp_barGen (g : Wg) (k : Nat) (f : Warp → Warp) : (g.mapWarp k f).barGen = g.barGen := rfl
@[simp] theorem Wg.mapWarp_barHere (g : Wg) (k : Nat) (f : Warp → Warp) : (g.mapWarp k f).barHere = g.barHere := rfl
@[simp] theorem Wg.mapWarp_reserve (g : Wg) (k : Nat) (f : Warp → Warp) : (g.mapWarp k f).reserve = g.reserve := rfl
@[simp] theorem Wg.mapWarp_retired (g : Wg) (k : Nat) (f : Warp → Warp) : (g.mapWarp k f).retired = g.retired := rfl

/-! #### A lane completes an instruction -/

@[simp] theorem Lane.advance_v (x : Lane) (next : Word) : (x.advance next).v = x.v := rfl
@[simp] theorem Lane.advance_p (x : Lane) (next : Word) : (x.advance next).p = x.p := rfl
@[simp] theorem Lane.advance_pc (x : Lane) (next : Word) : (x.advance next).pc = next := rfl
@[simp] theorem Lane.advance_st (x : Lane) (next : Word) : (x.advance next).st = x.st := rfl
@[simp] theorem Lane.advance_clause (x : Lane) (next : Word) : (x.advance next).clause = x.clause := rfl
@[simp] theorem Lane.advance_trapClause (x : Lane) (next : Word) : (x.advance next).trapClause = x.trapClause := rfl
@[simp] theorem Lane.advance_ret (x : Lane) (next : Word) : (x.advance next).ret = x.ret := rfl
@[simp] theorem Lane.advance_spilled (x : Lane) (next : Word) : (x.advance next).spilled = x.spilled := rfl
@[simp] theorem Lane.advance_teams (x : Lane) (next : Word) : (x.advance next).teams = x.teams := rfl
@[simp] theorem Lane.advance_inner (x : Lane) (next : Word) : (x.advance next).inner = x.inner := rfl
@[simp] theorem Lane.advance_level (x : Lane) (next : Word) : (x.advance next).level = x.level := rfl
@[simp] theorem Lane.advance_subs (x : Lane) (next : Word) : (x.advance next).subs = x.subs := rfl
@[simp] theorem Lane.advance_trapen (x : Lane) (next : Word) : (x.advance next).trapen = x.trapen := rfl
@[simp] theorem Lane.advance_fpstat (x : Lane) (next : Word) : (x.advance next).fpstat = x.fpstat := rfl
@[simp] theorem Lane.advance_decstat (x : Lane) (next : Word) : (x.advance next).decstat = x.decstat := rfl
@[simp] theorem Lane.advance_rmode (x : Lane) (next : Word) : (x.advance next).rmode = x.rmode := rfl
@[simp] theorem Lane.advance_trapcause (x : Lane) (next : Word) : (x.advance next).trapcause = x.trapcause := rfl
@[simp] theorem Lane.advance_trappc (x : Lane) (next : Word) : (x.advance next).trappc = x.trappc := rfl
@[simp] theorem Lane.advance_trapaddr (x : Lane) (next : Word) : (x.advance next).trapaddr = x.trapaddr := rfl
@[simp] theorem Lane.advance_trapret (x : Lane) (next : Word) : (x.advance next).trapret = x.trapret := rfl
@[simp] theorem Lane.advance_handler (x : Lane) (next : Word) : (x.advance next).handler = x.handler := rfl
@[simp] theorem Lane.advance_windows (x : Lane) (next : Word) : (x.advance next).windows = (x.windows.map (fun y => { y with left := y.left - 1 })).filter (fun y => y.left != 0) := rfl
@[simp] theorem Lane.advance_item (x : Lane) (next : Word) : (x.advance next).item = x.item := rfl
@[simp] theorem Lane.advance_killed (x : Lane) (next : Word) : (x.advance next).killed = x.killed := rfl
@[simp] theorem Lane.advance_wait (x : Lane) (next : Word) : (x.advance next).wait = none := rfl
@[simp] theorem Lane.advance_dbg (x : Lane) (next : Word) : (x.advance next).dbg = x.dbg := rfl

/-! #### Sticky flags -/

@[simp] theorem Lane.addFlags_v (x : Lane) (fp : BitVec 5) (dec : BitVec 5) : (x.addFlags fp dec).v = x.v := rfl
@[simp] theorem Lane.addFlags_p (x : Lane) (fp : BitVec 5) (dec : BitVec 5) : (x.addFlags fp dec).p = x.p := rfl
@[simp] theorem Lane.addFlags_pc (x : Lane) (fp : BitVec 5) (dec : BitVec 5) : (x.addFlags fp dec).pc = x.pc := rfl
@[simp] theorem Lane.addFlags_st (x : Lane) (fp : BitVec 5) (dec : BitVec 5) : (x.addFlags fp dec).st = x.st := rfl
@[simp] theorem Lane.addFlags_clause (x : Lane) (fp : BitVec 5) (dec : BitVec 5) : (x.addFlags fp dec).clause = x.clause := rfl
@[simp] theorem Lane.addFlags_trapClause (x : Lane) (fp : BitVec 5) (dec : BitVec 5) : (x.addFlags fp dec).trapClause = x.trapClause := rfl
@[simp] theorem Lane.addFlags_ret (x : Lane) (fp : BitVec 5) (dec : BitVec 5) : (x.addFlags fp dec).ret = x.ret := rfl
@[simp] theorem Lane.addFlags_spilled (x : Lane) (fp : BitVec 5) (dec : BitVec 5) : (x.addFlags fp dec).spilled = x.spilled := rfl
@[simp] theorem Lane.addFlags_teams (x : Lane) (fp : BitVec 5) (dec : BitVec 5) : (x.addFlags fp dec).teams = x.teams := rfl
@[simp] theorem Lane.addFlags_inner (x : Lane) (fp : BitVec 5) (dec : BitVec 5) : (x.addFlags fp dec).inner = x.inner := rfl
@[simp] theorem Lane.addFlags_level (x : Lane) (fp : BitVec 5) (dec : BitVec 5) : (x.addFlags fp dec).level = x.level := rfl
@[simp] theorem Lane.addFlags_subs (x : Lane) (fp : BitVec 5) (dec : BitVec 5) : (x.addFlags fp dec).subs = x.subs := rfl
@[simp] theorem Lane.addFlags_trapen (x : Lane) (fp : BitVec 5) (dec : BitVec 5) : (x.addFlags fp dec).trapen = x.trapen := rfl
@[simp] theorem Lane.addFlags_fpstat (x : Lane) (fp : BitVec 5) (dec : BitVec 5) : (x.addFlags fp dec).fpstat = x.fpstat ||| fp.setWidth 32 := rfl
@[simp] theorem Lane.addFlags_decstat (x : Lane) (fp : BitVec 5) (dec : BitVec 5) : (x.addFlags fp dec).decstat = x.decstat ||| dec.setWidth 32 := rfl
@[simp] theorem Lane.addFlags_rmode (x : Lane) (fp : BitVec 5) (dec : BitVec 5) : (x.addFlags fp dec).rmode = x.rmode := rfl
@[simp] theorem Lane.addFlags_trapcause (x : Lane) (fp : BitVec 5) (dec : BitVec 5) : (x.addFlags fp dec).trapcause = x.trapcause := rfl
@[simp] theorem Lane.addFlags_trappc (x : Lane) (fp : BitVec 5) (dec : BitVec 5) : (x.addFlags fp dec).trappc = x.trappc := rfl
@[simp] theorem Lane.addFlags_trapaddr (x : Lane) (fp : BitVec 5) (dec : BitVec 5) : (x.addFlags fp dec).trapaddr = x.trapaddr := rfl
@[simp] theorem Lane.addFlags_trapret (x : Lane) (fp : BitVec 5) (dec : BitVec 5) : (x.addFlags fp dec).trapret = x.trapret := rfl
@[simp] theorem Lane.addFlags_handler (x : Lane) (fp : BitVec 5) (dec : BitVec 5) : (x.addFlags fp dec).handler = x.handler := rfl
@[simp] theorem Lane.addFlags_windows (x : Lane) (fp : BitVec 5) (dec : BitVec 5) : (x.addFlags fp dec).windows = x.windows := rfl
@[simp] theorem Lane.addFlags_item (x : Lane) (fp : BitVec 5) (dec : BitVec 5) : (x.addFlags fp dec).item = x.item := rfl
@[simp] theorem Lane.addFlags_killed (x : Lane) (fp : BitVec 5) (dec : BitVec 5) : (x.addFlags fp dec).killed = x.killed := rfl
@[simp] theorem Lane.addFlags_wait (x : Lane) (fp : BitVec 5) (dec : BitVec 5) : (x.addFlags fp dec).wait = x.wait := rfl
@[simp] theorem Lane.addFlags_dbg (x : Lane) (fp : BitVec 5) (dec : BitVec 5) : (x.addFlags fp dec).dbg = x.dbg := rfl

/-! #### Return from a trap -/

@[simp] theorem Lane.leaveTrap_v (x : Lane) : (x.leaveTrap).v = x.v := rfl
@[simp] theorem Lane.leaveTrap_p (x : Lane) : (x.leaveTrap).p = x.p := rfl
@[simp] theorem Lane.leaveTrap_pc (x : Lane) : (x.leaveTrap).pc = x.trapret := rfl
@[simp] theorem Lane.leaveTrap_st (x : Lane) : (x.leaveTrap).st = x.st := rfl
@[simp] theorem Lane.leaveTrap_clause (x : Lane) : (x.leaveTrap).clause = x.trapClause := rfl
@[simp] theorem Lane.leaveTrap_trapClause (x : Lane) : (x.leaveTrap).trapClause = none := rfl
@[simp] theorem Lane.leaveTrap_ret (x : Lane) : (x.leaveTrap).ret = x.ret := rfl
@[simp] theorem Lane.leaveTrap_spilled (x : Lane) : (x.leaveTrap).spilled = x.spilled := rfl
@[simp] theorem Lane.leaveTrap_teams (x : Lane) : (x.leaveTrap).teams = x.teams := rfl
@[simp] theorem Lane.leaveTrap_inner (x : Lane) : (x.leaveTrap).inner = x.inner := rfl
@[simp] theorem Lane.leaveTrap_level (x : Lane) : (x.leaveTrap).level = x.level := rfl
@[simp] theorem Lane.leaveTrap_subs (x : Lane) : (x.leaveTrap).subs = x.subs := rfl
@[simp] theorem Lane.leaveTrap_trapen (x : Lane) : (x.leaveTrap).trapen = x.trapen := rfl
@[simp] theorem Lane.leaveTrap_fpstat (x : Lane) : (x.leaveTrap).fpstat = x.fpstat := rfl
@[simp] theorem Lane.leaveTrap_decstat (x : Lane) : (x.leaveTrap).decstat = x.decstat := rfl
@[simp] theorem Lane.leaveTrap_rmode (x : Lane) : (x.leaveTrap).rmode = x.rmode := rfl
@[simp] theorem Lane.leaveTrap_trapcause (x : Lane) : (x.leaveTrap).trapcause = x.trapcause := rfl
@[simp] theorem Lane.leaveTrap_trappc (x : Lane) : (x.leaveTrap).trappc = x.trappc := rfl
@[simp] theorem Lane.leaveTrap_trapaddr (x : Lane) : (x.leaveTrap).trapaddr = x.trapaddr := rfl
@[simp] theorem Lane.leaveTrap_trapret (x : Lane) : (x.leaveTrap).trapret = x.trapret := rfl
@[simp] theorem Lane.leaveTrap_handler (x : Lane) : (x.leaveTrap).handler = false := rfl
@[simp] theorem Lane.leaveTrap_windows (x : Lane) : (x.leaveTrap).windows = x.windows := rfl
@[simp] theorem Lane.leaveTrap_item (x : Lane) : (x.leaveTrap).item = x.item := rfl
@[simp] theorem Lane.leaveTrap_killed (x : Lane) : (x.leaveTrap).killed = x.killed := rfl
@[simp] theorem Lane.leaveTrap_wait (x : Lane) : (x.leaveTrap).wait = none := rfl
@[simp] theorem Lane.leaveTrap_dbg (x : Lane) : (x.leaveTrap).dbg = x.dbg := rfl

/-! #### HBM written -/

@[simp] theorem State.hbmWrite_agenda (s : State) (a : Nat) (bs : List Byte) : (s.hbmWrite a bs).agenda = s.agenda := by unfold State.hbmWrite; split <;> rfl
@[simp] theorem State.hbmWrite_issue (s : State) (a : Nat) (bs : List Byte) : (s.hbmWrite a bs).issue = s.issue := by unfold State.hbmWrite; split <;> rfl
@[simp] theorem State.hbmWrite_free (s : State) (a : Nat) (bs : List Byte) : (s.hbmWrite a bs).free = s.free := by unfold State.hbmWrite; split <;> rfl
@[simp] theorem State.hbmWrite_turn (s : State) (a : Nat) (bs : List Byte) : (s.hbmWrite a bs).turn = s.turn := by unfold State.hbmWrite; split <;> rfl
@[simp] theorem State.hbmWrite_out (s : State) (a : Nat) (bs : List Byte) : (s.hbmWrite a bs).out = s.out := by unfold State.hbmWrite; split <;> rfl
@[simp] theorem State.hbmWrite_time (s : State) (a : Nat) (bs : List Byte) : (s.hbmWrite a bs).time = s.time := by unfold State.hbmWrite; split <;> rfl
@[simp] theorem State.hbmWrite_obs (s : State) (a : Nat) (bs : List Byte) : (s.hbmWrite a bs).obs = s.obs := by unfold State.hbmWrite; split <;> rfl
@[simp] theorem State.hbmWrite_launches (s : State) (a : Nat) (bs : List Byte) : (s.hbmWrite a bs).launches = s.launches := by unfold State.hbmWrite; split <;> rfl
@[simp] theorem State.hbmWrite_dispatch (s : State) (a : Nat) (bs : List Byte) : (s.hbmWrite a bs).dispatch = s.dispatch := by unfold State.hbmWrite; split <;> rfl
@[simp] theorem State.hbmWrite_allocNext (s : State) (a : Nat) (bs : List Byte) : (s.hbmWrite a bs).allocNext = s.allocNext := by unfold State.hbmWrite; split <;> rfl
@[simp] theorem State.hbmWrite_allocWraps (s : State) (a : Nat) (bs : List Byte) : (s.hbmWrite a bs).allocWraps = s.allocWraps := by unfold State.hbmWrite; split <;> rfl
@[simp] theorem State.hbmWrite_nextWid (s : State) (a : Nat) (bs : List Byte) : (s.hbmWrite a bs).nextWid = s.nextWid := by unfold State.hbmWrite; split <;> rfl
@[simp] theorem State.hbmWrite_nextOp (s : State) (a : Nat) (bs : List Byte) : (s.hbmWrite a bs).nextOp = s.nextOp := by unfold State.hbmWrite; split <;> rfl
@[simp] theorem State.hbmWrite_nextRec (s : State) (a : Nat) (bs : List Byte) : (s.hbmWrite a bs).nextRec = s.nextRec := by unfold State.hbmWrite; split <;> rfl
@[simp] theorem State.hbmWrite_nextGen (s : State) (a : Nat) (bs : List Byte) : (s.hbmWrite a bs).nextGen = s.nextGen := by unfold State.hbmWrite; split <;> rfl
@[simp] theorem State.hbmWrite_ctxs (s : State) (a : Nat) (bs : List Byte) : (s.hbmWrite a bs).ctxs = s.ctxs := by unfold State.hbmWrite; split <;> rfl
@[simp] theorem State.hbmWrite_queues (s : State) (a : Nat) (bs : List Byte) : (s.hbmWrite a bs).queues = s.queues := by unfold State.hbmWrite; split <;> rfl
@[simp] theorem State.hbmWrite_slots (s : State) (a : Nat) (bs : List Byte) : (s.hbmWrite a bs).slots = s.slots := by unfold State.hbmWrite; split <;> rfl
@[simp] theorem State.hbmWrite_pkts (s : State) (a : Nat) (bs : List Byte) : (s.hbmWrite a bs).pkts = s.pkts := by unfold State.hbmWrite; split <;> rfl
@[simp] theorem State.hbmWrite_wgs (s : State) (a : Nat) (bs : List Byte) : (s.hbmWrite a bs).wgs = s.wgs := by unfold State.hbmWrite; split <;> rfl
@[simp] theorem State.hbmWrite_ops (s : State) (a : Nat) (bs : List Byte) : (s.hbmWrite a bs).ops = s.ops := by unfold State.hbmWrite; split <;> rfl
@[simp] theorem State.hbmWrite_flows (s : State) (a : Nat) (bs : List Byte) : (s.hbmWrite a bs).flows = s.flows := by unfold State.hbmWrite; split <;> rfl
@[simp] theorem State.hbmWrite_rings (s : State) (a : Nat) (bs : List Byte) : (s.hbmWrite a bs).rings = s.rings := by unfold State.hbmWrite; split <;> rfl
@[simp] theorem State.hbmWrite_kills (s : State) (a : Nat) (bs : List Byte) : (s.hbmWrite a bs).kills = s.kills := by unfold State.hbmWrite; split <;> rfl
@[simp] theorem State.hbmWrite_streams (s : State) (a : Nat) (bs : List Byte) : (s.hbmWrite a bs).streams = s.streams := by unfold State.hbmWrite; split <;> rfl
@[simp] theorem State.hbmWrite_offers (s : State) (a : Nat) (bs : List Byte) : (s.hbmWrite a bs).offers = s.offers := by unfold State.hbmWrite; split <;> rfl
@[simp] theorem State.hbmWrite_fring (s : State) (a : Nat) (bs : List Byte) : (s.hbmWrite a bs).fring = s.fring := by unfold State.hbmWrite; split <;> rfl
@[simp] theorem State.hbmWrite_sring (s : State) (a : Nat) (bs : List Byte) : (s.hbmWrite a bs).sring = s.sring := by unfold State.hbmWrite; split <;> rfl
@[simp] theorem State.hbmWrite_slog (s : State) (a : Nat) (bs : List Byte) : (s.hbmWrite a bs).slog = s.slog := by unfold State.hbmWrite; split <;> rfl
@[simp] theorem State.hbmWrite_pool (s : State) (a : Nat) (bs : List Byte) : (s.hbmWrite a bs).pool = s.pool := by unfold State.hbmWrite; split <;> rfl
@[simp] theorem State.hbmWrite_fab (s : State) (a : Nat) (bs : List Byte) : (s.hbmWrite a bs).fab = s.fab := by unfold State.hbmWrite; split <;> rfl
@[simp] theorem State.hbmWrite_host (s : State) (a : Nat) (bs : List Byte) : (s.hbmWrite a bs).host = s.host := by unfold State.hbmWrite; split <;> rfl
@[simp] theorem State.hbmWrite_boot (s : State) (a : Nat) (bs : List Byte) : (s.hbmWrite a bs).boot = s.boot := by unfold State.hbmWrite; split <;> rfl
@[simp] theorem State.hbmWrite_power (s : State) (a : Nat) (bs : List Byte) : (s.hbmWrite a bs).power = s.power := by unfold State.hbmWrite; split <;> rfl

/-! #### A record written -/

@[simp] theorem State.hbmRecord_agenda (s : State) (a : Nat) (bs : List Byte) : (s.hbmRecord a bs).agenda = s.agenda := by unfold State.hbmRecord; split <;> rfl
@[simp] theorem State.hbmRecord_issue (s : State) (a : Nat) (bs : List Byte) : (s.hbmRecord a bs).issue = s.issue := by unfold State.hbmRecord; split <;> rfl
@[simp] theorem State.hbmRecord_free (s : State) (a : Nat) (bs : List Byte) : (s.hbmRecord a bs).free = s.free := by unfold State.hbmRecord; split <;> rfl
@[simp] theorem State.hbmRecord_turn (s : State) (a : Nat) (bs : List Byte) : (s.hbmRecord a bs).turn = s.turn := by unfold State.hbmRecord; split <;> rfl
@[simp] theorem State.hbmRecord_out (s : State) (a : Nat) (bs : List Byte) : (s.hbmRecord a bs).out = s.out := by unfold State.hbmRecord; split <;> rfl
@[simp] theorem State.hbmRecord_time (s : State) (a : Nat) (bs : List Byte) : (s.hbmRecord a bs).time = s.time := by unfold State.hbmRecord; split <;> rfl
@[simp] theorem State.hbmRecord_launches (s : State) (a : Nat) (bs : List Byte) : (s.hbmRecord a bs).launches = s.launches := by unfold State.hbmRecord; split <;> rfl
@[simp] theorem State.hbmRecord_dispatch (s : State) (a : Nat) (bs : List Byte) : (s.hbmRecord a bs).dispatch = s.dispatch := by unfold State.hbmRecord; split <;> rfl
@[simp] theorem State.hbmRecord_allocNext (s : State) (a : Nat) (bs : List Byte) : (s.hbmRecord a bs).allocNext = s.allocNext := by unfold State.hbmRecord; split <;> rfl
@[simp] theorem State.hbmRecord_allocWraps (s : State) (a : Nat) (bs : List Byte) : (s.hbmRecord a bs).allocWraps = s.allocWraps := by unfold State.hbmRecord; split <;> rfl
@[simp] theorem State.hbmRecord_nextWid (s : State) (a : Nat) (bs : List Byte) : (s.hbmRecord a bs).nextWid = s.nextWid := by unfold State.hbmRecord; split <;> rfl
@[simp] theorem State.hbmRecord_nextOp (s : State) (a : Nat) (bs : List Byte) : (s.hbmRecord a bs).nextOp = s.nextOp := by unfold State.hbmRecord; split <;> rfl
@[simp] theorem State.hbmRecord_nextRec (s : State) (a : Nat) (bs : List Byte) : (s.hbmRecord a bs).nextRec = s.nextRec := by unfold State.hbmRecord; split <;> rfl
@[simp] theorem State.hbmRecord_nextGen (s : State) (a : Nat) (bs : List Byte) : (s.hbmRecord a bs).nextGen = s.nextGen := by unfold State.hbmRecord; split <;> rfl
@[simp] theorem State.hbmRecord_ctxs (s : State) (a : Nat) (bs : List Byte) : (s.hbmRecord a bs).ctxs = s.ctxs := by unfold State.hbmRecord; split <;> rfl
@[simp] theorem State.hbmRecord_queues (s : State) (a : Nat) (bs : List Byte) : (s.hbmRecord a bs).queues = s.queues := by unfold State.hbmRecord; split <;> rfl
@[simp] theorem State.hbmRecord_slots (s : State) (a : Nat) (bs : List Byte) : (s.hbmRecord a bs).slots = s.slots := by unfold State.hbmRecord; split <;> rfl
@[simp] theorem State.hbmRecord_pkts (s : State) (a : Nat) (bs : List Byte) : (s.hbmRecord a bs).pkts = s.pkts := by unfold State.hbmRecord; split <;> rfl
@[simp] theorem State.hbmRecord_wgs (s : State) (a : Nat) (bs : List Byte) : (s.hbmRecord a bs).wgs = s.wgs := by unfold State.hbmRecord; split <;> rfl
@[simp] theorem State.hbmRecord_ops (s : State) (a : Nat) (bs : List Byte) : (s.hbmRecord a bs).ops = s.ops := by unfold State.hbmRecord; split <;> rfl
@[simp] theorem State.hbmRecord_flows (s : State) (a : Nat) (bs : List Byte) : (s.hbmRecord a bs).flows = s.flows := by unfold State.hbmRecord; split <;> rfl
@[simp] theorem State.hbmRecord_rings (s : State) (a : Nat) (bs : List Byte) : (s.hbmRecord a bs).rings = s.rings := by unfold State.hbmRecord; split <;> rfl
@[simp] theorem State.hbmRecord_kills (s : State) (a : Nat) (bs : List Byte) : (s.hbmRecord a bs).kills = s.kills := by unfold State.hbmRecord; split <;> rfl
@[simp] theorem State.hbmRecord_streams (s : State) (a : Nat) (bs : List Byte) : (s.hbmRecord a bs).streams = s.streams := by unfold State.hbmRecord; split <;> rfl
@[simp] theorem State.hbmRecord_offers (s : State) (a : Nat) (bs : List Byte) : (s.hbmRecord a bs).offers = s.offers := by unfold State.hbmRecord; split <;> rfl
@[simp] theorem State.hbmRecord_fring (s : State) (a : Nat) (bs : List Byte) : (s.hbmRecord a bs).fring = s.fring := by unfold State.hbmRecord; split <;> rfl
@[simp] theorem State.hbmRecord_sring (s : State) (a : Nat) (bs : List Byte) : (s.hbmRecord a bs).sring = s.sring := by unfold State.hbmRecord; split <;> rfl
@[simp] theorem State.hbmRecord_slog (s : State) (a : Nat) (bs : List Byte) : (s.hbmRecord a bs).slog = s.slog := by unfold State.hbmRecord; split <;> rfl
@[simp] theorem State.hbmRecord_pool (s : State) (a : Nat) (bs : List Byte) : (s.hbmRecord a bs).pool = s.pool := by unfold State.hbmRecord; split <;> rfl
@[simp] theorem State.hbmRecord_fab (s : State) (a : Nat) (bs : List Byte) : (s.hbmRecord a bs).fab = s.fab := by unfold State.hbmRecord; split <;> rfl
@[simp] theorem State.hbmRecord_host (s : State) (a : Nat) (bs : List Byte) : (s.hbmRecord a bs).host = s.host := by unfold State.hbmRecord; split <;> rfl
@[simp] theorem State.hbmRecord_boot (s : State) (a : Nat) (bs : List Byte) : (s.hbmRecord a bs).boot = s.boot := by unfold State.hbmRecord; split <;> rfl
@[simp] theorem State.hbmRecord_power (s : State) (a : Nat) (bs : List Byte) : (s.hbmRecord a bs).power = s.power := by unfold State.hbmRecord; split <;> rfl

/-! #### An interrupt -/

@[simp] theorem State.msix_agenda (s : State) (v : Nat) : (s.msix v).agenda = s.agenda := by unfold State.msix; split <;> rfl
@[simp] theorem State.msix_issue (s : State) (v : Nat) : (s.msix v).issue = s.issue := by unfold State.msix; split <;> rfl
@[simp] theorem State.msix_hole (s : State) (v : Nat) : (s.msix v).hole = s.hole := by unfold State.msix; split <;> rfl
@[simp] theorem State.msix_free (s : State) (v : Nat) : (s.msix v).free = s.free := by unfold State.msix; split <;> rfl
@[simp] theorem State.msix_turn (s : State) (v : Nat) : (s.msix v).turn = s.turn := by unfold State.msix; split <;> rfl
@[simp] theorem State.msix_mem (s : State) (v : Nat) : (s.msix v).mem = s.mem := by unfold State.msix; split <;> rfl
@[simp] theorem State.msix_time (s : State) (v : Nat) : (s.msix v).time = s.time := by unfold State.msix; split <;> rfl
@[simp] theorem State.msix_obs (s : State) (v : Nat) : (s.msix v).obs = s.obs := by unfold State.msix; split <;> rfl
@[simp] theorem State.msix_launches (s : State) (v : Nat) : (s.msix v).launches = s.launches := by unfold State.msix; split <;> rfl
@[simp] theorem State.msix_dispatch (s : State) (v : Nat) : (s.msix v).dispatch = s.dispatch := by unfold State.msix; split <;> rfl
@[simp] theorem State.msix_allocNext (s : State) (v : Nat) : (s.msix v).allocNext = s.allocNext := by unfold State.msix; split <;> rfl
@[simp] theorem State.msix_allocWraps (s : State) (v : Nat) : (s.msix v).allocWraps = s.allocWraps := by unfold State.msix; split <;> rfl
@[simp] theorem State.msix_nextWid (s : State) (v : Nat) : (s.msix v).nextWid = s.nextWid := by unfold State.msix; split <;> rfl
@[simp] theorem State.msix_nextOp (s : State) (v : Nat) : (s.msix v).nextOp = s.nextOp := by unfold State.msix; split <;> rfl
@[simp] theorem State.msix_nextRec (s : State) (v : Nat) : (s.msix v).nextRec = s.nextRec := by unfold State.msix; split <;> rfl
@[simp] theorem State.msix_nextGen (s : State) (v : Nat) : (s.msix v).nextGen = s.nextGen := by unfold State.msix; split <;> rfl
@[simp] theorem State.msix_ctxs (s : State) (v : Nat) : (s.msix v).ctxs = s.ctxs := by unfold State.msix; split <;> rfl
@[simp] theorem State.msix_queues (s : State) (v : Nat) : (s.msix v).queues = s.queues := by unfold State.msix; split <;> rfl
@[simp] theorem State.msix_slots (s : State) (v : Nat) : (s.msix v).slots = s.slots := by unfold State.msix; split <;> rfl
@[simp] theorem State.msix_pkts (s : State) (v : Nat) : (s.msix v).pkts = s.pkts := by unfold State.msix; split <;> rfl
@[simp] theorem State.msix_wgs (s : State) (v : Nat) : (s.msix v).wgs = s.wgs := by unfold State.msix; split <;> rfl
@[simp] theorem State.msix_ops (s : State) (v : Nat) : (s.msix v).ops = s.ops := by unfold State.msix; split <;> rfl
@[simp] theorem State.msix_flows (s : State) (v : Nat) : (s.msix v).flows = s.flows := by unfold State.msix; split <;> rfl
@[simp] theorem State.msix_rings (s : State) (v : Nat) : (s.msix v).rings = s.rings := by unfold State.msix; split <;> rfl
@[simp] theorem State.msix_kills (s : State) (v : Nat) : (s.msix v).kills = s.kills := by unfold State.msix; split <;> rfl
@[simp] theorem State.msix_streams (s : State) (v : Nat) : (s.msix v).streams = s.streams := by unfold State.msix; split <;> rfl
@[simp] theorem State.msix_offers (s : State) (v : Nat) : (s.msix v).offers = s.offers := by unfold State.msix; split <;> rfl
@[simp] theorem State.msix_winnow (s : State) (v : Nat) : (s.msix v).winnow = s.winnow := by unfold State.msix; split <;> rfl
@[simp] theorem State.msix_fring (s : State) (v : Nat) : (s.msix v).fring = s.fring := by unfold State.msix; split <;> rfl
@[simp] theorem State.msix_sring (s : State) (v : Nat) : (s.msix v).sring = s.sring := by unfold State.msix; split <;> rfl
@[simp] theorem State.msix_slog (s : State) (v : Nat) : (s.msix v).slog = s.slog := by unfold State.msix; split <;> rfl
@[simp] theorem State.msix_pool (s : State) (v : Nat) : (s.msix v).pool = s.pool := by unfold State.msix; split <;> rfl
@[simp] theorem State.msix_fab (s : State) (v : Nat) : (s.msix v).fab = s.fab := by unfold State.msix; split <;> rfl
@[simp] theorem State.msix_boot (s : State) (v : Nat) : (s.msix v).boot = s.boot := by unfold State.msix; split <;> rfl
@[simp] theorem State.msix_power (s : State) (v : Nat) : (s.msix v).power = s.power := by unfold State.msix; split <;> rfl

end Sys2Proof.Machine
end

