-- ==== Sys2Proof/Laws/Ops.lean ====
section
/-!
SUPPORT. What the shared operations of the lane instructions do, each said once: the end of a meaning, the current issue, the
commit of an execution, the frame of R114, the cross-lane shape and the move of a PC.
-/
namespace Sys2Proof.Machine

/-! ### The end of a meaning -/

/-- With no access beyond the part, a meaning ends in the next state. -/
theorem finish_next {s : State} (h : s.hole = none) : finish s = .next s := by unfold finish; rw [h]

/-- A next state has had no access beyond the part. -/
theorem finish_eq_next {s t : State} : finish s = .next t ↔ s.hole = none ∧ s = t := by
  unfold finish
  cases h : s.hole <;> simp

/-- The meaning of a word runs over the current issue. -/
theorem withCx_at {s : State} {cx : Cx} (h : s.cx? = some cx) (f : Cx → State) : withCx s f = finish (f cx) := by
  unfold withCx; rw [h]

/-! ### Committing an execution -/

/-- No lane stops: nothing is posted and no lane parks. -/
@[simp] theorem State.stopLanes_nil (s : State) (wid k : Nat) (pc next : Word) (scal : Bool) :
    s.stopLanes wid k pc next scal [] = s := by
  unfold State.stopLanes
  cases s.warp? wid k <;> simp [State.parkAll]

/-- Where no lane stops, the scalar unit changes nothing in what the lanes do. -/
theorem scalarFault_done {w : Warp} {scal : Bool} {outs : List (Nat × LaneOut)} (hs : stopsOf outs = []) :
    scalarFault w scal outs = outs := by
  unfold scalarFault parkedBy
  rw [hs]
  cases scal <;> rfl

/-- Off the scalar unit each lane does its own part. -/
theorem scalarFault_lanes (w : Warp) (outs : List (Nat × LaneOut)) : scalarFault w false outs = outs := rfl

/-- An execution in which no lane waits and none stops. -/
theorem State.commit_done {s : State} {cx : Cx} {outs : List (Nat × LaneOut)} (scal long : Bool) (run : Nat)
    (hw : waitsOf outs = []) (hs : stopsOf outs = []) :
    s.commit cx scal long run outs = s.mapWarp cx.wid cx.k (fun w => w.commit cx.next long run outs) := by
  unfold State.commit
  simp [hw, hs, scalarFault_done hs]

/-- An execution in which no lane waits: lanes complete or stop, and on the scalar unit one fault stops them all. -/
theorem State.commit_stops {s : State} {cx : Cx} {outs : List (Nat × LaneOut)} (scal long : Bool) (run : Nat)
    (hw : waitsOf outs = []) :
    s.commit cx scal long run outs =
      (s.mapWarp cx.wid cx.k (fun w => w.commit cx.next long run (scalarFault cx.w scal outs))).stopLanes cx.wid cx.k cx.pc
        cx.next scal (stopsOf (scalarFault cx.w scal outs)) := by
  unfold State.commit
  simp [hw]

/-- An execution in which a lane waits: only the waits are marked. -/
theorem State.commit_waits {s : State} {cx : Cx} {outs : List (Nat × LaneOut)} (scal long : Bool) (run : Nat)
    (hw : waitsOf outs ≠ []) : s.commit cx scal long run outs = s.stall cx (waitsOf outs) := by
  unfold State.commit
  cases h : waitsOf outs with
  | nil => exact absurd h hw
  | cons x xs => rfl

/-- A list of writes and skips has no waits. -/
theorem waitsOf_map_nil {ls : List Nat} {f : Nat → LaneOut} (h : ∀ l ∈ ls, ∀ on a, f l ≠ .wait on a) :
    waitsOf (ls.map (fun l => (l, f l))) = [] := by
  unfold waitsOf
  rw [List.filterMap_eq_nil_iff]
  intro o ho
  obtain ⟨l, hl, rfl⟩ := List.mem_map.1 ho
  cases e : f l with
  | wait on a => exact absurd e (h l hl on a)
  | _ => simp

/-- A list of writes and skips has no stops. -/
theorem stopsOf_map_nil {ls : List Nat} {f : Nat → LaneOut} (h : ∀ l ∈ ls, ∀ st, f l ≠ .stop st) :
    stopsOf (ls.map (fun l => (l, f l))) = [] := by
  unfold stopsOf
  rw [List.filterMap_eq_nil_iff]
  intro o ho
  obtain ⟨l, hl, rfl⟩ := List.mem_map.1 ho
  cases e : f l with
  | stop st => exact absurd e (h l hl st)
  | _ => simp

/-! ### The frame of R114 -/

/-- Raising conditions writes or stops. -/
theorem raiseOut_ne_wait (x : Lane) (dec : Bool) (r : AluRes) (ws : List ResWrite) (on : WaitOn) (a : Bool) :
    raiseOut x dec r ws ≠ .wait on a := by
  unfold raiseOut
  dsimp only
  repeat' split
  all_goals simp

/-- A lane of an entry never waits. -/
theorem Entry.lane_ne_wait (e : Entry) (s : State) (cx : Cx) (px : Option Px) (l : Nat) (on : WaitOn) (a : Bool) :
    e.lane s cx px l ≠ .wait on a := by
  unfold Entry.lane
  split
  · simp
  · split
    · simp
    · simp
    · split <;> simp
    · exact raiseOut_ne_wait _ _ _ _ on a

/-- The frame in a lane whose gate passes and that raises nothing: its result is written with its flags. -/
theorem Entry.lane_pass {e : Entry} {s : State} {cx : Cx} {px : Option Px} {l : Nat} {x : Lane} (hx : cx.lane? l = some x)
    (hg : gate x e.guard px = .pass) :
    e.lane s cx px l =
      raiseOut x e.dec (e.eval s cx false px l x) (e.writes l (e.eval s cx false px l x).r) := by
  unfold Entry.lane
  simp [hx, hg]

/-- The scalar unit's lanes never wait. -/
theorem Entry.uniLane_ne_wait (e : Entry) (cx : Cx) (r : AluRes) (l : Nat) (on : WaitOn) (a : Bool) :
    e.uniLane cx r l ≠ .wait on a := by
  unfold Entry.uniLane
  split
  · simp
  · split
    · exact raiseOut_ne_wait _ _ _ _ on a
    · simp

/-- The lanes of the frame, on the scalar unit or not. -/
def Entry.outs (e : Entry) (i : Instr) (s : State) (cx : Cx) : List (Nat × LaneOut) :=
  if (form i).scalarUnit then e.uni s cx (form i).px else cx.lanes.map (fun l => (l, e.lane s cx (form i).px l))

/-- No lane of the frame waits. -/
theorem Entry.outs_waits (e : Entry) (i : Instr) (s : State) (cx : Cx) : waitsOf (e.outs i s cx) = [] := by
  unfold Entry.outs
  split
  · unfold Entry.uni
    split
    · rfl
    · exact waitsOf_map_nil (fun l _ on a => Entry.uniLane_ne_wait e cx _ l on a)
  · exact waitsOf_map_nil (fun l _ on a => Entry.lane_ne_wait e s cx _ l on a)

/-- A lane instruction: the warp takes what its lanes do, and the lanes that stop stop. -/
theorem laneOp_eq {i : Instr} {e : Entry} {s : State} {cx : Cx} (hc : s.cx? = some cx) :
    laneOp i e s = finish ((s.mapWarp cx.wid cx.k (fun w =>
      w.commit cx.next (form i).long (form i).run.toNat (scalarFault cx.w (form i).scalarUnit (e.outs i s cx)))).stopLanes cx.wid
        cx.k cx.pc cx.next (form i).scalarUnit (stopsOf (scalarFault cx.w (form i).scalarUnit (e.outs i s cx)))) := by
  unfold laneOp
  rw [withCx_at hc]
  exact congrArg finish (State.commit_stops _ _ _ (Entry.outs_waits e i s cx))

/-- A lane instruction in which no lane stops. -/
theorem laneOp_done {i : Instr} {e : Entry} {s : State} {cx : Cx} (hc : s.cx? = some cx) (hh : s.hole = none)
    (hs : stopsOf (e.outs i s cx) = []) :
    laneOp i e s = .next (s.mapWarp cx.wid cx.k (fun w =>
      w.commit cx.next (form i).long (form i).run.toNat (e.outs i s cx))) := by
  rw [laneOp_eq hc, scalarFault_done hs, hs, State.stopLanes_nil]
  exact finish_next (by simp [hh])

/-! ### Moves of the PC -/

/-- Moves that all go wait for nothing and stop nothing. -/
theorem moveWaits_go (ls : List Nat) (f : Nat → Word) : moveWaits (ls.map (fun l => (l, Move.go (f l)))) = [] := by
  unfold moveWaits
  rw [List.filterMap_eq_nil_iff]
  intro o ho
  obtain ⟨l, _, rfl⟩ := List.mem_map.1 ho
  rfl

/-- Moves that all go wait for nothing and stop nothing. -/
theorem moveStops_go (ls : List Nat) (f : Nat → Word) : moveStops (ls.map (fun l => (l, Move.go (f l)))) = [] := by
  unfold moveStops
  rw [List.filterMap_eq_nil_iff]
  intro o ho
  obtain ⟨l, _, rfl⟩ := List.mem_map.1 ho
  rfl

/-- Lanes that all move: each acts and then goes to its address. -/
theorem State.move_go {s : State} {cx : Cx} (act : State → Nat → State) (ls : List Nat) (f : Nat → Word) :
    s.move cx act (ls.map (fun l => (l, Move.go (f l)))) =
      ls.foldl (fun s l => (act s l).mapLane cx.wid cx.k l (fun x => x.goto (f l))) s := by
  unfold State.move
  simp only [moveWaits_go, moveStops_go, State.stopLanes_nil, List.foldl_map]
  rfl

end Sys2Proof.Machine
end

