-- ==== Sys2Proof/Laws/PerInstr.lean ====
section
/-!
SUPPORT. Facts about instructions as syntax, one lemma for each constructor. Encoding: an instruction is no word of memory (a step
of another agent), or one word after an optional PX word (R92, R103).
-/
namespace Sys2Proof.Laws.Encoding

/-- The words of an instruction: none, or one word with its PX word if it has one. -/
def Statement (i : Instr) : Prop := encode i = [] ∨ ∃ px w, encode i = withPx px w

theorem clauseHeader (w : FmtH) : Statement (.clauseHeader w) := .inr ⟨none, _, rfl⟩
theorem nop (w : FmtN) : Statement (.nop w) := .inr ⟨_, _, rfl⟩
theorem iadd (w : FmtA) : Statement (.iadd w) := .inr ⟨_, _, rfl⟩
theorem isub (w : FmtA) : Statement (.isub w) := .inr ⟨_, _, rfl⟩
theorem imul (w : FmtA) : Statement (.imul w) := .inr ⟨_, _, rfl⟩
theorem imulh (w : FmtA) : Statement (.imulh w) := .inr ⟨_, _, rfl⟩
theorem imad (w : FmtA) : Statement (.imad w) := .inr ⟨_, _, rfl⟩
theorem imin (w : FmtA) : Statement (.imin w) := .inr ⟨_, _, rfl⟩
theorem imax (w : FmtA) : Statement (.imax w) := .inr ⟨_, _, rfl⟩
theorem iabs (w : FmtA) : Statement (.iabs w) := .inr ⟨_, _, rfl⟩
theorem ineg (w : FmtA) : Statement (.ineg w) := .inr ⟨_, _, rfl⟩
theorem idiff (w : FmtA) : Statement (.idiff w) := .inr ⟨_, _, rfl⟩
theorem icmp (w : FmtA) : Statement (.icmp w) := .inr ⟨_, _, rfl⟩
theorem sel (w : FmtA) : Statement (.sel w) := .inr ⟨_, _, rfl⟩
theorem icvt (w : FmtA) : Statement (.icvt w) := .inr ⟨_, _, rfl⟩
theorem idiv (w : FmtA) : Statement (.idiv w) := .inr ⟨_, _, rfl⟩
theorem irem (w : FmtA) : Statement (.irem w) := .inr ⟨_, _, rfl⟩
theorem iaddImm (w : FmtI) : Statement (.iaddImm w) := .inr ⟨_, _, rfl⟩
theorem imulImm (w : FmtI) : Statement (.imulImm w) := .inr ⟨_, _, rfl⟩
theorem iminImm (w : FmtI) : Statement (.iminImm w) := .inr ⟨_, _, rfl⟩
theorem imaxImm (w : FmtI) : Statement (.imaxImm w) := .inr ⟨_, _, rfl⟩
theorem icmpImm (w : FmtI) : Statement (.icmpImm w) := .inr ⟨_, _, rfl⟩
theorem andImm (w : FmtI) : Statement (.andImm w) := .inr ⟨_, _, rfl⟩
theorem orImm (w : FmtI) : Statement (.orImm w) := .inr ⟨_, _, rfl⟩
theorem xorImm (w : FmtI) : Statement (.xorImm w) := .inr ⟨_, _, rfl⟩
theorem shlImm (w : FmtI) : Statement (.shlImm w) := .inr ⟨_, _, rfl⟩
theorem shrImm (w : FmtI) : Statement (.shrImm w) := .inr ⟨_, _, rfl⟩
theorem sarImm (w : FmtI) : Statement (.sarImm w) := .inr ⟨_, _, rfl⟩
theorem movi (w : FmtI) : Statement (.movi w) := .inr ⟨_, _, rfl⟩
theorem and (w : FmtA) : Statement (.and w) := .inr ⟨_, _, rfl⟩
theorem or (w : FmtA) : Statement (.or w) := .inr ⟨_, _, rfl⟩
theorem xor (w : FmtA) : Statement (.xor w) := .inr ⟨_, _, rfl⟩
theorem andn (w : FmtA) : Statement (.andn w) := .inr ⟨_, _, rfl⟩
theorem orn (w : FmtA) : Statement (.orn w) := .inr ⟨_, _, rfl⟩
theorem not (w : FmtA) : Statement (.not w) := .inr ⟨_, _, rfl⟩
theorem lop3 (w : FmtA) : Statement (.lop3 w) := .inr ⟨_, _, rfl⟩
theorem shl (w : FmtA) : Statement (.shl w) := .inr ⟨_, _, rfl⟩
theorem shr (w : FmtA) : Statement (.shr w) := .inr ⟨_, _, rfl⟩
theorem sar (w : FmtA) : Statement (.sar w) := .inr ⟨_, _, rfl⟩
theorem rol (w : FmtA) : Statement (.rol w) := .inr ⟨_, _, rfl⟩
theorem ror (w : FmtA) : Statement (.ror w) := .inr ⟨_, _, rfl⟩
theorem fshl (w : FmtA) : Statement (.fshl w) := .inr ⟨_, _, rfl⟩
theorem fshr (w : FmtA) : Statement (.fshr w) := .inr ⟨_, _, rfl⟩
theorem popc (w : FmtA) : Statement (.popc w) := .inr ⟨_, _, rfl⟩
theorem clz (w : FmtA) : Statement (.clz w) := .inr ⟨_, _, rfl⟩
theorem ctz (w : FmtA) : Statement (.ctz w) := .inr ⟨_, _, rfl⟩
theorem fns (w : FmtA) : Statement (.fns w) := .inr ⟨_, _, rfl⟩
theorem brev (w : FmtA) : Statement (.brev w) := .inr ⟨_, _, rfl⟩
theorem bfx (w : FmtA) : Statement (.bfx w) := .inr ⟨_, _, rfl⟩
theorem bfxs (w : FmtA) : Statement (.bfxs w) := .inr ⟨_, _, rfl⟩
theorem bfi (w : FmtA) : Statement (.bfi w) := .inr ⟨_, _, rfl⟩
theorem pdep (w : FmtA) : Statement (.pdep w) := .inr ⟨_, _, rfl⟩
theorem pext (w : FmtA) : Statement (.pext w) := .inr ⟨_, _, rfl⟩
theorem bperm (w : FmtA) : Statement (.bperm w) := .inr ⟨_, _, rfl⟩
theorem gf2mm (w : FmtA) : Statement (.gf2mm w) := .inr ⟨_, _, rfl⟩
theorem prmb (w : FmtA) : Statement (.prmb w) := .inr ⟨_, _, rfl⟩
theorem mix64 (w : FmtA) : Statement (.mix64 w) := .inr ⟨_, _, rfl⟩
theorem mov (w : FmtA) : Statement (.mov w) := .inr ⟨_, _, rfl⟩
theorem rdlane (w : FmtA) : Statement (.rdlane w) := .inr ⟨_, _, rfl⟩
theorem wrlane (w : FmtA) : Statement (.wrlane w) := .inr ⟨_, _, rfl⟩
theorem pand (w : FmtA) : Statement (.pand w) := .inr ⟨_, _, rfl⟩
theorem por (w : FmtA) : Statement (.por w) := .inr ⟨_, _, rfl⟩
theorem pxor (w : FmtA) : Statement (.pxor w) := .inr ⟨_, _, rfl⟩
theorem pnot (w : FmtA) : Statement (.pnot w) := .inr ⟨_, _, rfl⟩
theorem pmov (w : FmtA) : Statement (.pmov w) := .inr ⟨_, _, rfl⟩
theorem fadd (w : FmtA) : Statement (.fadd w) := .inr ⟨_, _, rfl⟩
theorem fsub (w : FmtA) : Statement (.fsub w) := .inr ⟨_, _, rfl⟩
theorem fmul (w : FmtA) : Statement (.fmul w) := .inr ⟨_, _, rfl⟩
theorem ffma (w : FmtA) : Statement (.ffma w) := .inr ⟨_, _, rfl⟩
theorem fmin (w : FmtA) : Statement (.fmin w) := .inr ⟨_, _, rfl⟩
theorem fmax (w : FmtA) : Statement (.fmax w) := .inr ⟨_, _, rfl⟩
theorem fcmp (w : FmtA) : Statement (.fcmp w) := .inr ⟨_, _, rfl⟩
theorem fclass (w : FmtA) : Statement (.fclass w) := .inr ⟨_, _, rfl⟩
theorem fcvt (w : FmtA) : Statement (.fcvt w) := .inr ⟨_, _, rfl⟩
theorem frnd (w : FmtA) : Statement (.frnd w) := .inr ⟨_, _, rfl⟩
theorem ftoi (w : FmtA) : Statement (.ftoi w) := .inr ⟨_, _, rfl⟩
theorem itof (w : FmtA) : Statement (.itof w) := .inr ⟨_, _, rfl⟩
theorem fscl (w : FmtA) : Statement (.fscl w) := .inr ⟨_, _, rfl⟩
theorem fdiv (w : FmtA) : Statement (.fdiv w) := .inr ⟨_, _, rfl⟩
theorem fsqrt (w : FmtA) : Statement (.fsqrt w) := .inr ⟨_, _, rfl⟩
theorem frcp (w : FmtA) : Statement (.frcp w) := .inr ⟨_, _, rfl⟩
theorem frsq (w : FmtA) : Statement (.frsq w) := .inr ⟨_, _, rfl⟩
theorem fex2 (w : FmtA) : Statement (.fex2 w) := .inr ⟨_, _, rfl⟩
theorem flg2 (w : FmtA) : Statement (.flg2 w) := .inr ⟨_, _, rfl⟩
theorem fsin (w : FmtA) : Statement (.fsin w) := .inr ⟨_, _, rfl⟩
theorem fcos (w : FmtA) : Statement (.fcos w) := .inr ⟨_, _, rfl⟩
theorem ftanh (w : FmtA) : Statement (.ftanh w) := .inr ⟨_, _, rfl⟩
theorem xadd (w : FmtA) : Statement (.xadd w) := .inr ⟨_, _, rfl⟩
theorem xsub (w : FmtA) : Statement (.xsub w) := .inr ⟨_, _, rfl⟩
theorem xmul (w : FmtA) : Statement (.xmul w) := .inr ⟨_, _, rfl⟩
theorem xfma (w : FmtA) : Statement (.xfma w) := .inr ⟨_, _, rfl⟩
theorem xdiv (w : FmtA) : Statement (.xdiv w) := .inr ⟨_, _, rfl⟩
theorem xquant (w : FmtA) : Statement (.xquant w) := .inr ⟨_, _, rfl⟩
theorem xcmp (w : FmtA) : Statement (.xcmp w) := .inr ⟨_, _, rfl⟩
theorem xcvt (w : FmtA) : Statement (.xcvt w) := .inr ⟨_, _, rfl⟩
theorem xrnd (w : FmtA) : Statement (.xrnd w) := .inr ⟨_, _, rfl⟩
theorem xscaleb (w : FmtA) : Statement (.xscaleb w) := .inr ⟨_, _, rfl⟩
theorem shfl (w : FmtA) : Statement (.shfl w) := .inr ⟨_, _, rfl⟩
theorem pushl (w : FmtA) : Statement (.pushl w) := .inr ⟨_, _, rfl⟩
theorem vote (w : FmtA) : Statement (.vote w) := .inr ⟨_, _, rfl⟩
theorem red (w : FmtA) : Statement (.red w) := .inr ⟨_, _, rfl⟩
theorem scan (w : FmtA) : Statement (.scan w) := .inr ⟨_, _, rfl⟩
theorem matchLanes (w : FmtA) : Statement (.matchLanes w) := .inr ⟨_, _, rfl⟩
theorem br (w : FmtB) : Statement (.br w) := .inr ⟨_, _, rfl⟩
theorem bru (w : FmtB) : Statement (.bru w) := .inr ⟨_, _, rfl⟩
theorem call (w : FmtB) : Statement (.call w) := .inr ⟨_, _, rfl⟩
theorem jmpi (w : FmtA) : Statement (.jmpi w) := .inr ⟨_, _, rfl⟩
theorem calli (w : FmtA) : Statement (.calli w) := .inr ⟨_, _, rfl⟩
theorem ret (w : FmtA) : Statement (.ret w) := .inr ⟨_, _, rfl⟩
theorem tcall (w : FmtA) : Statement (.tcall w) := .inr ⟨_, _, rfl⟩
theorem tret (w : FmtA) : Statement (.tret w) := .inr ⟨_, _, rfl⟩
theorem exit (w : FmtA) : Statement (.exit w) := .inr ⟨_, _, rfl⟩
theorem bar (w : FmtA) : Statement (.bar w) := .inr ⟨_, _, rfl⟩
theorem barArrive (w : FmtA) : Statement (.barArrive w) := .inr ⟨_, _, rfl⟩
theorem tbar (w : FmtA) : Statement (.tbar w) := .inr ⟨_, _, rfl⟩
theorem yield (w : FmtA) : Statement (.yield w) := .inr ⟨_, _, rfl⟩
theorem sleep (w : FmtA) : Statement (.sleep w) := .inr ⟨_, _, rfl⟩
theorem relabel (w : FmtA) : Statement (.relabel w) := .inr ⟨_, _, rfl⟩
theorem ordrel (w : FmtA) : Statement (.ordrel w) := .inr ⟨_, _, rfl⟩
theorem ordskip (w : FmtA) : Statement (.ordskip w) := .inr ⟨_, _, rfl⟩
theorem hold (w : FmtA) : Statement (.hold w) := .inr ⟨_, _, rfl⟩
theorem flowkill (w : FmtA) : Statement (.flowkill w) := .inr ⟨_, _, rfl⟩
theorem enq (w : FmtA) : Statement (.enq w) := .inr ⟨_, _, rfl⟩
theorem ld (w : FmtM) : Statement (.ld w) := .inr ⟨_, _, rfl⟩
theorem st (w : FmtM) : Statement (.st w) := .inr ⟨_, _, rfl⟩
theorem ldc (w : FmtM) : Statement (.ldc w) := .inr ⟨_, _, rfl⟩
theorem pref (w : FmtM) : Statement (.pref w) := .inr ⟨_, _, rfl⟩
theorem cctlInv1 (w : FmtM) : Statement (.cctlInv1 w) := .inr ⟨_, _, rfl⟩
theorem cctlInv1all (w : FmtM) : Statement (.cctlInv1all w) := .inr ⟨_, _, rfl⟩
theorem cctlClean2 (w : FmtM) : Statement (.cctlClean2 w) := .inr ⟨_, _, rfl⟩
theorem cctlFlush2 (w : FmtM) : Statement (.cctlFlush2 w) := .inr ⟨_, _, rfl⟩
theorem twait (w : FmtM) : Statement (.twait w) := .inr ⟨_, _, rfl⟩
theorem tset (w : FmtM) : Statement (.tset w) := .inr ⟨_, _, rfl⟩
theorem tclr (w : FmtM) : Statement (.tclr w) := .inr ⟨_, _, rfl⟩
theorem ttest (w : FmtM) : Statement (.ttest w) := .inr ⟨_, _, rfl⟩
theorem atom (w : FmtM) : Statement (.atom w) := .inr ⟨_, _, rfl⟩
theorem cas (w : FmtM) : Statement (.cas w) := .inr ⟨_, _, rfl⟩
theorem fence (w : FmtM) : Statement (.fence w) := .inr ⟨_, _, rfl⟩
theorem copyLocal (w : FmtE) : Statement (.copyLocal w) := .inr ⟨_, _, rfl⟩
theorem copyRemote (w : FmtE) : Statement (.copyRemote w) := .inr ⟨_, _, rfl⟩
theorem copyMulticast (w : FmtE) : Statement (.copyMulticast w) := .inr ⟨_, _, rfl⟩
theorem copyDrain (w : FmtE) : Statement (.copyDrain w) := .inr ⟨_, _, rfl⟩
theorem tcopy (w : FmtE) : Statement (.tcopy w) := .inr ⟨_, _, rfl⟩
theorem wnst (w : FmtE) : Statement (.wnst w) := .inr ⟨_, _, rfl⟩
theorem ringwait (w : FmtE) : Statement (.ringwait w) := .inr ⟨_, _, rfl⟩
theorem mloop (w : FmtE) : Statement (.mloop w) := .inr ⟨_, _, rfl⟩
theorem mchainB (w : FmtE) : Statement (.mchainB w) := .inr ⟨_, _, rfl⟩
theorem mchainE (w : FmtE) : Statement (.mchainE w) := .inr ⟨_, _, rfl⟩
theorem mzero (w : FmtE) : Statement (.mzero w) := .inr ⟨_, _, rfl⟩
theorem acrd (w : FmtE) : Statement (.acrd w) := .inr ⟨_, _, rfl⟩
theorem acwr (w : FmtE) : Statement (.acwr w) := .inr ⟨_, _, rfl⟩
theorem acst (w : FmtE) : Statement (.acst w) := .inr ⟨_, _, rfl⟩
theorem acld (w : FmtE) : Statement (.acld w) := .inr ⟨_, _, rfl⟩
theorem wait (w : FmtE) : Statement (.wait w) := .inr ⟨_, _, rfl⟩
theorem htest (w : FmtE) : Statement (.htest w) := .inr ⟨_, _, rfl⟩
theorem hcancel (w : FmtE) : Statement (.hcancel w) := .inr ⟨_, _, rfl⟩
theorem hmovExport (w : FmtE) : Statement (.hmovExport w) := .inr ⟨_, _, rfl⟩
theorem hmovImport (w : FmtE) : Statement (.hmovImport w) := .inr ⟨_, _, rfl⟩
theorem ownpass (w : FmtE) : Statement (.ownpass w) := .inr ⟨_, _, rfl⟩
theorem owntake (w : FmtE) : Statement (.owntake w) := .inr ⟨_, _, rfl⟩
theorem evwait (w : FmtA) : Statement (.evwait w) := .inr ⟨_, _, rfl⟩
theorem evsig (w : FmtA) : Statement (.evsig w) := .inr ⟨_, _, rfl⟩
theorem sigadd (w : FmtA) : Statement (.sigadd w) := .inr ⟨_, _, rfl⟩
theorem sigwait (w : FmtA) : Statement (.sigwait w) := .inr ⟨_, _, rfl⟩
theorem time (w : FmtA) : Statement (.time w) := .inr ⟨_, _, rfl⟩
theorem trap (w : FmtA) : Statement (.trap w) := .inr ⟨_, _, rfl⟩
theorem bkpt (w : FmtA) : Statement (.bkpt w) := .inr ⟨_, _, rfl⟩
theorem rtt (w : FmtA) : Statement (.rtt w) := .inr ⟨_, _, rfl⟩
theorem csrr (w : FmtA) : Statement (.csrr w) := .inr ⟨_, _, rfl⟩
theorem csrw (w : FmtA) : Statement (.csrw w) := .inr ⟨_, _, rfl⟩
theorem launch (ctx q : Nat) : Statement (.launch ctx q) := .inl rfl
theorem flowlaunch (ctx q : Nat) : Statement (.flowlaunch ctx q) := .inl rfl
theorem barrierAnd (ctx q : Nat) : Statement (.barrierAnd ctx q) := .inl rfl
theorem barrierOr (ctx q : Nat) : Statement (.barrierOr ctx q) := .inl rfl
theorem copyPacket (ctx q : Nat) : Statement (.copyPacket ctx q) := .inl rfl
theorem tickcfg (ctx q : Nat) : Statement (.tickcfg ctx q) := .inl rfl
theorem tickcfgStop (ctx q : Nat) : Statement (.tickcfgStop ctx q) := .inl rfl
theorem packetStart (ctx q n : Nat) : Statement (.packetStart ctx q n) := .inl rfl
theorem packetComplete (ctx q n : Nat) : Statement (.packetComplete ctx q n) := .inl rfl
theorem barrierEvaluate (ctx q n : Nat) : Statement (.barrierEvaluate ctx q n) := .inl rfl
theorem queueExamine (ctx q : Nat) : Statement (.queueExamine ctx q) := .inl rfl
theorem queueSlotMap (ctx q : Nat) : Statement (.queueSlotMap ctx q) := .inl rfl
theorem timeSliceEnd (slot : Nat) : Statement (.timeSliceEnd slot) := .inl rfl
theorem placeWorkgroup (wid : Nat) : Statement (.placeWorkgroup wid) := .inl rfl
theorem preempt (wid : Nat) : Statement (.preempt wid) := .inl rfl
theorem flowEntryTake (ctx q n : Nat) : Statement (.flowEntryTake ctx q n) := .inl rfl
theorem packingDelayExpiry (ctx q n : Nat) : Statement (.packingDelayExpiry ctx q n) := .inl rfl
theorem sleepExpiry (core slot : Nat) : Statement (.sleepExpiry core slot) := .inl rfl
theorem signalPoll (core slot : Nat) : Statement (.signalPoll core slot) := .inl rfl
theorem eventPoll (core slot : Nat) : Statement (.eventPoll core slot) := .inl rfl
theorem engineQueueStart (op : Nat) : Statement (.engineQueueStart op) := .inl rfl
theorem engineOperationComplete (op : Nat) : Statement (.engineOperationComplete op) := .inl rfl
theorem arrivalAdmit (a : Arrival) : Statement (.arrivalAdmit a) := .inl rfl
theorem remoteArrivalBeat (b : Beat) : Statement (.remoteArrivalBeat b) := .inl rfl
theorem tagWaitTimeout (w : TagWaiter) : Statement (.tagWaitTimeout w) := .inl rfl
theorem kstep (op j : Nat) : Statement (.kstep op j) := .inl rfl
theorem matrixCommandPerform (core : Nat) : Statement (.matrixCommandPerform core) := .inl rfl
theorem winnowShortlist (op : Nat) : Statement (.winnowShortlist op) := .inl rfl
theorem remoteRequest (r : PeerRequest) : Statement (.remoteRequest r) := .inl rfl
theorem remoteStoreLine (l : PeerLine) : Statement (.remoteStoreLine l) := .inl rfl
theorem remoteResponse (r : PeerResponse) : Statement (.remoteResponse r) := .inl rfl
theorem wcAgeing (core line : Nat) : Statement (.wcAgeing core line) := .inl rfl
theorem flitReceive (f : Flit) : Statement (.flitReceive f) := .inl rfl
theorem replayRequest (peer plane seq : Nat) : Statement (.replayRequest peer plane seq) := .inl rfl
theorem channelSilence (peer plane : Nat) : Statement (.channelSilence peer plane) := .inl rfl
theorem healthWindow (peer plane : Nat) : Statement (.healthWindow peer plane) := .inl rfl
theorem healthReport (r : HealthReport) : Statement (.healthReport r) := .inl rfl
theorem linkUp (l : LinkFrame) : Statement (.linkUp l) := .inl rfl
theorem ingestFrame (port : Nat) (payload : List Byte) : Statement (.ingestFrame port payload) := .inl rfl
theorem tickDue (ctx stream : Nat) : Statement (.tickDue ctx stream) := .inl rfl
theorem tickGraceExpiry (ctx stream : Nat) : Statement (.tickGraceExpiry ctx stream) := .inl rfl
theorem ptpSync (y : PtpSync) : Statement (.ptpSync y) := .inl rfl
theorem samplerSample (core : Nat) : Statement (.samplerSample core) := .inl rfl
theorem ringConsumedPoll (r : RingName) : Statement (.ringConsumedPoll r) := .inl rfl
theorem uncorrectableError (e : SoftError) : Statement (.uncorrectableError e) := .inl rfl
theorem powerMeasure (m : Measurement) : Statement (.powerMeasure m) := .inl rfl
theorem thermalTrip (die milli : Nat) : Statement (.thermalTrip die milli) := .inl rfl
theorem powerOn (rail : Rail) : Statement (.powerOn rail) := .inl rfl
theorem imageFetchComplete (r : SourceResult) : Statement (.imageFetchComplete r) := .inl rfl
theorem configRequest (r : ConfigRequest) : Statement (.configRequest r) := .inl rfl
theorem hostBar2Access (r : Bar2Access) : Statement (.hostBar2Access r) := .inl rfl
theorem doorbell (value : Word) : Statement (.doorbell value) := .inl rfl
theorem registerWrite (offset : Nat) (data : List Byte) : Statement (.registerWrite offset data) := .inl rfl
theorem longLatencyResult (core slot id : Nat) : Statement (.longLatencyResult core slot id) := .inl rfl
theorem copyUnit (op unit : Nat) : Statement (.copyUnit op unit) := .inl rfl
theorem junctionTemperature (r : Junction) : Statement (.junctionTemperature r) := .inl rfl
theorem unassignedEncoding (word : Word) : Statement (.unassignedEncoding word) := .inr ⟨none, _, rfl⟩
theorem unassignedPacketType (ctx q : Nat) : Statement (.unassignedPacketType ctx q) := .inl rfl
theorem darkLimitExpiry : Statement (.darkLimitExpiry) := .inl rfl
theorem tbHoldover : Statement (.tbHoldover) := .inl rfl
theorem gleanerSweep : Statement (.gleanerSweep) := .inl rfl
theorem glctlOnce : Statement (.glctlOnce) := .inl rfl
theorem coolantFlowLow : Statement (.coolantFlowLow) := .inl rfl
theorem idleEntry : Statement (.idleEntry) := .inl rfl
theorem resetRelease : Statement (.resetRelease) := .inl rfl
theorem bootSourceRetry : Statement (.bootSourceRetry) := .inl rfl
theorem telemetrySend : Statement (.telemetrySend) := .inl rfl
theorem coreClockCycle : Statement (.coreClockCycle) := .inl rfl
theorem attach : Statement (.attach) := .inl rfl
theorem detach : Statement (.detach) := .inl rfl
theorem ctxcreate : Statement (.ctxcreate) := .inl rfl
theorem ctxdestroy : Statement (.ctxdestroy) := .inl rfl
theorem faultring : Statement (.faultring) := .inl rfl
theorem servring : Statement (.servring) := .inl rfl
theorem storelog : Statement (.storelog) := .inl rfl
theorem savepool : Statement (.savepool) := .inl rfl
theorem podform : Statement (.podform) := .inl rfl
theorem exportCtx : Statement (.exportCtx) := .inl rfl
theorem bar2base : Statement (.bar2base) := .inl rfl
theorem hostatomic : Statement (.hostatomic) := .inl rfl
theorem fabparam : Statement (.fabparam) := .inl rfl
theorem streamparam : Statement (.streamparam) := .inl rfl
theorem powercap : Statement (.powercap) := .inl rfl
theorem powerstate : Statement (.powerstate) := .inl rfl
theorem telemetry : Statement (.telemetry) := .inl rfl
theorem rollback : Statement (.rollback) := .inl rfl
theorem journalclr : Statement (.journalclr) := .inl rfl
theorem imgpiece : Statement (.imgpiece) := .inl rfl
theorem imgdone : Statement (.imgdone) := .inl rfl
theorem ctxcsr : Statement (.ctxcsr) := .inl rfl
theorem devcsr : Statement (.devcsr) := .inl rfl
theorem resume : Statement (.resume) := .inl rfl
theorem redirect : Statement (.redirect) := .inl rfl
theorem kill : Statement (.kill) := .inl rfl
theorem read : Statement (.read) := .inl rfl
theorem write : Statement (.write) := .inl rfl
theorem halt : Statement (.halt) := .inl rfl
theorem step : Statement (.step) := .inl rfl
theorem resumeDbg : Statement (.resumeDbg) := .inl rfl
theorem trace : Statement (.trace) := .inl rfl
theorem breakpoint : Statement (.breakpoint) := .inl rfl
theorem inval : Statement (.inval) := .inl rfl
theorem sethwm : Statement (.sethwm) := .inl rfl
theorem resumepage : Statement (.resumepage) := .inl rfl
theorem engresume : Statement (.engresume) := .inl rfl
theorem engend : Statement (.engend) := .inl rfl
theorem endlaunch : Statement (.endlaunch) := .inl rfl
theorem ctxsave : Statement (.ctxsave) := .inl rfl
theorem ctxrestore : Statement (.ctxrestore) := .inl rfl
theorem chretire : Statement (.chretire) := .inl rfl
theorem chrestore : Statement (.chrestore) := .inl rfl
theorem slreplay : Statement (.slreplay) := .inl rfl
theorem sldiscard : Statement (.sldiscard) := .inl rfl
theorem podhold : Statement (.podhold) := .inl rfl
theorem podset : Statement (.podset) := .inl rfl
theorem flowstate : Statement (.flowstate) := .inl rfl
theorem unassignedMessageOp : Statement (.unassignedMessageOp) := .inl rfl

/-- A word instruction is one word, or a PX word and a word. -/
theorem words (i : Instr) (hs : Statement i) (hw : i.isWord = true) :
    (∃ w, encode i = [w]) ∨ ∃ p w, encode i = [Px.toWord p, w] := by
  rcases hs with h | ⟨px, w, h⟩
  · simp [Instr.isWord, h] at hw
  · cases px with
    | none => exact .inl ⟨w, h⟩
    | some p => exact .inr ⟨p, w, h⟩

end Sys2Proof.Laws.Encoding
end

