-- ==== Sys2Proof/Tests/Slice0.lean ====
section
/-!
SUPPORT. Tests: what WellFormed refuses, a word of every instruction decoded, results of single steps worked out by hand from
spec/, and for every statement that has hypotheses a state and operands that meet them (the witnesses).
-/
set_option linter.unusedVariables false
set_option Elab.async false
namespace Sys2Proof.Tests
open Sys2Proof.Machine

/-! ### Small machines -/

/-- Context 0: privileged, its page table maps the first GiB onto itself, two queues, completion rings of 64 records. -/
def ctx0 : Context := { placeCtx with qtab := 0x200000, qcount := 2, cring := 0x300000, crlen := 64, tslice := 500, privhwm := 0x10000 }

/-- A kernel of warps of 4 lanes with 16 lane registers and 16 scalar registers. -/
def kernel0 : Kernel := { placeKernel with lanes := 4, regs := 16, scalars := 16, scratch := 4096, trapv := 0x20000 }

/-- A launch of that kernel. -/
def launch0 : Launch := { placeLaunch with kernel := kernel0 }

/-- A warp whose lane l holds `v l` in its first registers and whose scalar registers hold `s`. -/
def warp0 (v : Nat → List Nat := fun _ => []) (s : List Nat := []) : Warp :=
  let w := Warp.start kernel0 0 (gridItems launch0 0 0)
  { w with lanes := (w.lanes.zipIdx).map (fun x =>
             { x.1 with v := ((v x.2).map (fun n => ({ val := BitVec.ofNat 32 n } : Reg 32))) ++ x.1.v.drop (v x.2).length }),
           s := s.map (fun n => ({ val := BitVec.ofNat 64 n } : Reg 64)) ++ w.s.drop s.length }

/-- Every lane of a warp changed. -/
def onLanes (f : Lane → Lane) (w : Warp) : Warp := { w with lanes := w.lanes.map f }

/-- Its workgroup, resident on core 0, with 16 tiles and 16 accumulator rows. -/
def wg0 (w : Warp) : Wg :=
  { Wg.start 0 { ctx := 0, q := 0, num := 0 } launch0 0 0 0 0 (0, 0, 0) true [w] with
    st := .resident, allocId := 1, acc := List.replicate 16 (List.replicate 256 0) }

/-- A machine with that workgroup, whose lanes `ls` execute a word at 0x10000. -/
def mach (w : Warp := warp0) (ls : List Nat := [0, 1, 2, 3]) (f : Wg → Wg := id) (c : Context := ctx0) : State :=
  { State.reset with
    issue := some { wid := 0, warp := 0, lanes := ls, pc := 0x10000, wpc := 0x10000, word := 0 },
    mem := { MemState.reset with hbm := Memory.write (Memory.write [] 0x1000 (leBytes 8 0x2001)) 0x2000 (leBytes 8 0x8F) },
    ctxs := [c], wgs := [f (wg0 w)] }

/-- What executes there. -/
def cx0 (w : Warp := warp0) (ls : List Nat := [0, 1, 2, 3]) (f : Wg → Wg := id) (c : Context := ctx0) : Cx :=
  { wid := 0, k := 0, g := f (wg0 w), w := w, ctx := c, lanes := ls, pc := 0x10000, wpc := 0x10000, word := 0 }

theorem at0 (w : Warp) (ls : List Nat) : Claims.At (mach w ls) (cx0 w ls) := ⟨rfl, rfl⟩

/-- The next state of an instruction, and something read from it. -/
def see {α : Type} (i : Instr) (s : State) (f : State → Option α) : Option α :=
  match exec i s with
  | .next t => f t
  | _ => none

/-- Lane register k of lane l, a pair as 64 bits, a predicate, a scalar register. -/
def vreg (l k : Nat) (s : State) : Option Nat := (s.lane? 0 0 l).bind (fun x => (x.v[k]?).map (fun r => r.val.toNat))
def vpair (l k : Nat) (s : State) : Option Nat := (vreg l k s).bind (fun a => (vreg l (k + 1) s).map (fun b => a + 2 ^ 32 * b))
def preg (l k : Nat) (s : State) : Option Nat := (s.lane? 0 0 l).bind (fun x => (x.p[k]?).map (fun r => r.val.toNat))
def sreg (k : Nat) (s : State) : Option Nat := (s.warp? 0 0).bind (fun w => (w.s[k]?).map (fun r => r.val.toNat))

/-- An A-format word. -/
def fa (d a b c ty : Nat) (mod : Nat := 0) : FmtA :=
  { d := BitVec.ofNat 9 d, a := BitVec.ofNat 9 a, b := BitVec.ofNat 9 b, c := BitVec.ofNat 9 c, ty := BitVec.ofNat 4 ty,
    mod := BitVec.ofNat 4 mod, run := 0, px := none }

/-- A format-M word of relaxed order. -/
def fm (d a b sz sp disp : Nat) : FmtM :=
  { d := BitVec.ofNat 9 d, a := BitVec.ofNat 9 a, b := BitVec.ofNat 9 b, sz := BitVec.ofNat 3 sz, sp := BitVec.ofNat 2 sp, ord := 0,
    scope := 0, guard := 7, run := 0, disp := BitVec.ofNat 7 disp, px := none }

/-- A format-M word of a member that takes no guard. -/
def fl (d a b sz sp disp : Nat) : FmtM := { fm d a b sz sp disp with guard := 0 }

/-- A format-E word. -/
def fe (h a b c d flags : Nat) : FmtE :=
  { h := BitVec.ofNat 4 h, a := BitVec.ofNat 9 a, b := BitVec.ofNat 9 b, c := BitVec.ofNat 9 c, d := BitVec.ofNat 9 d, run := 0,
    flags := BitVec.ofNat 8 flags, px := none }

theorem only0 {P : Nat → Prop} (h : P 0) : ∀ l ∈ [0], P l := by simpa using h

theorem isLane {o : Option Lane} {y : Lane} {P : Lane → Prop} (h : o = some y) (hp : P y) : ∀ x, o = some x → P x := by
  intro x hx
  rw [h] at hx
  cases hx
  exact hp

theorem allOf {α : Type} {P : α → Prop} {ys xs : List α} (h : ys = xs) (hp : List.foldr (fun x q => P x ∧ q) True xs) :
    ∀ y ∈ ys, P y := by
  subst h
  induction ys with
  | nil => simp
  | cons y ys ih => simpa using ⟨hp.1, fun a ha => ih hp.2 a ha⟩

/-- An engine operation that waits in its queue. -/
def op0 : Op :=
  { id := 0, kind := .copy (.scr 0 0) (.glob 0x10000) 32 1, ctx := 0, pkt := { ctx := 0, q := 0, num := 0 }, core := 0, wid := 0, warp := 0,
    slot := 0, hidx := 0, pc := 0x10000, event := 0, rnum := some 0, home := 0, alloc := 1, st := .queued, units := [], sent := [],
    begun := [], bytes := 0, pois := false, fail := none, members := [], held := [], waitAt := none, destAt := none, header := [], awaits := [], fork := none,
    cancel := false, rowMarks := [], colMarks := [], carry := [], nbv := 0, chain := none, result := .ok, fcause := 0, faddr := 0 }

theorem isOk {o : Xl} {y : Leaf} {P : Leaf → Prop} (h : o = .ok y) (hp : P y) : ∀ x, o = .ok x → P x := by
  intro x hx
  rw [h] at hx
  cases hx
  exact hp

theorem notHole {o : Xl} {y : Leaf} (h : o = .ok y) : ∀ a, o ≠ .hole a := by
  intro a ha
  rw [h] at ha
  cases ha

/-- Every access of a plan can be made now. -/
theorem ready_of {s : State} {cx : Cx} {drains gather : Loc → Bool} {sz sp acc : Nat} {holds : State → Nat → Word → Loc → Option LaneOut}
    {plan : List MemPlan} (h : plan.all (fun p => match p.2 with
      | .error o => o == .skip
      | .ok (a, loc) => (!drains loc || s.wcQuiet cx.g.core) && holds s p.1 a loc == none && (match loc with
          | .mem ps => (Claims.askedParts gather acc loc ps).all (fun q => s.peerNeed cx p.1 (gather loc) (memDetail 0 sz sp acc) q == .none)
          | .scr _ _ => true
          | _ => false)) = true) :
    Claims.Ready s cx drains gather sz sp acc holds plan := by
  intro p hp
  have hq := List.all_eq_true.mp h p hp
  rcases p with ⟨l, o | ⟨a, loc⟩⟩
  · exact .inl (by simpa using hq)
  · simp only [Bool.and_eq_true, beq_iff_eq] at hq
    refine ⟨fun hd => by simpa [hd] using hq.1.1, hq.1.2, ?_⟩
    cases loc with
    | mem ps => exact fun q hm => by simpa using List.all_eq_true.mp hq.2 q hm
    | scr _ _ => trivial
    | stop _ => simp at hq
    | wait _ => simp at hq
    | hole _ => simp at hq

theorem side_scr {cx : Cx} {scr : Bool} {a : Word} {n o b : Nat} (h1 : scr = true) (h : cx.g.scratch a.toNat n = some (o, b)) :
    Claims.Side cx scr a n (.scr o b) := by
  subst h1
  exact h

/-- Fields (first bit, value) of a record of n bytes. -/
def record (n : Nat) (fs : List (Nat × Nat)) : List Byte := leBytes n (fs.foldl (fun a x => a + x.2 * 2 ^ x.1) 0)

/-- The descriptor of queue 0: 16 packets at 0x210000, one waiting (R269). -/
def qd0 : List Byte := record 32 [(0, 0x210000), (64, 1), (192, 4), (216, 1)]

/-- A kernel descriptor (R273): 16 lanes, 16 lane registers, 16 scalar registers, one stage, of a flow class or none. -/
def kd0 (fclass : Nat) : List Byte := record 64 [(0, 0x10000), (192, 4096), (224, 16), (232, 15), (240, 16), (248, 1), (264, fclass)]

/-- A flow queue descriptor (R275) with one entry waiting. -/
def fqd0 : List Byte := record 32 [(0, 0x241000), (64, 1), (192, 4)]

/-- HBM with a page table that maps the first GiB onto itself, and what is written there. -/
def hbm0 (ws : List (Nat × List Byte)) : Memory :=
  ws.foldl (fun m w => Memory.write m w.1 w.2) (Memory.write (Memory.write [] 0x1000 (leBytes 8 0x2001)) 0x2000 (leBytes 8 0x8F))

/-- A machine whose queue 0 has a slot, no workgroup, and memory with the queue's descriptor, a packet and other records. -/
def sched (pkt : List Byte) (ws : List (Nat × List Byte)) : State :=
  { State.reset with
    mem := { MemState.reset with hbm := hbm0 ([(0x200000, qd0), (0x210000, pkt)] ++ ws) }, ctxs := [ctx0],
    queues := [{ ctx := 0, q := 0, blocked := false, cls := 0, ready := some 0 }],
    slots := [{ slot := 0, ctx := 0, q := 0, cls := 0, since := 0, holder := true, due := [], sliceEnd := 1000 }] }

/-- That machine after its descriptor has been read, and after RIDX has advanced and the packet has been read. -/
def readDesc (s : State) : State := s.agentUsed 0 ctx0 0x200000 32
def moved (s : State) (bs : List Byte) : State :=
  let v := (((readDesc s).agentWrite ctx0 0x200010 (leBytes 8 1)).1.agentGets 1 ctx0 ((0x210000, 64) :: pktReads bs)).1
  if pktType bs = 1 ∨ pktType bs = 2 then { v with launches := (readDesc s).launches + 1 } else v

theorem takes0 {s : State} {bs : List Byte} (h1 : s.ctx? 0 = some ctx0) (h2 : (s.slotOf 0 0).isSome = true)
    (h3 : s.maySucceed 0 0 = true) (h4 : ((s.queue? 0 0).map (·.blocked)).getD false = false) (h5 : s.agentRead 0 ctx0 0x200000 32 = .bytes qd0)
    (h6 : (readDesc s).agentRead 1 ctx0 0x210000 64 = .bytes bs) (h7 : bs ≠ []) (h9 : s.power.tripped = false)
    (h8 : ((readDesc s).agentWrite ctx0 0x200010 (leBytes 8 1)).2 = .bytes []) :
    Claims.Takes s ctx0 0 (QDesc.ofBytes qd0) bs (readDesc s) (moved s bs) :=
  { context := h1, saved := rfl, there := by decide, mapped := h2, next := h3, works := h4, desc := ⟨qd0, h5, rfl⟩, read := rfl, fit := by decide +kernel,
    enabled := by decide +kernel, waits := by decide +kernel, packet := ⟨h6, h7⟩, power := h9, moved := ⟨_, _, Prod.ext rfl h8, rfl⟩ }

/-- The packets: LAUNCH, FLOWLAUNCH, a BARRIER of a type, COPY, TICKCFG with a period, and one of TYPE 9. -/
def pktLaunch : List Byte :=
  record 64 [(0, 1), (64, 0x230000), (128, 0x220000), (256, 1), (272, 1), (288, 1), (304, 1), (320, 1)]
def pktFlow : List Byte :=
  record 64 [(0, 2), (64, 0x230000), (128, 0x220000), (256, 0x240000), (320, 0x250000), (384, 64), (464, 1)]
def pktBarrier (type : Nat) : List Byte := record 64 [(0, type), (64, 0x230000)]
def pktCopy : List Byte := record 64 [(0, 5), (64, 0x230000), (128, 0x270000), (192, 0x280000), (256, 64)]
def pktTick (period : Nat) : List Byte :=
  record 64 [(0, 6), (144, 1), (152, 4), (160, 1), (176, 16), (224, 7), (288, period), (320, 0x240000), (384, 0x260000)]
def pktNone : List Byte := record 64 [(0, 9)]

/-- What the check of a packet gives. -/
def pktOf (s : State) (bs : List Byte) : PktBody := match (readDesc s).checkPacket ctx0 (readDesc s).launches bs with | .ok b => b | _ => .done

theorem atSome {α : Type} {o : Option α} (d : α) (h : o.isSome = true) : o = some (o.getD d) := by
  cases o <;> simp_all

theorem pairSome {α β : Type} {o : Option (α × Option β)} (d : α) (h : o.map (·.2) = some none) :
    o = some ((o.getD (d, none)).1, none) := by
  cases o with
  | none => simp at h
  | some x =>
    simp only [Option.map_some, Option.some.injEq] at h
    simp [← h]

theorem tried {ε α : Type} {o : Except ε α} (d : α) (h : o.toOption.isSome = true) : o = .ok (o.toOption.getD d) := by
  cases o <;> simp_all [Except.toOption]

theorem triedPair {ε α β : Type} {o : Except ε (α × Option β)} (d : α) (h : o.toOption.map (·.2) = some none) :
    o = .ok ((o.toOption.getD (d, none)).1, none) := by
  cases o with
  | error x => simp [Except.toOption] at h
  | ok x =>
    simp only [Except.toOption, Option.map_some, Option.some.injEq] at h
    simp [← h, Except.toOption]

/-- A packet of queue 0 in progress, with signal 0x230000. -/
def inProgress (started : Bool) (b : PktBody) : Pkt := Claims.packet ctx0 0 (QDesc.ofBytes qd0) (pktBarrier 3) started b

/-- A flow launch with one entry waiting at 0x240000. -/
def flow0 : Launch := { launch0 with flow := true, fqd := 0x240000, closed := false }

/-- The machine of `sched` with a packet in progress. -/
def inMachine (p : Pkt) (ws : List (Nat × List Byte)) : State := { sched (pktBarrier 3) ws with pkts := [p] }


/-! ### A word of every instruction -/

/-- The decoder reads an instruction from a word. -/
def reads (w : Nat) (i : Instr) : Bool := decodeTableWord 64 w == some i

/-- Major 0x10, each word's fields written from R97, R110. -/
theorem test_decode_integer :
    reads 0b00010000_000000_000000101_000000001_000000010_000000000_0000_1011_0000_00
      (.iadd { d := 5, a := 1, b := 2, c := 0, ty := 0, mod := 0xb, run := 0, px := none }) ∧
    reads 0b00010000_000001_000000101_000000001_000000010_000000000_0001_0000_0000_00
      (.isub { d := 5, a := 1, b := 2, c := 0, ty := 1, mod := 0, run := 0, px := none }) ∧
    reads 0b00010000_000010_000000100_000000110_000001000_000000000_0010_0000_0000_00
      (.imul { d := 4, a := 6, b := 8, c := 0, ty := 2, mod := 0, run := 0, px := none }) ∧
    reads 0b00010000_000011_000000100_000000110_000001000_000000000_0011_0000_0000_00
      (.imulh { d := 4, a := 6, b := 8, c := 0, ty := 3, mod := 0, run := 0, px := none }) ∧
    reads 0b00010000_000100_000000101_000000001_000000010_000000111_0000_0000_0000_00
      (.imad { d := 5, a := 1, b := 2, c := 7, ty := 0, mod := 0, run := 0, px := none }) ∧
    reads 0b00010000_000101_000000101_000000001_000000010_000000000_0100_0111_0000_00
      (.imin { d := 5, a := 1, b := 2, c := 0, ty := 4, mod := 7, run := 0, px := none }) ∧
    reads 0b00010000_000110_000000101_000000001_000000010_000000000_0101_0000_0000_00
      (.imax { d := 5, a := 1, b := 2, c := 0, ty := 5, mod := 0, run := 0, px := none }) ∧
    reads 0b00010000_000111_000000101_000000001_000000000_000000000_0110_0000_0000_00
      (.iabs { d := 5, a := 1, b := 0, c := 0, ty := 6, mod := 0, run := 0, px := none }) ∧
    reads 0b00010000_001000_000000101_000000001_000000000_000000000_0000_1000_0000_00
      (.ineg { d := 5, a := 1, b := 0, c := 0, ty := 0, mod := 8, run := 0, px := none }) ∧
    reads 0b00010000_001001_000000101_000000001_000000010_000000000_0111_0000_0000_00
      (.idiff { d := 5, a := 1, b := 2, c := 0, ty := 7, mod := 0, run := 0, px := none }) ∧
    reads 0b00010000_001010_000000011_000000001_000000010_000000101_0000_0000_0000_00
      (.icmp { d := 3, a := 1, b := 2, c := 5, ty := 0, mod := 0, run := 0, px := none }) ∧
    reads 0b00010000_001011_000000101_000000001_000000010_000000100_0000_1001_0000_00
      (.sel { d := 5, a := 1, b := 2, c := 4, ty := 0, mod := 9, run := 0, px := none }) ∧
    reads 0b00010000_001100_000000101_000001000_000000000_000000010_0000_0000_0000_00
      (.icvt { d := 5, a := 8, b := 0, c := 2, ty := 0, mod := 0, run := 0, px := none }) ∧
    reads 0b00010000_001101_000000101_000000001_000000010_000000000_0000_0000_0010_00
      (.idiv { d := 5, a := 1, b := 2, c := 0, ty := 0, mod := 0, run := 2, px := none }) ∧
    reads 0b00010000_001110_000000101_000000001_000000010_000000000_0000_0000_0011_00
      (.irem { d := 5, a := 1, b := 2, c := 0, ty := 0, mod := 0, run := 3, px := none }) := by decide

/-- Major 0x11, each word's fields written from R99, R110. -/
theorem test_decode_immediate :
    reads 0b00010001_000000_000000101_000000001_00010010001101000101011001111000
      (.iaddImm { d := 5, a := 1, imm := 0x12345678, px := none }) ∧
    reads 0b00010001_000001_000000101_000000001_00010010001101000101011001111000
      (.imulImm { d := 5, a := 1, imm := 0x12345678, px := none }) ∧
    reads 0b00010001_000010_000000101_000000001_00010010001101000101011001111000
      (.iminImm { d := 5, a := 1, imm := 0x12345678, px := none }) ∧
    reads 0b00010001_000011_000000101_000000001_00010010001101000101011001111000
      (.imaxImm { d := 5, a := 1, imm := 0x12345678, px := none }) ∧
    reads 0b00010001_000100_000000110_000000001_10100000000000000000000001100100
      (.icmpImm { d := 6, a := 1, imm := 0xa0000064, px := none }) ∧
    reads 0b00010001_000101_000000101_000000001_00010010001101000101011001111000
      (.andImm { d := 5, a := 1, imm := 0x12345678, px := none }) ∧
    reads 0b00010001_000110_000000101_000000001_00010010001101000101011001111000
      (.orImm { d := 5, a := 1, imm := 0x12345678, px := none }) ∧
    reads 0b00010001_000111_000000101_000000001_00010010001101000101011001111000
      (.xorImm { d := 5, a := 1, imm := 0x12345678, px := none }) ∧
    reads 0b00010001_001000_000000101_000000001_00000000000000000000000000001001
      (.shlImm { d := 5, a := 1, imm := 9, px := none }) ∧
    reads 0b00010001_001001_000000101_000000001_00000000000000000000000000011111
      (.shrImm { d := 5, a := 1, imm := 0x1f, px := none }) ∧
    reads 0b00010001_001010_000000101_000000001_00000000000000000000000000100001
      (.sarImm { d := 5, a := 1, imm := 0x21, px := none }) ∧
    reads 0b00010001_001011_000000101_000000000_00010010001101000101011001111000
      (.movi { d := 5, a := 0, imm := 0x12345678, px := none }) := by decide

/-- Major 0x12, each word's fields written from R97, R110. -/
theorem test_decode_logic :
    reads 0b00010010_000000_000000101_000000001_000000010_000000000_0000_0000_0000_00
      (.and { d := 5, a := 1, b := 2, c := 0, ty := 0, mod := 0, run := 0, px := none }) ∧
    reads 0b00010010_000001_000000101_000000001_000000010_000000000_0001_0000_0000_00
      (.or { d := 5, a := 1, b := 2, c := 0, ty := 1, mod := 0, run := 0, px := none }) ∧
    reads 0b00010010_000010_000000101_000000001_000000010_000000000_0100_0000_0000_00
      (.xor { d := 5, a := 1, b := 2, c := 0, ty := 4, mod := 0, run := 0, px := none }) ∧
    reads 0b00010010_000011_000000101_000000001_000000010_000000000_0000_0000_0000_00
      (.andn { d := 5, a := 1, b := 2, c := 0, ty := 0, mod := 0, run := 0, px := none }) ∧
    reads 0b00010010_000100_000000101_000000001_000000010_000000000_0000_0000_0000_00
      (.orn { d := 5, a := 1, b := 2, c := 0, ty := 0, mod := 0, run := 0, px := none }) ∧
    reads 0b00010010_000101_000000101_000000001_000000000_000000000_0000_0000_0000_00
      (.not { d := 5, a := 1, b := 0, c := 0, ty := 0, mod := 0, run := 0, px := none }) ∧
    reads 0b00010010_000110_000000101_000000001_000000010_010010110_0000_0000_0000_00
      (.lop3 { d := 5, a := 1, b := 2, c := 0x96, ty := 0, mod := 0, run := 0, px := none }) ∧
    reads 0b00010010_000111_000000101_000000001_000000010_000000000_0000_0000_0000_00
      (.shl { d := 5, a := 1, b := 2, c := 0, ty := 0, mod := 0, run := 0, px := none }) ∧
    reads 0b00010010_001000_000000101_000000001_000000010_000000000_0000_0000_0000_00
      (.shr { d := 5, a := 1, b := 2, c := 0, ty := 0, mod := 0, run := 0, px := none }) ∧
    reads 0b00010010_001001_000000101_000000001_000000010_000000000_0100_0000_0000_00
      (.sar { d := 5, a := 1, b := 2, c := 0, ty := 4, mod := 0, run := 0, px := none }) ∧
    reads 0b00010010_001010_000000101_000000001_000000010_000000000_0000_0000_0000_00
      (.rol { d := 5, a := 1, b := 2, c := 0, ty := 0, mod := 0, run := 0, px := none }) ∧
    reads 0b00010010_001011_000000101_000000001_000000010_000000000_0000_0000_0000_00
      (.ror { d := 5, a := 1, b := 2, c := 0, ty := 0, mod := 0, run := 0, px := none }) ∧
    reads 0b00010010_001100_000000101_000000001_000000010_000000111_0000_0000_0000_00
      (.fshl { d := 5, a := 1, b := 2, c := 7, ty := 0, mod := 0, run := 0, px := none }) ∧
    reads 0b00010010_001101_000000101_000000001_000000010_000001000_0000_0000_0000_00
      (.fshr { d := 5, a := 1, b := 2, c := 8, ty := 0, mod := 0, run := 0, px := none }) := by decide

/-- Major 0x13, each word's fields written from R97, R110. -/
theorem test_decode_bit :
    reads 0b00010011_000000_000000101_000000001_000000000_000000000_0000_0000_0000_00
      (.popc { d := 5, a := 1, b := 0, c := 0, ty := 0, mod := 0, run := 0, px := none }) ∧
    reads 0b00010011_000001_000000101_000000001_000000000_000000000_0001_0000_0000_00
      (.clz { d := 5, a := 1, b := 0, c := 0, ty := 1, mod := 0, run := 0, px := none }) ∧
    reads 0b00010011_000010_000000101_000000001_000000000_000000000_0000_0000_0000_00
      (.ctz { d := 5, a := 1, b := 0, c := 0, ty := 0, mod := 0, run := 0, px := none }) ∧
    reads 0b00010011_000011_000000101_000000001_000000010_000000000_0000_0000_0000_00
      (.fns { d := 5, a := 1, b := 2, c := 0, ty := 0, mod := 0, run := 0, px := none }) ∧
    reads 0b00010011_000100_000000101_000000001_000000000_000000000_0000_0000_0000_00
      (.brev { d := 5, a := 1, b := 0, c := 0, ty := 0, mod := 0, run := 0, px := none }) ∧
    reads 0b00010011_000101_000000101_000000001_000000010_000000000_0000_0000_0000_00
      (.bfx { d := 5, a := 1, b := 2, c := 0, ty := 0, mod := 0, run := 0, px := none }) ∧
    reads 0b00010011_000110_000000101_000000001_000000010_000000000_0000_0000_0000_00
      (.bfxs { d := 5, a := 1, b := 2, c := 0, ty := 0, mod := 0, run := 0, px := none }) ∧
    reads 0b00010011_000111_000000101_000000001_000000010_000001001_0000_0000_0000_00
      (.bfi { d := 5, a := 1, b := 2, c := 9, ty := 0, mod := 0, run := 0, px := none }) ∧
    reads 0b00010011_001000_000000101_000000001_000000010_000000001_0000_0000_0000_00
      (.pdep { d := 5, a := 1, b := 2, c := 1, ty := 0, mod := 0, run := 0, px := none }) ∧
    reads 0b00010011_001001_000000101_000000001_000000010_000000000_0000_0000_0000_00
      (.pext { d := 5, a := 1, b := 2, c := 0, ty := 0, mod := 0, run := 0, px := none }) ∧
    reads 0b00010011_001010_000000100_000000110_000001000_000000000_0010_0000_0001_00
      (.bperm { d := 4, a := 6, b := 8, c := 0, ty := 2, mod := 0, run := 1, px := none }) ∧
    reads 0b00010011_001011_000000100_000000110_000001000_000000000_0011_0000_0010_00
      (.gf2mm { d := 4, a := 6, b := 8, c := 0, ty := 3, mod := 0, run := 2, px := none }) ∧
    reads 0b00010011_001100_000000101_000000001_000000010_000000111_0000_0000_0000_00
      (.prmb { d := 5, a := 1, b := 2, c := 7, ty := 0, mod := 0, run := 0, px := none }) ∧
    reads 0b00010011_001101_000000100_000000110_000000000_000000000_0011_0000_0000_00
      (.mix64 { d := 4, a := 6, b := 0, c := 0, ty := 3, mod := 0, run := 0, px := none }) := by decide

/-- Major 0x14, each word's fields written from R97, R110. -/
theorem test_decode_move :
    reads 0b00010100_000000_000000101_000000001_000000000_000000000_0000_0000_0000_00
      (.mov { d := 5, a := 1, b := 0, c := 0, ty := 0, mod := 0, run := 0, px := none }) ∧
    reads 0b00010100_000001_000000101_000000001_110000101_000000000_0000_0000_0000_00
      (.rdlane { d := 5, a := 1, b := 0x185, c := 0, ty := 0, mod := 0, run := 0, px := none }) ∧
    reads 0b00010100_000010_000000101_100000011_100000100_000000000_0000_0000_0000_00
      (.wrlane { d := 5, a := 0x103, b := 0x104, c := 0, ty := 0, mod := 0, run := 0, px := none }) ∧
    reads 0b00010100_000011_000000001_000000010_000000011_000000000_0000_0000_0000_00
      (.pand { d := 1, a := 2, b := 3, c := 0, ty := 0, mod := 0, run := 0, px := none }) ∧
    reads 0b00010100_000100_000000100_000000101_000000110_000000000_0000_0000_0000_00
      (.por { d := 4, a := 5, b := 6, c := 0, ty := 0, mod := 0, run := 0, px := none }) ∧
    reads 0b00010100_000101_000000000_000000111_000000001_000000000_0000_0000_0000_00
      (.pxor { d := 0, a := 7, b := 1, c := 0, ty := 0, mod := 0, run := 0, px := none }) ∧
    reads 0b00010100_000110_000000010_000000011_000000000_000000000_0000_0000_0000_00
      (.pnot { d := 2, a := 3, b := 0, c := 0, ty := 0, mod := 0, run := 0, px := none }) ∧
    reads 0b00010100_000111_000000000_000001001_000000000_000000010_0000_0000_0000_00
      (.pmov { d := 0, a := 9, b := 0, c := 2, ty := 0, mod := 0, run := 0, px := none }) := by decide

/-- Major 0x18, each word's fields written from R97, R110. -/
theorem test_decode_float :
    reads 0b00011000_000000_000000101_000000001_000000010_000000000_1000_1111_0000_00
      (.fadd { d := 5, a := 1, b := 2, c := 0, ty := 8, mod := 0xf, run := 0, px := none }) ∧
    reads 0b00011000_000001_000000100_000000110_000001000_000000000_1011_0000_0001_00
      (.fsub { d := 4, a := 6, b := 8, c := 0, ty := 0xb, mod := 0, run := 1, px := none }) ∧
    reads 0b00011000_000010_000000101_000000001_000000010_000000000_1100_0000_0000_00
      (.fmul { d := 5, a := 1, b := 2, c := 0, ty := 0xc, mod := 0, run := 0, px := none }) ∧
    reads 0b00011000_000011_000000101_000000001_000000010_000000111_1000_0000_0000_00
      (.ffma { d := 5, a := 1, b := 2, c := 7, ty := 8, mod := 0, run := 0, px := none }) ∧
    reads 0b00011000_000100_000000101_000000001_000000010_000000000_1000_0111_0000_00
      (.fmin { d := 5, a := 1, b := 2, c := 0, ty := 8, mod := 7, run := 0, px := none }) ∧
    reads 0b00011000_000101_000000101_000000001_000000010_000000000_1001_0000_0000_00
      (.fmax { d := 5, a := 1, b := 2, c := 0, ty := 9, mod := 0, run := 0, px := none }) ∧
    reads 0b00011000_000110_000000010_000000001_000000010_000000111_1000_0000_0000_00
      (.fcmp { d := 2, a := 1, b := 2, c := 7, ty := 8, mod := 0, run := 0, px := none }) ∧
    reads 0b00011000_000111_000000101_000000001_000000000_000000000_1010_0000_0000_00
      (.fclass { d := 5, a := 1, b := 0, c := 0, ty := 0xa, mod := 0, run := 0, px := none }) ∧
    reads 0b00011000_001000_000000101_000000001_000000010_000001000_1100_0000_0000_00
      (.fcvt { d := 5, a := 1, b := 2, c := 8, ty := 0xc, mod := 0, run := 0, px := none }) ∧
    reads 0b00011000_001001_000000101_000000001_000000000_000000000_1000_0000_0000_00
      (.frnd { d := 5, a := 1, b := 0, c := 0, ty := 8, mod := 0, run := 0, px := none }) ∧
    reads 0b00011000_001010_000000101_000000001_000000000_000001000_0000_0000_0000_00
      (.ftoi { d := 5, a := 1, b := 0, c := 8, ty := 0, mod := 0, run := 0, px := none }) ∧
    reads 0b00011000_001011_000000101_000000001_000000000_000000001_1000_0000_0000_00
      (.itof { d := 5, a := 1, b := 0, c := 1, ty := 8, mod := 0, run := 0, px := none }) ∧
    reads 0b00011000_001100_000000101_000000001_000000010_000000000_1000_0000_0000_00
      (.fscl { d := 5, a := 1, b := 2, c := 0, ty := 8, mod := 0, run := 0, px := none }) := by decide

/-- Major 0x19, each word's fields written from R97, R110. -/
theorem test_decode_special :
    reads 0b00011001_000000_000000101_000000001_000000010_000000000_1000_0000_0010_00
      (.fdiv { d := 5, a := 1, b := 2, c := 0, ty := 8, mod := 0, run := 2, px := none }) ∧
    reads 0b00011001_000001_000000101_000000001_000000000_000000000_1000_0000_0000_00
      (.fsqrt { d := 5, a := 1, b := 0, c := 0, ty := 8, mod := 0, run := 0, px := none }) ∧
    reads 0b00011001_000010_000000101_000000001_000000000_000000000_1000_0000_0000_00
      (.frcp { d := 5, a := 1, b := 0, c := 0, ty := 8, mod := 0, run := 0, px := none }) ∧
    reads 0b00011001_000011_000000101_000000001_000000000_000000000_1100_0000_0000_00
      (.frsq { d := 5, a := 1, b := 0, c := 0, ty := 0xc, mod := 0, run := 0, px := none }) ∧
    reads 0b00011001_000100_000000101_000000001_000000000_000000000_1000_1101_0000_00
      (.fex2 { d := 5, a := 1, b := 0, c := 0, ty := 8, mod := 0xd, run := 0, px := none }) ∧
    reads 0b00011001_000101_000000101_000000001_000000000_000000000_1000_0000_0000_00
      (.flg2 { d := 5, a := 1, b := 0, c := 0, ty := 8, mod := 0, run := 0, px := none }) ∧
    reads 0b00011001_000110_000000101_000000001_000000000_000000000_1001_0000_0000_00
      (.fsin { d := 5, a := 1, b := 0, c := 0, ty := 9, mod := 0, run := 0, px := none }) ∧
    reads 0b00011001_000111_000000101_000000001_000000000_000000000_1000_0000_0000_00
      (.fcos { d := 5, a := 1, b := 0, c := 0, ty := 8, mod := 0, run := 0, px := none }) ∧
    reads 0b00011001_001000_000000101_000000001_000000000_000000000_1000_0000_1111_00
      (.ftanh { d := 5, a := 1, b := 0, c := 0, ty := 8, mod := 0, run := 0xf, px := none }) := by decide

/-- Major 0x1A, each word's fields written from R97, R110. -/
theorem test_decode_decimal :
    reads 0b00011010_000000_000000100_000000110_000001000_000000000_1110_0000_0000_00
      (.xadd { d := 4, a := 6, b := 8, c := 0, ty := 0xe, mod := 0, run := 0, px := none }) ∧
    reads 0b00011010_000001_000000100_000000110_000001000_000000000_1110_0000_0000_00
      (.xsub { d := 4, a := 6, b := 8, c := 0, ty := 0xe, mod := 0, run := 0, px := none }) ∧
    reads 0b00011010_000010_000000100_000000110_000001000_000000000_1110_0000_0000_00
      (.xmul { d := 4, a := 6, b := 8, c := 0, ty := 0xe, mod := 0, run := 0, px := none }) ∧
    reads 0b00011010_000011_000000100_000000110_000001000_000001010_1110_0000_0000_00
      (.xfma { d := 4, a := 6, b := 8, c := 0xa, ty := 0xe, mod := 0, run := 0, px := none }) ∧
    reads 0b00011010_000100_000000100_000000110_000001000_000000000_1110_0000_0100_00
      (.xdiv { d := 4, a := 6, b := 8, c := 0, ty := 0xe, mod := 0, run := 4, px := none }) ∧
    reads 0b00011010_000101_000000100_000000110_000001000_000000000_1110_0100_0000_00
      (.xquant { d := 4, a := 6, b := 8, c := 0, ty := 0xe, mod := 4, run := 0, px := none }) ∧
    reads 0b00011010_000110_000000011_000000110_000001000_000000010_1110_0000_0000_00
      (.xcmp { d := 3, a := 6, b := 8, c := 2, ty := 0xe, mod := 0, run := 0, px := none }) ∧
    reads 0b00011010_000111_000000100_000000110_000000000_000000000_1110_0000_0000_00
      (.xcvt { d := 4, a := 6, b := 0, c := 0, ty := 0xe, mod := 0, run := 0, px := none }) ∧
    reads 0b00011010_001000_000000100_000000110_000000000_000000000_1110_0000_0000_00
      (.xrnd { d := 4, a := 6, b := 0, c := 0, ty := 0xe, mod := 0, run := 0, px := none }) ∧
    reads 0b00011010_001001_000000100_000000110_000001000_000000000_1110_0000_0000_00
      (.xscaleb { d := 4, a := 6, b := 8, c := 0, ty := 0xe, mod := 0, run := 0, px := none }) := by decide

/-- Major 0x20, each word's fields written from R97, R110. -/
theorem test_decode_cross :
    reads 0b00100000_000000_000000101_000000001_000000010_000000010_0000_0000_0000_00
      (.shfl { d := 5, a := 1, b := 2, c := 2, ty := 0, mod := 0, run := 0, px := none }) ∧
    reads 0b00100000_000001_000000101_000000001_000000010_000000000_0000_0000_0000_00
      (.pushl { d := 5, a := 1, b := 2, c := 0, ty := 0, mod := 0, run := 0, px := none }) ∧
    reads 0b00100000_000010_000000100_000000110_000000000_000000011_0011_0000_0000_00
      (.vote { d := 4, a := 6, b := 0, c := 3, ty := 3, mod := 0, run := 0, px := none }) ∧
    reads 0b00100000_000011_100000100_000000001_000000000_000000010_0000_0000_0000_00
      (.red { d := 0x104, a := 1, b := 0, c := 2, ty := 0, mod := 0, run := 0, px := none }) ∧
    reads 0b00100000_000100_000000101_000000001_000000000_000001001_0000_0000_0000_00
      (.scan { d := 5, a := 1, b := 0, c := 9, ty := 0, mod := 0, run := 0, px := none }) ∧
    reads 0b00100000_000101_000000100_000000001_000000000_000000000_0001_0000_0000_00
      (.matchLanes { d := 4, a := 1, b := 0, c := 0, ty := 1, mod := 0, run := 0, px := none }) := by decide

/-- Major 0x28, each word's fields written from R102, R110. -/
theorem test_decode_branch :
    reads 0b00101000_0000_0011_0_0000000_0000000000000000000000000000000100100011
      (.br { guard := 3, u := false, disp := 0x123, px := none }) ∧
    reads 0b00101000_0001_1001_1_0000000_1111111111111111111111111111111111111100
      (.bru { guard := 9, u := true, disp := 0xfffffffffc, px := none }) ∧
    reads 0b00101000_0010_0111_0_0000000_0000000000000000000000000000000000100000
      (.call { guard := 7, u := false, disp := 0x20, px := none }) := by decide

/-- Major 0x29, each word's fields written from R97, R110. -/
theorem test_decode_control :
    reads 0b00101001_000000_000000000_000000110_000000000_000000000_0011_0000_0000_00
      (.jmpi { d := 0, a := 6, b := 0, c := 0, ty := 3, mod := 0, run := 0, px := none }) ∧
    reads 0b00101001_000001_000000000_100001000_000000000_000000000_0011_0000_0000_00
      (.calli { d := 0, a := 0x108, b := 0, c := 0, ty := 3, mod := 0, run := 0, px := none }) ∧
    reads 0b00101001_000010_000000000_000000000_000000000_000000000_0000_0000_0000_00
      (.ret { d := 0, a := 0, b := 0, c := 0, ty := 0, mod := 0, run := 0, px := none }) ∧
    reads 0b00101001_000011_000000000_100001000_100001100_110000011_0000_0000_0000_00
      (.tcall { d := 0, a := 0x108, b := 0x10c, c := 0x183, ty := 0, mod := 0, run := 0, px := none }) ∧
    reads 0b00101001_000100_000000000_000000000_000000000_000000000_0000_0000_0000_00
      (.tret { d := 0, a := 0, b := 0, c := 0, ty := 0, mod := 0, run := 0, px := none }) ∧
    reads 0b00101001_000101_000000000_000000000_000000000_000000000_0000_0000_0000_00
      (.exit { d := 0, a := 0, b := 0, c := 0, ty := 0, mod := 0, run := 0, px := none }) ∧
    reads 0b00101001_000110_000000000_000000000_000000000_000000000_0000_0000_0000_00
      (.bar { d := 0, a := 0, b := 0, c := 0, ty := 0, mod := 0, run := 0, px := none }) ∧
    reads 0b00101001_000111_000000000_000000000_000000000_000000000_0000_0000_0000_00
      (.tbar { d := 0, a := 0, b := 0, c := 0, ty := 0, mod := 0, run := 0, px := none }) ∧
    reads 0b00101001_001000_000000000_000000000_000000000_000000000_0000_0000_0000_00
      (.yield { d := 0, a := 0, b := 0, c := 0, ty := 0, mod := 0, run := 0, px := none }) ∧
    reads 0b00101001_001001_000000000_110110010_000000000_000000000_0000_0000_0000_00
      (.sleep { d := 0, a := 0x1b2, b := 0, c := 0, ty := 0, mod := 0, run := 0, px := none }) ∧
    reads 0b00101001_000110_000000000_000000000_000000000_000000001_0000_0000_0000_00
      (.barArrive { d := 0, a := 0, b := 0, c := 1, ty := 0, mod := 0, run := 0, px := none }) := by decide

/-- Major 0x30, each word's fields written from R97, R110. -/
theorem test_decode_flow :
    reads 0b00110000_000000_000000000_000000001_000000010_000000000_0000_0000_0000_00
      (.relabel { d := 0, a := 1, b := 2, c := 0, ty := 0, mod := 0, run := 0, px := none }) ∧
    reads 0b00110000_000001_000000000_000000001_110010000_000000000_0000_0000_0000_00
      (.ordrel { d := 0, a := 1, b := 0x190, c := 0, ty := 0, mod := 0, run := 0, px := none }) ∧
    reads 0b00110000_000010_000000000_000000000_000000000_000000000_0000_0000_0000_00
      (.ordskip { d := 0, a := 0, b := 0, c := 0, ty := 0, mod := 0, run := 0, px := none }) ∧
    reads 0b00110000_000011_000000000_000000001_000000000_000000000_0000_0000_0000_00
      (.hold { d := 0, a := 1, b := 0, c := 0, ty := 0, mod := 0, run := 0, px := none }) ∧
    reads 0b00110000_000100_000000000_100001001_000000000_000000000_0000_0000_0000_00
      (.flowkill { d := 0, a := 0x109, b := 0, c := 0, ty := 0, mod := 0, run := 0, px := none }) ∧
    reads 0b00110000_000101_000000101_100001010_100001100_000000000_0000_0000_0000_00
      (.enq { d := 5, a := 0x10a, b := 0x10c, c := 0, ty := 0, mod := 0, run := 0, px := none }) := by decide

/-- Major 0x38, each word's fields written from R100, R110. -/
theorem test_decode_memory :
    reads 0b00111000_0000_000000110_100000010_000000011_011_00_01_011_0000_0010_0000101
      (.ld { d := 6, a := 0x102, b := 3, sz := 3, sp := 0, ord := 1, scope := 3, guard := 0, run := 2, disp := 5, px := none }) ∧
    reads 0b00111000_0001_000000110_100000010_000000011_010_00_10_100_1001_0000_0000101
      (.st { d := 6, a := 0x102, b := 3, sz := 2, sp := 0, ord := 2, scope := 4, guard := 9, run := 0, disp := 5, px := none }) ∧
    reads 0b00111000_0010_000000110_100000010_000000011_010_01_00_000_0000_0000_0000101
      (.ldc { d := 6, a := 0x102, b := 3, sz := 2, sp := 1, ord := 0, scope := 0, guard := 0, run := 0, disp := 5, px := none }) ∧
    reads 0b00111000_0011_000000001_100000010_000000011_010_00_00_000_0000_0000_0000101
      (.pref { d := 1, a := 0x102, b := 3, sz := 2, sp := 0, ord := 0, scope := 0, guard := 0, run := 0, disp := 5, px := none }) ∧
    reads 0b00111000_0100_000000000_100000010_000000011_010_00_00_000_0000_0000_0000101
      (.cctlInv1 { d := 0, a := 0x102, b := 3, sz := 2, sp := 0, ord := 0, scope := 0, guard := 0, run := 0, disp := 5, px := none }) ∧
    reads 0b00111000_0100_000000001_100000010_000000011_010_00_00_000_0000_0000_0000101
      (.cctlInv1all { d := 1, a := 0x102, b := 3, sz := 2, sp := 0, ord := 0, scope := 0, guard := 0, run := 0, disp := 5, px := none }) ∧
    reads 0b00111000_0100_000000010_100000010_000000011_010_00_00_000_0000_0000_0000101
      (.cctlClean2 { d := 2, a := 0x102, b := 3, sz := 2, sp := 0, ord := 0, scope := 0, guard := 0, run := 0, disp := 5, px := none }) ∧
    reads 0b00111000_0100_000000011_100000010_000000011_010_00_00_000_0000_0000_0000101
      (.cctlFlush2 { d := 3, a := 0x102, b := 3, sz := 2, sp := 0, ord := 0, scope := 0, guard := 0, run := 0, disp := 5, px := none }) := by decide

/-- Major 0x39, each word's fields written from R100, R110. -/
theorem test_decode_tag :
    reads 0b00111001_0000_000000000_100000010_000000011_000_01_00_000_0000_0000_0000101
      (.twait { d := 0, a := 0x102, b := 3, sz := 0, sp := 1, ord := 0, scope := 0, guard := 0, run := 0, disp := 5, px := none }) ∧
    reads 0b00111001_0001_000000110_100000010_000000011_000_01_00_000_0000_0000_0000101
      (.tset { d := 6, a := 0x102, b := 3, sz := 0, sp := 1, ord := 0, scope := 0, guard := 0, run := 0, disp := 5, px := none }) ∧
    reads 0b00111001_0010_000000000_100000010_000000011_000_01_00_000_0000_0000_0000101
      (.tclr { d := 0, a := 0x102, b := 3, sz := 0, sp := 1, ord := 0, scope := 0, guard := 0, run := 0, disp := 5, px := none }) ∧
    reads 0b00111001_0011_000000110_100000010_000000011_010_01_00_000_0000_0000_0000101
      (.ttest { d := 6, a := 0x102, b := 3, sz := 2, sp := 1, ord := 0, scope := 0, guard := 0, run := 0, disp := 5, px := none }) := by decide

/-- Major 0x3A, each word's fields written from R100, R110. -/
theorem test_decode_atomic :
    reads 0b00111010_0000_000000110_100000010_000000011_011_00_11_011_0100_0000_0011000
      (.atom { d := 6, a := 0x102, b := 3, sz := 3, sp := 0, ord := 3, scope := 3, guard := 4, run := 0, disp := 0x18, px := none }) ∧
    reads 0b00111010_0001_000000110_100000010_000000011_010_00_01_101_0000_0011_0000000
      (.cas { d := 6, a := 0x102, b := 3, sz := 2, sp := 0, ord := 1, scope := 5, guard := 0, run := 3, disp := 0, px := none }) := by decide

/-- Major 0x3B, each word's fields written from R100, R110. -/
theorem test_decode_fence :
    reads 0b00111011_0000_000000001_000000000_000000000_000_00_11_100_0000_0000_0000000
      (.fence { d := 1, a := 0, b := 0, sz := 0, sp := 0, ord := 3, scope := 4, guard := 0, run := 0, disp := 0, px := none }) := by decide

/-- Major 0x40, each word's fields written from R101, R110. -/
theorem test_decode_copy :
    reads 0b01000000_0000_0010_100000110_100000100_100000101_100000111_0000_01110000
      (.copyLocal { h := 2, a := 0x106, b := 0x104, c := 0x105, d := 0x107, run := 0, flags := 0x70, px := none }) ∧
    reads 0b01000000_0001_0010_100000110_100000100_100001000_100000111_0000_01101000
      (.tcopy { h := 2, a := 0x106, b := 0x104, c := 0x108, d := 0x107, run := 0, flags := 0x68, px := none }) ∧
    reads 0b01000000_0010_0010_100000110_100000100_100000101_100000111_0000_00011000
      (.wnst { h := 2, a := 0x106, b := 0x104, c := 0x105, d := 0x107, run := 0, flags := 0x18, px := none }) ∧
    reads 0b01000000_0011_0000_100000110_100000100_000000000_000000110_0010_00000000
      (.ringwait { h := 0, a := 0x106, b := 0x104, c := 0, d := 6, run := 2, flags := 0, px := none }) ∧
    reads 0b01000000_0000_0010_100000110_100000100_100000101_100000111_0000_00111001
      (.copyRemote { h := 2, a := 0x106, b := 0x104, c := 0x105, d := 0x107, run := 0, flags := 0x39, px := none }) ∧
    reads 0b01000000_0000_0010_100000110_100000100_100000101_100000111_0000_11110010
      (.copyMulticast { h := 2, a := 0x106, b := 0x104, c := 0x105, d := 0x107, run := 0, flags := 0xf2, px := none }) ∧
    reads 0b01000000_0000_0010_100000110_000000000_000000000_100000111_0000_00010011
      (.copyDrain { h := 2, a := 0x106, b := 0, c := 0, d := 0x107, run := 0, flags := 0x13, px := none }) := by decide

/-- Major 0x41, each word's fields written from R101, R110. -/
theorem test_decode_matrix :
    reads 0b01000001_0000_0010_100000110_000000000_000000000_000000000_0000_00000000
      (.mloop { h := 2, a := 0x106, b := 0, c := 0, d := 0, run := 0, flags := 0, px := none }) ∧
    reads 0b01000001_0001_0000_000000000_000000000_000000000_000000000_0000_00000000
      (.mchainB { h := 0, a := 0, b := 0, c := 0, d := 0, run := 0, flags := 0, px := none }) ∧
    reads 0b01000001_0010_0010_100000110_100000100_100000101_100000111_0000_00000000
      (.mzero { h := 2, a := 0x106, b := 0x104, c := 0x105, d := 0x107, run := 0, flags := 0, px := none }) ∧
    reads 0b01000001_0001_0000_000000000_000000000_000000000_000000000_0000_00000001
      (.mchainE { h := 0, a := 0, b := 0, c := 0, d := 0, run := 0, flags := 1, px := none }) := by decide

/-- Major 0x42, each word's fields written from R101, R110. -/
theorem test_decode_accumulator :
    reads 0b01000010_0000_0000_100000110_100000100_100000101_000000110_0001_00000000
      (.acrd { h := 0, a := 0x106, b := 0x104, c := 0x105, d := 6, run := 1, flags := 0, px := none }) ∧
    reads 0b01000010_0001_0000_100000110_100000100_100000101_000000110_0000_00000000
      (.acwr { h := 0, a := 0x106, b := 0x104, c := 0x105, d := 6, run := 0, flags := 0, px := none }) ∧
    reads 0b01000010_0010_0010_100000110_100000100_100000101_100000111_0000_00110101
      (.acst { h := 2, a := 0x106, b := 0x104, c := 0x105, d := 0x107, run := 0, flags := 0x35, px := none }) ∧
    reads 0b01000010_0011_0010_100000110_100000100_100000101_100000111_0000_00010010
      (.acld { h := 2, a := 0x106, b := 0x104, c := 0x105, d := 0x107, run := 0, flags := 0x12, px := none }) := by decide

/-- Major 0x43, each word's fields written from R101, R110. -/
theorem test_decode_handle :
    reads 0b01000011_0000_0010_000000000_000000000_000000000_000000010_0011_00000001
      (.wait { h := 2, a := 0, b := 0, c := 0, d := 2, run := 3, flags := 1, px := none }) ∧
    reads 0b01000011_0001_0010_000000000_000000000_000000000_000000100_0000_00000000
      (.htest { h := 2, a := 0, b := 0, c := 0, d := 4, run := 0, flags := 0, px := none }) ∧
    reads 0b01000011_0010_0010_000000000_000000000_000000000_000000000_0000_00000000
      (.hcancel { h := 2, a := 0, b := 0, c := 0, d := 0, run := 0, flags := 0, px := none }) ∧
    reads 0b01000011_0011_0010_100000110_000000000_000000000_000000000_0001_00000000
      (.hmovExport { h := 2, a := 0x106, b := 0, c := 0, d := 0, run := 1, flags := 0, px := none }) ∧
    reads 0b01000011_0100_0010_100000110_100000100_100000101_000000000_0000_00000000
      (.ownpass { h := 2, a := 0x106, b := 0x104, c := 0x105, d := 0, run := 0, flags := 0, px := none }) ∧
    reads 0b01000011_0101_0010_000000000_000000000_100000101_000000000_0000_00000000
      (.owntake { h := 2, a := 0, b := 0, c := 0x105, d := 0, run := 0, flags := 0, px := none }) ∧
    reads 0b01000011_0011_0010_100000110_000000000_000000000_000000000_0000_00000001
      (.hmovImport { h := 2, a := 0x106, b := 0, c := 0, d := 0, run := 0, flags := 1, px := none }) := by decide

/-- Major 0x48, each word's fields written from R97, R110. -/
theorem test_decode_event :
    reads 0b01001000_000000_000000101_000000001_000000010_000000000_0001_0000_0001_00
      (.evwait { d := 5, a := 1, b := 2, c := 0, ty := 1, mod := 0, run := 1, px := none }) ∧
    reads 0b01001000_000001_000000000_000000001_000000010_000000000_0001_0000_0000_00
      (.evsig { d := 0, a := 1, b := 2, c := 0, ty := 1, mod := 0, run := 0, px := none }) ∧
    reads 0b01001000_000010_000000000_100001000_000000110_000000000_0010_0000_0000_00
      (.sigadd { d := 0, a := 0x108, b := 6, c := 0, ty := 2, mod := 0, run := 0, px := none }) ∧
    reads 0b01001000_000011_000000100_100001000_000000110_000000101_0010_0000_0000_00
      (.sigwait { d := 4, a := 0x108, b := 6, c := 5, ty := 2, mod := 0, run := 0, px := none }) ∧
    reads 0b01001000_000100_100000100_000000000_000000000_000000000_0011_0000_0000_00
      (.time { d := 0x104, a := 0, b := 0, c := 0, ty := 3, mod := 0, run := 0, px := none }) := by decide

/-- Major 0x50, each word's fields written from R97, R110. -/
theorem test_decode_system :
    reads 0b01010000_000000_000000000_110000101_000000000_000000000_0000_0000_0000_00
      (.trap { d := 0, a := 0x185, b := 0, c := 0, ty := 0, mod := 0, run := 0, px := none }) ∧
    reads 0b01010000_000001_000000000_000000000_000000000_000000000_0000_0000_0000_00
      (.bkpt { d := 0, a := 0, b := 0, c := 0, ty := 0, mod := 0, run := 0, px := none }) ∧
    reads 0b01010000_000010_000000000_000000000_000000000_000000000_0000_0000_0000_00
      (.rtt { d := 0, a := 0, b := 0, c := 0, ty := 0, mod := 0, run := 0, px := none }) ∧
    reads 0b01010000_000011_000000100_000000000_100100000_000000000_0011_0000_0000_00
      (.csrr { d := 4, a := 0, b := 0x120, c := 0, ty := 3, mod := 0, run := 0, px := none }) ∧
    reads 0b01010000_000100_000000000_000000111_000001000_000000000_0001_0000_0000_00
      (.csrw { d := 0, a := 7, b := 8, c := 0, ty := 1, mod := 0, run := 0, px := none }) := by decide
/-- R93, R94, R110: clause headers that spec/05 writes out, NOP, and words that no major names. -/
theorem test_decode_headers_and_unassigned :
    reads 0x0216_0000_0000_0000 (.clauseHeader { count := 1, cls := 3, hwait := 0, barw := false, yh := false }) ∧
    reads 0x0234_0000_0000_0000 (.clauseHeader { count := 3, cls := 2, hwait := 0, barw := false, yh := false }) ∧
    reads 0b00000010_0010_001_0000000000000101_1_1_0000000000000000000000000000000
      (.clauseHeader { count := 2, cls := 1, hwait := 5, barw := true, yh := true }) ∧
    reads 0x0300_0000_0000_0000 (.nop { px := none }) ∧ reads 0xFF00_0000_0000_0001 (.unassignedEncoding 0xFF00_0000_0000_0001) ∧
    decodeTableWord 64 0x0300_0000_0000_0001 = none ∧ decodeTableWord 64 0x0200_0000_0000_0001 = none := by decide

/-- The examples of R168 to R172, R174, R177, R179, R190, R204, R205, R209. -/
theorem test_decode_examples :
    reads 0x2000_0A01_C080_C000 (.shfl (fa 5 1 0x181 3 0)) ∧ reads 0x2004_0C02_0180_0000 (.pushl (fa 6 2 3 0 0)) ∧
    reads 0x2008_1002_0000_CC00 (.vote (fa 8 2 0 3 3)) ∧ reads 0x200E_0C01_0000_2000 (.red (fa 0x106 1 0 0 8)) ∧
    reads 0x2010_0802_0002_0000 (.scan (fa 4 2 0 8 0)) ∧ reads 0x2014_1403_0000_0400 (.matchLanes (fa 10 3 0 0 1)) ∧
    reads 0x2802_0000_0000_0008 (.br { guard := 2, u := false, disp := 8, px := none }) ∧
    reads 0x2827_0000_0000_0020 (.call { guard := 7, u := false, disp := 0x20, px := none }) ∧
    reads 0x2900_0004_0000_0C00 (.jmpi (fa 0 4 0 0 3)) ∧ reads 0x2904_0108_0000_0C00 (.calli (fa 0 0x108 0 0 3)) ∧
    reads 0x3000_0002_C080_0000 (.relabel (fa 0 2 0x181 0 0)) ∧
    reads 0x3810_4C10_0489_8804 (.st { fm 9 0x104 2 2 0 4 with ord := 2, scope := 3, guard := 1 }) ∧
    reads 0x3820_0C0E_9290_0000 (.ldc (fl 1 0x103 0x149 2 1 0)) ∧
    reads 0x3A00_2408_0281_B800 (.atom { fm 4 0x102 1 2 0 0 with scope := 3, guard := 7 }) := by decide


/-! ### Results worked out by hand -/

/-- The two registers of a pair. -/
def halves (n : Nat) : List Nat := [n % 2 ^ 32, n / 2 ^ 32]

/-- What an A-format instruction gives lane 0 in v6 and v7 of a, b and c in its register pairs v0, v2 and v4, with `old` in v6 and v7,
whether at once or as a pending result. `cc` is field C where it names no register. -/
def result (i : FmtA → Instr) (ty mod a b : Nat) (c : Nat := 0) (cc : Nat := 0) (old : Nat := 0) (bb : Nat := 2) : Option Nat :=
  let w : FmtA := { d := 6, a := 0, b := BitVec.ofNat 9 bb, c := BitVec.ofNat 9 cc, ty := BitVec.ofNat 4 ty, mod := BitVec.ofNat 4 mod,
                    run := 0, px := none }
  see (i w) (mach (warp0 (fun _ => halves a ++ halves b ++ halves c ++ halves old)) [0]) (fun t =>
    match (t.warp? 0 0).bind (fun w => w.results.head?) with
    | some r => some ((r.writes.map (fun x => match x.dst with | .lane 7 => x.val.toNat * 2 ^ 32 | _ => x.val.toNat)).foldl (· + ·) 0)
    | none => vpair 0 6 t)

/-- The predicate p6 that a compare gives. -/
def compares (i : FmtA → Instr) (ty mod cc a b : Nat) : Option Nat :=
  let w : FmtA := { d := 6, a := 0, b := 2, c := BitVec.ofNat 9 cc, ty := BitVec.ofNat 4 ty, mod := BitVec.ofNat 4 mod, run := 0, px := none }
  see (i w) (mach (warp0 (fun _ => halves a ++ halves b)) [0]) (fun t =>
    match (t.warp? 0 0).bind (fun w => w.results.head?) with
    | some r => (r.writes.head?).map (·.val.toNat)
    | none => preg 0 6 t)

/-- The register pair v6 that an I-format instruction gives of a in v0. -/
def immediate (i : FmtI → Instr) (imm a : Nat) (px : Option Px := none) : Option Nat :=
  see (i { d := 6, a := 0, imm := BitVec.ofNat 32 imm, px := px }) (mach (warp0 (fun _ => [a % 2 ^ 32, a / 2 ^ 32])) [0]) (vpair 0 6)

/-- R124, R125: the example of IADD, its packed form with and without saturation, and a result of each member. -/
theorem test_integer_results :
    result .iadd 0 0b1010 0x7FFFFFF0 0xFFFFFFE0 = some 0x7FFFFFFF ∧ result .iadd 4 0b1000 0x7F0180FF 0x0101FF01 = some 0x7F028000 ∧
    result .isub 1 0b1000 3 5 = some 0 ∧ result .imul 2 0 (2 ^ 64 - 3) 5 = some (2 ^ 64 - 15) ∧
    result .imulh 3 0 (2 ^ 63) 4 = some 2 ∧ result .imad 0 0 7 6 (2 ^ 32 - 2) 4 = some 40 ∧
    result .imin 0 0 (2 ^ 32 - 1) 1 = some (2 ^ 32 - 1) ∧ result .imax 0 0 (2 ^ 32 - 1) 1 = some 1 ∧
    result .iabs 6 0 0xFFFF8000 0 = some 0x00018000 ∧ result .ineg 0 0 5 0 = some (2 ^ 32 - 5) ∧
    result .idiff 5 0 0x01020304 0x04030201 = some 0x03010103 := by decide +kernel

/-- R126 to R129: a compare under each signedness, the examples of ICVT, IDIV and IREM, and a division by zero. -/
theorem test_compare_and_divide_results :
    compares .icmp 0 0 2 (2 ^ 32 - 1) 1 = some 1 ∧ compares .icmp 1 0 2 (2 ^ 32 - 1) 1 = some 0 ∧
    result .icvt 0 0b1000 (2 ^ 32) 0 0 2 0 0 = some 0x7FFFFFFF ∧ result .idiv 0 0 (2 ^ 32 - 7) 2 = some (2 ^ 32 - 3) ∧
    result .irem 0 0 (2 ^ 32 - 7) 2 = some (2 ^ 32 - 1) ∧ result .idiv 1 0 9 0 = some (2 ^ 32 - 1) ∧ result .irem 1 0 9 0 = some 9 ∧
    result .sel 1 0b0111 11 22 0 7 = some 11 ∧ result .sel 1 0b0111 11 22 0 0 = some 22 := by decide +kernel

/-- R130, R131: a result of each immediate member, one on i64 with XIMM. -/
theorem test_immediate_results :
    immediate .iaddImm 1000 5 = some 1005 ∧ immediate .imulImm 0xFFFFFFFF 7 = some (2 ^ 32 - 7) ∧
    immediate .iminImm 0x80000000 7 = some 0x80000000 ∧ immediate .imaxImm 0x80000000 7 = some 7 ∧
    immediate .andImm 0x0F 0x3C = some 0x0C ∧ immediate .orImm 0x0F 0x30 = some 0x3F ∧ immediate .xorImm 0x0F 0x3C = some 0x33 ∧
    immediate .shlImm 4 0x10000001 = some 0x10 ∧ immediate .shrImm 32 0xFFFFFFFF = some 0 ∧
    immediate .sarImm 40 0x80000000 = some 0xFFFFFFFF ∧
    see (.icmpImm { d := 6, a := 0, imm := 0xA0000064, px := none }) (mach (warp0 (fun _ => [100])) [0]) (preg 0 6) = some 1 ∧
    see (.movi { d := 6, a := 0, imm := 0x3456789A,
                 px := some { me := false, mp := 0, rm := 0, mz := false, e := 3, ximm := 0x12 } }) (mach warp0 [0]) (vpair 0 6) =
      some 0x123456789A := by decide +kernel

/-- R132: bitwise members; the truth bytes 0x96 and 0xCA of LOP3. -/
theorem test_logic_results :
    result .and 1 0 0b1100 0b1010 = some 0b1000 ∧ result .or 1 0 0b1100 0b1010 = some 0b1110 ∧ result .xor 1 0 0b1100 0b1010 = some 0b0110 ∧
    result .andn 1 0 0b1100 0b1010 = some 0b0100 ∧ result .orn 1 0 0b1100 (2 ^ 32 - 2) = some 0b1101 ∧
    result .not 3 0 0 0 = some (2 ^ 64 - 1) ∧ result .lop3 1 0 0b1100 0b1010 0 0x96 0b1001 = some 0b1111 ∧
    result .lop3 1 0 0b1100 0b1010 0 0xCA 0b0011 = some 0b1011 := by decide +kernel

/-- R133, R134: the table of case 1, and the funnel shifts at amounts w and 2w. -/
theorem test_shift_results :
    result .shl 4 0 0x8040F001 0x09080401 = some 0x00000002 ∧ result .shr 4 0 0x8040F001 0x09080401 = some 0x00000F00 ∧
    result .sar 4 0 0x8040F001 0x09080401 = some 0xFF00FF00 ∧ result .rol 4 0 0x8040F001 0x09080401 = some 0x01400F02 ∧
    result .shl 0 0 0x8040F001 0x09080401 = some 0 ∧ result .ror 1 0 1 33 = some 0x80000000 ∧
    result .fshl 1 0 0x12345678 0x9ABCDEF0 32 4 = some 0x9ABCDEF0 ∧ result .fshl 1 0 0x12345678 0x9ABCDEF0 64 4 = some 0 ∧
    result .fshr 1 0 0x12345678 0x9ABCDEF0 8 4 = some 0x789ABCDE := by decide +kernel

/-- R135 to R141: the examples, and members at their edges. -/
theorem test_bit_results :
    result .popc 3 0 (2 ^ 63 + 5) 0 = some 3 ∧ result .clz 1 0 0 0 = some 32 ∧ result .ctz 1 0 0xB0 0 = some 4 ∧
    result .fns 1 0 0xB4 2 = some 5 ∧ result .fns 1 0 0xB4 4 = some (2 ^ 32 - 1) ∧ result .brev 1 0 1 0 = some 0x80000000 ∧
    result .bfxs 0 0 0x0B00 0x0408 = some 0xFFFFFFFB ∧ result .bfx 1 0 0x0B00 0x0408 = some 0xB ∧
    result .bfi 1 0 0xFFFF 0x5 0x0404 4 = some 0xFF5F ∧ result .pdep 1 0 0b1011 0xF0 = some 0xB0 ∧
    result .pdep 1 0 0b1011 0xF0 0 1 = some 0xD0 ∧ result .pext 1 0 0xF0F0 0xFF00 = some 0xF0 ∧
    result .pext 1 0 0xF0F0 0xFF00 0 1 = some 0x0F := by decide +kernel

/-- R147 to R156: sums and products, comparisons with NaN, conversions. 0x3F800000 is 1.0 and 0x40000000 is 2.0. -/
theorem test_float_results :
    result .fadd 8 0 0x3F800000 0x40000000 = some 0x40400000 ∧ result .fsub 8 0 0x3F800000 0x40000000 = some 0xBF800000 ∧
    result .fmul 8 0b0100 0x40000000 0x40400000 = some 0xC0C00000 ∧ result .ffma 8 0 0x40000000 0x40400000 0x3F800000 4 = some 0x40E00000 ∧
    result .fmin 8 0 0x3F800000 0x7FC00000 = some 0x3F800000 ∧ result .fmax 8 0 0x3F800000 0x40000000 = some 0x40000000 ∧
    compares .fcmp 8 0 2 0x3F800000 0x40000000 = some 1 ∧ compares .fcmp 8 0 7 0x3F800000 0x7FC00000 = some 1 ∧
    compares .fcmp 8 0 0 0x80000000 0 = some 1 ∧ result .fclass 8 0 0x80000000 0 = some 0b1000 ∧
    result .fcvt 12 0 0x3F800000 0x40000000 0 8 = some 0x40003C00 ∧ result .frnd 8 0 0xBECCCCCD 0 = some 0x80000000 ∧
    result .ftoi 0 0 0x40200000 0 0 8 0 0 = some 2 ∧ result .itof 9 0 65520 0 0 1 0 0 = some 0x7C00 ∧
    result .fscl 8 0 0x3F800000 3 = some 0x41000000 := by decide +kernel

/-- R157, R158: one third, roots, exact powers of two and special cases. -/
theorem test_special_results :
    result .fdiv 8 0 0x3F800000 0x40400000 = some 0x3EAAAAAB ∧ result .fsqrt 8 0 0x40800000 0 = some 0x40000000 ∧
    result .frcp 8 0 0x40800000 0 = some 0x3E800000 ∧ result .frsq 8 0 0x40800000 0 = some 0x3F000000 ∧
    result .fex2 8 0 0x40400000 0 = some 0x41000000 ∧ result .flg2 8 0 0x41000000 0 = some 0x40400000 ∧
    result .fsin 8 0 0x80000000 0 = some 0x80000000 ∧ result .fcos 8 0 0 0 = some 0x3F800000 ∧
    result .ftanh 8 0 0xFF800000 0 = some 0xBF800000 := by decide +kernel

/-- R160 to R165: the examples of XADD and XMUL, case 2 of XQUANT, and members on 1.25 (0x318000000000007D) and 3. -/
theorem test_decimal_results :
    result .xadd 14 0 0x318000000000007D 0x31C0000000000003 = some 0x31800000000001A9 ∧
    result .xsub 14 0 0x318000000000007D 0x31C0000000000003 = some 0xB1800000000000AF ∧
    result .xmul 14 0 0x318000000000007D 0x31C0000000000003 = some 0x3180000000000177 ∧
    result .xfma 14 0 0x318000000000007D 0x31C0000000000003 0x31C0000000000001 4 = some 0x31800000000001DB ∧
    result .xdiv 14 0 0x31C0000000000001 0x31C0000000000004 = some 0x3180000000000019 ∧
    result .xquant 14 0 (0x2FE0000000000000 + 3333333333333333) 0x3180000000000001 = some 0x318000000000014D ∧
    compares .xcmp 14 0 0 0x318000000000007D 0x31600000000004E2 = some 1 ∧ result .xcvt 14 0 5 0 0 1 0 0 = some 0x31C0000000000005 ∧
    result .xrnd 14 0 0x318000000000007D 0 = some 0x31C0000000000001 ∧
    result .xscaleb 14 0 0x31C0000000000003 2 = some 0x3200000000000003 := by decide +kernel

/-! ### Witnesses -/

/-! ### Witnesses: for each statement, and each of its clauses, a state and operands that meet the hypotheses together -/

theorem witness_IntegerInstructionsExecute : ¬ (∀ (i : Instr) (e : Entry) (s : State) (cx : Cx), Claims.integerRule i = some e ∨ Claims.immediateRule i = some e →
    Claims.At s cx → stopsOf (Claims.laneOuts i e s cx) = [] → False) :=
  fun h => h (.iadd (fa 2 0 1 0 0)) _ _ _ (.inl rfl) (at0 (warp0 (fun l => [l, 7])) [0, 2]) (by decide +kernel)

theorem witness_LogicAndBitInstructionsExecute : ¬ (∀ (i : Instr) (e : Entry) (s : State) (cx : Cx), Claims.logicRule i = some e ∨ Claims.bitRule i = some e → Claims.At s cx →
    stopsOf (Claims.laneOuts i e s cx) = [] → False) :=
  fun h => h (.and (fa 2 0 1 0 0)) _ _ _ (.inl rfl) (at0 (warp0 (fun l => [l, 7])) [0, 2]) (by decide +kernel)

theorem witness_MovesAndPredicatesExecute_1 : ¬ (∀ (i : Instr) (e : Entry) (s : State) (cx : Cx), Claims.moveRule i = some e → Claims.At s cx →
    stopsOf (Claims.laneOuts i e s cx) = [] → False) :=
  fun h => h (.mov (fa 2 0 0 0 0)) _ _ _ rfl (at0 (warp0 (fun l => [l, 7])) [0, 2]) (by decide +kernel)

theorem witness_MovesAndPredicatesExecute_2 : ¬ (∀ (w : FmtA) (s : State) (cx : Cx), w.c.toNat % 4 = 2 → Claims.At s cx →
    let bits := fun l v => (List.range 7).map (fun k =>
      ({ lane := some l, dst := .pred k, val := if v.v.getLsbD k then 1 else 0, poison := v.p } : ResWrite))
    let outs := cx.lanes.map (fun l => (l, Claims.byMask cx w.px (bits l { v := 0 })
      (fun _ => .write (bits l (readAt s cx (form (.pmov w)).scalarUnit l 1 w.a)) 0 0) l))
    stopsOf outs = [] → False) :=
  fun h => h (fa 0 1 0 2 0) _ _ rfl (at0 (warp0 (fun l => [l, 7])) [0, 2]) (by decide +kernel)

theorem witness_MovesAndPredicatesExecute_3 : ¬ (∀ (w : FmtA) (s : State) (cx : Cx) (m : Nat) (v : Val), Claims.At s cx →
    m = (readUni s cx 1 w.b).v.toNat % cx.w.lanes.length →
    cx.w.pendingFor m (destsOf w.a w.ty) = false →
    v = (match cx.lane? m with
      | none => { v := 0 }
      | some x => if x.st = .absent then { v := 0 } else Claims.standing x w.ty w.a.toNat) →
    let outs := cx.lanes.map (fun l => (l, Claims.byMask cx w.px (destWrites l w.d w.ty 0 false)
      (fun _ => .write (destWrites l w.d w.ty v.v v.p) 0 0) l))
    stopsOf outs = [] → False) :=
  fun h => h (fa 2 1 0x187 0 0) _ _ 3 _ (at0 (warp0 (fun l => [l, 7])) [0, 2]) (by decide +kernel) (by decide +kernel) rfl (by decide +kernel)

theorem witness_MovesAndPredicatesExecute_4 : ¬ (∀ (w : FmtA) (s : State) (cx : Cx) (m : Nat) (x : Lane) (v : Val), Claims.At s cx →
    m = (readUni s cx 1 w.b).v.toNat % cx.w.lanes.length → cx.lane? m = some x → v = readUni s cx w.ty w.a → False) :=
  fun h => h (fa 2 0x101 0x187 0 0) _ _ 3 _ _ (at0 (warp0 (fun l => [l, 7])) [0, 2]) (by decide +kernel) rfl rfl

theorem witness_FloatInstructionsExecute : ¬ (∀ (i : Instr) (e : Entry) (s : State) (cx : Cx), Claims.floatRule i = some e → Claims.At s cx →
    stopsOf (Claims.laneOuts i e s cx) = [] → False) :=
  fun h => h (.fadd (fa 2 0 1 0 8)) _ _ _ rfl (at0 (warp0 (fun l => [l, 7])) [0, 2]) (by decide +kernel)

theorem witness_ConversionsExecute : ¬ (∀ (i : Instr) (e : Entry) (s : State) (cx : Cx), Claims.convertRule i = some e → Claims.At s cx →
    stopsOf (Claims.laneOuts i e s cx) = [] → False) :=
  fun h => h (.itof (fa 2 0 0 1 8)) _ _ _ rfl (at0 (warp0 (fun l => [l, 7])) [0, 2]) (by decide +kernel)

theorem witness_DecimalInstructionsExecute : ¬ (∀ (i : Instr) (e : Entry) (s : State) (cx : Cx), Claims.decimalRule i = some e → Claims.At s cx →
    stopsOf (Claims.laneOuts i e s cx) = [] → False) :=
  fun h => h (.xadd (fa 2 0 4 0 14)) _ _ _ rfl (at0 (warp0 (fun l => [l, 7])) [0, 2]) (by decide +kernel)

theorem witness_ShuffleAndPushExecute_1 : ¬ (∀ (w : FmtA) (s : State) (cx : Cx), Claims.At s cx →
    let out := Claims.byMask cx w.px
    let got := fun l =>
      match (shflRank (w.c.toNat % 4) (cx.rank l) cx.teamSize (readOp s cx l 1 w.b).v).bind cx.atRank with
      | some j => readOp s cx j w.ty w.a
      | none => readOp s cx l w.ty w.a
    let outs := fun l => out (destWrites l w.d w.ty 0 false)
      (fun _ => .write (destWrites l w.d w.ty (got l).v ((got l).p || (readOp s cx l 1 w.b).p)) 0 0) l
    stopsOf (cx.lanes.map (fun l => (l, outs l))) = [] → False) :=
  fun h => h (fa 2 0 1 0 1) _ _ (at0 (warp0 (fun l => [l, 7])) [0, 2]) (by decide +kernel)

theorem witness_ShuffleAndPushExecute_2 : ¬ (∀ (w : FmtA) (s : State) (cx : Cx), Claims.At s cx →
    let outs := fun l => Claims.byMask cx w.px (destWrites l w.d w.ty 0 false)
      (fun _ =>
        match (cx.lanes.filter (fun j => (readOp s cx j 1 w.b).v.toNat == cx.rank l)).getLast? with
        | none => .skip
        | some j => .write (destWrites l w.d w.ty (readOp s cx j w.ty w.a).v
            ((readOp s cx j w.ty w.a).p || (readOp s cx j 1 w.b).p)) 0 0) l
    stopsOf (cx.lanes.map (fun l => (l, outs l))) = [] → False) :=
  fun h => h (fa 2 0 1 0 1) _ _ (at0 (warp0 (fun l => [l, 7])) [0, 2]) (by decide +kernel)

theorem witness_TeamReductionsExecute_1 : ¬ (∀ (w : FmtA) (s : State) (cx : Cx), Claims.At s cx →
    let m := w.c.toNat % 8
    let ws := fun l (v : Word) (p : Bool) => if m ≤ 2 then predWrites l w.d (v != 0) p else destWrites l w.d w.ty v p
    let yes := cx.lanes.filter (fun l => match cx.lane? l with | some x => (x.pred (w.a.toNat % 8)).v == 1 | none => false)
    let p := cx.lanes.any (fun l => match cx.lane? l with | some x => (x.pred (w.a.toNat % 8)).p | none => false)
    let v : Word :=
      if m = 0 then (if yes.isEmpty then 0 else 1)
      else if m = 1 then (if yes.length = cx.lanes.length then 1 else 0)
      else if m = 2 then (if yes.isEmpty ∨ yes.length = cx.lanes.length then 1 else 0)
      else if m = 3 then maskOf (yes.map cx.rank) else BitVec.ofNat 64 yes.length
    let outs := fun l => Claims.byMask cx w.px (ws l 0 false)
      (fun _ => if 3 ≤ m && Code.isScalar w.d && !cx.root then .stop cx.illegal else .write (ws l v p) 0 0) l
    stopsOf (cx.lanes.map (fun l => (l, outs l))) = [] → False) :=
  fun h => h (fa 4 7 0 3 3) _ _ (at0 (warp0 (fun l => [l, 7])) [0, 2]) (by decide +kernel)

theorem witness_TeamReductionsExecute_2 : ¬ (∀ (w : FmtA) (s : State) (cx : Cx), Claims.At s cx →
    let outs := fun l => Claims.byMask cx w.px (destWrites l w.d w.ty 0 false)
      (fun x => redOut cx w l x (Claims.reduced s cx w)) l
    stopsOf (cx.lanes.map (fun l => (l, outs l))) = [] → False) :=
  fun h => h (fa 2 0 0 0 0) _ _ (at0 (warp0 (fun l => [l, 7])) [0, 2]) (by decide +kernel)

theorem witness_TeamReductionsExecute_3 : ¬ (∀ (w : FmtA) (s : State) (cx : Cx), Claims.At s cx →
    let outs := fun l => Claims.byMask cx w.px (destWrites l w.d w.ty 0 false)
      (fun x => redOut cx w l x (Claims.scanned s cx w (cx.lanes.takeWhile (· != l)).length)) l
    stopsOf (cx.lanes.map (fun l => (l, outs l))) = [] → False) :=
  fun h => h (fa 2 0 0 8 0) _ _ (at0 (warp0 (fun l => [l, 7])) [0, 2]) (by decide +kernel)

theorem witness_TeamReductionsExecute_4 : ¬ (∀ (w : FmtA) (s : State) (cx : Cx), Claims.At s cx →
    let same := fun l => cx.lanes.filter (fun j => (readOp s cx j w.ty w.a).v == (readOp s cx l w.ty w.a).v)
    let outs := fun l => Claims.byMask cx w.px (destWrites l w.d 3 0 false)
      (fun _ => .write (destWrites l w.d 3 (maskOf ((same l).map cx.rank))
        (cx.lanes.any (fun j => (readOp s cx j w.ty w.a).p))) 0 0) l
    stopsOf (cx.lanes.map (fun l => (l, outs l))) = [] → False) :=
  fun h => h (fa 2 0 0 0 1) _ _ (at0 (warp0 (fun l => [l, 7])) [0, 2]) (by decide +kernel)

theorem witness_BranchesGoToTheirTargets_1 : ¬ (∀ (w : FmtB) (s : State) (cx : Cx), Claims.At s cx →
    (∀ l ∈ cx.lanes, ∀ x, cx.lane? l = some x → (x.pred (w.guard.toNat % 8)).p = false) → False) :=
  fun h => h { guard := 7, u := false, disp := 4, px := none } _ _ (at0 warp0 [0]) (only0 (isLane rfl rfl))

theorem witness_BranchesGoToTheirTargets_2 : ¬ (∀ (w : FmtB) (s : State) (cx : Cx), Claims.At s cx → cx.lanes ≠ [] →
    (∀ l ∈ cx.lanes, ∃ x, cx.lane? l = some x ∧ (x.pred (w.guard.toNat % 8)).p = false) →
    let lead := Claims.taken cx w.guard cx.low
    let differ := cx.lanes.any (fun l => Claims.taken cx w.guard l != lead)
    (∀ l ∈ cx.lanes, ∀ x, cx.lane? l = some x → Claims.taken cx w.guard l ≠ lead → x.trapen.getLsbD 16 = false) → False) :=
  fun h => h { guard := 7, u := true, disp := 4, px := none } _ _ (at0 warp0 [0]) (by decide) (only0 ⟨_, rfl, rfl⟩) (only0 (isLane rfl (fun _ => rfl)))

theorem witness_BranchesGoToTheirTargets_3 : ¬ (∀ (w : FmtA) (s : State) (cx : Cx), Claims.At s cx → (∀ l ∈ cx.lanes, (cx.lane? l).isSome) →
    (∀ l ∈ cx.lanes, (readOp s cx l 3 w.a).p = false) → False) :=
  fun h => h (fa 0 2 0 0 3) _ _ (at0 warp0 [0]) (only0 rfl) (only0 rfl)

theorem witness_CallsPushAndReturnsPop_1 : ¬ (∀ (w : FmtB) (s : State) (cx : Cx), s.cx? = some cx →
    (∀ l ∈ cx.lanes, ∃ x, cx.lane? l = some x ∧ (x.pred (w.guard.toNat % 8)).p = false ∧
      (Claims.taken cx w.guard l → ∃ bs, s.canPush cx l x = .bytes bs)) →
    let t := Claims.goAll s cx (fun s l => if Claims.taken cx w.guard l then s.callFrame cx l else s)
      (fun l => if Claims.taken cx w.guard l then Claims.target w cx else cx.next)
    t.hole = none → False) :=
  fun h => h { guard := 7, u := false, disp := 4, px := none } (mach warp0 [0]) (cx0 warp0 [0]) rfl (only0 ⟨_, rfl, rfl, fun _ => ⟨_, rfl⟩⟩) (by decide +kernel)

theorem witness_CallsPushAndReturnsPop_2 : ¬ (∀ (w : FmtA) (s : State) (cx : Cx), s.cx? = some cx →
    (∀ l ∈ cx.lanes, ∃ x, cx.lane? l = some x ∧ (readOp s cx l 3 w.a).p = false ∧ ∃ bs, s.canPush cx l x = .bytes bs) →
    let t := Claims.goAll s cx (fun s l => s.callFrame cx l) (fun l => (readOp s cx l 3 w.a).v)
    t.hole = none → False) :=
  fun h => h (fa 0 2 0 0 3) (mach warp0 [0]) (cx0 warp0 [0]) rfl (only0 ⟨_, rfl, rfl, ⟨_, rfl⟩⟩) (by decide +kernel)

theorem witness_CallsPushAndReturnsPop_3 : ¬ (∀ (w : FmtA) (s : State) (cx : Cx) (frame : Nat → Word), s.cx? = some cx →
    (∀ l ∈ cx.lanes, ∃ x, cx.lane? l = some x ∧ s.frameStalls cx l x = false ∧
      (s.ready cx l x).2.ret.head? = some (frame l) ∧ isTeamFrame (frame l) = false) →
    let pop := fun (t : State) (l : Nat) =>
      match cx.lane? l with
      | none => t
      | some x =>
        let r := t.popFrame cx.ctx cx.g cx.w l (s.ready cx l x).2
        r.1.mapLane cx.wid cx.k l (fun _ => r.2)
    let t := Claims.goAll (s.readFrames cx) cx pop (fun l => frameAddr (frame l))
    t.hole = none → False) :=
  fun h => h (fa 0 0 0 0 0) (mach (onLanes (fun x => { x with ret := [0x10100] }) warp0) [0])
    (cx0 (onLanes (fun x => { x with ret := [0x10100] }) warp0) [0]) (fun _ => 0x10100) rfl
    (only0 ⟨_, rfl, by decide +kernel, rfl, by decide +kernel⟩) (by decide +kernel)

theorem witness_TeamCallsOpenAndCloseJoins_1 : ¬ (∀ (w : FmtA) (s : State) (cx : Cx) (n : Nat), s.cx? = some cx → w.c.toNat = 0x180 + n →
    let goal := (List.range n).map (fun i => readUni s cx 3 (w.a + BitVec.ofNat 9 i))
    let ws := (List.range n).map (fun i => bitsOf (readUni s cx 3 w.b).v.toNat (8 * i) 8)
    (readUni s cx 3 w.b).p = false → goal.any (·.p) = false → ws.foldl (· + ·) 0 ≠ 0 →
    (∀ l ∈ cx.lanes, ∃ x, cx.lane? l = some x ∧ x.level ≠ 31 ∧ ∃ bs, s.canOpen cx l x = .bytes bs) →
    let team := Claims.innermost cx
    let callee := fun l => (((assign 0 (shares (team l).length ws) (team l)).find? (fun p => p.1 == l)).map (·.2)).getD 0
    let records := (cx.lanes.filter (fun l => (team l).head? == some l)).map (fun l =>
      ({ level := ((cx.lane? l).map (·.level)).getD 0 + 1, members := maskOf (team l), returned := 0 } : JoinRec))
    let opened := s.mapWarp cx.wid cx.k (fun y => { y with joins := y.joins ++ records })
    let t := cx.lanes.foldl (fun s l =>
      (s.openTeam cx (maskOf ((team l).filter (fun j => callee j == callee l))) (callee l) l).mapLane cx.wid cx.k l
        (fun x => x.goto (((goal[callee l]?).map (·.v)).getD 0))) opened
    t.hole = none → False) :=
  fun h => h (fa 0 0x100 0x102 0x182 0) (mach (warp0 (s := [0x20000, 0x30000, 0x0101])) [0, 1]) (cx0 (warp0 (s := [0x20000, 0x30000, 0x0101])) [0, 1])
    2 rfl rfl (by decide +kernel) (by decide +kernel) (by decide +kernel)
    (allOf (xs := [0, 1]) rfl ⟨⟨_, rfl, by decide, _, rfl⟩, ⟨_, rfl, by decide, _, rfl⟩, trivial⟩) (by decide +kernel)



theorem witness_TeamCallsOpenAndCloseJoins_2 : ¬ (∀ (w : FmtA) (s : State) (cx : Cx), s.cx? = some cx →
    (∀ l ∈ cx.lanes, ∃ x f fs, cx.lane? l = some x ∧ x.level ≠ 0 ∧ s.frameStalls cx l x = false ∧
      (s.ready cx l x).2.ret = f :: fs ∧ isTeamFrame f = true) →
    let t := State.settleJoins cx.wid cx.k 64 ((s.readFrames cx).mapWarp cx.wid cx.k (fun y =>
      cx.lanes.foldl (fun y l =>
        { y.mapLane l (fun x => { (s.ready cx l x).2.advance cx.pc with st := .join }) with
          joins := y.joins.map (fun j =>
            if hasLane j.members l && (match y.lanes[l]? with | some x => x.level == j.level | none => false) then
              { j with returned := j.returned ||| maskOf [l] }
            else j) }) y))
    t.hole = none → False) :=
  fun h => h (fa 0 0 0 0 0) (mach (onLanes (fun x => { x with level := 1, ret := [0x8000000000010100] }) warp0) [0]) (cx0 (onLanes (fun x => { x with level := 1, ret := [0x8000000000010100] }) warp0) [0]) rfl
    (only0 ⟨_, _, _, rfl, by decide, by decide +kernel, rfl, by decide +kernel⟩) (by decide +kernel)

theorem witness_ExitEndsItems : ¬ (∀ (w : FmtA) (s : State) (cx : Cx), s.cx? = some cx →
    (∀ l ∈ cx.lanes, ∀ x, cx.lane? l = some x → x.dbg.step = false) →
    let ended := cx.lanes.foldl (fun s l =>
      match s.wg? cx.wid, s.lane? cx.wid cx.k l with
      | some g, some x =>
        if x.live then
          let s := (s.endItem g x).mapWarp cx.wid cx.k (fun y => y.exitLane l)
          s.mapCtx g.pkt.ctx (fun c => { c with evRegs := c.evRegs.filter (fun r => !(match r.waiter with
            | .lane wid k m => wid == cx.wid && k == cx.k && (s.waitersOf wid k m r.event r.target).isEmpty
            | .packet _ => false)) })
        else s
      | _, _ => s) s
    let t := ((State.settleJoins cx.wid cx.k 64 ended).mapWg cx.wid Wg.settleBarrier).tidy
    t.hole = none → False) :=
  fun h => h (fa 0 0 0 0 0) (mach warp0 [0]) (cx0 warp0 [0]) rfl (only0 (isLane rfl rfl)) (by decide +kernel)

theorem witness_BarriersAndGivingWay_1 : ¬ (∀ (arrive : Bool) (w : FmtA) (s : State) (cx : Cx) (low : Lane), Claims.At s cx → cx.lane? cx.low = some low →
    low.level = 0 → cx.k ∉ cx.g.barHere →
    let lane := fun (x : Lane) =>
      if arrive then { x.goto cx.next with st := .active }
      else { x with st := .waiting, wait := some { on := .barrier cx.g.barGen, since := s.now } }
    False) :=
  fun h => h false (fa 0 0 0 0 0) _ _ _ (at0 warp0 [0]) rfl rfl (by decide)

theorem witness_BarriersAndGivingWay_2 : ¬ (∀ (arrive : Bool) (w : FmtA) (s : State) (cx : Cx) (low : Lane) (b : BarArrival), Claims.At s cx →
    cx.lane? cx.low = some low → low.level = 0 → cx.k ∈ cx.g.barHere → cx.w.lastBar = some b →
    let late := cx.lanes.filter (fun l => b.pc == cx.pc && !hasLane b.lanes l)
    let again := cx.lanes.filter (fun l => !late.elem l)
    let lane := fun (x : Lane) =>
      if arrive then { x.goto cx.next with st := .active }
      else { x with st := .waiting, wait := some { on := .barrier b.gen, since := s.now } }
    False) :=
  fun h => h true (fa 0 0 0 1 0) (mach ({ warp0 with lastBar := some { gen := 0, pc := 0x10000, next := 0x10008, arrive := true, lanes := 1 } }) [1] (fun g => { g with barHere := [0] })) (cx0 ({ warp0 with lastBar := some { gen := 0, pc := 0x10000, next := 0x10008, arrive := true, lanes := 1 } }) [1] (fun g => { g with barHere := [0] }))
    _ _ ⟨rfl, rfl⟩ rfl rfl (by decide) rfl

theorem witness_BarriersAndGivingWay_3 : ¬ (∀ (w : FmtA) (s : State) (cx : Cx), Claims.At s cx → False) :=
  fun h => h (fa 0 0x185 0 0 0) _ _ (at0 warp0 [0])

theorem witness_BarriersAndGivingWay_4 : ¬ (∀ (w : FmtA) (s : State) (cx : Cx), Claims.At s cx → False) :=
  fun h => h (fa 0 0x185 0 0 0) _ _ (at0 warp0 [0])

theorem witness_BarriersAndGivingWay_5 : ¬ (∀ (w : FmtA) (s : State) (cx : Cx), Claims.At s cx → False) :=
  fun h => h (fa 0 0x185 0 0 0) _ _ (at0 warp0 [0])

theorem witness_HeadersNopsAndUnassignedWords_1 : ¬ (∀ (w : FmtH) (s : State) (cx : Cx), Claims.At s cx →
    (∀ h < 16, w.hwait.getLsbD h = true →
      s.handleSt ((cx.w.h[h]?).getD .invalid) ≠ .invalid ∧ s.handleSt ((cx.w.h[h]?).getD .invalid) ≠ .pending) →
    (w.barw = true → cx.w.pendBar ≠ some cx.g.barGen) → False) :=
  fun h => h { count := 3, cls := 7, hwait := 1, barw := true, yh := false } { mach ({ warp0 with h := .bound 9 0 :: List.replicate 15 .invalid }) [0] with ops := [{ op0 with id := 9, st := .ended }] } (cx0 ({ warp0 with h := .bound 9 0 :: List.replicate 15 .invalid }) [0]) ⟨rfl, rfl⟩ (by decide +kernel) (by decide)

theorem witness_HeadersNopsAndUnassignedWords_2 : ¬ (∀ (w : FmtN) (s : State) (cx : Cx), Claims.At s cx → False) :=
  fun h => h { px := none } _ _ (at0 warp0 [0])

theorem witness_HeadersNopsAndUnassignedWords_3 : ¬ (∀ (v : Word) (s : State) (cx : Cx), s.cx? = some cx →
    let stop := Stop.fault .illegal v (256 * wordMajor v + 1)
    let t := (Claims.cross s cx (fun _ => .stop stop)).stopLanes cx.wid cx.k cx.pc cx.next false
      (cx.lanes.map (fun l => (l, stop)))
    t.hole = none → False) :=
  fun h => h 0 (mach warp0 [0]) (cx0 warp0 [0]) rfl (by decide +kernel)

theorem witness_FlowInstructionsTakeEffectInLaneOrder_relabel : ¬ (∀ (i : Instr) (f : State → Nat → Lane → State × LaneOut) (s : State) (cx : Cx), s.cx? = some cx →
    Claims.flowRule cx (s.killBelow cx.ctx) i = some f → (∀ w, i = .ordrel w → s.wcQuiet cx.g.core = true ∧ s.ordrelHold cx = none) →
    let read := match i with | .flowkill _ => (s.agentGets 6 cx.ctx (s.killReads cx.ctx)).1 | _ => s
    let r := Claims.inTurn cx f read
    let u := r.1.mapWarp cx.wid cx.k (fun y => y.commit cx.next false 0 r.2)
    waitsOf r.2 = [] → stopsOf r.2 = [] → (∀ w, i ≠ .flowkill w) → u.hole = none → False) :=
  fun h => h (.relabel (fa 0 0 0x180 0 0)) _ (mach (warp0 (fun l => [l, 7])) [0, 2]) (cx0 (warp0 (fun l => [l, 7])) [0, 2]) rfl rfl (fun _ e => nomatch e) (by decide +kernel) (by decide +kernel) (fun _ e => nomatch e) (by decide +kernel)

theorem witness_FlowInstructionsTakeEffectInLaneOrder_hold : ¬ (∀ (i : Instr) (f : State → Nat → Lane → State × LaneOut) (s : State) (cx : Cx), s.cx? = some cx →
    Claims.flowRule cx (s.killBelow cx.ctx) i = some f → (∀ w, i = .ordrel w → s.wcQuiet cx.g.core = true ∧ s.ordrelHold cx = none) →
    let read := match i with | .flowkill _ => (s.agentGets 6 cx.ctx (s.killReads cx.ctx)).1 | _ => s
    let r := Claims.inTurn cx f read
    let u := r.1.mapWarp cx.wid cx.k (fun y => y.commit cx.next false 0 r.2)
    waitsOf r.2 = [] → stopsOf r.2 = [] → (∀ w, i ≠ .flowkill w) → u.hole = none → False) :=
  fun h => h (.hold (fa 0 0 0 0 0)) _ (mach (warp0 (fun l => [l, 7])) [0, 2]) (cx0 (warp0 (fun l => [l, 7])) [0, 2]) rfl rfl (fun _ e => nomatch e) (by decide +kernel) (by decide +kernel) (fun _ e => nomatch e) (by decide +kernel)

theorem witness_FlowInstructionsTakeEffectInLaneOrder_ordskip : ¬ (∀ (i : Instr) (f : State → Nat → Lane → State × LaneOut) (s : State) (cx : Cx), s.cx? = some cx →
    Claims.flowRule cx (s.killBelow cx.ctx) i = some f → (∀ w, i = .ordrel w → s.wcQuiet cx.g.core = true ∧ s.ordrelHold cx = none) →
    let read := match i with | .flowkill _ => (s.agentGets 6 cx.ctx (s.killReads cx.ctx)).1 | _ => s
    let r := Claims.inTurn cx f read
    let u := r.1.mapWarp cx.wid cx.k (fun y => y.commit cx.next false 0 r.2)
    waitsOf r.2 = [] → stopsOf r.2 = [] → (∀ w, i ≠ .flowkill w) → u.hole = none → False) :=
  fun h => h (.ordskip (fa 0 0 0 0 0)) _ (mach (warp0 (fun l => [l, 7])) [0, 2]) (cx0 (warp0 (fun l => [l, 7])) [0, 2]) rfl rfl (fun _ e => nomatch e) (by decide +kernel) (by decide +kernel) (fun _ e => nomatch e) (by decide +kernel)

theorem witness_FlowInstructionsTakeEffectInLaneOrder_flowkill : ¬ (∀ (i : Instr) (f : State → Nat → Lane → State × LaneOut) (s : State) (cx : Cx), s.cx? = some cx →
    Claims.flowRule cx (s.killBelow cx.ctx) i = some f → (∀ w, i = .ordrel w → s.wcQuiet cx.g.core = true ∧ s.ordrelHold cx = none) →
    let read := match i with | .flowkill _ => (s.agentGets 6 cx.ctx (s.killReads cx.ctx)).1 | _ => s
    let r := Claims.inTurn cx f read
    let u := r.1.mapWarp cx.wid cx.k (fun y => y.commit cx.next false 0 r.2)
    waitsOf r.2 = [] → stopsOf r.2 = [] → ∀ w, i = .flowkill w → s.killStall cx.ctx = none → (u.endKilled).tidy.hole = none → False) :=
  fun h => h (.flowkill (fa 0 0x185 0 0 0)) _ (mach (warp0 (fun l => [l, 7])) [0, 2]) (cx0 (warp0 (fun l => [l, 7])) [0, 2]) rfl rfl (fun _ e => nomatch e) (by decide +kernel) (by decide +kernel) _ rfl (by decide +kernel) (by decide +kernel)

theorem witness_FlowInstructionsTakeEffectInLaneOrder_ordrel : ¬ (∀ (i : Instr) (f : State → Nat → Lane → State × LaneOut) (s : State) (cx : Cx), s.cx? = some cx →
    Claims.flowRule cx (s.killBelow cx.ctx) i = some f → (∀ w, i = .ordrel w → s.wcQuiet cx.g.core = true ∧ s.ordrelHold cx = none) →
    let read := match i with | .flowkill _ => (s.agentGets 6 cx.ctx (s.killReads cx.ctx)).1 | _ => s
    let r := Claims.inTurn cx f read
    let u := r.1.mapWarp cx.wid cx.k (fun y => y.commit cx.next false 0 r.2)
    waitsOf r.2 = [] → stopsOf r.2 = [] → (∀ w, i ≠ .flowkill w) → u.hole = none → False) :=
  fun h => h (.ordrel (fa 0 0 0x184 0 0)) _ ({ mach (warp0 (fun l => [l, 7])) [0, 2] with rings := [{ key := { ctx := 0, q := 0, num := 0 }, ctx := 0, base := 0x280000, len := 16, count := 0 }] }) (cx0 (warp0 (fun l => [l, 7])) [0, 2]) rfl rfl (fun _ _ => ⟨by decide +kernel, by decide +kernel⟩) (by decide +kernel) (by decide +kernel) (fun _ e => nomatch e) (by decide +kernel)

/-- The page table's leaf says that its page is in repair. -/
def mending (s : State) : State :=
  { s with mem := { s.mem with hbm := Memory.write (Memory.write [] 0x1000 (leBytes 8 0x2001)) 0x2000 (leBytes 8 0xCF) } }

theorem witness_FlowInstructionsTakeEffectInLaneOrder_stalls : ¬ (∀ (i : Instr) (f : State → Nat → Lane → State × LaneOut) (s : State) (cx : Cx), s.cx? = some cx →
    Claims.flowRule cx (s.killBelow cx.ctx) i = some f → (∀ w, i = .ordrel w → s.wcQuiet cx.g.core = true ∧ s.ordrelHold cx = none) →
    let read := match i with | .flowkill _ => (s.agentGets 6 cx.ctx (s.killReads cx.ctx)).1 | _ => s
    let r := Claims.inTurn cx f read
    let u := r.1.mapWarp cx.wid cx.k (fun y => y.commit cx.next false 0 r.2)
    ∀ w p, i = .flowkill w → s.hole = none → s.killStall cx.ctx = some p → False) :=
  fun h => h (.flowkill (fa 0 0x185 0 0 0)) _ { mending (mach (warp0 (fun l => [l, 7])) [0, 2]) with pkts := [inProgress true (.launch flow0)] } (cx0 (warp0 (fun l => [l, 7])) [0, 2]) rfl rfl (fun _ e => nomatch e) _ 0x240 rfl rfl (by decide +kernel)

theorem witness_LoadsReadTheirBytes : ¬ (∀ (w : FmtM) (s : State) (cx : Cx), s.cx? = some cx →
    let su := (form (.ld w)).scalarUnit
    let plan := (actors cx su).map (loadPlan s cx su w)
    let t := Claims.accessed s cx su true w.run.toNat (fun s l _ loc =>
      (s.locTouch cx loc, .write (loadWrites l w.d (s.locBytes cx l loc (szBytes w.sz))) 0 0)) plan
    Claims.Ready s cx (drainsFirst 0 0) (fun _ => false) w.sz.toNat w.sp.toNat 0 Claims.noHold plan → t.hole = none → False) :=
  fun h => h (fl 2 0x100 0x180 3 0 1) (mach (warp0 (s := [0x20000, 0x101])) [0, 2]) (cx0 (warp0 (s := [0x20000, 0x101])) [0, 2]) rfl (ready_of (by decide +kernel)) (by decide +kernel)

theorem witness_StoresWriteTheirBytes : ¬ (∀ (w : FmtM) (s : State) (cx : Cx), s.cx? = some cx →
    let su := (form (.st w)).scalarUnit
    let drains := fun loc => w.sp != 2 && drainsFirst w.ord.toNat w.scope.toNat loc
    let plan := (actors cx su).map (fun l => guardedPlan s cx su w l (storeData s cx su l w).2 true .store)
    let t := Claims.accessed s cx su false 0 (fun s l _ loc =>
      (s.locWrite cx l (drains loc) loc (storeData s cx su l w).1, .write [] 0 0)) plan
    Claims.Ready s cx drains (fun loc => !drains loc) w.sz.toNat w.sp.toNat 1 (fun s _ a loc => fillingHold s a loc w.sz.toNat 1) plan →
    t.hole = none → False) :=
  fun h => h (fm 2 0x100 0x180 3 0 1) (mach (warp0 (s := [0x20000, 0x101])) [0, 2]) (cx0 (warp0 (s := [0x20000, 0x101])) [0, 2]) rfl (ready_of (by decide +kernel)) (by decide +kernel)

theorem witness_ConsumingLoadsReadThenConsume : ¬ (∀ (w : FmtM) (s : State) (cx : Cx), s.cx? = some cx →
    let su := (form (.ldc w)).scalarUnit
    let n := szBytes w.sz
    let plan := (actors cx su).map (loadPlan s cx su w)
    let t := (planTiles plan n).foldl (fun s t => s.mapWg t.1 (fun g => g.consume t.2))
      (Claims.accessed s cx su true w.run.toNat
        (fun s l _ loc => (s, .write (loadWrites l w.d (s.locBytes cx l loc n)) 0 0)) plan)
    Claims.Ready s cx (fun _ => false) (fun _ => false) w.sz.toNat 0 0
      (fun s _ a loc => jointHold s plan w.sz.toNat n a loc) plan →
    t.hole = none → False) :=
  fun h => h (fl 2 0x180 0x180 2 1 0) (mach warp0 [0, 2] (fun g => { g with tags := [(0, .full 1)] })) (cx0 warp0 [0, 2] (fun g => { g with tags := [(0, .full 1)] })) rfl (ready_of (by decide +kernel)) (by decide +kernel)

theorem witness_AtomicsReadModifyWrite_1 : ¬ (∀ (w : FmtM) (s : State) (cx : Cx), s.cx? = some cx →
    let su := (form (.atom w)).scalarUnit
    let op := w.disp.toNat % 16
    let nr := w.disp.getLsbD 4
    let d := fun l => readAt s cx su l (szTy w.sz) w.d
    let plan := (actors cx su).map (fun l => guardedPlan s cx su w l (d l).p false .atomic)
    let t := Claims.accessed s cx su (!nr) w.run.toNat (fun s l _ loc =>
      let r := s.rmw cx l loc (szBytes w.sz) (fun m => some (atomFn op w.sz.toNat m (d l).v.toNat))
      (r.1, .write (if nr then [] else destWrites l w.d (szTy w.sz) r.2.v r.2.p) 0 0)) plan
    Claims.Ready s cx (drainsFirst w.ord.toNat w.scope.toNat) (fun _ => false) w.sz.toNat w.sp.toNat 2 (fun s _ a loc =>
      (hostAtomic s loc (op == 0 || op == 8) a w.sz.toNat w.sp.toNat).orElse (fun _ => fillingHold s a loc w.sz.toNat 2)) plan →
    t.hole = none → False) :=
  fun h => h (fm 2 0x100 0x180 3 0 0) (mach (warp0 (s := [0x20000, 0x101])) [0, 2]) (cx0 (warp0 (s := [0x20000, 0x101])) [0, 2]) rfl (ready_of (by decide +kernel)) (by decide +kernel)

theorem witness_AtomicsReadModifyWrite_2 : ¬ (∀ (w : FmtM) (s : State) (cx : Cx), s.cx? = some cx →
    let exp := fun l => readOp s cx l (szTy w.sz) w.d
    let new := fun l => readOp s cx l (szTy w.sz) (w.d + (if w.sz == 3 then 2 else 1))
    let plan := cx.lanes.map (fun l => guardedPlan s cx false w l ((exp l).p || (new l).p) false .atomic)
    let t := Claims.accessed s cx false true w.run.toNat (fun s l _ loc =>
      let r := s.rmw cx l loc (szBytes w.sz) (fun m => if m == (exp l).v.toNat then some (new l).v.toNat else none)
      (r.1, .write (destWrites l w.d (szTy w.sz) r.2.v r.2.p) 0 0)) plan
    Claims.Ready s cx (drainsFirst w.ord.toNat w.scope.toNat) (fun _ => false) w.sz.toNat w.sp.toNat 2 (fun s _ a loc =>
      (hostAtomic s loc true a w.sz.toNat w.sp.toNat).orElse (fun _ => fillingHold s a loc w.sz.toNat 2)) plan →
    t.hole = none → False) :=
  fun h => h (fm 4 0x100 0x180 2 0 0) (mach (warp0 (s := [0x20000, 0x101])) [0, 2]) (cx0 (warp0 (s := [0x20000, 0x101])) [0, 2]) rfl (ready_of (by decide +kernel)) (by decide +kernel)

theorem witness_TagInstructionsSetAndTest_1 : ¬ (∀ (w : FmtM) (s : State) (cx : Cx), s.cx? = some cx →
    let plan := cx.lanes.map (tagPlan s cx w)
    let tiles := plan.map (fun p => match p.2 with | .ok (a, loc) => (p.1, Except.ok (a &&& ~~~0xFF, loc)) | _ => p)
    let t := Claims.accessed s cx false false 0 (fun s _ _ _ => (s, .write [] 0 0)) plan
    Claims.Ready s cx (fun _ => false) (fun _ => false) w.sz.toNat 0 0
      (fun s _ a loc => jointHold s tiles w.sz.toNat 1 (a &&& ~~~0xFF) loc) plan →
    t.hole = none → False) :=
  fun h => h (fl 0 0x180 0x180 0 1 0) (mach warp0 [0, 2] (fun g => { g with tags := [(0, .full 1)] })) (cx0 warp0 [0, 2] (fun g => { g with tags := [(0, .full 1)] })) rfl (ready_of (by decide +kernel)) (by decide +kernel)

theorem witness_TagInstructionsSetAndTest_2 : ¬ (∀ (w : FmtM) (s : State) (cx : Cx), s.cx? = some cx →
    let plan := cx.lanes.map (tagPlan s cx w)
    let n := fun l => (readOp s cx l 1 w.d).v.toNat
    let t := Claims.accessed s cx false false 0 (fun s l _ loc =>
      match loc with
      | .scr o off => (s.mapWg o (fun g => g.setTag (off / 256) (.full (n l))), .write [] 0 0)
      | _ => (s, .skip)) plan
    (∀ l ∈ cx.lanes, 1 ≤ n l ∧ n l ≤ 8) →
    Claims.Ready s cx (fun _ => false) (fun _ => false) w.sz.toNat 0 0
      (fun s _ a loc => fillingHold s (a &&& ~~~0xFF) loc w.sz.toNat 0 1) plan →
    t.hole = none → False) :=
  fun h => h (fl 0x188 0x180 0x180 0 1 0) (mach warp0 [0, 2]) (cx0 warp0 [0, 2]) rfl (by decide +kernel) (ready_of (by decide +kernel)) (by decide +kernel)

theorem witness_TagInstructionsSetAndTest_3 : ¬ (∀ (w : FmtM) (s : State) (cx : Cx), s.cx? = some cx →
    let plan := cx.lanes.map (tagPlan s cx w)
    let t := Claims.accessed s cx false false 0 (fun s _ _ loc =>
      match loc with
      | .scr o off =>
        ((if s.tag o (off / 256) = .poison then s.scrWrite o off (List.replicate 256 0) else s).mapWg o
          (fun g => g.setTag (off / 256) .empty), .write [] 0 0)
      | _ => (s, .skip)) plan
    Claims.Ready s cx (fun _ => false) (fun _ => false) w.sz.toNat 0 0
      (fun s _ a loc => fillingHold s (a &&& ~~~0xFF) loc w.sz.toNat 0 1) plan →
    t.hole = none → False) :=
  fun h => h (fl 0 0x180 0x180 0 1 0) (mach warp0 [0, 2] (fun g => { g with tags := [(0, .full 1)] })) (cx0 warp0 [0, 2] (fun g => { g with tags := [(0, .full 1)] })) rfl (ready_of (by decide +kernel)) (by decide +kernel)

theorem witness_TagInstructionsSetAndTest_4 : ¬ (∀ (w : FmtM) (s : State) (cx : Cx), s.cx? = some cx →
    let plan := cx.lanes.map (tagPlan s cx w)
    let t := Claims.accessed s cx false false 0 (fun s l _ loc =>
      match loc with
      | .scr o off => (s, .write (destWrites l w.d 1 (BitVec.ofNat 64 (s.tag o (off / 256)).value) false) 0 0)
      | _ => (s, .skip)) plan
    Claims.Ready s cx (fun _ => false) (fun _ => false) w.sz.toNat 0 0 Claims.noHold plan →
    t.hole = none → False) :=
  fun h => h (fl 2 0x180 0x180 2 1 0) (mach warp0 [0, 2] (fun g => { g with tags := [(0, .full 1)] })) (cx0 warp0 [0, 2] (fun g => { g with tags := [(0, .full 1)] })) rfl (ready_of (by decide +kernel)) (by decide +kernel)

theorem witness_CacheHintsAndFencesGoOn_1 : ¬ (∀ (i : Instr) (w : FmtM) (f : Nat → Nat → MemState → MemState) (s : State) (cx : Cx), Claims.At s cx →
    (i = .pref w ∧ f = (fun core line m =>
        if w.d.toNat % 4 = 0 then (m.fill2 line false).fill1 core line else m.fill2 line false) ∨
     i = .cctlInv1 w ∧ f = (fun core line m => { m with l1 := m.l1.filter (fun x => x != (core, line)) }) ∨
     i = .cctlInv1all w ∧ f = (fun core _ m => { m with l1 := m.l1.filter (fun x => x.1 != core) }) ∨
     i = .cctlClean2 w ∧
       f = (fun _ line m => { m with l2 := m.l2.map (fun x => if x.1 == line then (line, false) else x) }) ∨
     i = .cctlFlush2 w ∧ f = (fun _ line m => { m with l2 := m.l2.filter (fun x => x.1 != line) })) →
    let su := (form i).scalarUnit
    let ls := actors cx su
    (∀ l ∈ ls, (cx.lane? l).isSome ∧ (addrOf s cx su l w true).p = false) → cx.lanes ≠ [] → False) :=
  fun h => h (.pref (fl 0 0x100 0x180 2 0 0)) _ _ _ _ (at0 (warp0 (s := [0x20000, 0x101])) [0]) (.inl ⟨rfl, rfl⟩) (by decide +kernel) (by decide)

theorem witness_CacheHintsAndFencesGoOn_2 : ¬ (∀ (w : FmtM) (s : State) (cx : Cx), Claims.At s cx → s.wcQuiet cx.g.core = true → False) :=
  fun h => h (fl 0 0 0 0 0 0) _ _ (at0 warp0 [0]) rfl

theorem witness_EnqueuePutsPackets : ¬ (∀ (w : FmtA) (s : State) (cx : Cx), s.cx? = some cx →
    let q := fun l => (readOp s cx l 1 w.b).v.toNat
    let bytes := fun (s : State) l loc => (s.locBytes cx l loc 64).map (·.1)
    let plan := cx.lanes.map (enqPlan s cx w)
    let perform := fun (s : State) (l : Nat) (_ : Word) loc =>
      match cx.lane? l with
      | none => (s, .skip)
      | some x =>
        let s := s.locTouch cx loc
        if (s.locBytes cx l loc 64).any (·.2) then (s, flowPoison x)
        else
          let r := s.enqueue cx.ctx (q l) (bytes s l loc)
          match r.2 with
          | .error va => (r.1, .wait (.repair (va / 4096)) false)
          | .ok st => (r.1, .write (destWrites l w.d 1 (BitVec.ofNat 64 st) false) 0 0)
    let r := Claims.performed perform plan s
    let t := if cx.lanes.any (fun l => s.queueAtPeer cx.ctx (q l)) then
        (r.1.forget cx.wid cx.k (answeredLanes r.2)).commitEach cx false false 0 r.2
      else (r.1.forget cx.wid cx.k cx.lanes).commit cx false false 0 r.2
    Claims.Ready s cx (drainsFirst 0 0) (fun _ => false) 6 0 0 (fun s l _ loc =>
      match (s.enqueue cx.ctx (q l) (bytes s l loc)).2 with
      | .error va => some (.wait (.repair (va / 4096)) false)
      | .ok _ => none) plan →
    t.hole = none → False) :=
  fun h => h (fa 4 0x100 0x182 0 0) ({ mach (warp0 (s := [0x20000])) [0] with mem := { MemState.reset with hbm := Memory.write (Memory.write (Memory.write [] 0x1000 (leBytes 8 0x2001)) 0x2000 (leBytes 8 0x8F)) 0x200000 (leBytes 8 0x210000 ++ leBytes 8 0 ++ leBytes 8 0 ++ [4, 0, 1, 0, 0, 0, 0, 0]) } }) (cx0 (warp0 (s := [0x20000])) [0]) rfl (ready_of (by decide +kernel)) (by decide +kernel)

theorem witness_CopiesAndConversionsAreIssued_local : ¬ (∀ (i : Instr) (s : State) (cx : Cx) (kind : OpKind) (ev : Nat), Claims.At s cx →
    Claims.Copies s cx i kind ev ∨ (ev = 0 ∧ Claims.Converts s cx i kind) →
    Claims.CanIssue s cx (Claims.handleOf i) kind → False) :=
  fun h => h (.copyLocal (fe 1 0x100 0x101 0x102 0 0x10)) _ _ _ 0 (at0 (warp0 (s := [0, 0x20000, 256, 0x70])) [0])
    (.inl ⟨0, 0x20000, 256, .glob 0x20000, .scr 0 0, rfl, ⟨rfl, rfl, rfl, ⟨256, rfl, rfl⟩, ⟨0, rfl, rfl, .inl ⟨rfl, rfl⟩⟩, rfl, by decide, rfl, rfl⟩, rfl, side_scr rfl (by decide +kernel), rfl⟩)
    ⟨(by decide +kernel), fun _ => (by decide +kernel), (by decide +kernel)⟩

theorem witness_CopiesAndConversionsAreIssued_remote : ¬ (∀ (i : Instr) (s : State) (cx : Cx) (kind : OpKind) (ev : Nat), Claims.At s cx →
    Claims.Copies s cx i kind ev ∨ (ev = 0 ∧ Claims.Converts s cx i kind) →
    Claims.CanIssue s cx (Claims.handleOf i) kind → False) :=
  fun h => h (.copyRemote (fe 1 0x103 0x101 0x102 0x183 0x11)) _ _ _ 3 (at0 (warp0 (s := [0, 0x20000, 256, 0x5000100000000021])) [0])
    (.inl ⟨0x5000100000000021, 0x20000, 256, .glob 0x20000, rfl, ⟨rfl, rfl, rfl, ⟨256, rfl, rfl⟩, ⟨3, rfl, rfl, .inr ⟨by decide, rfl⟩⟩, rfl, by decide, rfl, rfl⟩, by decide, rfl⟩)
    ⟨(by decide +kernel), fun _ => (by decide +kernel), (by decide +kernel)⟩

theorem witness_CopiesAndConversionsAreIssued_multicast : ¬ (∀ (i : Instr) (s : State) (cx : Cx) (kind : OpKind) (ev : Nat), Claims.At s cx →
    Claims.Copies s cx i kind ev ∨ (ev = 0 ∧ Claims.Converts s cx i kind) →
    Claims.CanIssue s cx (Claims.handleOf i) kind → False) :=
  fun h => h (.copyMulticast (fe 1 0x101 0x101 0x102 0x100 0x12)) _ _ _ 3 (at0 (warp0 (s := [0x50003, 0x20000, 256])) [0])
    (.inl ⟨0x20000, 0x20000, 256, 5, .glob 0x20000, rfl, ⟨rfl, rfl, rfl, ⟨256, rfl, rfl⟩, ⟨0x50003, rfl, rfl, .inr ⟨by decide, rfl⟩⟩, rfl, by decide, rfl, rfl⟩, by decide, rfl⟩)
    ⟨(by decide +kernel), fun _ => (by decide +kernel), (by decide +kernel)⟩

theorem witness_CopiesAndConversionsAreIssued_drain : ¬ (∀ (i : Instr) (s : State) (cx : Cx) (kind : OpKind) (ev : Nat), Claims.At s cx →
    Claims.Copies s cx i kind ev ∨ (ev = 0 ∧ Claims.Converts s cx i kind) →
    Claims.CanIssue s cx (Claims.handleOf i) kind → False) :=
  fun h => h (.copyDrain (fe 1 0x185 0 0 0 0x13)) _ _ _ 0 (at0 warp0 [0])
    (.inl ⟨5, rfl, rfl, by decide, ⟨0, rfl, rfl, .inl ⟨rfl, rfl⟩⟩, rfl⟩)
    ⟨(by decide +kernel), fun _ => (by decide +kernel), (by decide +kernel)⟩

theorem witness_CopiesAndConversionsAreIssued_tcopy : ¬ (∀ (i : Instr) (s : State) (cx : Cx) (kind : OpKind) (ev : Nat), Claims.At s cx →
    Claims.Copies s cx i kind ev ∨ (ev = 0 ∧ Claims.Converts s cx i kind) →
    Claims.CanIssue s cx (Claims.handleOf i) kind → False) :=
  fun h => h (.tcopy (fe 1 0x100 0x101 0x102 0x181 0x20)) _ _ _ 0 (at0 (warp0 (s := [0, 0x20000, 0x20000000000, 0])) [0])
    (.inr ⟨rfl, 0, 0x20000, 0x20000000000, 0, 1, .glob 0x20000, .scr 0 0, rfl, rfl, rfl, rfl, rfl, rfl, by decide, by decide, by decide, by decide, by decide, rfl, rfl, rfl⟩)
    ⟨(by decide +kernel), fun _ => (by decide +kernel), (by decide +kernel)⟩

theorem witness_CopiesAndConversionsAreIssued_wnst : ¬ (∀ (i : Instr) (s : State) (cx : Cx) (kind : OpKind) (ev : Nat), Claims.At s cx →
    Claims.Copies s cx i kind ev ∨ (ev = 0 ∧ Claims.Converts s cx i kind) →
    Claims.CanIssue s cx (Claims.handleOf i) kind → False) :=
  fun h => h (.wnst (fe 1 0x100 0x101 0x102 0x190 0x18)) _ _ _ 0 (at0 (warp0 (s := [0, 0x400000, 0])) [0])
    (.inr ⟨rfl, 0, 0x400000, 0, 16, .scr 0 0, rfl, rfl, rfl, rfl, rfl, (by decide +kernel), (by decide +kernel), (by decide +kernel), (by decide +kernel), isOk (y := { frame := 0x400000, size := 30, kind := .so, target := .hbm, repair := false, x := true, w := true, rd := true }) (by decide +kernel) rfl, notHole (y := { frame := 0x400000, size := 30, kind := .so, target := .hbm, repair := false, x := true, w := true, rd := true }) (by decide +kernel), side_scr rfl (by decide +kernel), rfl⟩)
    ⟨(by decide +kernel), fun _ => (by decide +kernel), (by decide +kernel)⟩

theorem witness_MatrixCommandsAreQueued_1_mloop : ¬ (∀ (i : Instr) (s : State) (cx : Cx) (kind : OpKind), Claims.At s cx → Claims.Commands s cx i kind →
    Claims.CanIssue s cx (Claims.handleOf i) kind → False) :=
  fun h => h (.mloop (fe 1 0x100 0 0 0 0)) (mach (warp0 (s := [0x0100000100000000, 0x0100000100000500, 1, 0])) [0] (fun g => { g with acc := List.replicate 128 (List.replicate 256 0) })) (cx0 (warp0 (s := [0x0100000100000000, 0x0100000100000500, 1, 0])) [0] (fun g => { g with acc := List.replicate 128 (List.replicate 256 0) })) _ ⟨rfl, rfl⟩
    ⟨0x0100000100000000, 0x0100000100000500, 1, 0, rfl, rfl, rfl, rfl, (by decide +kernel), rfl, rfl, rfl, rfl, rfl, rfl, (by decide +kernel), (by decide +kernel), (by decide +kernel), rfl⟩ ⟨(by decide +kernel), fun _ => (by decide +kernel), (by decide +kernel)⟩

theorem witness_MatrixCommandsAreQueued_1_mzero : ¬ (∀ (i : Instr) (s : State) (cx : Cx) (kind : OpKind), Claims.At s cx → Claims.Commands s cx i kind →
    Claims.CanIssue s cx (Claims.handleOf i) kind → False) :=
  fun h => h (.mzero (fe 1 0x180 0x190 0x190 0x190 0)) _ _ _ (at0 warp0 [0])
    ⟨0, 16, 16, 16, rfl, rfl, rfl, rfl, rfl, by decide, by decide, rfl, by decide, by decide, rfl, rfl, by decide, by decide, rfl⟩ ⟨(by decide +kernel), fun _ => (by decide +kernel), (by decide +kernel)⟩

theorem witness_MatrixCommandsAreQueued_1_acst : ¬ (∀ (i : Instr) (s : State) (cx : Cx) (kind : OpKind), Claims.At s cx → Claims.Commands s cx i kind →
    Claims.CanIssue s cx (Claims.handleOf i) kind → False) :=
  fun h => h (.acst (fe 1 0x100 0x180 0x190 0x101 0)) _ _ _ (at0 (warp0 (s := [0x20000, 0x40])) [0])
    ⟨0x20000, 0, 16, 0x40, .glob 0x20000, 16, 16, 64, ⟨rfl, rfl, rfl, rfl, rfl, rfl, rfl, rfl, rfl, rfl, by decide, by decide, by decide, rfl⟩, rfl⟩ ⟨(by decide +kernel), fun _ => (by decide +kernel), (by decide +kernel)⟩

theorem witness_MatrixCommandsAreQueued_1_acld : ¬ (∀ (i : Instr) (s : State) (cx : Cx) (kind : OpKind), Claims.At s cx → Claims.Commands s cx i kind →
    Claims.CanIssue s cx (Claims.handleOf i) kind → False) :=
  fun h => h (.acld (fe 1 0x100 0x180 0x190 0x101 0)) _ _ _ (at0 (warp0 (s := [0x20000, 0x40])) [0])
    ⟨0x20000, 0, 16, 0x40, .glob 0x20000, 16, 16, 64, ⟨rfl, rfl, rfl, rfl, rfl, rfl, rfl, rfl, rfl, rfl, by decide, by decide, by decide, rfl⟩, rfl⟩ ⟨(by decide +kernel), fun _ => (by decide +kernel), (by decide +kernel)⟩

theorem witness_MatrixCommandsAreQueued_2 : ¬ (∀ (opens : Bool) (w : FmtE) (s : State) (cx : Cx), Claims.At s cx → cx.w.chain.isSome = !opens →
    s.queueRoom cx.g.core cx.wid .matrix = true →
    False) :=
  fun h => h true (fe 0 0 0 0 0 0) _ _ (at0 warp0 [0]) rfl (by decide +kernel)

theorem witness_LanesReadRecordsAndTheAccumulator_1 : ¬ (∀ (w : FmtE) (s : State) (cx : Cx) (a ph : Word), s.cx? = some cx →
    Claims.Uniform s cx 3 w.a a → Claims.Uniform s cx 1 w.b ph → ph.toNat ≤ 1 → a.toNat % 32 = 0 →
    let plan : List MemPlan := cx.lanes.map (fun l => (l, .ok (a, s.locate cx l 0 3 .load false a)))
    let t := Claims.accessed s cx false true w.run.toNat (fun s l _ loc =>
      (s.locTouch cx loc, .write (destWrites l w.d 3 (pval (s.locBytes cx l loc 8)).v (pval (s.locBytes cx l loc 8)).p) 0 0)) plan
    Claims.Ready s cx (drainsFirst 0 0) (fun _ => false) 3 0 0 (fun s l _ loc =>
      if bitsOf (pval (s.locBytes cx l loc 8)).v.toNat 24 1 = ph.toNat then none else some (.wait (.ring a ph.toNat) false)) plan →
    t.hole = none → False) :=
  fun h => h (fe 0 0x100 0x180 0 2 0) (mach (warp0 (s := [0x20000, 0x101])) [0]) (cx0 (warp0 (s := [0x20000, 0x101])) [0]) 0x20000 0 rfl rfl rfl (by decide) (by decide) (ready_of (by decide +kernel)) (by decide +kernel)

theorem witness_LanesReadRecordsAndTheAccumulator_2 : ¬ (∀ (w : FmtE) (s : State) (cx : Cx) (row col n : Word), Claims.At s cx → Claims.Uniform s cx 1 w.a row →
    Claims.Uniform s cx 1 w.b col → Claims.Uniform s cx 1 w.c n → 1 ≤ n.toNat → n.toNat ≤ 16 →
    w.d.toNat + n.toNat ≤ 8 * ((cx.g.kernel.regs + 7) / 8) → row.toNat % 16 = 0 → col.toNat % 16 = 0 →
    row.toNat + cx.w.lanes.length ≤ cx.g.acc.length → col.toNat + n.toNat ≤ 256 →
    s.accBusy cx.wid row.toNat col.toNat cx.w.lanes.length n.toNat = false → False) :=
  fun h => h (fe 0 0x180 0x190 0x190 0 0) _ _ 0 16 16 (at0 warp0 [0, 3]) rfl rfl rfl (by decide) (by decide) (by decide) rfl rfl (by decide) (by decide) (by decide +kernel)

theorem witness_LanesReadRecordsAndTheAccumulator_3 : ¬ (∀ (w : FmtE) (s : State) (cx : Cx) (row col n : Word), Claims.At s cx → Claims.Uniform s cx 1 w.a row →
    Claims.Uniform s cx 1 w.b col → Claims.Uniform s cx 1 w.c n → 1 ≤ n.toNat → n.toNat ≤ 16 →
    w.d.toNat + n.toNat ≤ 8 * ((cx.g.kernel.regs + 7) / 8) → row.toNat % 16 = 0 → col.toNat % 16 = 0 →
    row.toNat + cx.w.lanes.length ≤ cx.g.acc.length → col.toNat + n.toNat ≤ 256 →
    s.accBusy cx.wid row.toNat col.toNat cx.w.lanes.length n.toNat = false →
    let val := fun l i => readOp s cx l 1 (w.d + BitVec.ofNat 9 i)
    (∀ l ∈ cx.lanes, (cx.lane? l).isSome ∧ ∀ i < n.toNat, (val l i).p = false) → False) :=
  fun h => h (fe 0 0x180 0x190 0x182 0 0) _ _ 0 16 2 (at0 warp0 [0, 3]) rfl rfl rfl (by decide) (by decide) (by decide) rfl rfl (by decide) (by decide) (by decide +kernel) (by decide +kernel)

theorem witness_HandlesAreWaitedForTestedCancelledAndMoved_1 : ¬ (∀ (w : FmtE) (s : State) (cx : Cx) (r : OpStatus) (c : Byte), Claims.At s cx →
    s.handleSt (cx.w.handle w.h.toNat) = .left r c → False) :=
  fun h => h (fe 0 0 0 0 2 1) ({ mach ({ warp0 with h := .bound 9 6 :: List.replicate 15 .invalid }) [0] with ops := [{ op0 with id := 9, st := .ended, result := .fault, fcause := 0x21 }] }) (cx0 ({ warp0 with h := .bound 9 6 :: List.replicate 15 .invalid }) [0]) .fault 0x21 ⟨rfl, rfl⟩ rfl

theorem witness_HandlesAreWaitedForTestedCancelledAndMoved_2 : ¬ (∀ (w : FmtE) (s : State) (cx : Cx), Claims.At s cx → s.handleSt (cx.w.handle w.h.toNat) ≠ .invalid → False) :=
  fun h => h (fe 0 0 0 0 2 0) ({ mach ({ warp0 with h := .bound 9 6 :: List.replicate 15 .invalid }) [0] with ops := [{ op0 with id := 9 }] }) (cx0 ({ warp0 with h := .bound 9 6 :: List.replicate 15 .invalid }) [0]) ⟨rfl, rfl⟩ (by decide +kernel)

theorem witness_HandlesAreWaitedForTestedCancelledAndMoved_3 : ¬ (∀ (w : FmtE) (s : State) (cx : Cx) (id gen : Nat), s.cx? = some cx → cx.w.handle w.h.toNat = .bound id gen →
    let t := (Claims.cross (s.cancelOp id) cx (fun _ => .write [] 0 0)).tidy
    t.hole = none → False) :=
  fun h => h (fe 0 0 0 0 0 0) ({ mach ({ warp0 with h := .bound 9 6 :: List.replicate 15 .invalid }) [0] with ops := [{ op0 with id := 9 }] }) (cx0 ({ warp0 with h := .bound 9 6 :: List.replicate 15 .invalid }) [0]) 9 6 rfl rfl (by decide +kernel)

theorem witness_HandlesAreWaitedForTestedCancelledAndMoved_4 : ¬ (∀ (w : FmtE) (s : State) (cx : Cx) (id gen : Nat), Claims.At s cx → cx.w.handle w.h.toNat = .bound id gen → False) :=
  fun h => h (fe 0 0x102 0 0 0 0) ({ mach ({ warp0 with h := .bound 9 6 :: List.replicate 15 .invalid }) [0] with ops := [{ op0 with id := 9 }] }) (cx0 ({ warp0 with h := .bound 9 6 :: List.replicate 15 .invalid }) [0]) 9 6 ⟨rfl, rfl⟩ rfl

theorem witness_HandlesAreWaitedForTestedCancelledAndMoved_5 : ¬ (∀ (w : FmtE) (s : State) (cx : Cx) (v : Word) (wid k : Nat) (y : Warp) (id gen : Nat), Claims.At s cx →
    s.handleSt (cx.w.handle w.h.toNat) ≠ .pending → Claims.Uniform s cx 3 w.a v →
    bitsOf v.toNat 11 7 = cx.g.core % 128 → s.slot? cx.g.core (bitsOf v.toNat 4 7) = some (wid, k) → s.warp? wid k = some y →
    y.handle (bitsOf v.toNat 0 4) = .bound id gen → gen = bitsOf v.toNat 18 30 → False) :=
  fun h => h (fe 1 0x100 0 0 0 1) ({ mach ({ warp0 (s := [0x180000]) with h := .bound 9 6 :: List.replicate 15 .invalid }) [0] with ops := [{ op0 with id := 9 }] }) (cx0 ({ warp0 (s := [0x180000]) with h := .bound 9 6 :: List.replicate 15 .invalid }) [0]) (0x180000) 0 0 _ 9 6 ⟨rfl, rfl⟩ (by decide +kernel) rfl (by decide +kernel) (by decide +kernel) rfl rfl (by decide +kernel)

theorem witness_OwnershipIsPassedAndTaken_1_range : ¬ (∀ (w : FmtE) (s : State) (cx : Cx) (off n slot : Word) (kind : OpKind), s.cx? = some cx → cx.g.kernel.stages ≠ 1 →
    Claims.Uniform s cx 1 w.a off → Claims.Uniform s cx 1 w.b n → Claims.Uniform s cx 1 w.c slot → slot.toNat ≤ 15 →
    off.toNat % 256 = 0 → n.toNat % 256 = 0 →
    (if off.toNat < 2 ^ 24 then (cx.g.scratch off.toNat n.toNat).isSome ∧
        kind = .ownpass slot.toNat { slot := slot.toNat, origin := cx.wid, tile := off.toNat / 256, count := n.toNat / 256 } none
      else ∃ x, cx.g.wins.find? (fun x => 2 ^ 24 * (x.slot + 1) == off.toNat && 256 * x.count == n.toNat) = some x ∧
        kind = .ownpass slot.toNat { x with slot := slot.toNat } (some x.slot)) →
    Claims.CanIssue s cx w.h.toNat kind →
    let t := (Claims.issued s cx w.h.toNat kind 0).tidy
    t.hole = none → False) :=
  fun h => h (fe 1 0x180 0x100 0x183 0 0) (mach (warp0 (s := [256])) [0] (fun g => { g with kernel := { g.kernel with stages := 2 } })) (cx0 (warp0 (s := [256])) [0] (fun g => { g with kernel := { g.kernel with stages := 2 } })) 0 256 3 _ rfl (by decide)
    rfl rfl rfl (by decide) rfl rfl ⟨rfl, rfl⟩ ⟨(by decide +kernel), fun _ => (by decide +kernel), (by decide +kernel)⟩ (by decide +kernel)

theorem witness_OwnershipIsPassedAndTaken_1_window : ¬ (∀ (w : FmtE) (s : State) (cx : Cx) (off n slot : Word) (kind : OpKind), s.cx? = some cx → cx.g.kernel.stages ≠ 1 →
    Claims.Uniform s cx 1 w.a off → Claims.Uniform s cx 1 w.b n → Claims.Uniform s cx 1 w.c slot → slot.toNat ≤ 15 →
    off.toNat % 256 = 0 → n.toNat % 256 = 0 →
    (if off.toNat < 2 ^ 24 then (cx.g.scratch off.toNat n.toNat).isSome ∧
        kind = .ownpass slot.toNat { slot := slot.toNat, origin := cx.wid, tile := off.toNat / 256, count := n.toNat / 256 } none
      else ∃ x, cx.g.wins.find? (fun x => 2 ^ 24 * (x.slot + 1) == off.toNat && 256 * x.count == n.toNat) = some x ∧
        kind = .ownpass slot.toNat { x with slot := slot.toNat } (some x.slot)) →
    Claims.CanIssue s cx w.h.toNat kind →
    let t := (Claims.issued s cx w.h.toNat kind 0).tidy
    t.hole = none → False) :=
  fun h => h (fe 1 0x101 0x100 0x183 0 0) (mach (warp0 (s := [256, 0x3000000])) [0] (fun g => { g with kernel := { g.kernel with stages := 2 }, wins := [{ slot := 2, origin := 7, tile := 0, count := 1 }] })) (cx0 (warp0 (s := [256, 0x3000000])) [0] (fun g => { g with kernel := { g.kernel with stages := 2 }, wins := [{ slot := 2, origin := 7, tile := 0, count := 1 }] })) 0x3000000 256 3 _ rfl (by decide)
    rfl rfl rfl (by decide) rfl rfl ⟨_, rfl, rfl⟩ ⟨(by decide +kernel), fun _ => (by decide +kernel), (by decide +kernel)⟩ (by decide +kernel)

theorem witness_OwnershipIsPassedAndTaken_2 : ¬ (∀ (w : FmtE) (s : State) (cx : Cx) (slot : Word), s.cx? = some cx → Claims.Uniform s cx 1 w.c slot → slot.toNat ≤ 15 →
    Claims.CanIssue s cx w.h.toNat (.owntake slot.toNat) →
    let t := (Claims.issued s cx w.h.toNat (.owntake slot.toNat) 0).tidy
    t.hole = none → False) :=
  fun h => h (fe 1 0 0 0x183 0 0) (mach warp0 [0]) (cx0 warp0 [0]) 3 rfl rfl (by decide) ⟨(by decide +kernel), fun _ => (by decide +kernel), (by decide +kernel)⟩ (by decide +kernel)

theorem witness_EventsSignalsAndTime_1 : ¬ (∀ (w : FmtA) (s : State) (cx : Cx), Claims.At s cx →
    let su := (form (.evwait w)).scalarUnit
    let e := fun l => readAt s cx su l 1 w.a
    let t := fun l => readAt s cx su l 1 w.b
    (∀ l ∈ actors cx su, (cx.lane? l).isSome ∧ (e l).p = false ∧ (t l).p = false ∧ 1 ≤ (e l).v.toNat ∧ (e l).v.toNat < 65536 ∧
      (cx.ctx.event (e l).v.toNat - (t l).v.setWidth 32).toNat < 2 ^ 31) → False) :=
  fun h => h (fa 2 0x185 0x183 0 1) (mach warp0 [0] id ({ ctx0 with events := [(5, 3)] })) (cx0 warp0 [0] id ({ ctx0 with events := [(5, 3)] })) ⟨rfl, rfl⟩ (by decide +kernel)

theorem witness_EventsSignalsAndTime_2 : ¬ (∀ (w : FmtA) (s : State) (cx : Cx), s.cx? = some cx →
    let su := (form (.evsig w)).scalarUnit
    let e := fun l => readAt s cx su l 1 w.a
    let n := fun l => readAt s cx su l 1 w.b
    (∀ l ∈ actors cx su, (cx.lane? l).isSome ∧ (e l).p = false ∧ (n l).p = false ∧ 1 ≤ (e l).v.toNat ∧ (e l).v.toNat < 65536 ∧
      1 ≤ (n l).v.toNat ∧ (n l).v.toNat < 65536) →
    let t := Claims.spread ((actors cx su).foldl (fun s l => s.evAdd cx.ctx.num (e l).v.toNat ((n l).v.setWidth 32)) s) cx su
      false 0 (fun _ => .write [] 0 0)
    t.hole = none → False) :=
  fun h => h (fa 0 0x185 0x183 0 1) (mach warp0 [0, 1]) (cx0 warp0 [0, 1]) rfl (by decide +kernel) (by decide +kernel)

theorem witness_EventsSignalsAndTime_3 : ¬ (∀ (w : FmtA) (s : State) (cx : Cx), s.cx? = some cx →
    let su := (form (.sigadd w)).scalarUnit
    let v := fun l => (readAt s cx su l 3 w.b).v
    let plan := Claims.signalPlans s cx su w .signal
    let t := Claims.accessed s cx su false 0 (fun s l _ loc =>
      let r := (s.rmw cx l loc 8 (fun m => some ((m + (v l).toNat) % 2 ^ 64))).1
      (match loc with | .mem (p :: _) => r.wakeSignal p.sigKey | _ => r, .write [] 0 0)) plan
    Claims.SignalOperands s cx su w →
    Claims.Ready s cx (fun _ => true) (fun _ => false) 3 0 2 (fun s _ a loc => hostAtomic s loc true a 3 0) plan →
    t.hole = none → False) :=
  fun h => h (fa 0 0x100 0x183 0 2) (mach (warp0 (s := [0x20000, 0x101])) [0]) (cx0 (warp0 (s := [0x20000, 0x101])) [0]) rfl (by unfold Claims.SignalOperands; decide +kernel) (ready_of (by decide +kernel)) (by decide +kernel)

theorem witness_EventsSignalsAndTime_4 : ¬ (∀ (w : FmtA) (s : State) (cx : Cx), s.cx? = some cx →
    let su := (form (.sigwait w)).scalarUnit
    let plan := Claims.signalPlans s cx su w .await
    let m := fun (s : State) l loc => pval (s.locBytes cx l loc 8)
    let t := Claims.accessed s cx su true w.run.toNat (fun s l _ loc =>
      (s.locTouch cx loc, .write (destWrites l w.d 3 (m s l loc).v (m s l loc).p) 0 0)) plan
    Claims.SignalOperands s cx su w →
    Claims.Ready s cx (drainsFirst 0 0) (fun _ => false) 3 0 0 (fun s l _ loc =>
      if Claims.intCond (w.c.toNat % 8) (m s l loc).v.toInt (readAt s cx su l 3 w.b).v.toInt then none
      else some (.wait (.signal (loc.sigKey.getD 0) (w.c.toNat % 8) (readAt s cx su l 3 w.b).v su) true)) plan →
    t.hole = none → False) :=
  fun h => h (fa 2 0x100 0x180 5 2) (mach (warp0 (s := [0x20000, 0x101])) [0]) (cx0 (warp0 (s := [0x20000, 0x101])) [0]) rfl (by unfold Claims.SignalOperands; decide +kernel) (ready_of (by decide +kernel)) (by decide +kernel)

theorem witness_EventsSignalsAndTime_5 : ¬ (∀ (w : FmtA) (s : State) (cx : Cx), Claims.At s cx → False) :=
  fun h => h (fa 2 0 0 0 3) _ _ (at0 warp0 [0])

theorem witness_TrapsAndBreakpointsStopTheirLanes_1 : ¬ (∀ (w : FmtA) (s : State) (cx : Cx), Claims.At s cx → cx.w.trapvec ≠ 0 →
    (∀ l ∈ cx.lanes, ∃ x, cx.lane? l = some x ∧ x.handler = false) → False) :=
  fun h => h (fa 0 0x185 0 0 0) _ _ (at0 warp0 [0]) (by decide) (only0 ⟨_, rfl, rfl⟩)

theorem witness_TrapsAndBreakpointsStopTheirLanes_2 : ¬ (∀ (w : FmtA) (s : State) (cx : Cx), s.cx? = some cx →
    (∀ l ∈ cx.lanes, ∃ x, cx.lane? l = some x ∧ (cx.w.trapvec = 0 ∨ x.handler = true)) →
    let a : Word := ((readUni s cx 1 w.a).v.setWidth 32).setWidth 64
    let t := State.parkAll cx.wid cx.k cx.pc false cx.lanes.length (cx.lanes.map (fun l => (l, (Cause.trapInsn, 0, a, 0)))) s
    t.hole = none → False) :=
  fun h => h (fa 0 0x185 0 0 0) (mach (onLanes (fun x => { x with handler := true }) warp0) [0]) (cx0 (onLanes (fun x => { x with handler := true }) warp0) [0]) rfl (only0 ⟨_, rfl, .inr rfl⟩) (by decide +kernel)

theorem witness_TrapsAndBreakpointsStopTheirLanes_3 : ¬ (∀ (w : FmtA) (s : State) (cx : Cx), s.cx? = some cx →
    let t := State.parkAll cx.wid cx.k cx.pc false cx.lanes.length (cx.lanes.map (fun l => (l, (Cause.bkpt, 1, (0 : Word), 0))))
      (s.mapWarp cx.wid cx.k (fun y => y.mapLanes cx.lanes (fun x => x.advance cx.next)))
    t.hole = none → False) :=
  fun h => h (fa 0 0 0 0 0) (mach warp0 [0]) (cx0 warp0 [0]) rfl (by decide +kernel)

theorem witness_ReturnFromTrapLeavesTheHandler : ¬ (∀ (w : FmtA) (s : State) (cx : Cx), Claims.At s cx → (∀ l ∈ cx.lanes, ∃ x, cx.lane? l = some x ∧ x.handler = true) → False) :=
  fun h => h (fa 0 0 0 0 0) _ _ (at0 (onLanes (fun x => { x with handler := true }) warp0) [0]) (only0 ⟨_, rfl, rfl⟩)

theorem witness_SystemRegistersAreReadAndWritten_1 : ¬ (∀ (w : FmtA) (s : State) (cx : Cx), Claims.At s cx → (w.csr = 0x30 ∨ 0x100 ≤ w.csr → cx.ctx.priv = true) → False) :=
  fun h => h (fa 4 0 0x120 0 3) _ _ (at0 warp0 [0]) (fun _ => rfl)

theorem witness_SystemRegistersAreReadAndWritten_2 : ¬ (∀ (w : FmtA) (s : State) (cx : Cx), s.cx? = some cx → (w.csr = 0x30 ∨ 0x100 ≤ w.csr → cx.ctx.priv = true) →
    cx.lanes ≠ [] → (∀ l ∈ cx.lanes, ∃ x, cx.lane? l = some x) → (∀ l ∈ cx.lanes, (readOp s cx l w.ty w.a).p = false) →
    (∀ l ∈ cx.lanes, csrRefuses w.csr (readOp s cx l w.ty w.a).v = false) →
    let v := fun l =>
      let a := (readOp s cx l w.ty w.a).v
      match cx.lane? l with
      | some x => if csrWide w.csr && w.ty == 1 then
          csrRead s cx.ctx cx.g cx.w x w.csr &&& 0xFFFFFFFF00000000 ||| a &&& 0xFFFFFFFF else a
      | none => a
    let writers := if csrPerLane w.csr then cx.lanes else cx.lanes.getLast?.toList
    let t := Claims.cross (writers.foldl (fun s l => s.csrWrite cx.ctx.num cx.wid cx.k l w.csr (v l)) s) cx
      (fun _ => .write [] 0 0)
    t.hole = none → False) :=
  fun h => h (fa 0 7 8 0 1) (mach warp0 [0]) (cx0 warp0 [0]) rfl (fun _ => rfl) (by decide) (only0 ⟨_, rfl⟩) (by decide +kernel) (by decide +kernel) (by decide +kernel)

theorem witness_SystemRegistersAreReadAndWritten_3 : ¬ (∀ (w : FmtA) (s : State) (cx : Cx), s.cx? = some cx → (w.csr = 0x30 ∨ 0x100 ≤ w.csr) → cx.ctx.priv = false →
    (∀ l ∈ cx.lanes, ∃ x, cx.lane? l = some x) →
    let stop := Stop.fault .protection 0 0
    let t := (Claims.cross s cx (fun _ => .stop stop)).stopLanes cx.wid cx.k cx.pc cx.next false (cx.lanes.map (fun l => (l, stop)))
    t.hole = none →
    False) :=
  fun h => h (fa 0 3 0 1 3) (mach warp0 [0, 1] id { ctx0 with priv := false }) (cx0 warp0 [0, 1] id { ctx0 with priv := false }) rfl (.inr (by decide)) rfl (allOf (xs := [0, 1]) rfl ⟨⟨_, rfl⟩, ⟨_, rfl⟩, trivial⟩) (by decide +kernel)

theorem witness_PacketsAreTakenOrRefused_1_launch : ¬ (∀ (i : Instr) (kind : List Byte → Prop) (s r : State) (c : Context) (q : Nat) (d : QDesc) (bs : List Byte) (t : State)
    (b : PktBody), Claims.takes i = some (c.num, q, kind) → kind bs → Claims.Takes s c q d bs r t →
    r.checkPacket c r.launches bs = .ok b → t.pkt? { ctx := c.num, q := q, num := d.ridx } = none →
    (pktType bs = 5 → r.copyCore.isSome) →
    (Claims.accepted c q d bs t b).hole = none → False) :=
  fun h => h (.launch 0 0) _ (sched pktLaunch [(0x220000, kd0 0)]) _ ctx0 0 _ pktLaunch _ (pktOf (sched pktLaunch [(0x220000, kd0 0)]) pktLaunch) rfl (by decide +kernel) (takes0 rfl rfl (by decide +kernel) rfl (by decide +kernel) (by decide +kernel) (by decide +kernel) rfl (by decide +kernel)) (by decide +kernel) (by decide +kernel) (fun _ => (by decide +kernel)) (by decide +kernel)

theorem witness_PacketsAreTakenOrRefused_1_flowlaunch : ¬ (∀ (i : Instr) (kind : List Byte → Prop) (s r : State) (c : Context) (q : Nat) (d : QDesc) (bs : List Byte) (t : State)
    (b : PktBody), Claims.takes i = some (c.num, q, kind) → kind bs → Claims.Takes s c q d bs r t →
    r.checkPacket c r.launches bs = .ok b → t.pkt? { ctx := c.num, q := q, num := d.ridx } = none →
    (pktType bs = 5 → r.copyCore.isSome) →
    (Claims.accepted c q d bs t b).hole = none → False) :=
  fun h => h (.flowlaunch 0 0) _ (sched pktFlow [(0x220000, kd0 1), (0x240000, fqd0)]) _ ctx0 0 _ pktFlow _ (pktOf (sched pktFlow [(0x220000, kd0 1), (0x240000, fqd0)]) pktFlow) rfl (by decide +kernel) (takes0 rfl rfl (by decide +kernel) rfl (by decide +kernel) (by decide +kernel) (by decide +kernel) rfl (by decide +kernel)) (by decide +kernel) (by decide +kernel) (fun _ => (by decide +kernel)) (by decide +kernel)

theorem witness_PacketsAreTakenOrRefused_1_barrierAnd : ¬ (∀ (i : Instr) (kind : List Byte → Prop) (s r : State) (c : Context) (q : Nat) (d : QDesc) (bs : List Byte) (t : State)
    (b : PktBody), Claims.takes i = some (c.num, q, kind) → kind bs → Claims.Takes s c q d bs r t →
    r.checkPacket c r.launches bs = .ok b → t.pkt? { ctx := c.num, q := q, num := d.ridx } = none →
    (pktType bs = 5 → r.copyCore.isSome) →
    (Claims.accepted c q d bs t b).hole = none → False) :=
  fun h => h (.barrierAnd 0 0) _ (sched (pktBarrier 3) []) _ ctx0 0 _ (pktBarrier 3) _ (pktOf (sched (pktBarrier 3) []) (pktBarrier 3)) rfl (by decide +kernel) (takes0 rfl rfl (by decide +kernel) rfl (by decide +kernel) (by decide +kernel) (by decide +kernel) rfl (by decide +kernel)) (by decide +kernel) (by decide +kernel) (fun _ => (by decide +kernel)) (by decide +kernel)

theorem witness_PacketsAreTakenOrRefused_1_barrierOr : ¬ (∀ (i : Instr) (kind : List Byte → Prop) (s r : State) (c : Context) (q : Nat) (d : QDesc) (bs : List Byte) (t : State)
    (b : PktBody), Claims.takes i = some (c.num, q, kind) → kind bs → Claims.Takes s c q d bs r t →
    r.checkPacket c r.launches bs = .ok b → t.pkt? { ctx := c.num, q := q, num := d.ridx } = none →
    (pktType bs = 5 → r.copyCore.isSome) →
    (Claims.accepted c q d bs t b).hole = none → False) :=
  fun h => h (.barrierOr 0 0) _ (sched (pktBarrier 4) []) _ ctx0 0 _ (pktBarrier 4) _ (pktOf (sched (pktBarrier 4) []) (pktBarrier 4)) rfl (by decide +kernel) (takes0 rfl rfl (by decide +kernel) rfl (by decide +kernel) (by decide +kernel) (by decide +kernel) rfl (by decide +kernel)) (by decide +kernel) (by decide +kernel) (fun _ => (by decide +kernel)) (by decide +kernel)

theorem witness_PacketsAreTakenOrRefused_1_copyPacket : ¬ (∀ (i : Instr) (kind : List Byte → Prop) (s r : State) (c : Context) (q : Nat) (d : QDesc) (bs : List Byte) (t : State)
    (b : PktBody), Claims.takes i = some (c.num, q, kind) → kind bs → Claims.Takes s c q d bs r t →
    r.checkPacket c r.launches bs = .ok b → t.pkt? { ctx := c.num, q := q, num := d.ridx } = none →
    (pktType bs = 5 → r.copyCore.isSome) →
    (Claims.accepted c q d bs t b).hole = none → False) :=
  fun h => h (.copyPacket 0 0) _ (sched pktCopy []) _ ctx0 0 _ pktCopy _ (pktOf (sched pktCopy []) pktCopy) rfl (by decide +kernel) (takes0 rfl rfl (by decide +kernel) rfl (by decide +kernel) (by decide +kernel) (by decide +kernel) rfl (by decide +kernel)) (by decide +kernel) (by decide +kernel) (fun _ => (by decide +kernel)) (by decide +kernel)

theorem witness_PacketsAreTakenOrRefused_1_tickcfg : ¬ (∀ (i : Instr) (kind : List Byte → Prop) (s r : State) (c : Context) (q : Nat) (d : QDesc) (bs : List Byte) (t : State)
    (b : PktBody), Claims.takes i = some (c.num, q, kind) → kind bs → Claims.Takes s c q d bs r t →
    r.checkPacket c r.launches bs = .ok b → t.pkt? { ctx := c.num, q := q, num := d.ridx } = none →
    (pktType bs = 5 → r.copyCore.isSome) →
    (Claims.accepted c q d bs t b).hole = none → False) :=
  fun h => h (.tickcfg 0 0) _ (sched (pktTick 1000) []) _ ctx0 0 _ (pktTick 1000) _ (pktOf (sched (pktTick 1000) []) (pktTick 1000)) rfl (by decide +kernel) (takes0 rfl rfl (by decide +kernel) rfl (by decide +kernel) (by decide +kernel) (by decide +kernel) rfl (by decide +kernel)) (by decide +kernel) (by decide +kernel) (fun _ => (by decide +kernel)) (by decide +kernel)

theorem witness_PacketsAreTakenOrRefused_1_tickcfgStop : ¬ (∀ (i : Instr) (kind : List Byte → Prop) (s r : State) (c : Context) (q : Nat) (d : QDesc) (bs : List Byte) (t : State)
    (b : PktBody), Claims.takes i = some (c.num, q, kind) → kind bs → Claims.Takes s c q d bs r t →
    r.checkPacket c r.launches bs = .ok b → t.pkt? { ctx := c.num, q := q, num := d.ridx } = none →
    (pktType bs = 5 → r.copyCore.isSome) →
    (Claims.accepted c q d bs t b).hole = none → False) :=
  fun h => h (.tickcfgStop 0 0) _ (sched (pktTick 0) []) _ ctx0 0 _ (pktTick 0) _ (pktOf (sched (pktTick 0) []) (pktTick 0)) rfl (by decide +kernel) (takes0 rfl rfl (by decide +kernel) rfl (by decide +kernel) (by decide +kernel) (by decide +kernel) rfl (by decide +kernel)) (by decide +kernel) (by decide +kernel) (fun _ => (by decide +kernel)) (by decide +kernel)

theorem witness_PacketsAreTakenOrRefused_2 : ¬ (∀ (i : Instr) (kind : List Byte → Prop) (s r : State) (c : Context) (q : Nat) (d : QDesc) (bs : List Byte) (t u v : State)
    (cause : Byte) (e : Option Cause),
    Claims.takes i = some (c.num, q, kind) → kind bs → Claims.Takes s c q d bs r t →
    (r.checkPacket c r.launches bs = .refuse cause ∨ (cause = 0 ∧ (pktType bs = 0 ∨ 6 < pktType bs))) →
    (pktType bs = 5 → r.copyCore.isSome) →
    t.csig c (BitVec.ofNat 64 (field bs 64 64)) 6 (BitVec.ofNat 64 (2 ^ 63)) = .ok (u, e) →
    u.stopQueue c (Claims.packet c q d bs false .done) 1 cause = .ok v →
    v.hole = none → False) :=
  fun h => h (.unassignedPacketType 0 0) _ (sched pktNone []) _ ctx0 0 _ pktNone _ _ _ 0 _ rfl (by decide +kernel) (takes0 rfl rfl (by decide +kernel) rfl (by decide +kernel) (by decide +kernel) (by decide +kernel) rfl (by decide +kernel)) (.inr (by decide +kernel)) (fun _ => (by decide +kernel))
    (show State.csig (moved (sched pktNone []) pktNone) ctx0 0 6 (BitVec.ofNat 64 (2 ^ 63)) = .ok (moved (sched pktNone []) pktNone, none) from rfl) (tried State.reset (by decide +kernel)) (by decide +kernel)

theorem witness_PacketsStartAndComplete_1 : ¬ (∀ (ctx q n : Nat) (s : State) (c : Context) (p : Pkt) (l : Launch), s.hole = none → s.ctx? ctx = some c →
    s.pkt? { ctx := ctx, q := q, num := n } = some p → p.started = false → p.body = .launch l → l.flow = true →
    s.fqdBusy p.key l.fqd = false → False) :=
  fun h => h 0 0 0 (inMachine (inProgress false (.launch flow0)) []) ctx0 _ _ rfl rfl rfl rfl rfl rfl (by decide +kernel)

theorem witness_PacketsStartAndComplete_2 : ¬ (∀ (ctx q n : Nat) (s : State) (c : Context) (bs : List Byte), s.ctx? ctx = some c →
    s.pkt? { ctx := ctx, q := q, num := n } = none → s.agentRead 0 c (c.qtab.toNat + 32 * q + 16) 8 = .bytes bs → leNat bs = n →
    let t := (s.agentUsed 0 c (c.qtab.toNat + 32 * q + 16) 8).takePacket ctx q (fun _ => true)
    t.hole = none → False) :=
  fun h => h 0 0 0 (sched (pktBarrier 3) []) ctx0 (leBytes 8 0) rfl rfl (by decide +kernel) rfl (by decide +kernel)

theorem witness_PacketsStartAndComplete_3 : ¬ (∀ (ctx q n : Nat) (s t : State) (c : Context) (p : Pkt), s.ctx? ctx = some c → s.pkt? { ctx := ctx, q := q, num := n } = some p →
    p.started = true → p.owes = none → s.pktOver p = some none →
    (s.dropPkt p.key).csig c p.csig 0 (-1) = .ok (t, none) →
    (t.dropOps.examine c q).hole = none → False) :=
  fun h => h 0 0 0 (inMachine (inProgress true .done) []) _ ctx0 _ rfl rfl rfl rfl (by decide +kernel) (triedPair State.reset (by decide +kernel)) (by decide +kernel)

theorem witness_PacketsStartAndComplete_4_met : ¬ (∀ (ctx q n : Nat) (s : State) (c : Context) (p : Pkt) (all : Bool) (deps : List BarDep) (xs : List (Option DepSt)),
    s.ctx? ctx = some c → s.pkt? { ctx := ctx, q := q, num := n } = some p → p.started = true → p.owes = none →
    p.body = .barrier all deps → allSome (deps.map (s.depState c)) = some xs →
    let used := xs.filterMap id
    let good := used = [] ∨ (if all then ∀ x ∈ used, x = .met else ∃ x ∈ used, x = .met)
    let bad := used ≠ [] ∧ ¬ good ∧ (if all then ∃ x ∈ used, x = .failed else ∀ x ∈ used, x = .failed)
    let read := (s.agentGets 2 c (depReads deps)).1
    good → read.hole = none → False) :=
  fun h => h 0 0 0 { inMachine (inProgress true (.barrier true [.event 5 3, .unused])) [] with ctxs := [{ ctx0 with events := [(5, 3)] }] }
    { ctx0 with events := [(5, 3)] } _ true _ [some .met, none] rfl rfl rfl rfl rfl (by decide +kernel) (by decide +kernel) rfl

theorem witness_PacketsStartAndComplete_4_failed : ¬ (∀ (ctx q n : Nat) (s : State) (c : Context) (p : Pkt) (all : Bool) (deps : List BarDep) (xs : List (Option DepSt)),
    s.ctx? ctx = some c → s.pkt? { ctx := ctx, q := q, num := n } = some p → p.started = true → p.owes = none →
    p.body = .barrier all deps → allSome (deps.map (s.depState c)) = some xs →
    let used := xs.filterMap id
    let good := used = [] ∨ (if all then ∀ x ∈ used, x = .met else ∃ x ∈ used, x = .met)
    let bad := used ≠ [] ∧ ¬ good ∧ (if all then ∃ x ∈ used, x = .failed else ∀ x ∈ used, x = .failed)
    let read := (s.agentGets 2 c (depReads deps)).1
    let t := read.abortPkt c p 2 (((deps.findSome? (s.depCause c)).map Cause.code).getD 0)
    bad → t.hole = none → False) :=
  fun h => h 0 0 0 (inMachine (inProgress true (.barrier false [.signal 0x290000])) [(0x290000, leBytes 8 (2 ^ 63))])
    ctx0 _ false _ [some .failed] rfl rfl rfl rfl rfl (by decide +kernel) (by decide +kernel) (by decide +kernel)

theorem witness_QueuesAreExaminedAndTakeSlots_1_ready : ¬ (∀ (ctx q : Nat) (s : State) (c : Context), s.ctx? ctx = some c → c.saved = false → q < c.qcount →
    ((s.queue? c.num q).map (·.blocked)).getD false = false →
    let read := s.agentUsed 0 c (c.qtab.toNat + 32 * q) 32
    ∀ db, s.agentRead 0 c (c.qtab.toNat + 32 * q) 32 = .bytes db → (QDesc.ofBytes db).unfit = false → ((QDesc.ofBytes db).state = 0 → (QDesc.ofBytes db).err = 0) →
      let t := read.setReady c.num q (QDesc.ofBytes db).cls
        (s.hasStarted c.num q || decide ((QDesc.ofBytes db).state = 0 ∧ (QDesc.ofBytes db).waiting ≠ 0))
      t.hole = none → False) :=
  fun h => h 0 0 (sched (pktBarrier 3) []) ctx0 rfl rfl (by decide) rfl qd0 (by decide +kernel) (by decide +kernel) (by decide +kernel) rfl

theorem witness_QueuesAreExaminedAndTakeSlots_1_unfit : ¬ (∀ (ctx q : Nat) (s : State) (c : Context), s.ctx? ctx = some c → c.saved = false → q < c.qcount →
    ((s.queue? c.num q).map (·.blocked)).getD false = false →
    let read := s.agentUsed 0 c (c.qtab.toNat + 32 * q) 32
    ∀ db t, s.agentRead 0 c (c.qtab.toNat + 32 * q) 32 = .bytes db → (QDesc.ofBytes db).unfit = true → ¬ ((QDesc.ofBytes db).state = 2 ∧ (QDesc.ofBytes db).err = 5) → read.putQState c q 2 5 = .ok t → t.hole = none → False) :=
  fun h => h 0 1 (sched (pktBarrier 3) []) ctx0 rfl rfl (by decide) rfl (List.replicate 32 0) _ (by decide +kernel) (by decide +kernel) (by decide +kernel) (tried State.reset (by decide +kernel)) (by decide +kernel)

theorem witness_QueuesAreExaminedAndTakeSlots_1_unreadable : ¬ (∀ (ctx q : Nat) (s : State) (c : Context), s.ctx? ctx = some c → c.saved = false → q < c.qcount →
    ((s.queue? c.num q).map (·.blocked)).getD false = false →
    let read := s.agentUsed 0 c (c.qtab.toNat + 32 * q) 32
    ∀ cause a t, s.agentRead 0 c (c.qtab.toNat + 32 * q) 32 = .fail cause a → s.blockQueue c q cause = .ok t → t.hole = none → False) :=
  fun h => h 0 0 { sched (pktBarrier 3) [] with ctxs := [{ ctx0 with qtab := 0x40000000 }] } { ctx0 with qtab := 0x40000000 } rfl rfl (by decide) rfl
    .xlateMiss 0x40000000 _ (by decide +kernel) (tried State.reset (by decide +kernel)) (by decide +kernel)

theorem witness_QueuesAreExaminedAndTakeSlots_2_free : ¬ (∀ (ctx q : Nat) (s : State) (x : Queue), s.queue? ctx q = some x → s.firstWaiting x = true →
    ∀ i, (List.range 64).find? (fun i => !s.slots.any (fun y => y.slot == i)) = some i → s.hole = none → False) :=
  fun h => h 0 0 ({ sched (pktBarrier 3) [] with slots := [], queues := [{ ctx := 0, q := 0, blocked := false, cls := 2, ready := some 5 }] }) _ rfl (by decide +kernel) 0 (by decide +kernel) rfl

theorem witness_QueuesAreExaminedAndTakeSlots_2_evict : ¬ (∀ (ctx q : Nat) (s : State) (x : Queue), s.queue? ctx q = some x → s.firstWaiting x = true →
    ∀ y, (∀ i < 64, s.slots.any (fun y => y.slot == i) = true) → s.evictable x.cls = some y → ((s.evict y).mapTo x y.slot).hole = none → False) :=
  fun h => h 0 0 ({ sched (pktBarrier 3) [] with slots := ((List.range 64).map (fun i => { slot := i, ctx := 0, q := i + 1, cls := 1, since := 64 - i, holder := i == 63, due := [], sliceEnd := 0 })), queues := [{ ctx := 0, q := 0, blocked := false, cls := 2, ready := some 5 }] }) _ rfl (by decide +kernel) { slot := 63, ctx := 0, q := 64, cls := 1, since := 1, holder := true, due := [], sliceEnd := 0 } (by decide +kernel) (by decide +kernel) (by decide +kernel)

theorem witness_QueuesAreExaminedAndTakeSlots_3_waiter : ¬ (∀ (slot : Nat) (s : State) (y : Slot), s.slots.find? (fun y => y.slot == slot) = some y → y.holder = true → y.sliceEnd ≤ s.now →
    ∀ x, s.queues.find? (fun x => x.cls == y.cls && decide (y.cls < 3) && s.firstWaiting x && s.slots.length == 64) = some x → ((s.evict y).mapTo x slot).hole = none → False) :=
  fun h => h 63 ({ sched (pktBarrier 3) [] with slots := ((List.range 64).map (fun i => { slot := i, ctx := 0, q := i + 1, cls := 2, since := 64 - i, holder := i == 63, due := [], sliceEnd := 0 })), queues := [{ ctx := 0, q := 0, blocked := false, cls := 2, ready := some 5 }] }) { slot := 63, ctx := 0, q := 64, cls := 2, since := 1, holder := true, due := [], sliceEnd := 0 } (by decide +kernel) rfl (by decide)
    { ctx := 0, q := 0, blocked := false, cls := 2, ready := some 5 } (by decide +kernel) (by decide +kernel)

theorem witness_QueuesAreExaminedAndTakeSlots_3_turn : ¬ (∀ (slot : Nat) (s : State) (y : Slot), s.slots.find? (fun y => y.slot == slot) = some y → y.holder = true → y.sliceEnd ≤ s.now →
    s.hole = none → (∀ x ∈ s.queues, x.cls = y.cls → s.firstWaiting x = false) → False) :=
  fun h => h 0 { sched (pktBarrier 3) [] with time := { Time.reset with tb := 3000000 } } _ rfl rfl (by decide +kernel) rfl (by decide +kernel)

theorem witness_WorkgroupsArePlacedAndPreempted_1 : ¬ (∀ (wid core : Nat) (s t : State) (g : Wg) (x : Slot), s.wg? wid = some g → s.slotOf g.pkt.ctx g.pkt.q = some x →
    s.power.tripped = false → s.mayPlace x = true → (∃ h ∈ s.waitingOf x, h.wid ∈ s.column g) →
    s.chooseCore (s.column g) = some core → State.putAll core (s.column g) s = some t →
    let r := (s.column g).foldl State.retryJoins t
    let t := { r with slots := r.slots.map (fun (y : Slot) => { y with due := y.due.filter (fun n => !(s.column g).elem n) }) }
    let u := if g.st = .pending then t.openColumn g.pkt else t
    u.hole = none → False) :=
  fun h => h 0 0 ({ inMachine (inProgress true (.launch launch0)) [] with wgs := [{ wg0 warp0 with st := .pending, pkt := { ctx := 0, q := 0, num := 0 } }] }) _ _ _ rfl rfl rfl (by decide +kernel) (by decide +kernel) (by decide +kernel) (atSome State.reset (by decide +kernel)) (by decide +kernel)

theorem witness_WorkgroupsArePlacedAndPreempted_2 : ¬ (∀ (wid n : Nat) (s : State) (g h v : Wg) (x : Slot), s.wg? wid = some g → x ∈ s.slots → h ∈ s.waitingOf x → h.wid = n →
    s.chooseCore (s.column h) = none → s.victim x n = some v → v.wid ∈ s.column g →
    let t := (s.saveWgs (s.column g)).bumpBy 0x130 (s.column g).length
    t.hole = none → False) :=
  fun h => h 0 1 ({ inMachine (inProgress true (.launch launch0)) [] with queues := [{ ctx := 0, q := 0, blocked := false, cls := 3, ready := some 0 }], wgs := [{ wg0 warp0 with wid := 1, st := .pending, tiles := 7000 }, { wg0 warp0 with pkt := { ctx := 0, q := 1, num := 0 } }], slots := [{ slot := 0, ctx := 0, q := 0, cls := 3, since := 0, holder := true, due := [], sliceEnd := 1000 }] }) _ { wg0 warp0 with wid := 1, st := .pending, tiles := 7000 } { wg0 warp0 with pkt := { ctx := 0, q := 1, num := 0 } } { slot := 0, ctx := 0, q := 0, cls := 3, since := 0, holder := true, due := [], sliceEnd := 1000 } rfl (List.mem_singleton.mpr rfl) (by decide +kernel) rfl (by decide +kernel) (by decide +kernel) (by decide +kernel) (by decide +kernel)

/-- A flow launch whose queue has one entry waiting, of label 7 and class 1. -/
def entry0 : State := inMachine (inProgress true (.launch flow0)) [(0x240000, fqd0), (0x241000, record 16 [(0, 7), (32, 9), (64, 1)])]
def entry1 : State := (entry0.agentUsed 3 ctx0 0x240000 32).agentUsed 3 ctx0 0x241000 16

theorem entry0_moves : entry1.agentWrite ctx0 0x240010 (leBytes 8 1) = ((entry1.agentWrite ctx0 0x240010 (leBytes 8 1)).1, .bytes []) := by
  have h : (entry1.agentWrite ctx0 0x240010 (leBytes 8 1)).2 = .bytes [] := by decide +kernel
  rw [← h]

theorem witness_FlowEntriesBecomeItems_1 : ¬ (∀ (ctx q n : Nat) (s t : State) (c : Context) (p : Pkt) (l : Launch) (fb eb got : List Byte), s.ctx? ctx = some c →
    s.pkt? { ctx := ctx, q := q, num := n } = some p → p.body = .launch l → l.flow = true → p.started = true → p.aborted = false →
    p.owes = none → c.saved = false → (s.slotOf ctx q).isSome → s.offers.all (fun o => !(o.ctx == c.num && o.fqd == l.fqd)) →
    l.closed = false → s.agentRead 3 c l.fqd.toNat 32 = .bytes fb → field fb 64 64 ≠ field fb 128 64 → field fb 192 8 ≤ 20 →
    let entry := field fb 0 64 + 16 * (field fb 128 64 % 2 ^ field fb 192 8)
    let r := s.agentUsed 3 c l.fqd.toNat 32
    r.agentRead 3 c entry 16 = .bytes eb →
    let r := r.agentUsed 3 c entry 16
    let label := BitVec.ofNat 32 (field eb 0 32)
    r.kills.all (fun k => !(k.ctx == c.num && k.fqd == l.fqd && k.label == label && decide (field fb 128 64 < k.below.toNat))) →
    r.pendingOf c.num label < 2 ^ 31 →
    r.agentWrite c (l.fqd.toNat + 16) (leBytes 8 (field fb 128 64 + 1)) = (t, .bytes got) →
    let j := { t with dispatch := t.dispatch + 1 }.joinFlow c.num label (field eb 64 2) t.dispatch
    let it : Item :=
      { label := label, cls := field eb 64 2, seq := j.2, payload := BitVec.ofNat 32 (field eb 32 32), dispatch := t.dispatch }
    let u := (j.1.mapLaunch p.key (fun l =>
      { l with taken := l.taken + 1, closed := l.closed || l.budget == some (l.taken + 1) })).enrol p.key it
    u.hole = none → False) :=
  fun h => h 0 0 0 entry0 (entry1.agentWrite ctx0 0x240010 (leBytes 8 1)).1 ctx0 (inProgress true (.launch flow0)) flow0 fqd0
    (record 16 [(0, 7), (32, 9), (64, 1)]) [] rfl rfl rfl rfl rfl rfl rfl rfl rfl rfl rfl (by decide +kernel) (by decide +kernel) (by decide +kernel) (by decide +kernel) (by decide +kernel) (by decide +kernel)
    entry0_moves (by decide +kernel)

theorem witness_FlowEntriesBecomeItems_2 : ¬ (∀ (ctx q n : Nat) (s : State) (p : Pkt) (l : Launch), s.pkt? { ctx := ctx, q := q, num := n } = some p → p.body = .launch l →
    l.filling ≠ [] → l.fillAt + l.delay ≤ s.now → (s.startFlowWarp p.key).hole = none → False) :=
  fun h => h 0 0 0 (inMachine (inProgress true (.launch ({ flow0 with filling := [{ label := 7, cls := 1, seq := 0, payload := 9, dispatch := 0 }] }))) []) _ _ rfl rfl (by decide +kernel) (by decide +kernel) (by decide +kernel)

/-- The machine with an engine operation of warp 0, and memory with a page table that maps the first GiB onto itself. -/
def engine (o : Op) (f : Wg → Wg := id) (c : Context := ctx0) : State := { mach warp0 [0] f c with ops := [o] }

theorem witness_EnginesPerformAndCompleteOperations_1_copy : ¬ (∀ (id : Nat) (s : State) (o : Op) (c : Context), Claims.Running s id o c .queued → s.startHeld o = false →
    ∀ dst src n cc, o.kind = .copy dst src n cc → n ≠ 0 → (Claims.begun s o).tidy.hole = none → False) :=
  fun h => h 0 (engine ({ op0 with kind := .copy (.scr 0 0) (.glob 0x10000) 32 1, st := .queued })) ({ op0 with kind := .copy (.scr 0 0) (.glob 0x10000) 32 1, st := .queued }) ctx0 ⟨rfl, rfl, rfl⟩ (by decide +kernel) _ _ _ _ rfl (by decide) (by decide +kernel)

theorem witness_EnginesPerformAndCompleteOperations_1_tcopy : ¬ (∀ (id : Nat) (s : State) (o : Op) (c : Context), Claims.Running s id o c .queued → s.startHeld o = false →
    ∀ dst src d cc, o.kind = .tcopy dst src d cc → (Claims.begun s o).tidy.hole = none → False) :=
  fun h => h 0 (engine ({ op0 with kind := .tcopy (.scr 0 0) (.glob 0x10000) { fmt := 0, planes := 1, se := 0, pitch := 0, spitch := 0, scale := 0, panels := 1 } 1, st := .queued })) ({ op0 with kind := .tcopy (.scr 0 0) (.glob 0x10000) { fmt := 0, planes := 1, se := 0, pitch := 0, spitch := 0, scale := 0, panels := 1 } 1, st := .queued }) ctx0 ⟨rfl, rfl, rfl⟩ (by decide +kernel) _ _ _ _ rfl (by decide +kernel)

theorem witness_EnginesPerformAndCompleteOperations_1_remote : ¬ (∀ (id : Nat) (s : State) (o : Op) (c : Context), Claims.Running s id o c .queued → s.startHeld o = false →
    ∀ multi ts src n cc, o.kind = .remote none multi ts src n cc → ((Claims.begun s o).endRemote o.id).tidy.hole = none → False) :=
  fun h => h 0 (engine ({ op0 with kind := .remote none true [(0, { peer := 3, alloc := 5, off := 0 })] (.scr 0 0) 32 1, st := .queued })) ({ op0 with kind := .remote none true [(0, { peer := 3, alloc := 5, off := 0 })] (.scr 0 0) 32 1, st := .queued }) ctx0 ⟨rfl, rfl, rfl⟩ (by decide +kernel) _ _ _ _ _ rfl (by decide +kernel)

theorem witness_EnginesPerformAndCompleteOperations_1_drain : ¬ (∀ (id : Nat) (s : State) (o : Op) (c : Context), Claims.Running s id o c .queued → s.startHeld o = false →
    ∀ p, o.kind = .drain p → (s.startDrain o p).tidy.hole = none → False) :=
  fun h => h 0 (engine ({ op0 with kind := .drain 3, st := .queued })) ({ op0 with kind := .drain 3, st := .queued }) ctx0 ⟨rfl, rfl, rfl⟩ (by decide +kernel) _ rfl (by decide +kernel)

theorem witness_EnginesPerformAndCompleteOperations_1_wnst : ¬ (∀ (id : Nat) (s : State) (o : Op) (c : Context), Claims.Running s id o c .queued → s.startHeld o = false →
    ∀ src last region base count, o.kind = .wnst src last region base count → o.header = [] → (s.winnowStart o c region base count).tidy.hole = none → False) :=
  fun h => h 0 (engine ({ op0 with kind := .wnst (.scr 0 0) true 0x400000 0 16, st := .queued })) ({ op0 with kind := .wnst (.scr 0 0) true 0x400000 0 16, st := .queued }) ctx0 ⟨rfl, rfl, rfl⟩ (by decide +kernel) _ _ _ _ _ rfl rfl (by decide +kernel)

theorem witness_EnginesPerformAndCompleteOperations_1_empty : ¬ (∀ (id : Nat) (s : State) (o : Op) (c : Context), Claims.Running s id o c .queued → s.startHeld o = false →
    ∀ dst src cc, o.kind = .copy dst src 0 cc → (s.settle o.id .ok 0 0).tidy.hole = none → False) :=
  fun h => h 0 (engine ({ op0 with kind := .copy (.scr 0 0) (.glob 0x10000) 0 1, st := .queued })) ({ op0 with kind := .copy (.scr 0 0) (.glob 0x10000) 0 1, st := .queued }) ctx0 ⟨rfl, rfl, rfl⟩ (by decide +kernel) _ _ _ rfl (by decide +kernel)

theorem witness_EnginesPerformAndCompleteOperations_1_table : ¬ (∀ (id : Nat) (s : State) (o : Op) (c : Context), Claims.Running s id o c .queued → s.startHeld o = false →
    ∀ a map multi ts src n cc, o.kind = .remote (some (a, map)) multi ts src n cc → ((Claims.begun s o).readTable o c a map src n cc).tidy.hole = none → False) :=
  fun h => h 0 (engine ({ op0 with kind := .remote (some (0x10000, 8)) true [] (.scr 0 0) 32 1, st := .queued })) ({ op0 with kind := .remote (some (0x10000, 8)) true [] (.scr 0 0) 32 1, st := .queued }) ctx0 ⟨rfl, rfl, rfl⟩ (by decide +kernel) _ _ _ _ _ _ _ rfl (by decide +kernel)

theorem witness_EnginesPerformAndCompleteOperations_3_remote : ¬ (∀ (id u n : Nat) (s t : State) (o : Op) (c : Context), Claims.Running s id o c .started → Claims.UnitFree s o u →
    Claims.unitOf s o c u = some (n, t) → u < n → t.tidy.hole = none → False) :=
  fun h => h 0 0 _ (engine ({ op0 with kind := .remote none true [(0, { peer := 3, alloc := 5, off := 0 })] (.scr 0 0) 32 1, st := .started }) ) _ ({ op0 with kind := .remote none true [(0, { peer := 3, alloc := 5, off := 0 })] (.scr 0 0) 32 1, st := .started }) ctx0 ⟨rfl, rfl, rfl⟩ ⟨by decide, (by decide +kernel), rfl⟩ rfl (by decide) (by decide +kernel)

theorem witness_EnginesPerformAndCompleteOperations_3_tcopy : ¬ (∀ (id u n : Nat) (s t : State) (o : Op) (c : Context), Claims.Running s id o c .started → Claims.UnitFree s o u →
    Claims.unitOf s o c u = some (n, t) → u < n → t.tidy.hole = none → False) :=
  fun h => h 0 0 _ (engine ({ op0 with kind := .tcopy (.scr 0 0) (.scr 0 256) { fmt := 0, planes := 1, se := 0, pitch := 0, spitch := 0, scale := 0, panels := 1 } 1, st := .started }) (fun g => g.setTag 1 (.full 1))) _ ({ op0 with kind := .tcopy (.scr 0 0) (.scr 0 256) { fmt := 0, planes := 1, se := 0, pitch := 0, spitch := 0, scale := 0, panels := 1 } 1, st := .started }) ctx0 ⟨rfl, rfl, rfl⟩ ⟨by decide, (by decide +kernel), rfl⟩ rfl (by decide) (by decide +kernel)

theorem witness_EnginesPerformAndCompleteOperations_3_wnst : ¬ (∀ (id u n : Nat) (s t : State) (o : Op) (c : Context), Claims.Running s id o c .started → Claims.UnitFree s o u →
    Claims.unitOf s o c u = some (n, t) → u < n → t.tidy.hole = none → False) :=
  fun h => h 0 0 _ (engine ({ op0 with kind := .wnst (.glob 0x10000) true 0x400000 0 16, st := .started }) ) _ ({ op0 with kind := .wnst (.glob 0x10000) true 0x400000 0 16, st := .started }) ctx0 ⟨rfl, rfl, rfl⟩ ⟨by decide, (by decide +kernel), rfl⟩ rfl (by decide) (by decide +kernel)

theorem witness_EnginesPerformAndCompleteOperations_3_acst : ¬ (∀ (id u n : Nat) (s t : State) (o : Op) (c : Context), Claims.Running s id o c .started → Claims.UnitFree s o u →
    Claims.unitOf s o c u = some (n, t) → u < n → t.tidy.hole = none → False) :=
  fun h => h 0 0 _ (engine ({ op0 with kind := .acst (.glob 0x10000) 0 0 16 16 64 0, st := .started }) ) _ ({ op0 with kind := .acst (.glob 0x10000) 0 0 16 16 64 0, st := .started }) ctx0 ⟨rfl, rfl, rfl⟩ ⟨by decide, (by decide +kernel), rfl⟩ rfl (by decide) (by decide +kernel)

theorem witness_EnginesPerformAndCompleteOperations_3_acld : ¬ (∀ (id u n : Nat) (s t : State) (o : Op) (c : Context), Claims.Running s id o c .started → Claims.UnitFree s o u →
    Claims.unitOf s o c u = some (n, t) → u < n → t.tidy.hole = none → False) :=
  fun h => h 0 0 _ (engine ({ op0 with kind := .acld (.glob 0x10000) 0 0 16 16 64 0, st := .started }) ) _ ({ op0 with kind := .acld (.glob 0x10000) 0 0 16 16 64 0, st := .started }) ctx0 ⟨rfl, rfl, rfl⟩ ⟨by decide, (by decide +kernel), rfl⟩ rfl (by decide) (by decide +kernel)

theorem witness_EnginesPerformAndCompleteOperations_4 : ¬ (∀ (id u n cc map : Nat) (a : Word) (multi : Bool) (ts : List (Nat × Member)) (src : Ep) (s : State) (o : Op) (c : Context),
    Claims.Running s id o c .started → Claims.UnitFree s o u → o.kind = .remote (some (a, map)) multi ts src n cc →
    (s.readTable o c a map src n cc).hole = none → False) :=
  fun h => h 0 0 32 1 8 0x10000 true [] (.scr 0 0) (engine ({ op0 with kind := .remote (some (0x10000, 8)) true [] (.scr 0 0) 32 1, st := .started })) ({ op0 with kind := .remote (some (0x10000, 8)) true [] (.scr 0 0) 32 1, st := .started }) ctx0 ⟨rfl, rfl, rfl⟩ ⟨by decide, (by decide +kernel), rfl⟩ rfl (by decide +kernel)

/-- A copy of 32 bytes of memory under way. -/
def copying : Op := { op0 with kind := .copy (.glob 0x20000) (.scr 0 0) 32 1, st := .started }

theorem copying_writes : (engine copying (fun g => g.setTag 0 (.full 1))).epDst copying ctx0 0 (.glob 0x20000) 0 (List.replicate 16 (0, false)) =
    (((engine copying (fun g => g.setTag 0 (.full 1))).epDst copying ctx0 0 (.glob 0x20000) 0 (List.replicate 16 (0, false))).1, true) := by
  have h : ((engine copying (fun g => g.setTag 0 (.full 1))).epDst copying ctx0 0 (.glob 0x20000) 0 (List.replicate 16 (0, false))).2 = true := by decide +kernel
  rw [← h]

theorem witness_EnginesPerformAndCompleteOperations_2 : ¬ (∀ (id u : Nat) (s t : State) (o : Op) (c : Context) (dst src : Ep) (n cc : Nat) (bs : List PByte),
    Claims.Running s id o c .started → Claims.UnitFree s o u → o.kind = .copy dst src n cc → u < n / 16 →
    s.epSrc o c u src (16 * u) 16 = .bytes bs → s.epDst o c u dst (16 * u) bs = (t, true) →
    let r := (((t.epTouch o c false src (16 * u) 16).bumpBy 0x123 16).unitDone id u 16 (n / 16)).tidy
    r.hole = none → False) :=
  fun h => h 0 0 (engine copying (fun g => g.setTag 0 (.full 1))) _ copying ctx0 (.glob 0x20000) (.scr 0 0) 32 1 (List.replicate 16 (0, false)) ⟨rfl, rfl, rfl⟩ ⟨by decide, (by decide +kernel), rfl⟩ rfl (by decide) (by decide +kernel) copying_writes (by decide +kernel)

theorem witness_EnginesPerformAndCompleteOperations_5_mzero : ¬ (∀ (core : Nat) (s : State) (o : Op),
    s.ops.find? (fun o => o.core == core && o.kind.queue == .matrix && o.st == .queued && s.matrixFree o) = some o →
    ∀ row col rows cols, o.kind = .mzero row col rows cols → ((s.accMap o.wid row col rows cols (fun _ _ _ => 0)).settle o.id .ok 0 0).tidy.hole = none → False) :=
  fun h => h 0 (engine ({ op0 with kind := .mzero 0 0 16 16, st := .queued })) _ rfl _ _ _ _ rfl (by decide +kernel)

theorem witness_EnginesPerformAndCompleteOperations_5_chain : ¬ (∀ (core : Nat) (s : State) (o : Op),
    s.ops.find? (fun o => o.core == core && o.kind.queue == .matrix && o.st == .queued && s.matrixFree o) = some o →
    ∀ b, o.kind = .chain b → ((s.settle o.id .ok 0 0).tidy).hole = none → False) :=
  fun h => h 0 (engine ({ op0 with kind := .chain true, st := .queued })) _ rfl _ rfl (by decide +kernel)

theorem witness_EnginesPerformAndCompleteOperations_5_mloop : ¬ (∀ (core : Nat) (s : State) (o : Op),
    s.ops.find? (fun o => o.core == core && o.kind.queue == .matrix && o.st == .queued && s.matrixFree o) = some o →
    (∃ d, o.kind = .mloop d) ∨ (∃ mem row col rows cols pitch fmt, o.kind = .acst mem row col rows cols pitch fmt ∨ o.kind = .acld mem row col rows cols pitch fmt) → s.hole = none → False) :=
  fun h => h 0 (engine ({ op0 with kind := .mloop ({ a := { wp := 1, step := 1, start := 0, count := 1, base := 0, ds := false, reads := 1 }, b := { wp := 1, step := 1, start := 0, count := 1, base := 1280, ds := false, reads := 1 }, row0 := 0, col0 := 0, ksteps := 2, rowinc := 0, colinc := 0, kper := 2 }), st := .queued })) _ rfl (.inl ⟨_, rfl⟩) (by decide +kernel)

theorem witness_EnginesPerformAndCompleteOperations_5_acst : ¬ (∀ (core : Nat) (s : State) (o : Op),
    s.ops.find? (fun o => o.core == core && o.kind.queue == .matrix && o.st == .queued && s.matrixFree o) = some o →
    (∃ d, o.kind = .mloop d) ∨ (∃ mem row col rows cols pitch fmt, o.kind = .acst mem row col rows cols pitch fmt ∨ o.kind = .acld mem row col rows cols pitch fmt) → s.hole = none → False) :=
  fun h => h 0 (engine ({ op0 with kind := .acst (.glob 0x10000) 0 0 16 16 64 0, st := .queued })) _ rfl (.inr ⟨_, _, _, _, _, _, _, .inl rfl⟩) (by decide +kernel)

theorem witness_EnginesPerformAndCompleteOperations_5_acld : ¬ (∀ (core : Nat) (s : State) (o : Op),
    s.ops.find? (fun o => o.core == core && o.kind.queue == .matrix && o.st == .queued && s.matrixFree o) = some o →
    (∃ d, o.kind = .mloop d) ∨ (∃ mem row col rows cols pitch fmt, o.kind = .acst mem row col rows cols pitch fmt ∨ o.kind = .acld mem row col rows cols pitch fmt) → s.hole = none → False) :=
  fun h => h 0 (engine ({ op0 with kind := .acld (.glob 0x10000) 0 0 16 16 64 0, st := .queued })) _ rfl (.inr ⟨_, _, _, _, _, _, _, .inr rfl⟩) (by decide +kernel)

/-- A matrix loop of 2 k-steps under way. -/
def looping2 : Op := { op0 with kind := .mloop ({ a := { wp := 1, step := 1, start := 0, count := 1, base := 0, ds := false, reads := 1 }, b := { wp := 1, step := 1, start := 0, count := 1, base := 1280, ds := false, reads := 1 }, row0 := 0, col0 := 0, ksteps := 2, rowinc := 0, colinc := 0, kper := 2 }), st := .started }

/-- A matrix loop of 1 k-steps under way. -/
def looping1 : Op := { op0 with kind := .mloop ({ a := { wp := 1, step := 1, start := 0, count := 1, base := 0, ds := false, reads := 1 }, b := { wp := 1, step := 1, start := 0, count := 1, base := 1280, ds := false, reads := 1 }, row0 := 0, col0 := 0, ksteps := 1, rowinc := 0, colinc := 0, kper := 2 }), st := .started }

theorem witness_EnginesPerformAndCompleteOperations_6_waits : ¬ (∀ (id j : Nat) (s : State) (o : Op) (g : Wg) (d : MloopDesc), s.op? id = some o → o.kind = .mloop d → s.wg? o.wid = some g →
    o.st = .started → j < d.ksteps → j ∉ o.units → Claims.NextStep s o g j → s.stepFree o d j = true →
    let tiles := (d.a.tiles j ++ d.b.tiles j).foldl (fun acc t => if acc.elem t then acc else acc ++ [t]) []
    ∀ x, tiles.find? (fun t => !(g.tag t).ready) = some x → s.hole = none → False) :=
  fun h => h 0 0 (engine looping2) looping2 _ _ rfl rfl rfl rfl (by decide) (by decide) (.inl ⟨rfl, rfl⟩) (by decide +kernel) 0 (by decide +kernel) (by decide +kernel)

theorem witness_EnginesPerformAndCompleteOperations_6_more : ¬ (∀ (id j : Nat) (s : State) (o : Op) (g : Wg) (d : MloopDesc), s.op? id = some o → o.kind = .mloop d → s.wg? o.wid = some g →
    o.st = .started → j < d.ksteps → j ∉ o.units → Claims.NextStep s o g j → s.stepFree o d j = true →
    let tiles := (d.a.tiles j ++ d.b.tiles j).foldl (fun acc t => if acc.elem t then acc else acc ++ [t]) []
    (∀ t ∈ tiles, (g.tag t).ready = true) →
    let rows := (d.a.marks g (d.a.slotAt j)).map (· + 128 * (j / d.kper))
    let cols := (d.b.marks g (d.b.slotAt j)).map (· + 128 * (j / d.kper))
    let t := ((((s.applyStep o g d j).mapWg g.wid (fun g => tiles.foldl Wg.consume g)).bump 0x122).mapOp id (fun o =>
      { o with units := o.units ++ [j], rowMarks := o.rowMarks ++ rows.filter (fun x => !o.rowMarks.elem x),
               colMarks := o.colMarks ++ cols.filter (fun x => !o.colMarks.elem x), waitAt := none }))
    o.units.length + 1 < d.ksteps → t.hole = none → False) :=
  fun h => h 0 0 (engine looping2 (fun g => { g with tags := (List.range 10).map (fun t => (t, .full 1)) })) looping2 _ _ rfl rfl rfl rfl (by decide) (by decide) (.inl ⟨rfl, rfl⟩) (by decide +kernel) (by decide +kernel) (by decide) (by decide +kernel)

theorem witness_EnginesPerformAndCompleteOperations_6_last : ¬ (∀ (id j : Nat) (s : State) (o : Op) (g : Wg) (d : MloopDesc), s.op? id = some o → o.kind = .mloop d → s.wg? o.wid = some g →
    o.st = .started → j < d.ksteps → j ∉ o.units → Claims.NextStep s o g j → s.stepFree o d j = true →
    let tiles := (d.a.tiles j ++ d.b.tiles j).foldl (fun acc t => if acc.elem t then acc else acc ++ [t]) []
    (∀ t ∈ tiles, (g.tag t).ready = true) →
    let rows := (d.a.marks g (d.a.slotAt j)).map (· + 128 * (j / d.kper))
    let cols := (d.b.marks g (d.b.slotAt j)).map (· + 128 * (j / d.kper))
    let t := ((((s.applyStep o g d j).mapWg g.wid (fun g => tiles.foldl Wg.consume g)).bump 0x122).mapOp id (fun o =>
      { o with units := o.units ++ [j], rowMarks := o.rowMarks ++ rows.filter (fun x => !o.rowMarks.elem x),
               colMarks := o.colMarks ++ cols.filter (fun x => !o.colMarks.elem x), waitAt := none }))
    ∀ p, o.units.length + 1 = d.ksteps → t.op? id = some p →
      let r : OpStatus := if p.rowMarks.isEmpty && p.colMarks.isEmpty && !p.pois then .ok else .poisoned
      let u := ((t.drainMloop p d).settle id r 0 0).tidy
      u.hole = none → False) :=
  fun h => h 0 0 (engine looping1 (fun g => { g with tags := (List.range 10).map (fun t => (t, .full 1)) })) looping1 _ _ rfl rfl rfl rfl (by decide) (by decide) (.inl ⟨rfl, rfl⟩) (by decide +kernel) (by decide +kernel) _ (by decide) rfl (by decide +kernel)

theorem record_written : (engine ({ op0 with kind := .copy (.scr 0 0) (.glob 0x10000) 32 1, st := .done })).agentWrite ctx0 (ctx0.recordAt 0 0) (({ op0 with kind := .copy (.scr 0 0) (.glob 0x10000) 32 1, st := .done }).record 0 (phaseOf 0 ctx0.crlen)) =
    (((engine ({ op0 with kind := .copy (.scr 0 0) (.glob 0x10000) 32 1, st := .done })).agentWrite ctx0 (ctx0.recordAt 0 0) (({ op0 with kind := .copy (.scr 0 0) (.glob 0x10000) 32 1, st := .done }).record 0 (phaseOf 0 ctx0.crlen))).1, .bytes []) := by
  have h : ((engine ({ op0 with kind := .copy (.scr 0 0) (.glob 0x10000) 32 1, st := .done })).agentWrite ctx0 (ctx0.recordAt 0 0) (({ op0 with kind := .copy (.scr 0 0) (.glob 0x10000) 32 1, st := .done }).record 0 (phaseOf 0 ctx0.crlen))).2 = .bytes [] := by
    decide +kernel
  rw [← h]

theorem witness_EnginesPerformAndCompleteOperations_7_silent : ¬ (∀ (id : Nat) (s : State) (o : Op) (c : Context), Claims.Running s id o c .done → s.ahead o = [] →
    (∀ a ∈ s.ops, a.id < id → a.wid = o.wid → a.kind.queue = o.kind.queue → a.st = .ended) → o.held = [] →
    (∀ r ∈ s.fab.remote, r.wid = id → r.warp = 2001 → r.answer ≠ none) →
    let f := { s with fab := { s.fab with remote := s.fab.remote.filter (fun r => !(r.ofOp id && (2000 ≤ r.warp || r.answer.isSome))) } }
    let ends := fun (t : State) => ((t.mapOp id (fun o => { o with st := .ended })).evAdd o.ctx o.event 1).tidy
    o.rnum = none → (ends f).hole = none → False) :=
  fun h => h 0 (engine ({ op0 with kind := .copy (.scr 0 0) (.glob 0x10000) 32 1, st := .done, rnum := none })) ({ op0 with kind := .copy (.scr 0 0) (.glob 0x10000) 32 1, st := .done, rnum := none }) ctx0 ⟨rfl, rfl, rfl⟩ (by decide +kernel) (by decide +kernel) rfl (by decide) rfl (by decide +kernel)

theorem witness_EnginesPerformAndCompleteOperations_7_record : ¬ (∀ (id : Nat) (s : State) (o : Op) (c : Context), Claims.Running s id o c .done → s.ahead o = [] →
    (∀ a ∈ s.ops, a.id < id → a.wid = o.wid → a.kind.queue = o.kind.queue → a.st = .ended) → o.held = [] →
    (∀ r ∈ s.fab.remote, r.wid = id → r.warp = 2001 → r.answer ≠ none) →
    let f := { s with fab := { s.fab with remote := s.fab.remote.filter (fun r => !(r.ofOp id && (2000 ≤ r.warp || r.answer.isSome))) } }
    let ends := fun (t : State) => ((t.mapOp id (fun o => { o with st := .ended })).evAdd o.ctx o.event 1).tidy
    ∀ x t got, o.rnum = some x → f.agentWrite c (c.recordAt o.home x) (o.record s.now (phaseOf x c.crlen)) o.core o.slot = (t, .bytes got) → (ends t).hole = none → False) :=
  fun h => h 0 (engine ({ op0 with kind := .copy (.scr 0 0) (.glob 0x10000) 32 1, st := .done })) ({ op0 with kind := .copy (.scr 0 0) (.glob 0x10000) 32 1, st := .done }) ctx0 ⟨rfl, rfl, rfl⟩ (by decide +kernel) (by decide +kernel) rfl (by decide) 0 _ [] rfl record_written (by decide +kernel)

/-- Context 0 with its completion rings on a page that is not mapped. -/
def lost0 : Context := { ctx0 with cring := 0x80000000 }

theorem record_missed : (engine ({ op0 with kind := .copy (.scr 0 0) (.glob 0x10000) 32 1, st := .done }) id lost0).agentWrite lost0 (lost0.recordAt 0 0) (({ op0 with kind := .copy (.scr 0 0) (.glob 0x10000) 32 1, st := .done }).record 0 (phaseOf 0 ctx0.crlen)) =
    (((engine ({ op0 with kind := .copy (.scr 0 0) (.glob 0x10000) 32 1, st := .done }) id lost0).agentWrite lost0 (lost0.recordAt 0 0) (({ op0 with kind := .copy (.scr 0 0) (.glob 0x10000) 32 1, st := .done }).record 0 (phaseOf 0 ctx0.crlen))).1, .fail .xlateMiss 0x80000000) := by
  have h : ((engine ({ op0 with kind := .copy (.scr 0 0) (.glob 0x10000) 32 1, st := .done }) id lost0).agentWrite lost0 (lost0.recordAt 0 0) (({ op0 with kind := .copy (.scr 0 0) (.glob 0x10000) 32 1, st := .done }).record 0 (phaseOf 0 ctx0.crlen))).2 = .fail .xlateMiss 0x80000000 := by
    decide +kernel
  rw [← h]

theorem witness_EnginesPerformAndCompleteOperations_7_missed : ¬ (∀ (id : Nat) (s : State) (o : Op) (c : Context), Claims.Running s id o c .done → s.ahead o = [] →
    (∀ a ∈ s.ops, a.id < id → a.wid = o.wid → a.kind.queue = o.kind.queue → a.st = .ended) → o.held = [] →
    (∀ r ∈ s.fab.remote, r.wid = id → r.warp = 2001 → r.answer ≠ none) →
    let f := { s with fab := { s.fab with remote := s.fab.remote.filter (fun r => !(r.ofOp id && (2000 ≤ r.warp || r.answer.isSome))) } }
    let ends := fun (t : State) => ((t.mapOp id (fun o => { o with st := .ended })).evAdd o.ctx o.event 1).tidy
    ∀ x t a, o.rnum = some x → f.agentWrite c (c.recordAt o.home x) (o.record s.now (phaseOf x c.crlen)) o.core o.slot = (t, .fail .xlateMiss a) → (t.holdUnit o a 1).hole = none → False) :=
  fun h => h 0 (engine ({ op0 with kind := .copy (.scr 0 0) (.glob 0x10000) 32 1, st := .done }) id lost0) ({ op0 with kind := .copy (.scr 0 0) (.glob 0x10000) 32 1, st := .done }) lost0 ⟨rfl, rfl, rfl⟩ (by decide +kernel) (by decide +kernel) rfl (by decide) 0 _ 0x80000000 rfl record_missed (by decide +kernel)

/-- The last part of a row of 16 elements, performed. -/
def winnowing : Op := { op0 with kind := .wnst (.scr 0 0) true 0x400000 0 16, st := .started, header := record 64 [(0, 1), (128, 0), (149, 0), (152, 8), (160, 1), (192, 0x3F800000), (224, 16)], units := List.range 16 }

theorem witness_EnginesPerformAndCompleteOperations_8 : ¬ (∀ (id pa : Nat) (s : State) (o : Op) (c : Context) (src : Ep) (region : Word) (base count : Nat) (row : List (Nat × W32)) (bad : Bool),
    Claims.Running s id o c .started → o.kind = .wnst src true region base count → o.units.length = count →
    (∀ p ∈ s.ops, p.id < id → p.wid = o.wid → p.warp = o.warp → (p.st = .done ∨ p.st = .ended) ∨
      ∀ a b r d e, p.kind = .wnst a b r d e → r ≠ region) →
    s.headerAt o c region = .at_ pa → s.rowOf o c region (s.winnow? c.num pa).seen = .ok (row, bad) →
    let h := leNat o.header
    let w := s.winnow? c.num pa
    let read := w.seen.foldl (fun s i => s.unitTouch o c false (region.toNat + 4096 + 4 * i) 4) s
    let t := ((read.mapOp id (fun o => { o with pois := o.pois || bad })).deliverShort { o with pois := o.pois || bad } pa
      (shortRecord w (bitsOf h 152 8) (BitVec.ofNat 32 (bitsOf h 192 32)) row)).tidy
    t.hole = none → False) :=
  fun h => h 0 0x400000 (engine winnowing) winnowing ctx0 _ _ _ _ [] false ⟨rfl, rfl, rfl⟩ rfl (by decide) (fun p _ hlt => by omega) (by decide +kernel) rfl (by decide +kernel)

/-- A beat of 16 bytes of a copy of peer 3, for the tile at byte 256 × t of an allocation. -/
def beat0 (alloc t : Nat) : Beat :=
  { sender := 3, tag := 1, copy := 7, alloc := BitVec.ofNat 32 alloc, off := 256 * t, cc := 1, total := 256, poison := false, data := List.replicate 16 5 }

theorem witness_ArrivalsFillTilesAndWaitsTimeOut_1 : ¬ (∀ (b : Beat) (s : State), s.allocOf b.alloc = none → (s.answerBeat b .stale).tidy.hole = none → False) :=
  fun h => h (beat0 9 0) (mach) (by decide +kernel) (by decide +kernel)

theorem witness_ArrivalsFillTilesAndWaitsTimeOut_2_beyond : ¬ (∀ (b : Beat) (s : State) (g : Wg), s.allocOf b.alloc = some g →
    256 * g.tiles < b.off + b.data.length → (s.answerBeat b (.fault Cause.protection.code)).tidy.hole = none → False) :=
  fun h => h (beat0 1 16) (mach) (wg0 warp0) rfl (by decide) (by decide +kernel)

theorem witness_ArrivalsFillTilesAndWaitsTimeOut_2_dropped : ¬ (∀ (b : Beat) (s : State) (g : Wg), s.allocOf b.alloc = some g →
    b.off + b.data.length ≤ 256 * g.tiles → (b.sender, b.copy) ∈ s.fab.dropped → (s.answerBeat b (.fault Cause.tagTimeout.code)).tidy.hole = none → False) :=
  fun h => h (beat0 1 0) { mach with fab := { Fabric.reset with dropped := [(3, 7)] } } (wg0 warp0) rfl (by decide +kernel) (by decide) (by decide +kernel)

theorem witness_ArrivalsFillTilesAndWaitsTimeOut_2_written : ¬ (∀ (b : Beat) (s : State) (g : Wg), s.allocOf b.alloc = some g →
    ∀ t, b.off + b.data.length ≤ 256 * g.tiles → (b.sender, b.copy) ∉ s.fab.dropped → g.st ≠ .saved → s.ingress b.sender < 256 →
      s.begunBeat g b = true ∨ (tileQueue g (b.off / 256) s.fab.arrivals = false ∧
        s.localAhead g.wid (b.off / 256) s.fab.nextWait = false) →
      s.admitBeat g b = some t → t.tidy.hole = none → False) :=
  fun h => h (beat0 1 0) (mach) (wg0 warp0) rfl (((mach).admitBeat (wg0 warp0) (beat0 1 0)).getD (mach)) (by decide +kernel) (by decide +kernel) (by decide +kernel) (by decide +kernel) (.inr ⟨(by decide +kernel), (by decide +kernel)⟩) (atSome _ (by decide +kernel)) (by decide +kernel)

theorem witness_ArrivalsFillTilesAndWaitsTimeOut_2_waits : ¬ (∀ (b : Beat) (s : State) (g : Wg), s.allocOf b.alloc = some g →
    b.off + b.data.length ≤ 256 * g.tiles → (b.sender, b.copy) ∉ s.fab.dropped →
      g.st = .saved ∨ 256 ≤ s.ingress b.sender ∨ s.admitBeat g b = none ∨
        (s.begunBeat g b = false ∧ (tileQueue g (b.off / 256) s.fab.arrivals = true ∨
          s.localAhead g.wid (b.off / 256) s.fab.nextWait = true)) →
      let x : Waiting :=
        { beat := b, since := if g.st = WgSt.saved then 0 else s.now, here := decide (s.ingress b.sender < 256), no := s.fab.nextWait }
      let t := { s with fab := { s.fab with nextWait := s.fab.nextWait + 1, arrivals := s.fab.arrivals ++ [x] } }.tidy
      t.hole = none → False) :=
  fun h => h (beat0 1 0) (mach warp0 [] (fun g => g.setTag 0 (.full 1))) ((wg0 warp0).setTag 0 (.full 1)) rfl (by decide +kernel) (by decide +kernel) (.inr (.inr (.inl (by decide +kernel)))) (by decide +kernel)

/-- That beat waits at the ingress since long ago, and one whose allocation has gone. -/
def atIngress : State := { mach with fab := { Fabric.reset with arrivals := [{ beat := beat0 1 0, since := 0, here := true }] }, time := { Time.reset with tb := 2 ^ 32 } }
def gone0 : State := { mach with fab := { Fabric.reset with arrivals := [{ beat := beat0 9 0, since := 0, here := true }] } }

theorem witness_ArrivalsFillTilesAndWaitsTimeOut_3_stale : ¬ (∀ (n : Nat) (s : State) (x : Waiting), s.fab.arrivals[n]? = some x →
    let left := { s with fab := { s.fab with arrivals := s.fab.arrivals.eraseIdx n } }
    s.allocOf x.beat.alloc = none → (left.answerBeat x.beat .stale).promote.tidy.hole = none → False) :=
  fun h => h 0 gone0 { beat := beat0 9 0, since := 0, here := true } rfl (by decide +kernel) (by decide +kernel)

theorem witness_ArrivalsFillTilesAndWaitsTimeOut_3_admitted : ¬ (∀ (n : Nat) (s : State) (x : Waiting), s.fab.arrivals[n]? = some x →
    let left := { s with fab := { s.fab with arrivals := s.fab.arrivals.eraseIdx n } }
    ∀ g t, s.allocOf x.beat.alloc = some g → g.st ≠ .saved → x.here = true →
      s.begunBeat g x.beat = true ∨ (tileQueue g (x.beat.off / 256) (s.fab.arrivals.take n) = false ∧
        s.localAhead g.wid (x.beat.off / 256) x.no = false) →
      left.admitBeat g x.beat = some t → t.promote.tidy.hole = none → False) :=
  fun h => h 0 atIngress { beat := beat0 1 0, since := 0, here := true } rfl (wg0 warp0) _ rfl (by decide +kernel) rfl (.inr ⟨(by decide +kernel), (by decide +kernel)⟩) (atSome (mach) (by decide +kernel)) (by decide +kernel)

theorem witness_ArrivalsFillTilesAndWaitsTimeOut_4_empty : ¬ (∀ (id t w cc : Nat) (rs : List (Nat × Nat)) (s : State) (o : Op), s.hole = none → s.op? id = some o →
    o.kind.dest = some (w, rs, cc) → o.st = .started → o.kind.cover t ≠ 0 → t ∉ o.begun → s.arrivalAhead o w t = false →
    (∀ x, o.destAt = some x → x.tile = t) →
    let no := match o.destAt with | some x => if x.origin = w ∧ x.tile = t then x.no else s.fab.nextWait | none => s.fab.nextWait
    s.beatAhead w t no = false → s.localAhead w t no = false →
    let start := fun (s : State) => s.mapOp o.id (fun o => { o with begun := o.begun ++ [t], destAt := none })
    let fill := s.mapWg w (fun g => g.setTag t (.filling (.op o.id) (o.kind.cover t) o.kind.count false))
    s.tag w t = .empty ∨ s.tag w t = .poison ∧ o.kind.cover t = 256 → False) :=
  fun h => h 0 0 0 1 [(0, 32)] (engine ({ op0 with kind := .copy (.scr 0 0) (.glob 0x10000) 32 1, st := .started })) ({ op0 with kind := .copy (.scr 0 0) (.glob 0x10000) 32 1, st := .started }) rfl rfl rfl rfl (by decide +kernel) (by decide +kernel) (by decide +kernel) (fun x hx => by cases hx) (by decide +kernel) (by decide +kernel) (.inl (by decide +kernel))

theorem witness_ArrivalsFillTilesAndWaitsTimeOut_4_whole : ¬ (∀ (id t w cc : Nat) (rs : List (Nat × Nat)) (s : State) (o : Op), s.hole = none → s.op? id = some o →
    o.kind.dest = some (w, rs, cc) → o.st = .started → o.kind.cover t ≠ 0 → t ∉ o.begun → s.arrivalAhead o w t = false →
    (∀ x, o.destAt = some x → x.tile = t) →
    let no := match o.destAt with | some x => if x.origin = w ∧ x.tile = t then x.no else s.fab.nextWait | none => s.fab.nextWait
    s.beatAhead w t no = false → s.localAhead w t no = false →
    let start := fun (s : State) => s.mapOp o.id (fun o => { o with begun := o.begun ++ [t], destAt := none })
    let fill := s.mapWg w (fun g => g.setTag t (.filling (.op o.id) (o.kind.cover t) o.kind.count false))
    s.tag w t = .empty ∨ s.tag w t = .poison ∧ o.kind.cover t = 256 → False) :=
  fun h => h 0 0 0 1 [(0, 256)] (engine ({ op0 with kind := .copy (.scr 0 0) (.glob 0x10000) 256 1, st := .started }) (fun g => g.setTag 0 .poison)) ({ op0 with kind := .copy (.scr 0 0) (.glob 0x10000) 256 1, st := .started }) rfl rfl rfl rfl (by decide +kernel) (by decide +kernel) (by decide +kernel) (fun x hx => by cases hx) (by decide +kernel) (by decide +kernel) (.inr ⟨(by decide +kernel), (by decide +kernel)⟩)

theorem witness_ArrivalsFillTilesAndWaitsTimeOut_4_poison : ¬ (∀ (id t w cc : Nat) (rs : List (Nat × Nat)) (s : State) (o : Op), s.hole = none → s.op? id = some o →
    o.kind.dest = some (w, rs, cc) → o.st = .started → o.kind.cover t ≠ 0 → t ∉ o.begun → s.arrivalAhead o w t = false →
    (∀ x, o.destAt = some x → x.tile = t) →
    let no := match o.destAt with | some x => if x.origin = w ∧ x.tile = t then x.no else s.fab.nextWait | none => s.fab.nextWait
    s.beatAhead w t no = false → s.localAhead w t no = false →
    let start := fun (s : State) => s.mapOp o.id (fun o => { o with begun := o.begun ++ [t], destAt := none })
    let fill := s.mapWg w (fun g => g.setTag t (.filling (.op o.id) (o.kind.cover t) o.kind.count false))
    s.tag w t = .poison → o.kind.cover t ≠ 256 → False) :=
  fun h => h 0 0 0 1 [(0, 32)] (engine ({ op0 with kind := .copy (.scr 0 0) (.glob 0x10000) 32 1, st := .started }) (fun g => g.setTag 0 .poison)) ({ op0 with kind := .copy (.scr 0 0) (.glob 0x10000) 32 1, st := .started }) rfl rfl rfl rfl (by decide +kernel) (by decide +kernel) (by decide +kernel) (fun x hx => by cases hx) (by decide +kernel) (by decide +kernel) (by decide +kernel) (by decide +kernel)

theorem witness_ArrivalsFillTilesAndWaitsTimeOut_4_full : ¬ (∀ (id t w cc : Nat) (rs : List (Nat × Nat)) (s : State) (o : Op), s.hole = none → s.op? id = some o →
    o.kind.dest = some (w, rs, cc) → o.st = .started → o.kind.cover t ≠ 0 → t ∉ o.begun → s.arrivalAhead o w t = false →
    (∀ x, o.destAt = some x → x.tile = t) →
    let no := match o.destAt with | some x => if x.origin = w ∧ x.tile = t then x.no else s.fab.nextWait | none => s.fab.nextWait
    s.beatAhead w t no = false → s.localAhead w t no = false →
    let start := fun (s : State) => s.mapOp o.id (fun o => { o with begun := o.begun ++ [t], destAt := none })
    let fill := s.mapWg w (fun g => g.setTag t (.filling (.op o.id) (o.kind.cover t) o.kind.count false))
    s.tag w t ≠ .empty → s.tag w t ≠ .poison → False) :=
  fun h => h 0 0 0 1 [(0, 32)] (engine ({ op0 with kind := .copy (.scr 0 0) (.glob 0x10000) 32 1, st := .started }) (fun g => g.setTag 0 (.full 1))) ({ op0 with kind := .copy (.scr 0 0) (.glob 0x10000) 32 1, st := .started }) rfl rfl rfl rfl (by decide +kernel) (by decide +kernel) (by decide +kernel) (fun x hx => by cases hx) (by decide +kernel) (by decide +kernel) (by decide +kernel) (by decide +kernel)

theorem witness_ArrivalsFillTilesAndWaitsTimeOut_5 : ¬ (∀ (core slot wid k : Nat) (s : State) (g : Wg) (w : Warp) (pc : Word) (ls : List (Nat × Nat × Nat)), s.slot? core slot = some (wid, k) →
    s.wg? wid = some g → s.warp? wid k = some w →
    let due := (w.numbered.filterMap (fun x => x.2.tagWait.map (fun t => (x.1, x.2.pc, t)))).filter (fun x =>
      s.timedOut g.pkt.ctx x.2.2.2.2)
    (due.head?).map (·.2.1) = some pc → ls = (due.filter (fun y => y.2.1 == pc)).map (fun y => (y.1, y.2.2.1, y.2.2.2.1)) →
    (s.parkTags g k pc ls).hole = none → False) :=
  fun h => h 0 0 0 0 { mach (onLanes (fun x => { x with wait := some { on := .tag 512 0, since := 0 } }) warp0) [0] with time := { Time.reset with tb := 2 ^ 32 } } (wg0 (onLanes (fun x => { x with wait := some { on := .tag 512 0, since := 0 } }) warp0)) (onLanes (fun x => { x with wait := some { on := .tag 512 0, since := 0 } }) warp0) 0x10000 _ (by decide +kernel) rfl rfl (by decide +kernel) rfl (by decide +kernel)

theorem witness_ArrivalsFillTilesAndWaitsTimeOut_6_mloop : ¬ (∀ (id u : Nat) (s : State) (o : Op) (x : TileWait), s.op? id = some o → o.st = .started → Claims.Overdue s o x →
    let a := BitVec.ofNat 64 (256 * x.tile)
    let fault := fun (s : State) => (s.settle o.id .fault Cause.tagTimeout.code a).tidy
    ∀ d, o.kind = .mloop d → (fault ((s.bump 0x12F).drainMloop o d)).hole = none → False) :=
  fun h => h 0 0 { engine ({ looping2 with waitAt := some { since := 0, unit := 0, origin := 0, tile := 0 } })  with time := { Time.reset with tb := 2 ^ 32 } } ({ looping2 with waitAt := some { since := 0, unit := 0, origin := 0, tile := 0 } }) { since := 0, unit := 0, origin := 0, tile := 0 } rfl rfl ⟨(by decide +kernel), .inl ⟨rfl, (by decide +kernel)⟩⟩ _ rfl (by decide +kernel)

theorem witness_ArrivalsFillTilesAndWaitsTimeOut_6_remote : ¬ (∀ (id u : Nat) (s : State) (o : Op) (x : TileWait), s.op? id = some o → o.st = .started → Claims.Overdue s o x →
    let a := BitVec.ofNat 64 (256 * x.tile)
    let fault := fun (s : State) => (s.settle o.id .fault Cause.tagTimeout.code a).tidy
    ∀ table multi ts src n cc, o.kind = .remote table multi ts src n cc → ((s.bump 0x12F).unitFail o .fault Cause.tagTimeout.code a).tidy.hole = none → False) :=
  fun h => h 0 0 { engine ({ op0 with kind := .remote none true [(0, { peer := 3, alloc := 5, off := 0 })] (.scr 0 0) 32 1, st := .started, waitAt := some { since := 0, unit := 0, origin := 0, tile := 0 } }) (fun g => g.setTag 0 (.filling (.op 9) 32 1 false)) with time := { Time.reset with tb := 2 ^ 32 } } ({ op0 with kind := .remote none true [(0, { peer := 3, alloc := 5, off := 0 })] (.scr 0 0) 32 1, st := .started, waitAt := some { since := 0, unit := 0, origin := 0, tile := 0 } }) { since := 0, unit := 0, origin := 0, tile := 0 } rfl rfl ⟨(by decide +kernel), .inl ⟨rfl, (by decide +kernel)⟩⟩ _ _ _ _ _ _ rfl (by decide +kernel)

theorem witness_ArrivalsFillTilesAndWaitsTimeOut_6_copy : ¬ (∀ (id u : Nat) (s : State) (o : Op) (x : TileWait), s.op? id = some o → o.st = .started → Claims.Overdue s o x →
    let a := BitVec.ofNat 64 (256 * x.tile)
    let fault := fun (s : State) => (s.settle o.id .fault Cause.tagTimeout.code a).tidy
    ((∃ dst src n cc, o.kind = .copy dst src n cc) ∨ (∃ dst src d cc, o.kind = .tcopy dst src d cc) ∨
        (∃ src last region base count, o.kind = .wnst src last region base count ∧ (last = true → o.units.length ≠ count)) ∨
        (∃ mem row col rows cols pitch fmt, o.kind = .acst mem row col rows cols pitch fmt ∨
          o.kind = .acld mem row col rows cols pitch fmt)) →
      (fault (s.bump 0x12F)).hole = none → False) :=
  fun h => h 0 0 { engine ({ op0 with kind := .copy (.scr 0 0) (.glob 0x10000) 32 1, st := .started, waitAt := some { since := 0, unit := 0, origin := 0, tile := 0 } }) (fun g => g.setTag 0 (.filling (.op 9) 32 1 false)) with time := { Time.reset with tb := 2 ^ 32 } } ({ op0 with kind := .copy (.scr 0 0) (.glob 0x10000) 32 1, st := .started, waitAt := some { since := 0, unit := 0, origin := 0, tile := 0 } }) { since := 0, unit := 0, origin := 0, tile := 0 } rfl rfl ⟨(by decide +kernel), .inl ⟨rfl, (by decide +kernel)⟩⟩ (.inl ⟨_, _, _, _, rfl⟩) (by decide +kernel)

theorem witness_ArrivalsFillTilesAndWaitsTimeOut_6_tcopy : ¬ (∀ (id u : Nat) (s : State) (o : Op) (x : TileWait), s.op? id = some o → o.st = .started → Claims.Overdue s o x →
    let a := BitVec.ofNat 64 (256 * x.tile)
    let fault := fun (s : State) => (s.settle o.id .fault Cause.tagTimeout.code a).tidy
    ((∃ dst src n cc, o.kind = .copy dst src n cc) ∨ (∃ dst src d cc, o.kind = .tcopy dst src d cc) ∨
        (∃ src last region base count, o.kind = .wnst src last region base count ∧ (last = true → o.units.length ≠ count)) ∨
        (∃ mem row col rows cols pitch fmt, o.kind = .acst mem row col rows cols pitch fmt ∨
          o.kind = .acld mem row col rows cols pitch fmt)) →
      (fault (s.bump 0x12F)).hole = none → False) :=
  fun h => h 0 0 { engine ({ op0 with kind := .tcopy (.scr 0 0) (.glob 0x10000) { fmt := 0, planes := 1, se := 0, pitch := 0, spitch := 0, scale := 0, panels := 1 } 1, st := .started, waitAt := some { since := 0, unit := 0, origin := 0, tile := 0 } }) (fun g => g.setTag 0 (.filling (.op 9) 32 1 false)) with time := { Time.reset with tb := 2 ^ 32 } } ({ op0 with kind := .tcopy (.scr 0 0) (.glob 0x10000) { fmt := 0, planes := 1, se := 0, pitch := 0, spitch := 0, scale := 0, panels := 1 } 1, st := .started, waitAt := some { since := 0, unit := 0, origin := 0, tile := 0 } }) { since := 0, unit := 0, origin := 0, tile := 0 } rfl rfl ⟨(by decide +kernel), .inl ⟨rfl, (by decide +kernel)⟩⟩ (.inr (.inl ⟨_, _, _, _, rfl⟩)) (by decide +kernel)

theorem witness_ArrivalsFillTilesAndWaitsTimeOut_6_part : ¬ (∀ (id u : Nat) (s : State) (o : Op) (x : TileWait), s.op? id = some o → o.st = .started → Claims.Overdue s o x →
    let a := BitVec.ofNat 64 (256 * x.tile)
    let fault := fun (s : State) => (s.settle o.id .fault Cause.tagTimeout.code a).tidy
    ((∃ dst src n cc, o.kind = .copy dst src n cc) ∨ (∃ dst src d cc, o.kind = .tcopy dst src d cc) ∨
        (∃ src last region base count, o.kind = .wnst src last region base count ∧ (last = true → o.units.length ≠ count)) ∨
        (∃ mem row col rows cols pitch fmt, o.kind = .acst mem row col rows cols pitch fmt ∨
          o.kind = .acld mem row col rows cols pitch fmt)) →
      (fault (s.bump 0x12F)).hole = none → False) :=
  fun h => h 0 0 { engine ({ op0 with kind := .wnst (.scr 0 0) false 0x400000 0 16, st := .started, waitAt := some { since := 0, unit := 0, origin := 0, tile := 0 } }) (fun g => g.setTag 0 (.filling (.op 9) 32 1 false)) with time := { Time.reset with tb := 2 ^ 32 } } ({ op0 with kind := .wnst (.scr 0 0) false 0x400000 0 16, st := .started, waitAt := some { since := 0, unit := 0, origin := 0, tile := 0 } }) { since := 0, unit := 0, origin := 0, tile := 0 } rfl rfl ⟨(by decide +kernel), .inl ⟨rfl, (by decide +kernel)⟩⟩ (.inr (.inr (.inl ⟨_, _, _, _, _, rfl, by decide⟩))) (by decide +kernel)

theorem witness_ArrivalsFillTilesAndWaitsTimeOut_6_lastPart : ¬ (∀ (id u : Nat) (s : State) (o : Op) (x : TileWait), s.op? id = some o → o.st = .started → Claims.Overdue s o x →
    let a := BitVec.ofNat 64 (256 * x.tile)
    let fault := fun (s : State) => (s.settle o.id .fault Cause.tagTimeout.code a).tidy
    ((∃ dst src n cc, o.kind = .copy dst src n cc) ∨ (∃ dst src d cc, o.kind = .tcopy dst src d cc) ∨
        (∃ src last region base count, o.kind = .wnst src last region base count ∧ (last = true → o.units.length ≠ count)) ∨
        (∃ mem row col rows cols pitch fmt, o.kind = .acst mem row col rows cols pitch fmt ∨
          o.kind = .acld mem row col rows cols pitch fmt)) →
      (fault (s.bump 0x12F)).hole = none → False) :=
  fun h => h 0 0 { engine ({ op0 with kind := .wnst (.scr 0 0) true 0x400000 0 16, st := .started, waitAt := some { since := 0, unit := 0, origin := 0, tile := 0 } }) (fun g => g.setTag 0 (.filling (.op 9) 32 1 false)) with time := { Time.reset with tb := 2 ^ 32 } } ({ op0 with kind := .wnst (.scr 0 0) true 0x400000 0 16, st := .started, waitAt := some { since := 0, unit := 0, origin := 0, tile := 0 } }) { since := 0, unit := 0, origin := 0, tile := 0 } rfl rfl ⟨(by decide +kernel), .inl ⟨rfl, (by decide +kernel)⟩⟩ (.inr (.inr (.inl ⟨_, _, _, _, _, rfl, by decide⟩))) (by decide +kernel)

theorem witness_ArrivalsFillTilesAndWaitsTimeOut_6_acst : ¬ (∀ (id u : Nat) (s : State) (o : Op) (x : TileWait), s.op? id = some o → o.st = .started → Claims.Overdue s o x →
    let a := BitVec.ofNat 64 (256 * x.tile)
    let fault := fun (s : State) => (s.settle o.id .fault Cause.tagTimeout.code a).tidy
    ((∃ dst src n cc, o.kind = .copy dst src n cc) ∨ (∃ dst src d cc, o.kind = .tcopy dst src d cc) ∨
        (∃ src last region base count, o.kind = .wnst src last region base count ∧ (last = true → o.units.length ≠ count)) ∨
        (∃ mem row col rows cols pitch fmt, o.kind = .acst mem row col rows cols pitch fmt ∨
          o.kind = .acld mem row col rows cols pitch fmt)) →
      (fault (s.bump 0x12F)).hole = none → False) :=
  fun h => h 0 0 { engine ({ op0 with kind := .acst (.scr 0 0) 0 0 16 16 64 0, st := .started, waitAt := some { since := 0, unit := 0, origin := 0, tile := 0 } }) (fun g => g.setTag 0 (.filling (.op 9) 32 1 false)) with time := { Time.reset with tb := 2 ^ 32 } } ({ op0 with kind := .acst (.scr 0 0) 0 0 16 16 64 0, st := .started, waitAt := some { since := 0, unit := 0, origin := 0, tile := 0 } }) { since := 0, unit := 0, origin := 0, tile := 0 } rfl rfl ⟨(by decide +kernel), .inl ⟨rfl, (by decide +kernel)⟩⟩ (.inr (.inr (.inr ⟨_, _, _, _, _, _, _, .inl rfl⟩))) (by decide +kernel)

theorem witness_ArrivalsFillTilesAndWaitsTimeOut_6_acld : ¬ (∀ (id u : Nat) (s : State) (o : Op) (x : TileWait), s.op? id = some o → o.st = .started → Claims.Overdue s o x →
    let a := BitVec.ofNat 64 (256 * x.tile)
    let fault := fun (s : State) => (s.settle o.id .fault Cause.tagTimeout.code a).tidy
    ((∃ dst src n cc, o.kind = .copy dst src n cc) ∨ (∃ dst src d cc, o.kind = .tcopy dst src d cc) ∨
        (∃ src last region base count, o.kind = .wnst src last region base count ∧ (last = true → o.units.length ≠ count)) ∨
        (∃ mem row col rows cols pitch fmt, o.kind = .acst mem row col rows cols pitch fmt ∨
          o.kind = .acld mem row col rows cols pitch fmt)) →
      (fault (s.bump 0x12F)).hole = none → False) :=
  fun h => h 0 0 { engine ({ op0 with kind := .acld (.scr 0 0) 0 0 16 16 64 0, st := .started, waitAt := some { since := 0, unit := 0, origin := 0, tile := 0 } }) (fun g => g.setTag 0 (.filling (.op 9) 32 1 false)) with time := { Time.reset with tb := 2 ^ 32 } } ({ op0 with kind := .acld (.scr 0 0) 0 0 16 16 64 0, st := .started, waitAt := some { since := 0, unit := 0, origin := 0, tile := 0 } }) { since := 0, unit := 0, origin := 0, tile := 0 } rfl rfl ⟨(by decide +kernel), .inl ⟨rfl, (by decide +kernel)⟩⟩ (.inr (.inr (.inr ⟨_, _, _, _, _, _, _, .inr rfl⟩))) (by decide +kernel)

theorem isWg {o : Option Wg} {y : Wg} {P : Wg → Prop} (h : o = some y) (hp : P y) : ∀ x, o = some x → P x := by
  intro x hx
  rw [h] at hx
  cases hx
  exact hp

theorem witness_ArrivalsFillTilesAndWaitsTimeOut_6_shortlist : ¬ (∀ (id u : Nat) (s : State) (o : Op) (x : TileWait), s.op? id = some o → o.st = .started → Claims.Overdue s o x →
    let a := BitVec.ofNat 64 (256 * x.tile)
    let fault := fun (s : State) => (s.settle o.id .fault Cause.tagTimeout.code a).tidy
    ∀ src region base pa, o.kind = .wnst src true region base o.units.length → ∀ c, s.ctx? o.ctx = some c →
      (s.bump 0x12F).headerAt o c region = .at_ pa →
      ((s.bump 0x12F).winnowEnd o pa .fault Cause.tagTimeout.code a).tidy.hole = none → False) :=
  fun h => h 0 0 { engine ({ winnowing with destAt := some { since := 0, unit := 0, origin := 0, tile := 0 } }) (fun g => g.setTag 0 (.full 1)) with time := { Time.reset with tb := 2 ^ 32 } } ({ winnowing with destAt := some { since := 0, unit := 0, origin := 0, tile := 0 } }) { since := 0, unit := 0, origin := 0, tile := 0 } rfl rfl ⟨(by decide +kernel), .inr ⟨(fun y hy => by cases hy), rfl, (by decide +kernel), (isWg rfl (by decide))⟩⟩ _ _ _ 0x400000 rfl ctx0 rfl (by decide +kernel) (by decide +kernel)

theorem witness_ArrivalsFillTilesAndWaitsTimeOut_7 : ¬ (∀ (n : Nat) (s : State) (x : Waiting) (g : Wg), s.fab.arrivals[n]? = some x → s.allocOf x.beat.alloc = some g → g.st ≠ .saved →
    x.here = true → s.timedOut g.pkt.ctx x.since = true →
    let t := ((({ s with fab := { s.fab with dropped := s.fab.dropped ++ [(x.beat.sender, x.beat.copy)] } }.bump 0x12F).dropBeats
      (fun y => y.beat.sender == x.beat.sender && y.beat.copy == x.beat.copy) (.fault Cause.tagTimeout.code))).tidy
    t.hole = none → False) :=
  fun h => h 0 atIngress _ (wg0 warp0) rfl rfl (by decide +kernel) rfl (by decide +kernel) (by decide +kernel)

/-- A device of a pod with peer 3 on plane 0, which may reach context 0. -/
def chan0 : Channel := { Channel.fresh 3 0 3 with up := true, sendUp := true }
def inPod (f : Fabric → Fabric := id) : State :=
  { mach with fab := f { Fabric.reset with podId := 7, index := 1, members := 0xA, chans := [chan0], exports := [(3, 0)] } }
def request0 (s : Nat) : PeerRequest := { sender := s, tag := 5, addr := 0x20000, bytes := 8, what := .load }
def line0 : PeerLine := { sender := 3, tag := 5, addr := 0x20000, mask := 0xFF, data := List.replicate 128 1, poison := false }
def logging : State :=
  { inPod (fun f => { f with repair := [{ ctx := 0, page := 0x20, log := [] }] }) with
    slog := some { base := 0x300000, len := 16, vector := 0, posted := 0, consumed := 0, waiting := [] } }
def lineOut : WcLine := { core := 0, peer := 3, line := 9, mask := 1, data := List.replicate 128 1, since := 0, ctxs := [0], tag := none }
def later (t : Nat) (s : State) : State := { s with time := { s.time with tb := t } }

theorem witness_PeersAreServed_1 : ¬ (∀ (r : PeerRequest) (s : State) (c : Context) (ps : List Part), s.exportOf r.sender = some c →
    s.repairOf c.num (r.addr.toNat / 4096) r.sender = none →
    s.checkRange 0 1002 c (match r.what with | .load => .load | _ => .atomic) r.addr.toNat r.bytes = .ok ps →
    (∀ p ∈ ps, p.leaf.target = .hbm) → (s.performRequest c r ps).hole = none → False) :=
  fun h => h (request0 3) (inPod) ctx0 (match (inPod).checkRange 0 1002 ctx0 .load 0x20000 8 with | .ok ps => ps | _ => []) rfl (by decide +kernel) (by decide +kernel) (by decide +kernel) (by decide +kernel)

theorem witness_PeersAreServed_2_unexported : ¬ (∀ (r : PeerRequest) (s : State), s.hole = none → s.exportOf r.sender = none →
    s.repairOf 0xFFFF (r.addr.toNat / 4096) r.sender = none → False) :=
  fun h => h (request0 4) (inPod) (by decide +kernel) (by decide +kernel) (by decide +kernel)

theorem witness_PeersAreServed_2_repair : ¬ (∀ (r : PeerRequest) (s : State), s.hole = none → s.exportOf r.sender = none →
    (s.repairOf 0xFFFF (r.addr.toNat / 4096) r.sender).isSome → False) :=
  fun h => h (request0 4) { logging with fab := { (inPod).fab with repair := [{ ctx := 0xFFFF, page := 0x20, log := [] }] }, slog := none } (by decide +kernel) (by decide +kernel) (by decide +kernel)

theorem witness_PeersAreServed_3_repair : ¬ (∀ (r : PeerRequest) (s : State) (c : Context), s.hole = none → s.exportOf r.sender = some c →
    ((s.repairOf c.num (r.addr.toNat / 4096) r.sender).isSome ∨
        ∃ on, s.checkRange 0 1002 c (match r.what with | .load => .load | _ => .atomic) r.addr.toNat r.bytes = .wait on) → False) :=
  fun h => h (request0 3) logging ctx0 (by decide +kernel) rfl (.inl (by decide +kernel))

theorem witness_PeersAreServed_3_waits : ¬ (∀ (r : PeerRequest) (s : State) (c : Context), s.hole = none → s.exportOf r.sender = some c →
    ((s.repairOf c.num (r.addr.toNat / 4096) r.sender).isSome ∨
        ∃ on, s.checkRange 0 1002 c (match r.what with | .load => .load | _ => .atomic) r.addr.toNat r.bytes = .wait on) → False) :=
  fun h => h (request0 3) (mending (inPod)) ctx0 (by decide +kernel) rfl (.inr ⟨.repair 0x20, (by decide +kernel)⟩)

/-- A request to a page that is not mapped, and to one that the host holds. -/
def far0 : PeerRequest := { request0 3 with addr := 0x80000000 }
def hosted : State :=
  { inPod with mem := { MemState.reset with hbm := Memory.write (Memory.write [] 0x1000 (leBytes 8 0x2001)) 0x2000 (leBytes 8 (0x8F + 2 ^ 60)) } }
def hostPart : Part := { va := 0x20000, n := 8, leaf := { frame := 0x20000, kind := .so, target := .host, repair := false, x := true, w := true, rd := true, size := 30 } }

theorem witness_PeersAreServed_3_stopped : ¬ (∀ (r : PeerRequest) (s : State) (c : Context), s.hole = none → s.exportOf r.sender = some c →
    ∀ x a d, s.repairOf c.num (r.addr.toNat / 4096) r.sender = none →
      s.checkRange 0 1002 c (match r.what with | .load => .load | _ => .atomic) r.addr.toNat r.bytes = .stop x a d → False) :=
  fun h => h far0 (inPod) ctx0 (by decide +kernel) rfl .xlateMiss 0x80000000 2 rfl (by decide +kernel)

theorem witness_PeersAreServed_4 : ¬ (∀ (l : PeerLine) (s : State), s.hole = none → Claims.LineBehind s l → False) :=
  fun h => h line0 (inPod (fun f => { f with lines := [line0] })) (by decide +kernel) ⟨line0, List.mem_cons_self, rfl, .inl rfl⟩

theorem witness_PeersAreServed_5 : ¬ (∀ (l : PeerLine) (s : State) (c : Context) (p : Part), ¬ Claims.LineBehind s l → s.exportOf l.sender = some c →
    s.repairOf c.num (l.addr.toNat / 4096) l.sender = none → s.checkPart 0 1002 c .store l.addr.toNat 128 = .ok [p] →
    p.leaf.target = .hbm →
    let t := ((s.writeLine p.pa l).targetTouch c true [p]).respond l.sender l.tag .ack
    t.hole = none → False) :=
  fun h => h line0 (inPod) ctx0 (match (inPod).checkPart 0 1002 ctx0 .store 0x20000 128 with | .ok (p :: _) => p | _ => ⟨0, 0, { frame := 0, kind := .so, target := .hbm, repair := false, x := true, w := true, rd := true }⟩) (by rintro ⟨m, hm, -⟩; exact nomatch hm) rfl (by decide +kernel) (by decide +kernel) (by decide +kernel) (by decide +kernel)

theorem witness_PeersAreServed_6 : ¬ (∀ (l : PeerLine) (s : State) (c : Context) (on : WaitOn), s.hole = none → ¬ Claims.LineBehind s l → s.exportOf l.sender = some c →
    s.repairOf c.num (l.addr.toNat / 4096) l.sender = none → s.checkPart 0 1002 c .store l.addr.toNat 128 = .wait on → False) :=
  fun h => h line0 (mending (inPod)) ctx0 (.repair 0x20) (by decide +kernel) (by rintro ⟨m, hm, -⟩; exact nomatch hm) rfl (by decide +kernel) (by decide +kernel)

theorem witness_PeersAreServed_3_host : ¬ (∀ (r : PeerRequest) (s : State) (c : Context), s.hole = none → s.exportOf r.sender = some c →
    ∀ ps p, s.repairOf c.num (r.addr.toNat / 4096) r.sender = none →
      s.checkRange 0 1002 c (match r.what with | .load => .load | _ => .atomic) r.addr.toNat r.bytes = .ok ps → p ∈ ps →
      p.leaf.target ≠ .hbm → False) :=
  fun h => h (request0 3) hosted ctx0 (by decide +kernel) rfl [hostPart] hostPart rfl (by decide +kernel) (by decide) (by decide)

theorem witness_PeersAreServed_7_logged : ¬ (∀ (l : PeerLine) (s : State) (r : Repair), s.hole = none → ¬ Claims.LineBehind s l →
    s.repairOf (Claims.exportCtx s l.sender) (l.addr.toNat / 4096) l.sender = some r →
    let t := (({ s with fab := { s.fab with repair := s.fab.repair.map (fun (x : Repair) =>
        if x.ctx == r.ctx && x.page == l.addr.toNat / 4096 then { x with log := x.log ++ [l] } else x) } }.postStoreLog
      (logEntry l r.ctx 0)).respond l.sender l.tag .ack)
    s.logRoom = true → t.hole = none → False) :=
  fun h => h line0 logging { ctx := 0, page := 0x20, log := [] } (by decide +kernel) (by rintro ⟨m, hm, -⟩; exact nomatch hm) (by decide +kernel) (by decide +kernel) (by decide +kernel)

theorem witness_PeersAreServed_7_noRoom : ¬ (∀ (l : PeerLine) (s : State) (r : Repair), s.hole = none → ¬ Claims.LineBehind s l →
    s.repairOf (Claims.exportCtx s l.sender) (l.addr.toNat / 4096) l.sender = some r →
    let t := (({ s with fab := { s.fab with repair := s.fab.repair.map (fun (x : Repair) =>
        if x.ctx == r.ctx && x.page == l.addr.toNat / 4096 then { x with log := x.log ++ [l] } else x) } }.postStoreLog
      (logEntry l r.ctx 0)).respond l.sender l.tag .ack)
    s.logRoom = false → False) :=
  fun h => h line0 { logging with slog := none } { ctx := 0, page := 0x20, log := [] } (by decide +kernel) (by rintro ⟨m, hm, -⟩; exact nomatch hm) (by decide +kernel) (by decide +kernel)

theorem witness_PeersAreServed_8_unexported : ¬ (∀ (l : PeerLine) (s : State) (cause : Byte), ¬ Claims.LineBehind s l → Claims.lineStops s l cause →
    let ctx := Claims.exportCtx s l.sender
    s.repairOf ctx (l.addr.toNat / 4096) l.sender = none →
    let t := (({ s with fab := { s.fab with repair := s.fab.repair ++
        [({ ctx := ctx, page := l.addr.toNat / 4096, log := [l] } : Repair)] } }.postStoreLog
      (logEntry l ctx cause)).respond l.sender l.tag .ack)
    s.logRoom = true → s.fab.repair.length < 64 → t.hole = none → False) :=
  fun h => h { line0 with sender := 4 } { logging with fab := (inPod).fab } _ (by rintro ⟨m, hm, -⟩; exact nomatch hm) (.inl ⟨rfl, rfl⟩) rfl (by decide +kernel) (by decide) (by decide +kernel)

theorem witness_PeersAreServed_8_full : ¬ (∀ (l : PeerLine) (s : State) (cause : Byte), ¬ Claims.LineBehind s l → Claims.lineStops s l cause →
    let ctx := Claims.exportCtx s l.sender
    s.repairOf ctx (l.addr.toNat / 4096) l.sender = none →
    let t := (({ s with fab := { s.fab with repair := s.fab.repair ++
        [({ ctx := ctx, page := l.addr.toNat / 4096, log := [l] } : Repair)] } }.postStoreLog
      (logEntry l ctx cause)).respond l.sender l.tag .ack)
    s.logRoom = false ∨ 64 ≤ s.fab.repair.length → s.hole = none → False) :=
  fun h => h { line0 with sender := 4 } { logging with fab := (inPod).fab, slog := none } _ (by rintro ⟨m, hm, -⟩; exact nomatch hm) (.inl ⟨rfl, rfl⟩) rfl (.inl (by decide +kernel)) (by decide +kernel)

theorem witness_PeersAreServed_9 : ¬ (∀ (r : PeerResponse) (s : State),
    let t := Claims.goesOn { s with fab := { s.fab with
      wc := s.fab.wc.filter (fun e => e.tag != some r.tag),
      remote := (s.fab.remote.filter (fun (x : Remote) => x.tag != r.tag || s.awaited x)).map (fun (x : Remote) =>
                                            if x.tag == r.tag then { x with answer := some r.answer } else x) } }
    t.hole = none → False) :=
  fun h => h { tag := 0, answer := .ack } (inPod) (by decide +kernel)

theorem witness_PeersAreServed_10_sent : ¬ (∀ (core line : Nat) (s : State) (e : WcLine), s.fab.wc.filter (fun e => e.tag == none && (e.core == core &&
      e.line == line && decide (e.since + s.fab.ageing < s.now))) = [e] →
    let sent := ∃ y ∈ s.fab.wc, y.core = e.core ∧ y.peer = e.peer ∧ y.line = e.line ∧ y.tag.isSome
    s.heldPeer e.peer = false → s.allowed e.peer false = true → ¬ sent → (s.sendLine e).hole = none → False) :=
  fun h => h 0 9 (later 4400000 (inPod (fun f => { f with wc := [lineOut] }))) lineOut (by decide +kernel) (by decide +kernel) (by decide +kernel) (by rintro ⟨y, hy, -, -, -, h⟩; simp only [later, inPod, List.mem_singleton] at hy; subst hy; exact nomatch h) (by decide +kernel)

theorem witness_PeersAreServed_10_held : ¬ (∀ (core line : Nat) (s : State) (e : WcLine), s.fab.wc.filter (fun e => e.tag == none && (e.core == core &&
      e.line == line && decide (e.since + s.fab.ageing < s.now))) = [e] →
    let sent := ∃ y ∈ s.fab.wc, y.core = e.core ∧ y.peer = e.peer ∧ y.line = e.line ∧ y.tag.isSome
    s.heldPeer e.peer = true ∨ s.allowed e.peer false = false ∨ sent → s.hole = none → False) :=
  fun h => h 0 9 (later 4400000 (inPod (fun f => { f with wc := [lineOut], held := 8 }))) lineOut (by decide +kernel) (.inl (by decide +kernel)) (by decide +kernel)

theorem witness_PeersAreServed_10_earlier : ¬ (∀ (core line : Nat) (s : State) (e : WcLine), s.fab.wc.filter (fun e => e.tag == none && (e.core == core &&
      e.line == line && decide (e.since + s.fab.ageing < s.now))) = [e] →
    let sent := ∃ y ∈ s.fab.wc, y.core = e.core ∧ y.peer = e.peer ∧ y.line = e.line ∧ y.tag.isSome
    s.heldPeer e.peer = true ∨ s.allowed e.peer false = false ∨ sent → s.hole = none → False) :=
  fun h => h 0 9 (later 4400000 (inPod (fun f => { f with wc := [{ lineOut with tag := some 1 }, lineOut] }))) lineOut (by decide +kernel) (.inr (.inr ⟨_, List.mem_cons_self, rfl, rfl, rfl, rfl⟩)) (by decide +kernel)

theorem witness_ChannelsCarryFlitsAndFail_1 : ¬ (∀ (f : Flit) (s : State) (c : Channel), s.hole = none → s.chan? f.peer f.plane = some c → c.up = false → False) :=
  fun h => h ({ peer := 3, plane := 0, seq := 0, burst := 0, crcBad := false }) (inPod (fun f => { f with chans := [{ chan0 with up := false }] })) { chan0 with up := false } (by decide +kernel) rfl rfl

theorem witness_ChannelsCarryFlitsAndFail_2_good : ¬ (∀ (f : Flit) (s : State) (c : Channel), s.chan? f.peer f.plane = some c → c.up = true →
    let u := if f.burst ≠ 0 ∧ f.burst ≤ 32 then Claims.chanTo (s.bump 0x128) f.peer f.plane (fun c => { c with fixed := c.fixed + 1 }) else s
    f.crcBad = false → f.burst ≤ 32 → f.seq = c.expect →
      let t := (Claims.chanTo u f.peer f.plane (fun c => { c with expect := c.expect + 1, fails := 0 })).bump 0x127
      t.hole = none → False) :=
  fun h => h ({ peer := 3, plane := 0, seq := 0, burst := 0, crcBad := false }) (inPod (fun f => { f with chans := [{ chan0 with fails := 0 }] })) { chan0 with fails := 0 } rfl rfl rfl (by decide) rfl (by decide +kernel)

theorem witness_ChannelsCarryFlitsAndFail_2_corrected : ¬ (∀ (f : Flit) (s : State) (c : Channel), s.chan? f.peer f.plane = some c → c.up = true →
    let u := if f.burst ≠ 0 ∧ f.burst ≤ 32 then Claims.chanTo (s.bump 0x128) f.peer f.plane (fun c => { c with fixed := c.fixed + 1 }) else s
    f.crcBad = false → f.burst ≤ 32 → f.seq = c.expect →
      let t := (Claims.chanTo u f.peer f.plane (fun c => { c with expect := c.expect + 1, fails := 0 })).bump 0x127
      t.hole = none → False) :=
  fun h => h ({ peer := 3, plane := 0, seq := 0, burst := 32, crcBad := false }) (inPod (fun f => { f with chans := [{ chan0 with fails := 0 }] })) { chan0 with fails := 0 } rfl rfl rfl (by decide) rfl (by decide +kernel)

theorem witness_ChannelsCarryFlitsAndFail_2_early : ¬ (∀ (f : Flit) (s : State) (c : Channel), s.chan? f.peer f.plane = some c → c.up = true →
    let u := if f.burst ≠ 0 ∧ f.burst ≤ 32 then Claims.chanTo (s.bump 0x128) f.peer f.plane (fun c => { c with fixed := c.fixed + 1 }) else s
    f.crcBad = false → f.burst ≤ 32 → f.seq ≠ c.expect →
      let t := if c.fails = 0 then u else Claims.chanTo u f.peer f.plane (fun c => { c with replays := c.replays + 1 })
      t.hole = none → False) :=
  fun h => h ({ peer := 3, plane := 0, seq := 1, burst := 0, crcBad := false }) (inPod (fun f => { f with chans := [{ chan0 with fails := 1 }] })) { chan0 with fails := 1 } rfl rfl rfl (by decide) (by decide) (by decide +kernel)

theorem witness_ChannelsCarryFlitsAndFail_2_bad : ¬ (∀ (f : Flit) (s : State) (c : Channel), s.chan? f.peer f.plane = some c → c.up = true →
    let u := if f.burst ≠ 0 ∧ f.burst ≤ 32 then Claims.chanTo (s.bump 0x128) f.peer f.plane (fun c => { c with fixed := c.fixed + 1 }) else s
    f.crcBad = true ∨ 32 < f.burst → f.seq = c.expect → c.fails < 8 →
      let t := (Claims.chanTo u f.peer f.plane (fun c => { c with fails := c.fails + 1, replays := c.replays + 1 })).emit
        (.replay f.peer f.plane c.expect)
      t.hole = none → False) :=
  fun h => h ({ peer := 3, plane := 0, seq := 0, burst := 33, crcBad := false }) (inPod (fun f => { f with chans := [{ chan0 with fails := 7 }] })) { chan0 with fails := 7 } rfl rfl (.inr (by decide)) rfl (by decide) (by decide +kernel)

theorem witness_ChannelsCarryFlitsAndFail_2_ninth : ¬ (∀ (f : Flit) (s : State) (c : Channel), s.chan? f.peer f.plane = some c → c.up = true →
    let u := if f.burst ≠ 0 ∧ f.burst ≤ 32 then Claims.chanTo (s.bump 0x128) f.peer f.plane (fun c => { c with fixed := c.fixed + 1 }) else s
    f.crcBad = true ∨ 32 < f.burst → f.seq = c.expect → 8 ≤ c.fails →
      let t := Claims.chanTo u f.peer f.plane (fun c => { c with up := false, sendUp := false, fails := 0 })
      t.hole = none → False) :=
  fun h => h ({ peer := 3, plane := 0, seq := 0, burst := 0, crcBad := true }) (inPod (fun f => { f with chans := [{ chan0 with fails := 8 }] })) { chan0 with fails := 8 } rfl rfl (.inl rfl) rfl (by decide) (by decide +kernel)

theorem witness_ChannelsCarryFlitsAndFail_2_badLater : ¬ (∀ (f : Flit) (s : State) (c : Channel), s.chan? f.peer f.plane = some c → c.up = true →
    let u := if f.burst ≠ 0 ∧ f.burst ≤ 32 then Claims.chanTo (s.bump 0x128) f.peer f.plane (fun c => { c with fixed := c.fixed + 1 }) else s
    f.crcBad = true ∨ 32 < f.burst → f.seq ≠ c.expect →
      let t := if c.fails = 0 then u else Claims.chanTo u f.peer f.plane (fun c => { c with replays := c.replays + 1 })
      t.hole = none → False) :=
  fun h => h ({ peer := 3, plane := 0, seq := 1, burst := 0, crcBad := true }) (inPod (fun f => { f with chans := [{ chan0 with fails := 1 }] })) { chan0 with fails := 1 } rfl rfl (.inl rfl) (by decide) (by decide +kernel)

theorem witness_ChannelsCarryFlitsAndFail_3 : ¬ (∀ (peer plane : Nat) (seq : Byte) (s : State) (c : Channel), s.hole = none → s.chan? peer plane = some c → c.sendUp = true →
    (c.lastSeq - seq).toNat + 1 ≤ c.sent → False) :=
  fun h => h 3 0 254 (inPod (fun f => { f with chans := [{ chan0 with sent := 2 }] })) { chan0 with sent := 2 } (by decide +kernel) rfl rfl (by decide +kernel)

theorem witness_ChannelsCarryFlitsAndFail_4 : ¬ (∀ (peer plane : Nat) (s : State) (c : Channel), s.heldPeer peer = false → s.chan? peer plane = some c →
    let t := Claims.chanTo s peer plane (fun c => { c with up := false, sendUp := false })
    t.hole = none → False) :=
  fun h => h 3 0 (inPod) chan0 (by decide +kernel) rfl (by decide +kernel)

theorem witness_ChannelsCarryFlitsAndFail_5 : ¬ (∀ (peer plane : Nat) (s : State) (m : BitVec 16), s.hole = none → s.heldPeer peer = false → s.chan? peer plane = none →
    s.fab.forming = some m → m.getLsbD peer = true → plane < 64 → False) :=
  fun h => h 3 1 (inPod (fun f => { f with forming := some 8 })) 8 (by decide +kernel) (by decide +kernel) rfl rfl (by decide) (by decide)

theorem witness_ChannelsCarryFlitsAndFail_6 : ¬ (∀ (peer plane : Nat) (s : State) (c : Channel), s.chan? peer plane = some c → c.up = true → s.heldPeer peer = false →
    let h := healthAfter c.health c.fixed c.replays
    let gone := decide (h < s.fab.threshold)
    let u := Claims.chanTo s peer plane (fun c => { c with
      health := h, fixed := 0, replays := 0, retired := c.retired || gone, up := !gone,
      sendUp := c.sendUp && !(gone && decide (c.ver < 3)) })
    let t := if 3 ≤ c.ver then u.emit (.health peer plane h gone) else u
    t.hole = none → False) :=
  fun h => h 3 0 (inPod) chan0 rfl rfl (by decide +kernel) (by decide +kernel)

theorem witness_ChannelsCarryFlitsAndFail_7 : ¬ (∀ (r : HealthReport) (s : State),
    let t := if r.retired = true then Claims.chanTo s r.peer r.plane (fun c => { c with sendUp := false, sendRet := true }) else s
    t.hole = none → False) :=
  fun h => h { peer := 3, plane := 0, score := 100, retired := true } (inPod) (by decide +kernel)

theorem witness_ChannelsCarryFlitsAndFail_9_new : ¬ (∀ (l : LinkFrame) (s : State), s.power.pstate ≠ 2 → l.podId = s.fab.podId → 1 ≤ l.verHi →
    l.verLo ≤ min 3 l.verHi → s.fab.members.getLsbD l.peer = true → l.peer ≠ s.fab.index → l.plane < 64 →
    let ver := min 3 l.verHi
    let up := fun (c : Channel) => { Channel.fresh l.peer l.plane ver with
      up := !c.retired, sendUp := !c.sendRet && !(c.retired && decide (ver < 3)), retired := c.retired, sendRet := c.sendRet,
      health := if c.dark = true ∨ c.retired = true ∨ s.heldPeer l.peer = true then c.health else 1023 }
    s.heldPeer l.peer = false → s.chan? l.peer l.plane = none →
      let t := Claims.goesOn { s with fab := { s.fab with
        chans := s.fab.chans ++ [{ Channel.fresh l.peer l.plane ver with up := true, sendUp := true }] } }
      t.hole = none → False) :=
  fun h => h ({ peer := 3, plane := 1, podId := 7, verLo := 1, verHi := 3 }) (inPod) (by decide +kernel) rfl (by decide) (by decide) (by decide +kernel) (by decide) (by decide) (by decide +kernel) rfl (by decide +kernel)

theorem witness_ChannelsCarryFlitsAndFail_9_known : ¬ (∀ (l : LinkFrame) (s : State), s.power.pstate ≠ 2 → l.podId = s.fab.podId → 1 ≤ l.verHi →
    l.verLo ≤ min 3 l.verHi → s.fab.members.getLsbD l.peer = true → l.peer ≠ s.fab.index → l.plane < 64 →
    let ver := min 3 l.verHi
    let up := fun (c : Channel) => { Channel.fresh l.peer l.plane ver with
      up := !c.retired, sendUp := !c.sendRet && !(c.retired && decide (ver < 3)), retired := c.retired, sendRet := c.sendRet,
      health := if c.dark = true ∨ c.retired = true ∨ s.heldPeer l.peer = true then c.health else 1023 }
    ∀ c, s.chan? l.peer l.plane = some c →
      let t := { s with fab := { s.fab with chans := s.fab.chans.map (fun c =>
        if c.peer = l.peer ∧ c.plane = l.plane then up c else c) } }
      let r := Claims.goesOn (if s.heldPeer l.peer then t.relock l.peer else t)
      r.hole = none → False) :=
  fun h => h ({ peer := 3, plane := 0, podId := 7, verLo := 1, verHi := 3 }) (inPod) (by decide +kernel) rfl (by decide) (by decide) (by decide +kernel) (by decide) (by decide) chan0 rfl (by decide +kernel)

theorem witness_ChannelsCarryFlitsAndFail_9_held : ¬ (∀ (l : LinkFrame) (s : State), s.power.pstate ≠ 2 → l.podId = s.fab.podId → 1 ≤ l.verHi →
    l.verLo ≤ min 3 l.verHi → s.fab.members.getLsbD l.peer = true → l.peer ≠ s.fab.index → l.plane < 64 →
    let ver := min 3 l.verHi
    let up := fun (c : Channel) => { Channel.fresh l.peer l.plane ver with
      up := !c.retired, sendUp := !c.sendRet && !(c.retired && decide (ver < 3)), retired := c.retired, sendRet := c.sendRet,
      health := if c.dark = true ∨ c.retired = true ∨ s.heldPeer l.peer = true then c.health else 1023 }
    ∀ c, s.chan? l.peer l.plane = some c →
      let t := { s with fab := { s.fab with chans := s.fab.chans.map (fun c =>
        if c.peer = l.peer ∧ c.plane = l.plane then up c else c) } }
      let r := Claims.goesOn (if s.heldPeer l.peer then t.relock l.peer else t)
      r.hole = none → False) :=
  fun h => h ({ peer := 3, plane := 0, podId := 7, verLo := 1, verHi := 3 }) (inPod (fun f => { f with held := 8 })) (by decide +kernel) rfl (by decide) (by decide) (by decide +kernel) (by decide) (by decide) chan0 rfl (by decide +kernel)

theorem witness_ChannelsCarryFlitsAndFail_8 : ¬ (∀ (c : Channel) (s : State) (i : Nat) (x : Channel), s.fab.nextChan c.peer = some i → s.fab.chans[i]? = some x → c.sent ≠ 0 →
    False) :=
  fun h => h { chan0 with sent := 2 } (inPod) 0 chan0 rfl rfl (by decide)

theorem witness_ChannelsCarryFlitsAndFail_10 : ¬ (∀ (p : Nat) (s : State) (w : PodWait), s.fab.podWait = some w → s.heldPeer p = true → w.keep.getLsbD p = true →
    s.reachable p = true →
    False) :=
  fun h => h 3 (later 4400000 (inPod (fun f => { f with held := 8, heldAt := [(3, 0)], podWait := some { keep := 8, done := 0, limit := 1 } }))) { keep := 8, done := 0, limit := 1 } rfl (by decide +kernel) (by decide +kernel) (by decide +kernel)

theorem witness_ChannelsCarryFlitsAndFail_11 : ¬ (∀ (s : State) (w : PodWait), s.fab.podWait = some w →
    let t := ((List.range 16).filter (fun p =>
      s.heldPeer p && w.keep.getLsbD p && decide (s.heldSince p + w.limit ≤ s.now))).foldl State.cutPeer s
    t.hole = none → False) :=
  fun h => h (later 4400000 (inPod (fun f => { f with held := 8, heldAt := [(3, 0)], podWait := some { keep := 8, done := 0, limit := 1 } }))) { keep := 8, done := 0, limit := 1 } rfl (by decide +kernel)

/-- A tick stream of 16-byte tokens into a window of one token a tick, and a frame with one token of it. -/
def stream0 (policy : Nat) : Stream :=
  { ctx := 0, id := 7, active := true, t0 := 0, wbase := 0x260000, fqd := 0x240000, period := 1000, grace := 100, flow := 5, tsize := 16, sink := 0,
    wlog2 := 4, tpt := 1, policy := policy, next := 0 }
def frame0 : List Byte := record 32 [(0, 0xB5D7), (24, 1), (64, 7), (144, 1), (160, 1)] ++ List.replicate 16 3
def streaming (policy : Nat) : State := later 4400000 { mach with streams := [stream0 policy] }

theorem witness_FramesAreIngestedAndTicksOffered_1 : ¬ (∀ (port : Nat) (payload : List Byte) (s : State), s.hole = none → port ≠ s.host.ingestPort → False) :=
  fun h => h 1 [] (mach) (by decide +kernel) (by decide)

theorem witness_FramesAreIngestedAndTicksOffered_2_wrong : ¬ (∀ (payload : List Byte) (s : State), s.hole = none →
    let h := payload.take 32
    let wrong := (2 ≤ h.length ∧ field h 0 16 ≠ 0xB5D7) ∨ (4 ≤ h.length ∧ field h 24 8 ≠ 1) ∨ field h 16 8 ≠ 0 ∨ field h 32 32 ≠ 0 ∨
      field h 128 16 ≠ 0 ∨ (24 ≤ h.length ∧ field h 160 32 = 0) ∨ (20 ≤ h.length ∧ field h 144 16 = 0)
    let found := s.streams.find? (fun x => x.id == BitVec.ofNat 32 (field h 64 32) && x.active)
    wrong → False) :=
  fun h => h (List.replicate 32 0) (mach) (by decide +kernel) (by decide +kernel)

theorem witness_FramesAreIngestedAndTicksOffered_2_tiny : ¬ (∀ (payload : List Byte) (s : State), s.hole = none →
    let h := payload.take 32
    let wrong := (2 ≤ h.length ∧ field h 0 16 ≠ 0xB5D7) ∨ (4 ≤ h.length ∧ field h 24 8 ≠ 1) ∨ field h 16 8 ≠ 0 ∨ field h 32 32 ≠ 0 ∨
      field h 128 16 ≠ 0 ∨ (24 ≤ h.length ∧ field h 160 32 = 0) ∨ (20 ≤ h.length ∧ field h 144 16 = 0)
    let found := s.streams.find? (fun x => x.id == BitVec.ofNat 32 (field h 64 32) && x.active)
    ¬ wrong → payload.length < 12 → False) :=
  fun h => h [0] (mach) (by decide +kernel) (by decide +kernel) (by decide)

theorem witness_FramesAreIngestedAndTicksOffered_2_wrongShort : ¬ (∀ (payload : List Byte) (s : State), s.hole = none →
    let h := payload.take 32
    let wrong := (2 ≤ h.length ∧ field h 0 16 ≠ 0xB5D7) ∨ (4 ≤ h.length ∧ field h 24 8 ≠ 1) ∨ field h 16 8 ≠ 0 ∨ field h 32 32 ≠ 0 ∨
      field h 128 16 ≠ 0 ∨ (24 ≤ h.length ∧ field h 160 32 = 0) ∨ (20 ≤ h.length ∧ field h 144 16 = 0)
    let found := s.streams.find? (fun x => x.id == BitVec.ofNat 32 (field h 64 32) && x.active)
    wrong → False) :=
  fun h => h (0 :: frame0.take 15) (mach) (by decide +kernel) (by decide +kernel)

theorem witness_FramesAreIngestedAndTicksOffered_2_unknown : ¬ (∀ (payload : List Byte) (s : State), s.hole = none →
    let h := payload.take 32
    let wrong := (2 ≤ h.length ∧ field h 0 16 ≠ 0xB5D7) ∨ (4 ≤ h.length ∧ field h 24 8 ≠ 1) ∨ field h 16 8 ≠ 0 ∨ field h 32 32 ≠ 0 ∨
      field h 128 16 ≠ 0 ∨ (24 ≤ h.length ∧ field h 160 32 = 0) ∨ (20 ≤ h.length ∧ field h 144 16 = 0)
    let found := s.streams.find? (fun x => x.id == BitVec.ofNat 32 (field h 64 32) && x.active)
    ¬ wrong → 12 ≤ payload.length → found = none → False) :=
  fun h => h frame0 (mach) (by decide +kernel) (by decide +kernel) (by decide +kernel) (by decide +kernel)

theorem witness_FramesAreIngestedAndTicksOffered_2_length : ¬ (∀ (payload : List Byte) (s : State), s.hole = none →
    let h := payload.take 32
    let wrong := (2 ≤ h.length ∧ field h 0 16 ≠ 0xB5D7) ∨ (4 ≤ h.length ∧ field h 24 8 ≠ 1) ∨ field h 16 8 ≠ 0 ∨ field h 32 32 ≠ 0 ∨
      field h 128 16 ≠ 0 ∨ (24 ≤ h.length ∧ field h 160 32 = 0) ∨ (20 ≤ h.length ∧ field h 144 16 = 0)
    let found := s.streams.find? (fun x => x.id == BitVec.ofNat 32 (field h 64 32) && x.active)
    ∀ x, ¬ wrong → 12 ≤ payload.length → found = some x → payload.length ≠ 32 + field h 144 16 * x.tsize → False) :=
  fun h => h (frame0 ++ [0]) (streaming 1) (by decide +kernel) (stream0 1) (by decide +kernel) (by decide +kernel) (by decide +kernel) (by decide +kernel)

theorem witness_FramesAreIngestedAndTicksOffered_2_short : ¬ (∀ (payload : List Byte) (s : State), s.hole = none →
    let h := payload.take 32
    let wrong := (2 ≤ h.length ∧ field h 0 16 ≠ 0xB5D7) ∨ (4 ≤ h.length ∧ field h 24 8 ≠ 1) ∨ field h 16 8 ≠ 0 ∨ field h 32 32 ≠ 0 ∨
      field h 128 16 ≠ 0 ∨ (24 ≤ h.length ∧ field h 160 32 = 0) ∨ (20 ≤ h.length ∧ field h 144 16 = 0)
    let found := s.streams.find? (fun x => x.id == BitVec.ofNat 32 (field h 64 32) && x.active)
    ∀ x, ¬ wrong → 12 ≤ payload.length → found = some x → payload.length ≠ 32 + field h 144 16 * x.tsize → False) :=
  fun h => h (frame0.take 16) (streaming 1) (by decide +kernel) (stream0 1) (by decide +kernel) (by decide +kernel) (by decide +kernel) (by decide +kernel)

theorem witness_FramesAreIngestedAndTicksOffered_2_tokens0 : ¬ (∀ (payload : List Byte) (s : State), s.hole = none →
    let h := payload.take 32
    let wrong := (2 ≤ h.length ∧ field h 0 16 ≠ 0xB5D7) ∨ (4 ≤ h.length ∧ field h 24 8 ≠ 1) ∨ field h 16 8 ≠ 0 ∨ field h 32 32 ≠ 0 ∨
      field h 128 16 ≠ 0 ∨ (24 ≤ h.length ∧ field h 160 32 = 0) ∨ (20 ≤ h.length ∧ field h 144 16 = 0)
    let found := s.streams.find? (fun x => x.id == BitVec.ofNat 32 (field h 64 32) && x.active)
    ∀ x c, ¬ wrong → found = some x → payload.length = 32 + field h 144 16 * x.tsize → s.ctx? x.ctx = some c →
      let toks := frameTokens x payload
      let read := s.readStamps c x (toks.map (·.1))
      let stalls := s.tokenStalls c x (toks.map (·.1))
      read.2 = false → stalls = [] →
        let t := State.ingestTokens s c x toks [] (read.1.bump 0x12A)
        let u := if x.policy = 0 ∧ c.saved = false ∧ x.t0 + x.next * x.period ≤ t.now ∧ t.tickReady c x = true then t.offerTick x false else t
        u.hole = none → False) :=
  fun h => h frame0 (streaming 0) (by decide +kernel) (stream0 0) ctx0 (by decide +kernel) (by decide +kernel) (by decide +kernel) rfl (by decide +kernel) (by decide +kernel) (by decide +kernel)

theorem witness_FramesAreIngestedAndTicksOffered_2_tokens1 : ¬ (∀ (payload : List Byte) (s : State), s.hole = none →
    let h := payload.take 32
    let wrong := (2 ≤ h.length ∧ field h 0 16 ≠ 0xB5D7) ∨ (4 ≤ h.length ∧ field h 24 8 ≠ 1) ∨ field h 16 8 ≠ 0 ∨ field h 32 32 ≠ 0 ∨
      field h 128 16 ≠ 0 ∨ (24 ≤ h.length ∧ field h 160 32 = 0) ∨ (20 ≤ h.length ∧ field h 144 16 = 0)
    let found := s.streams.find? (fun x => x.id == BitVec.ofNat 32 (field h 64 32) && x.active)
    ∀ x c, ¬ wrong → found = some x → payload.length = 32 + field h 144 16 * x.tsize → s.ctx? x.ctx = some c →
      let toks := frameTokens x payload
      let read := s.readStamps c x (toks.map (·.1))
      let stalls := s.tokenStalls c x (toks.map (·.1))
      read.2 = false → stalls = [] →
        let t := State.ingestTokens s c x toks [] (read.1.bump 0x12A)
        let u := if x.policy = 0 ∧ c.saved = false ∧ x.t0 + x.next * x.period ≤ t.now ∧ t.tickReady c x = true then t.offerTick x false else t
        u.hole = none → False) :=
  fun h => h frame0 (streaming 1) (by decide +kernel) (stream0 1) ctx0 (by decide +kernel) (by decide +kernel) (by decide +kernel) rfl (by decide +kernel) (by decide +kernel) (by decide +kernel)

theorem witness_FramesAreIngestedAndTicksOffered_2_stalls : ¬ (∀ (payload : List Byte) (s : State), s.hole = none →
    let h := payload.take 32
    let wrong := (2 ≤ h.length ∧ field h 0 16 ≠ 0xB5D7) ∨ (4 ≤ h.length ∧ field h 24 8 ≠ 1) ∨ field h 16 8 ≠ 0 ∨ field h 32 32 ≠ 0 ∨
      field h 128 16 ≠ 0 ∨ (24 ≤ h.length ∧ field h 160 32 = 0) ∨ (20 ≤ h.length ∧ field h 144 16 = 0)
    let found := s.streams.find? (fun x => x.id == BitVec.ofNat 32 (field h 64 32) && x.active)
    ∀ x c, ¬ wrong → found = some x → payload.length = 32 + field h 144 16 * x.tsize → s.ctx? x.ctx = some c →
      let toks := frameTokens x payload
      let read := s.readStamps c x (toks.map (·.1))
      let stalls := s.tokenStalls c x (toks.map (·.1))
      read.2 = true ∨ stalls ≠ [] →
        let t := stalls.foldl (fun s n => State.agentWait s 4 c (x.slotAt n) x.tsize) (if read.2 then read.1 else s)
        t.hole = none → False) :=
  fun h => h frame0 (mending (streaming 1)) (by decide +kernel) (stream0 1) ctx0 (by decide +kernel) (by decide +kernel) (by decide +kernel) rfl (.inr (by decide +kernel)) (by decide +kernel)

theorem witness_FramesAreIngestedAndTicksOffered_3_due : ¬ (∀ (ctx id : Nat) (s : State) (x : Stream) (c : Context), s.stream? ctx (BitVec.ofNat 32 id) = some (x, c) →
    let ready := s.tickReady c x
    let read := s.readStamps c x x.tokens
    read.2 = false → x.t0 + x.next * x.period ≤ s.now → (x.policy = 0 → ready = true) → (read.1.offerTick x (!ready)).hole = none → False) :=
  fun h => h 0 7 (streaming 1) (stream0 1) ctx0 (by decide +kernel) (by decide +kernel) (by decide +kernel) (fun e => absurd e (by decide)) (by decide +kernel)

theorem witness_FramesAreIngestedAndTicksOffered_3_grace : ¬ (∀ (ctx id : Nat) (s : State) (x : Stream) (c : Context), s.stream? ctx (BitVec.ofNat 32 id) = some (x, c) →
    let ready := s.tickReady c x
    let read := s.readStamps c x x.tokens
    read.2 = false → x.policy = 0 → x.t0 + x.next * x.period + x.grace ≤ s.now → (read.1.offerTick x (!ready)).hole = none → False) :=
  fun h => h 0 7 (streaming 0) (stream0 0) ctx0 (by decide +kernel) (by decide +kernel) (by decide +kernel) (by decide +kernel) (by decide +kernel)

theorem witness_FramesAreIngestedAndTicksOffered_3_waits : ¬ (∀ (ctx id : Nat) (s : State) (x : Stream) (c : Context), s.stream? ctx (BitVec.ofNat 32 id) = some (x, c) →
    let ready := s.tickReady c x
    let read := s.readStamps c x x.tokens
    read.2 = true → x.t0 + x.next * x.period ≤ s.now → read.1.hole = none → False) :=
  fun h => h 0 7 (mending (streaming 1)) (stream0 1) ctx0 (by decide +kernel) (by decide +kernel) (by decide +kernel) (by decide +kernel)

theorem witness_TimeRunsAndFollowsItsMaster_1_plain : ¬ (∀ (s : State),
    ∀ r : List Word, let t := s.obs.sampling.foldl State.sampleCore { s with obs := { s.obs with regs := r } }
    t.hole = none → False) :=
  fun h => h (mach) Observe.reset.regs (by decide +kernel)

theorem witness_TimeRunsAndFollowsItsMaster_1_sampled : ¬ (∀ (s : State),
    ∀ r : List Word, let t := s.obs.sampling.foldl State.sampleCore { s with obs := { s.obs with regs := r } }
    t.hole = none → False) :=
  fun h => h { mach with obs := { Observe.reset with sampling := [0] } } Observe.reset.regs (by decide +kernel)

/-- A Sync of the chosen master on port 0, and the device with that port in use. -/
def sync0 (domain : Nat) : PtpSync := { port := false, domain := domain, chosen := true, origin := 3, correction := 0, delay := 0, errb := 2 }
def ported0 (s : State) : State := { s with host := { s.host with ethPorts := 1 } }

theorem witness_TimeRunsAndFollowsItsMaster_2 : ¬ (∀ (y : PtpSync) (s : State), s.hole = none →
    (y.domain ≠ s.host.ptpDomain ∨ y.chosen = false ∨ s.host.ethPorts.testBit y.port.toNat = false) → False) :=
  fun h => h (sync0 5) (ported0 mach) (by decide +kernel) (.inl (by decide))

theorem witness_TimeRunsAndFollowsItsMaster_3_slewed : ¬ (∀ (y : PtpSync) (s : State), s.hole = none → y.domain = s.host.ptpDomain → y.chosen = true →
    s.host.ethPorts.testBit y.port.toNat = true →
    let off : Int := (s.now : Int) - ((y.origin : Int) + y.correction + y.delay)
    let good := if off.natAbs < 100 then s.time.good + 1 else 0
    s.ctxs ≠ [] → False) :=
  fun h => h (sync0 0) (ported0 mach) (by decide +kernel) rfl rfl (by decide +kernel) (by decide)

theorem witness_TimeRunsAndFollowsItsMaster_3_stepped : ¬ (∀ (y : PtpSync) (s : State), s.hole = none → y.domain = s.host.ptpDomain → y.chosen = true →
    s.host.ethPorts.testBit y.port.toNat = true →
    let off : Int := (s.now : Int) - ((y.origin : Int) + y.correction + y.delay)
    let good := if off.natAbs < 100 then s.time.good + 1 else 0
    s.ctxs = [] → False) :=
  fun h => h (sync0 0) (ported0 State.reset) (by decide +kernel) rfl rfl (by decide +kernel) rfl

theorem witness_TimeRunsAndFollowsItsMaster_4 : ¬ (∀ (s : State), s.hole = none → s.time.state ≠ 3 → s.time.lastSync + 3000000000 * 2200 ≤ s.time.tb → False) :=
  fun h => h { mach with time := { Time.reset with state := 2, tb := 2 ^ 60 } } (by decide +kernel) (by decide) (by decide)

theorem witness_WaitsOfAWarpSlotEnd : ¬ (∀ (core slot wid k : Nat) (s : State), s.hole = none → s.slot? core slot = some (wid, k) →
    False) :=
  fun h => h 0 0 0 0 (mach) (by decide +kernel) (by decide +kernel)

/-- Machines whose Gleaner sweeps and whose sampler samples core 0 every millisecond, and a machine with the driver's rings. -/
def gleaning : State := { mach with obs := { Observe.reset with regs := Observe.reset.regs.set 1 0x100000000 } }
def sampling : State := { mach with obs := { Observe.reset with regs := Observe.reset.regs.set 3 0x100000001 } }
def ringed : State :=
  let r : Ring := { base := 0x300000, len := 16, vector := 0, posted := 0, consumed := 0, waiting := [] }
  { mach with fring := some r, sring := some r, slog := some r }

theorem witness_CountersAndSamplesAreRecorded_1 : ¬ (∀ (s : State),
    let period := 2200000 * bitsOf (s.devReg 0x101).toNat 32 32
    period ≠ 0 → s.obs.nextSweep ≤ s.time.tb → s.sweep.hole = none → False) :=
  fun h => h gleaning (by decide +kernel) (by decide +kernel) (by decide +kernel)

theorem witness_CountersAndSamplesAreRecorded_2 : ¬ (∀ (s : State), s.devReg 0x101 = devKeeps 0x101 (s.devReg 0x101) → 1 < s.obs.regs.length → s.sweep.hole = none → False) :=
  fun h => h gleaning (by decide +kernel) (by decide +kernel) (by decide +kernel)

theorem witness_CountersAndSamplesAreRecorded_3 : ¬ (∀ (core : Nat) (s : State) (due : Nat),
    let ctl := (s.devReg 0x103).toNat
    let period := bitsOf ctl 32 32
    s.hole = none → period ≠ 0 → (ctl % 2 = 1 ∨ bitsOf ctl 1 7 = core) → s.obs.sampleAt[core]? = some due → due ≤ s.obs.clocks → False) :=
  fun h => h 0 sampling 0 (by decide +kernel) (by decide +kernel) (.inl (by decide +kernel)) rfl (by decide +kernel)

theorem witness_CountersAndSamplesAreRecorded_4 : ¬ (∀ (core : Nat) (s : State) (g : Wg) (w : Warp), s.nextWarp core ((s.obs.nextSlot[core]?).getD 0) = some (g, w) →
    False) :=
  fun h => h 0 sampling (wg0 warp0) warp0 (by decide +kernel)

theorem witness_CountersAndSamplesAreRecorded_5 : ¬ (∀ (s : State) (x y : Ring), s.fring = some x →
    let u := s.physUsed false (x.base + 64 * x.len) 8
    u.fring = some y →
    let r := ringDrain 64 y.waiting u { y with consumed := leNat (u.hbmRead (y.base + 64 * y.len) 8) }
    r.1.hole = none → False) :=
  fun h => h ringed _ _ rfl rfl (by decide +kernel)

theorem witness_CountersAndSamplesAreRecorded_6 : ¬ (∀ (s : State) (x y : Ring), s.sring = some x →
    let u := s.physUsed false (x.base + 64 * x.len) 8
    u.sring = some y →
    let r := ringDrain 64 y.waiting u { y with consumed := leNat (u.hbmRead (y.base + 64 * y.len) 8) }
    r.1.hole = none → False) :=
  fun h => h ringed _ _ rfl rfl (by decide +kernel)

theorem witness_CountersAndSamplesAreRecorded_7 : ¬ (∀ (s : State) (x y : Ring), s.slog = some x →
    let u := s.physUsed false (x.base + 256 * x.len) 8
    u.slog = some y →
    let r := ringDrain 256 y.waiting u { y with consumed := leNat (u.hbmRead (y.base + 256 * y.len) 8) }
    let t := State.serveStalled { r.1 with slog := some r.2 }
    t.hole = none → False) :=
  fun h => h ringed _ _ rfl rfl (by decide +kernel)

theorem witness_PowerAndHeatAreManaged_1 : ¬ (let paced := fun (p : Power) =>
    let sum := p.watts.foldl (· + ·) 0
    let all := p.cap * p.watts.length
    let passed := decide (all < sum) || (p.passed && decide (all ≤ sum))
    { p with passed := passed, pacing := p.hot || passed }
  let tripped := fun (s : State) (die milli : Nat) =>
    let n := (s.wgs.filter (fun g => g.st == .resident)).length
    let t := ((s.ctxs.map (·.num)).foldl State.saveContext s).drainWc (fun _ => true)
    ({ t with power := paced { t.power with temp := milli, hot := true, tripped := true },
              mem := { t.mem with l1 := [], l2 := [], tlb := [], above := [] } }.postService
      (serviceRecord t.now 0 n milli 0 0 0xFFFF die 0 0 0 0 0 3)).emit (.mail "thermal trip")
  ∀ (m : Measurement) (s : State), s.hole = none → False) :=
  fun h => h { watts := 500, amps := [], junctions := [], inlet := 30000, outlet := 40000, flow := 4000 } (mach) (by decide +kernel)

theorem witness_PowerAndHeatAreManaged_2 : ¬ (let paced := fun (p : Power) =>
    let sum := p.watts.foldl (· + ·) 0
    let all := p.cap * p.watts.length
    let passed := decide (all < sum) || (p.passed && decide (all ≤ sum))
    { p with passed := passed, pacing := p.hot || passed }
  let tripped := fun (s : State) (die milli : Nat) =>
    let n := (s.wgs.filter (fun g => g.st == .resident)).length
    let t := ((s.ctxs.map (·.num)).foldl State.saveContext s).drainWc (fun _ => true)
    ({ t with power := paced { t.power with temp := milli, hot := true, tripped := true },
              mem := { t.mem with l1 := [], l2 := [], tlb := [], above := [] } }.postService
      (serviceRecord t.now 0 n milli 0 0 0xFFFF die 0 0 0 0 0 3)).emit (.mail "thermal trip")
  ∀ (die milli : Nat) (s : State), (115000 < milli → s.power.tripped = true) → s.hole = none → False) :=
  fun h => h 0 106000 (mach) (by decide) (by decide +kernel)

theorem witness_PowerAndHeatAreManaged_3_reading : ¬ (let paced := fun (p : Power) =>
    let sum := p.watts.foldl (· + ·) 0
    let all := p.cap * p.watts.length
    let passed := decide (all < sum) || (p.passed && decide (all ≤ sum))
    { p with passed := passed, pacing := p.hot || passed }
  let tripped := fun (s : State) (die milli : Nat) =>
    let n := (s.wgs.filter (fun g => g.st == .resident)).length
    let t := ((s.ctxs.map (·.num)).foldl State.saveContext s).drainWc (fun _ => true)
    ({ t with power := paced { t.power with temp := milli, hot := true, tripped := true },
              mem := { t.mem with l1 := [], l2 := [], tlb := [], above := [] } }.postService
      (serviceRecord t.now 0 n milli 0 0 0xFFFF die 0 0 0 0 0 3)).emit (.mail "thermal trip")
  ∀ (die milli : Nat) (s : State), 115000 < milli → (tripped s die milli).hole = none →
    s.power.tripped = false → False) :=
  fun h => h 0 116000 (mach) (by decide) (by decide +kernel) rfl

theorem witness_PowerAndHeatAreManaged_3_trip : ¬ (let paced := fun (p : Power) =>
    let sum := p.watts.foldl (· + ·) 0
    let all := p.cap * p.watts.length
    let passed := decide (all < sum) || (p.passed && decide (all ≤ sum))
    { p with passed := passed, pacing := p.hot || passed }
  let tripped := fun (s : State) (die milli : Nat) =>
    let n := (s.wgs.filter (fun g => g.st == .resident)).length
    let t := ((s.ctxs.map (·.num)).foldl State.saveContext s).drainWc (fun _ => true)
    ({ t with power := paced { t.power with temp := milli, hot := true, tripped := true },
              mem := { t.mem with l1 := [], l2 := [], tlb := [], above := [] } }.postService
      (serviceRecord t.now 0 n milli 0 0 0xFFFF die 0 0 0 0 0 3)).emit (.mail "thermal trip")
  ∀ (die milli : Nat) (s : State), 115000 < milli → (tripped s die milli).hole = none →
    False) :=
  fun h => h 0 116000 (mach) (by decide) (by decide +kernel)

theorem witness_PowerAndHeatAreManaged_4_load : ¬ (let paced := fun (p : Power) =>
    let sum := p.watts.foldl (· + ·) 0
    let all := p.cap * p.watts.length
    let passed := decide (all < sum) || (p.passed && decide (all ≤ sum))
    { p with passed := passed, pacing := p.hot || passed }
  let tripped := fun (s : State) (die milli : Nat) =>
    let n := (s.wgs.filter (fun g => g.st == .resident)).length
    let t := ((s.ctxs.map (·.num)).foldl State.saveContext s).drainWc (fun _ => true)
    ({ t with power := paced { t.power with temp := milli, hot := true, tripped := true },
              mem := { t.mem with l1 := [], l2 := [], tlb := [], above := [] } }.postService
      (serviceRecord t.now 0 n milli 0 0 0xFFFF die 0 0 0 0 0 3)).emit (.mail "thermal trip")
  ∀ (s : State), s.hole = none →
    s.power.pstate = 0 → False) :=
  fun h => h { mach with power := { Power.reset with pstate := 0 } } (by decide +kernel) rfl

theorem witness_PowerAndHeatAreManaged_4_rest : ¬ (let paced := fun (p : Power) =>
    let sum := p.watts.foldl (· + ·) 0
    let all := p.cap * p.watts.length
    let passed := decide (all < sum) || (p.passed && decide (all ≤ sum))
    { p with passed := passed, pacing := p.hot || passed }
  let tripped := fun (s : State) (die milli : Nat) =>
    let n := (s.wgs.filter (fun g => g.st == .resident)).length
    let t := ((s.ctxs.map (·.num)).foldl State.saveContext s).drainWc (fun _ => true)
    ({ t with power := paced { t.power with temp := milli, hot := true, tripped := true },
              mem := { t.mem with l1 := [], l2 := [], tlb := [], above := [] } }.postService
      (serviceRecord t.now 0 n milli 0 0 0xFFFF die 0 0 0 0 0 3)).emit (.mail "thermal trip")
  ∀ (s : State), s.hole = none →
    s.power.pstate ≠ 0 → False) :=
  fun h => h (mach) (by decide +kernel) (by decide)

/-- A device with nothing to do. -/
def restful : State := { State.reset with ctxs := [ctx0] }

/-- A device whose telemetry has a collector, and whose management port is up. -/
def collected : State := { mach with host := { HostPort.reset with collector := (1, 0, 0) }, boot := { Boot.reset with step := 8 } }

theorem witness_PowerAndHeatAreManaged_5 : ¬ (let paced := fun (p : Power) =>
    let sum := p.watts.foldl (· + ·) 0
    let all := p.cap * p.watts.length
    let passed := decide (all < sum) || (p.passed && decide (all ≤ sum))
    { p with passed := passed, pacing := p.hot || passed }
  let tripped := fun (s : State) (die milli : Nat) =>
    let n := (s.wgs.filter (fun g => g.st == .resident)).length
    let t := ((s.ctxs.map (·.num)).foldl State.saveContext s).drainWc (fun _ => true)
    ({ t with power := paced { t.power with temp := milli, hot := true, tripped := true },
              mem := { t.mem with l1 := [], l2 := [], tlb := [], above := [] } }.postService
      (serviceRecord t.now 0 n milli 0 0 0xFFFF die 0 0 0 0 0 3)).emit (.mail "thermal trip")
  ∀ (s : State), s.hole = none → s.idle = true → s.power.idle = none → False) :=
  fun h => h restful (by decide +kernel) (by decide +kernel) rfl

theorem witness_PowerAndHeatAreManaged_6 : ¬ (let paced := fun (p : Power) =>
    let sum := p.watts.foldl (· + ·) 0
    let all := p.cap * p.watts.length
    let passed := decide (all < sum) || (p.passed && decide (all ≤ sum))
    { p with passed := passed, pacing := p.hot || passed }
  let tripped := fun (s : State) (die milli : Nat) =>
    let n := (s.wgs.filter (fun g => g.st == .resident)).length
    let t := ((s.ctxs.map (·.num)).foldl State.saveContext s).drainWc (fun _ => true)
    ({ t with power := paced { t.power with temp := milli, hot := true, tripped := true },
              mem := { t.mem with l1 := [], l2 := [], tlb := [], above := [] } }.postService
      (serviceRecord t.now 0 n milli 0 0 0xFFFF die 0 0 0 0 0 3)).emit (.mail "thermal trip")
  ∀ (s : State) (t : Nat), s.hole = none → s.idle = true → s.power.idle = some t → s.power.pstate = 0 → t + 1000000 ≤ s.now → False) :=
  fun h => h { later 4400000000 restful with power := { Power.reset with pstate := 0, idle := some 0 } } 0 (by decide +kernel) (by decide +kernel) rfl rfl (by decide +kernel)

theorem witness_PowerAndHeatAreManaged_7_sent : ¬ (let paced := fun (p : Power) =>
    let sum := p.watts.foldl (· + ·) 0
    let all := p.cap * p.watts.length
    let passed := decide (all < sum) || (p.passed && decide (all ≤ sum))
    { p with passed := passed, pacing := p.hot || passed }
  let tripped := fun (s : State) (die milli : Nat) =>
    let n := (s.wgs.filter (fun g => g.st == .resident)).length
    let t := ((s.ctxs.map (·.num)).foldl State.saveContext s).drainWc (fun _ => true)
    ({ t with power := paced { t.power with temp := milli, hot := true, tripped := true },
              mem := { t.mem with l1 := [], l2 := [], tlb := [], above := [] } }.postService
      (serviceRecord t.now 0 n milli 0 0 0xFFFF die 0 0 0 0 0 3)).emit (.mail "thermal trip")
  ∀ (s : State), s.hole = none →
    s.host.collector ≠ (0, 0, 0) → s.boot.ported = true → s.power.sendAt ≤ s.now → False) :=
  fun h => h collected (by decide +kernel) (by decide) rfl (by decide)

theorem witness_PowerAndHeatAreManaged_7_none : ¬ (let paced := fun (p : Power) =>
    let sum := p.watts.foldl (· + ·) 0
    let all := p.cap * p.watts.length
    let passed := decide (all < sum) || (p.passed && decide (all ≤ sum))
    { p with passed := passed, pacing := p.hot || passed }
  let tripped := fun (s : State) (die milli : Nat) =>
    let n := (s.wgs.filter (fun g => g.st == .resident)).length
    let t := ((s.ctxs.map (·.num)).foldl State.saveContext s).drainWc (fun _ => true)
    ({ t with power := paced { t.power with temp := milli, hot := true, tripped := true },
              mem := { t.mem with l1 := [], l2 := [], tlb := [], above := [] } }.postService
      (serviceRecord t.now 0 n milli 0 0 0xFFFF die 0 0 0 0 0 3)).emit (.mail "thermal trip")
  ∀ (s : State), s.hole = none →
    s.host.collector = (0, 0, 0) ∨ s.boot.ported = false ∨ s.now < s.power.sendAt → False) :=
  fun h => h (mach) (by decide +kernel) (.inl rfl)

theorem witness_StartUpGoesStepByStep_1 : ¬ (∀ (r : Rail) (s : State), s.hole = none → railOrder[s.power.rails.length]? = some r → False) :=
  fun h => h .vddAux State.reset (by decide +kernel) (by decide +kernel)

theorem witness_StartUpGoesStepByStep_2 : ¬ (∀ (s : State), s.hole = none → s.power.inReset = true →
    s.power.rails = [.vddAux, .vddIod, .vddHbm, .vddqHbm, .vddCmp, .vddOpt] →
    False) :=
  fun h => h { State.reset with power := { Power.reset with rails := [.vddAux, .vddIod, .vddHbm, .vddqHbm, .vddCmp, .vddOpt] } } (by decide +kernel) rfl (by decide +kernel)

/-- A device in step 4 of start-up with both sources to try, and one that is ready, its PCIe function linked and its BARs assigned. -/
def booting : State := { State.reset with boot := { Boot.reset with step := 4, width := 16, rate := 7, order := [0, 1], left := [0, 1] } }
def ready0 (s : State := mach) : State :=
  { s with boot := { Boot.reset with step := 8, width := 16, rate := 7, ready := true },
           host := { s.host with cfg := Memory.write [] 0x10 (leBytes 16 (0x4000000 + 0x10 * 2 ^ 96)) } }

/-- A dword of configuration space all of whose bits are given. -/
theorem cfgRead_given (s : State) (off : Nat) (r : CfgRow) (h : cfgRows.find? (fun r => r.dword == off / 4) = some r)
    (hb : BitVec.ofNat 32 r.rw ||| BitVec.ofNat 32 r.fixed = 0xFFFFFFFF#32) :
    s.cfgRead off = (BitVec.ofNat 32 (leNat (Memory.read s.host.cfg (4 * (off / 4)) 4)) &&& BitVec.ofNat 32 r.rw) |||
      (BitVec.ofNat 32 r.value &&& BitVec.ofNat 32 r.fixed) := by
  unfold State.cfgRead
  simp only [h, hb]
  simp

/-- Both BARs answer when the link is up and bits of a base that the host can write are set. -/
theorem answers0 (s : State) (h : (s.boot.linked &&
    (BitVec.ofNat 32 (leNat (Memory.read s.host.cfg 16 4)) &&& 0xFC000000#32).toNat / 16 != 0) = true) : s.answersBar 0 = true := by
  rw [Bool.and_eq_true] at h
  unfold State.answersBar State.barBase
  rw [cfgRead_given s _ ⟨4, 0xFC000000, 0x3FFFFFF, 0x4⟩ (by decide) (by decide), h.1]
  have h2 := h.2
  simp only [bne_iff_ne, ne_eq, Bool.true_and] at h2 ⊢
  have h3 : (((BitVec.ofNat 32 (leNat (Memory.read s.host.cfg (4 * ((0x10 + 4 * 0) / 4)) 4)) &&& BitVec.ofNat 32 0xFC000000) |||
    (BitVec.ofNat 32 4 &&& BitVec.ofNat 32 0x3FFFFFF)).toNat / 16) =
      (BitVec.ofNat 32 (leNat (Memory.read s.host.cfg 16 4)) &&& 0xFC000000#32).toNat / 16 := by
    simp only [BitVec.toNat_or, Nat.mul_zero, Nat.add_zero]
    rw [← Nat.shiftRight_eq_div_pow _ 4, ← Nat.shiftRight_eq_div_pow _ 4, Nat.shiftRight_or_distrib]
    simp
  omega

theorem answers2 (s : State) (h : (s.boot.linked && BitVec.ofNat 32 (leNat (Memory.read s.host.cfg 28 4)) &&& 0xFFFFFFF0#32 != 0) = true) :
    s.answersBar 2 = true := by
  rw [Bool.and_eq_true] at h
  unfold State.answersBar State.barBase
  rw [cfgRead_given s (0x14 + 4 * 2) ⟨7, 0xFFFFFFF0, 0xF, 0⟩ (by decide) (by decide), h.1]
  have h2 : (BitVec.ofNat 32 (leNat (Memory.read s.host.cfg 28 4)) &&& 0xFFFFFFF0#32).toNat ≠ 0 := by
    simpa [BitVec.toNat_eq] using h.2
  simp only [bne_iff_ne, ne_eq, Bool.true_and]
  have h3 : ((BitVec.ofNat 32 (leNat (Memory.read s.host.cfg (4 * ((0x14 + 4 * 2) / 4)) 4)) &&& BitVec.ofNat 32 0xFFFFFFF0) |||
    (BitVec.ofNat 32 0 &&& BitVec.ofNat 32 0xF)).toNat = (BitVec.ofNat 32 (leNat (Memory.read s.host.cfg 28 4)) &&& 0xFFFFFFF0#32).toNat := by
    simp
  omega

theorem witness_StartUpGoesStepByStep_3 : ¬ (∀ (src : Nat) (f : Fetch) (s : State), s.hole = none → s.boot.takes src .https = true →
    False) :=
  fun h => h 0 { chain := [], image := [] } booting (by decide +kernel) (by decide +kernel)

theorem witness_StartUpGoesStepByStep_4 : ¬ (∀ (src : Nat) (s : State), s.hole = none → s.boot.takes src .https = true →
    False) :=
  fun h => h 0 booting (by decide +kernel) (by decide +kernel)

/-- A start whose link trains at no rate that both ends share goes on without the link. -/
theorem test_start_goes_on_past_its_link : (State.bootStart { booting with boot := { booting.boot with
    part := { Boot.reset.part with rate := 4, weak := 0x20 } } }).boot.width = 0 := by decide +kernel

theorem witness_StartUpGoesStepByStep_5 : ¬ (∀ (s : State) (t : Nat), s.hole = none → s.boot.retryAt = some t → t ≤ s.now →
    False) :=
  fun h => h { booting with boot := { booting.boot with retryAt := some 0 } } 0 (by decide +kernel) rfl (by decide)

theorem witness_StartUpGoesStepByStep_7 : ¬ (∀ (cold : Bool) (rest : List Input) (s : State), s.agenda = .restart cold :: rest →
    False) :=
  fun h => h true [] { mach with agenda := [.restart true] } rfl

theorem witness_TheHostPortAndErrorsReachTheMachine_1 : ¬ (∀ (r : ConfigRequest) (s : State), s.hole = none → s.boot.linked = false → False) :=
  fun h => h { write := false, offset := 8, value := 0 } State.reset (by decide +kernel) (by decide +kernel)

theorem witness_TheHostPortAndErrorsReachTheMachine_2 : ¬ (∀ (r : ConfigRequest) (s : State), s.hole = none → s.boot.linked = true → r.write = false → False) :=
  fun h => h { write := false, offset := 8, value := 0 } (ready0) (by decide +kernel) (by decide +kernel) rfl

theorem witness_TheHostPortAndErrorsReachTheMachine_3 : ¬ (∀ (r : ConfigRequest) (s : State), s.hole = none → s.boot.linked = true → r.write = true → False) :=
  fun h => h { write := true, offset := 8, value := 5 } (ready0) (by decide +kernel) (by decide +kernel) rfl

theorem witness_TheHostPortAndErrorsReachTheMachine_5_bar2 : ¬ (∀ (value : Word) (off n : Nat) (bs : List Byte) (s : State), s.hole = none →
    s.answersBar 2 = false → False) :=
  fun h => h 0 0 8 [] (mach) (by decide +kernel) rfl

theorem witness_TheHostPortAndErrorsReachTheMachine_5_bar0 : ¬ (∀ (value : Word) (off n : Nat) (bs : List Byte) (s : State), s.hole = none →
    s.answersBar 0 = false → False) :=
  fun h => h 0 0 8 [] (mach) (by decide +kernel) rfl

theorem witness_TheHostPortAndErrorsReachTheMachine_6 : ¬ (∀ (off n : Nat) (bs : List Byte) (s : State), s.hole = none → s.answersBar 2 = true → s.boot.ready = false →
    off + n ≤ 2 ^ 36 → False) :=
  fun h => h 0 8 [1] { ready0 with boot := booting.boot } (by decide +kernel) (answers2 _ (by decide +kernel)) rfl (by decide)

theorem witness_TheHostPortAndErrorsReachTheMachine_7 : ¬ (∀ (off n : Nat) (s : State), s.hole = none → s.answersBar 2 = true → s.boot.ready = true → off + n ≤ 2 ^ 36 →
    s.host.bar2 * 2 ^ 36 + off + n ≤ Config.hbmBytes →
    (∀ g ∈ s.mem.unfound, overlaps (16 * g.1) 16 (s.host.bar2 * 2 ^ 36 + off) n = false) → False) :=
  fun h => h 0x2000 8 (ready0) (by decide +kernel) (answers2 _ (by decide +kernel)) rfl (by decide) (by decide +kernel) (by decide +kernel)

theorem witness_TheHostPortAndErrorsReachTheMachine_8 : ¬ (∀ (off n : Nat) (s : State), s.answersBar 2 = true → s.boot.ready = true → off + n ≤ 2 ^ 36 →
    s.host.bar2 * 2 ^ 36 + off + n ≤ Config.hbmBytes →
    let found := s.mem.unfound.filter (fun g => overlaps (16 * g.1) 16 (s.host.bar2 * 2 ^ 36 + off) n)
    let u := found.foldl (fun (s : State) g => s.notify 0xFFFF 0 0 (16 * g.1) g.2)
      { s with mem := { s.mem with unfound := s.mem.unfound.filter (fun g => !found.elem g) } }
    let t := ((u.bumpBy 0x124 n).fillLines none false (linesOf (s.host.bar2 * 2 ^ 36 + off) n)).emit
      (.hostRead (s.hbmRead (s.host.bar2 * 2 ^ 36 + off) n))
    t.hole = none → False) :=
  fun h => h 0x2000 8 { ready0 with mem := { MemState.reset with poison := [0x200], unfound := [(0x200, 1)] } } (answers2 _ (by decide +kernel)) rfl (by decide) (by decide +kernel) (by decide +kernel)

theorem witness_TheHostPortAndErrorsReachTheMachine_9 : ¬ (∀ (off : Nat) (bs : List Byte) (s : State), s.answersBar 2 = true → s.boot.ready = true → off + bs.length ≤ 2 ^ 36 →
    s.host.bar2 * 2 ^ 36 + off + bs.length ≤ Config.hbmBytes →
    let t := (s.hbmWrite (s.host.bar2 * 2 ^ 36 + off) bs).physUsed true (s.host.bar2 * 2 ^ 36 + off) bs.length
    t.hole = none → False) :=
  fun h => h 0x2000 [1, 2] (ready0) (answers2 _ (by decide +kernel)) rfl (by decide) (by decide +kernel) (by decide +kernel)

theorem witness_TheHostPortAndErrorsReachTheMachine_10_new : ¬ (∀ (value : Word) (s : State) (c : Context), s.answersBar 0 = true → s.boot.ready = true →
    s.ctx? (bitsOf value.toNat 16 32) = some c →
    let q := bitsOf value.toNat 0 16
    s.queue? (bitsOf value.toNat 16 32) q = none → (s.examine c q).hole = none → False) :=
  fun h => h 1 (ready0 (sched (pktBarrier 3) [])) ctx0 (answers0 _ (by decide +kernel)) rfl (by decide +kernel) (by decide +kernel) (by decide +kernel)

theorem witness_TheHostPortAndErrorsReachTheMachine_10_known : ¬ (∀ (value : Word) (s : State) (c : Context), s.answersBar 0 = true → s.boot.ready = true →
    s.ctx? (bitsOf value.toNat 16 32) = some c →
    let q := bitsOf value.toNat 0 16
    ∀ x, s.queue? (bitsOf value.toNat 16 32) q = some x →
      ((s.mapQueue (bitsOf value.toNat 16 32) q (fun x => { x with blocked := false })).examine c q).hole = none → False) :=
  fun h => h 0 (ready0 (sched (pktBarrier 3) [])) ctx0 (answers0 _ (by decide +kernel)) rfl (by decide +kernel) _ rfl (by decide +kernel)

theorem witness_TheHostPortAndErrorsReachTheMachine_11 : ¬ (∀ (seq : W32) (s : State), s.hole = none → s.answersBar 0 = true → seq ≠ 0 → (∀ x ∈ s.host.inbox, x.1 = none) → False) :=
  fun h => h 5 (ready0) (by decide +kernel) (answers0 _ (by decide +kernel)) (by decide) (fun _ h => nomatch (show _ ∈ ([] : List (Option W32 × Msg)) from h))

theorem witness_TheHostPortAndErrorsReachTheMachine_12 : ¬ (∀ (k : Nat) (bs : List Byte) (s : State), s.hole = none → s.answersBar 0 = true → 0 < bs.length → k + bs.length ≤ 64 →
    False) :=
  fun h => h 60 [1, 2, 3, 4] (ready0) (by decide +kernel) (answers0 _ (by decide +kernel)) (by decide) (by decide)

theorem witness_TheHostPortAndErrorsReachTheMachine_13 : ¬ (∀ (off : Nat) (bs : List Byte) (s : State), s.hole = none → s.answersBar 0 = true → off < 0x1000 → off + bs.length ≤ 0x1000 → False) :=
  fun h => h 0xFFC [1, 2, 3, 4] (ready0) (by decide +kernel) (answers0 _ (by decide +kernel)) (by decide) (by decide)

theorem witness_TheHostPortAndErrorsReachTheMachine_14_new : ¬ (∀ (g : Nat) (s : State), s.hole = none →
    g ∉ s.mem.poison → False) :=
  fun h => h 9 (mach) (by decide +kernel) (by decide)

theorem witness_TheHostPortAndErrorsReachTheMachine_14_known : ¬ (∀ (g : Nat) (s : State), s.hole = none →
    g ∈ s.mem.poison → False) :=
  fun h => h 9 { mach with mem := { MemState.reset with poison := [9] } } (by decide +kernel) (by decide)

theorem witness_TheHostPortAndErrorsReachTheMachine_15 : ¬ (∀ (line : Nat) (s : State), (∀ i < 8, i + 8 * line ∉ s.mem.poison) → s.hole = none →
    False) :=
  fun h => h 9 (mach) (by decide +kernel) (by decide +kernel)

theorem witness_TheHostPortAndErrorsReachTheMachine_16_new : ¬ (∀ (core slot tile : Nat) (s : State) (g : Wg),
    s.wgs.find? (fun g => g.st == .resident && g.core == core && decide (g.tileBase ≤ tile) && decide (tile < g.tileBase + g.tiles)) =
      some g →
    let spoilt := match g.tag (tile - g.tileBase) with
      | .filling (.sender p c) .. => s.fab.spoilt ++ [(p, c, g.wid, tile - g.tileBase)]
      | _ => s.fab.spoilt
    let u := { s with fab := { s.fab with spoilt := spoilt } }.mapWg g.wid (fun g => g.setTag (tile - g.tileBase) .poison)
    let t := (match g.tag (tile - g.tileBase) with
      | .filling (.op i) .. => u.mapOp i (fun o => { o with pois := true })
      | _ => u).notify g.pkt.ctx core slot (256 * (tile - g.tileBase)) 4
    g.tag (tile - g.tileBase) ≠ .poison → t.hole = none → False) :=
  fun h => h 0 0 15 (mach) (wg0 warp0) (by decide +kernel) (by decide) (by decide +kernel)

theorem witness_TheHostPortAndErrorsReachTheMachine_16_known : ¬ (∀ (core slot tile : Nat) (s : State) (g : Wg),
    s.wgs.find? (fun g => g.st == .resident && g.core == core && decide (g.tileBase ≤ tile) && decide (tile < g.tileBase + g.tiles)) =
      some g →
    let spoilt := match g.tag (tile - g.tileBase) with
      | .filling (.sender p c) .. => s.fab.spoilt ++ [(p, c, g.wid, tile - g.tileBase)]
      | _ => s.fab.spoilt
    let u := { s with fab := { s.fab with spoilt := spoilt } }.mapWg g.wid (fun g => g.setTag (tile - g.tileBase) .poison)
    let t := (match g.tag (tile - g.tileBase) with
      | .filling (.op i) .. => u.mapOp i (fun o => { o with pois := true })
      | _ => u).notify g.pkt.ctx core slot (256 * (tile - g.tileBase)) 4
    g.tag (tile - g.tileBase) = .poison → s.hole = none → False) :=
  fun h => h 0 0 0 (mach warp0 [0] (fun g => g.setTag 0 .poison)) ((wg0 warp0).setTag 0 .poison) (by decide +kernel) (by decide) (by decide +kernel)

theorem witness_TheHostPortAndErrorsReachTheMachine_17_new : ¬ (∀ (core slot row col wid k : Nat) (s : State) (g : Wg), s.slot? core slot = some (wid, k) → s.wg? wid = some g →
    row < g.acc.length → col < 256 →
    let u := (s.accMap g.wid row col 1 1 (fun _ _ _ => 0x7FC00000)).mapOps (fun o =>
      match o.kind with
      | .mloop _ =>
        if o.wid == g.wid && o.running && o.kind.accWrites.any (fun r => regionsMeet row col 1 1 r.1 r.2.1 r.2.2.1 r.2.2.2) then
          { o with pois := true }
        else o
      | _ => o)
    let told : Told := { wid := g.wid, warp := 0, lane := 0, sub := 5, addr := 256 * row + col }
    let t := { u with mem := { u.mem with told := u.mem.told ++ [told] } }.notify g.pkt.ctx core slot (256 * row + col) 5
    told ∉ u.mem.told → t.hole = none → False) :=
  fun h => h 0 0 15 255 0 0 (mach) (wg0 warp0) rfl rfl (by decide +kernel) (by decide) (by decide +kernel) (by decide +kernel)

theorem witness_TheHostPortAndErrorsReachTheMachine_17_known : ¬ (∀ (core slot row col wid k : Nat) (s : State) (g : Wg), s.slot? core slot = some (wid, k) → s.wg? wid = some g →
    row < g.acc.length → col < 256 →
    let u := (s.accMap g.wid row col 1 1 (fun _ _ _ => 0x7FC00000)).mapOps (fun o =>
      match o.kind with
      | .mloop _ =>
        if o.wid == g.wid && o.running && o.kind.accWrites.any (fun r => regionsMeet row col 1 1 r.1 r.2.1 r.2.2.1 r.2.2.2) then
          { o with pois := true }
        else o
      | _ => o)
    let told : Told := { wid := g.wid, warp := 0, lane := 0, sub := 5, addr := 256 * row + col }
    let t := { u with mem := { u.mem with told := u.mem.told ++ [told] } }.notify g.pkt.ctx core slot (256 * row + col) 5
    told ∈ u.mem.told → u.hole = none → False) :=
  fun h => h 0 0 15 255 0 0 { mach with mem := { MemState.reset with told := [{ wid := 0, warp := 0, lane := 0, sub := 5, addr := 256 * 15 + 255 }] } } (wg0 warp0) rfl rfl (by decide +kernel) (by decide) (by decide +kernel) (by decide +kernel)

theorem witness_TheHostPortAndErrorsReachTheMachine_18 : ¬ (∀ (a : Nat) (s : State), s.hole = none → False) :=
  fun h => h 9 (mach) (by decide +kernel)

theorem witness_TheHostPortAndErrorsReachTheMachine_19 : ¬ (∀ (core line : Nat) (s : State), s.hole = none → False) :=
  fun h => h 0 9 (mach) (by decide +kernel)

theorem witness_TheHostPortAndErrorsReachTheMachine_20_new : ¬ (∀ (core slot lane wid k : Nat) (code : Code) (s : State) (g : Wg), s.slot? core slot = some (wid, k) → s.wg? wid = some g →
    let u := s.mapWarp wid k (fun w => w.errReg lane code.toNat)
    let told : Told := { wid := wid, warp := k, lane := if code.isScalar then 0 else lane, sub := 6, addr := code.toNat }
    let t := { u with mem := { u.mem with told := u.mem.told ++ [told] } }.notify g.pkt.ctx core slot code.toNat 6
    let i : Instr := .uncorrectableError (.reg core slot lane code)
    u.stands told = true → told ∉ u.mem.told → t.hole = none → False) :=
  fun h => h 0 0 1 0 0 2 (mach) (wg0 warp0) rfl rfl (by decide +kernel) (by decide +kernel) (by decide +kernel)

theorem witness_TheHostPortAndErrorsReachTheMachine_20_none : ¬ (∀ (core slot lane wid k : Nat) (code : Code) (s : State) (g : Wg), s.slot? core slot = some (wid, k) → s.wg? wid = some g →
    let u := s.mapWarp wid k (fun w => w.errReg lane code.toNat)
    let told : Told := { wid := wid, warp := k, lane := if code.isScalar then 0 else lane, sub := 6, addr := code.toNat }
    let t := { u with mem := { u.mem with told := u.mem.told ++ [told] } }.notify g.pkt.ctx core slot code.toNat 6
    let i : Instr := .uncorrectableError (.reg core slot lane code)
    u.stands told = false ∨ told ∈ u.mem.told → u.hole = none → False) :=
  fun h => h 0 0 1 0 0 200 (mach) (wg0 warp0) rfl rfl (.inl (by decide +kernel)) (by decide +kernel)

theorem witness_TheHostPortAndErrorsReachTheMachine_21 : ¬ (∀ (off n : Nat) (rest : List Input) (s : State), s.hole = none → s.answersBar 0 = true → s.agenda = .hostRead off n :: rest →
    False) :=
  fun h => h 0 4 [] { ready0 with agenda := [.hostRead 0 4] } (by decide +kernel) (answers0 _ (by decide +kernel)) rfl

theorem witness_TheHostPortAndErrorsReachTheMachine_22 : ¬ (∀ (chain : List Byte) (m : Msg) (rest : List Input) (s : State), s.hole = none → s.boot.ported = true →
    s.agenda = .portMsg chain m :: rest →
    False) :=
  fun h => h [] 0 [] { ready0 with agenda := [.portMsg [] 0] } (by decide +kernel) (by decide +kernel) rfl

theorem witness_TheHostPortAndErrorsReachTheMachine_23 : ¬ (∀ (s : State),
    s.boot.ready = false → False) :=
  fun h => h { State.reset with boot := { Boot.reset with step := 4 } } rfl

/-- A message with operation `op`, parameters and fields, sent to a device that a driver of version 2 is attached to. -/
def msg0 (op : Nat) (fs : List (Nat × Nat)) : Nat := fs.foldl (fun a x => a + x.2 <<< x.1) op
def ask (m : Nat) (s : State := mach) : State :=
  { s with host := { s.host with attached := some 2, inbox := [(some 1, BitVec.ofNat 512 m)] } }

theorem asked {s : State} {op m : Nat} (h1 : s.host.inbox = [(some 1, BitVec.ofNat 512 m)]) (h2 : (BitVec.ofNat 512 m).toNat = m) (h3 : m % 256 = op)
    (h4 : (op = 0x60 ∨ op = 0x73 ∨ op = 0x74) ∨ s.host.attached.isSome) (h5 : s.host.attached ≠ some 1) :
    Claims.Asked s op (some 1) m :=
  ⟨_, [], h1, h2.symm, h3, h4, fun _ _ => h5⟩

theorem only {n m : Nat} (h : (List.range 8).all (fun i => decide (i ≤ n) || param m i == 0) = true) : Claims.Only n m := by
  intro i h1 h2
  have h3 := List.all_eq_true.mp h i (by simpa using Nat.lt_succ_of_le h2)
  simpa [Nat.not_le.mpr h1] using h3

/-- What CTXCREATE needs: the driver's rings and save pool, and a record of a context at 0x220000. -/
def named : State :=
  let r : Ring := { base := 0x300000, len := 64, vector := 0, posted := 0, consumed := 0, waiting := [] }
  { State.reset with fring := some r, sring := some r, slog := some r, pool := some (0, 0),
                     mem := { MemState.reset with hbm := hbm0 [(0x220000, record 64 [(64, 0x200000), (128, 1), (192, 0x300000), (256, 64), (384, 4096)])] } }

theorem witness_ManagementMessagesAreAnswered_1_attach : ¬ (∀ (i : Instr) (op : Nat) (src : Option W32) (m v : Nat) (s t : State), Claims.Asked s op src m → Claims.manages s m i op t v →
    t.hole = none → False) :=
  fun h => h .attach 0x60 (some 1) (msg0 0x60 [(64, 0x201)]) 2 ({ ask (msg0 0x60 [(64, 0x201)]) with host := { (ask (msg0 0x60 [(64, 0x201)])).host with attached := none } }) _ (asked rfl (by decide +kernel) (by decide +kernel) (by decide +kernel) (by decide))
    ⟨rfl, (only (by decide +kernel)), rfl, (by decide +kernel), by decide, (by decide +kernel), rfl⟩ (by decide +kernel)

theorem witness_ManagementMessagesAreAnswered_1_detach : ¬ (∀ (i : Instr) (op : Nat) (src : Option W32) (m v : Nat) (s t : State), Claims.Asked s op src m → Claims.manages s m i op t v →
    t.hole = none → False) :=
  fun h => h .detach 0x61 (some 1) (msg0 0x61 []) 0 (ask (msg0 0x61 []) State.reset) _ (asked rfl (by decide +kernel) (by decide +kernel) (by decide +kernel) (by decide))
    ⟨rfl, (only (by decide +kernel)), rfl, rfl, rfl⟩ (by decide +kernel)

theorem witness_ManagementMessagesAreAnswered_1_ctxcreate : ¬ (∀ (i : Instr) (op : Nat) (src : Option W32) (m v : Nat) (s t : State), Claims.Asked s op src m → Claims.manages s m i op t v →
    t.hole = none → False) :=
  fun h => h .ctxcreate 0x62 (some 1) (msg0 0x62 [(64, 0x220000)]) 0 (ask (msg0 0x62 [(64, 0x220000)]) named) _ (asked rfl (by decide +kernel) (by decide +kernel) (by decide +kernel) (by decide))
    ⟨rfl, (only (by decide +kernel)), rfl, rfl, rfl, rfl, by decide, (by decide +kernel), (by decide +kernel), (by decide +kernel), (by decide +kernel), rfl⟩ (by decide +kernel)

theorem witness_ManagementMessagesAreAnswered_1_ctxdestroy : ¬ (∀ (i : Instr) (op : Nat) (src : Option W32) (m v : Nat) (s t : State), Claims.Asked s op src m → Claims.manages s m i op t v →
    t.hole = none → False) :=
  fun h => h .ctxdestroy 0x63 (some 1) (msg0 0x63 []) 0 (ask (msg0 0x63 []) restful) _ (asked rfl (by decide +kernel) (by decide +kernel) (by decide +kernel) (by decide))
    ⟨rfl, (only (by decide +kernel)), rfl, (by decide +kernel), by decide, by decide, rfl⟩ (by decide +kernel)

theorem witness_ManagementMessagesAreAnswered_1_faultring : ¬ (∀ (i : Instr) (op : Nat) (src : Option W32) (m v : Nat) (s t : State), Claims.Asked s op src m → Claims.manages s m i op t v →
    t.hole = none → False) :=
  fun h => h .faultring 0x64 (some 1) (msg0 0x64 [(64, 0x300000), (128, 64), (192, 5)]) 0 (ask (msg0 0x64 [(64, 0x300000), (128, 64), (192, 5)]) State.reset) _ (asked rfl (by decide +kernel) (by decide +kernel) (by decide +kernel) (by decide))
    ⟨rfl, ⟨(only (by decide +kernel)), rfl, (by decide +kernel), ⟨6, by decide, by decide, (by decide +kernel)⟩, (by decide +kernel)⟩, rfl, rfl⟩ (by decide +kernel)

theorem witness_ManagementMessagesAreAnswered_1_servring : ¬ (∀ (i : Instr) (op : Nat) (src : Option W32) (m v : Nat) (s t : State), Claims.Asked s op src m → Claims.manages s m i op t v →
    t.hole = none → False) :=
  fun h => h .servring 0x65 (some 1) (msg0 0x65 [(64, 0x300000), (128, 64), (192, 5)]) 0 (ask (msg0 0x65 [(64, 0x300000), (128, 64), (192, 5)]) State.reset) _ (asked rfl (by decide +kernel) (by decide +kernel) (by decide +kernel) (by decide))
    ⟨rfl, ⟨(only (by decide +kernel)), rfl, (by decide +kernel), ⟨6, by decide, by decide, (by decide +kernel)⟩, (by decide +kernel)⟩, rfl, rfl⟩ (by decide +kernel)

theorem witness_ManagementMessagesAreAnswered_1_storelog : ¬ (∀ (i : Instr) (op : Nat) (src : Option W32) (m v : Nat) (s t : State), Claims.Asked s op src m → Claims.manages s m i op t v →
    t.hole = none → False) :=
  fun h => h .storelog 0x66 (some 1) (msg0 0x66 [(64, 0x300000), (128, 64), (192, 5)]) 0 (ask (msg0 0x66 [(64, 0x300000), (128, 64), (192, 5)]) State.reset) _ (asked rfl (by decide +kernel) (by decide +kernel) (by decide +kernel) (by decide))
    ⟨rfl, ⟨(only (by decide +kernel)), rfl, (by decide +kernel), ⟨6, by decide, by decide, (by decide +kernel)⟩, (by decide +kernel)⟩, rfl, rfl⟩ (by decide +kernel)

theorem witness_ManagementMessagesAreAnswered_1_savepool : ¬ (∀ (i : Instr) (op : Nat) (src : Option W32) (m v : Nat) (s t : State), Claims.Asked s op src m → Claims.manages s m i op t v →
    t.hole = none → False) :=
  fun h => h .savepool 0x67 (some 1) (msg0 0x67 [(64, 0x400000), (128, 673 * 2 ^ 20)]) 0 (ask (msg0 0x67 [(64, 0x400000), (128, 673 * 2 ^ 20)]) State.reset) _ (asked rfl (by decide +kernel) (by decide +kernel) (by decide +kernel) (by decide))
    ⟨rfl, (only (by decide +kernel)), rfl, (by decide +kernel), (by decide +kernel), rfl, rfl⟩ (by decide +kernel)

theorem witness_ManagementMessagesAreAnswered_1_podform : ¬ (∀ (i : Instr) (op : Nat) (src : Option W32) (m v : Nat) (s t : State), Claims.Asked s op src m → Claims.manages s m i op t v →
    t.hole = none → False) :=
  fun h => h .podform 0x68 (some 1) (msg0 0x68 [(64, 7), (128, 1), (192, 2)]) 0 (ask (msg0 0x68 [(64, 7), (128, 1), (192, 2)]) State.reset) _ (asked rfl (by decide +kernel) (by decide +kernel) (by decide +kernel) (by decide))
    ⟨rfl, (only (by decide +kernel)), (by decide +kernel), (by decide +kernel), (by decide +kernel), rfl⟩ (by decide +kernel)

theorem witness_ManagementMessagesAreAnswered_1_exportCtx : ¬ (∀ (i : Instr) (op : Nat) (src : Option W32) (m v : Nat) (s t : State), Claims.Asked s op src m → Claims.manages s m i op t v →
    t.hole = none → False) :=
  fun h => h .exportCtx 0x69 (some 1) (msg0 0x69 [(64, 3)]) 0 (ask (msg0 0x69 [(64, 3)]) restful) _ (asked rfl (by decide +kernel) (by decide +kernel) (by decide +kernel) (by decide))
    ⟨rfl, (only (by decide +kernel)), rfl, .inr ⟨(by decide +kernel), (by decide +kernel), rfl⟩⟩ (by decide +kernel)

theorem witness_ManagementMessagesAreAnswered_1_bar2base : ¬ (∀ (i : Instr) (op : Nat) (src : Option W32) (m v : Nat) (s t : State), Claims.Asked s op src m → Claims.manages s m i op t v →
    t.hole = none → False) :=
  fun h => h .bar2base 0x6A (some 1) (msg0 0x6A [(64, 2)]) 0 (ask (msg0 0x6A [(64, 2)]) State.reset) _ (asked rfl (by decide +kernel) (by decide +kernel) (by decide +kernel) (by decide))
    ⟨rfl, (only (by decide +kernel)), rfl, rfl⟩ (by decide +kernel)

theorem witness_ManagementMessagesAreAnswered_1_hostatomic : ¬ (∀ (i : Instr) (op : Nat) (src : Option W32) (m v : Nat) (s t : State), Claims.Asked s op src m → Claims.manages s m i op t v →
    t.hole = none → False) :=
  fun h => h .hostatomic 0x6B (some 1) (msg0 0x6B [(64, 1)]) 0 (ask (msg0 0x6B [(64, 1)]) State.reset) _ (asked rfl (by decide +kernel) (by decide +kernel) (by decide +kernel) (by decide))
    ⟨rfl, (only (by decide +kernel)), rfl, rfl⟩ (by decide +kernel)

theorem witness_ManagementMessagesAreAnswered_1_fabparam : ¬ (∀ (i : Instr) (op : Nat) (src : Option W32) (m v : Nat) (s t : State), Claims.Asked s op src m → Claims.manages s m i op t v →
    t.hole = none → False) :=
  fun h => h .fabparam 0x6C (some 1) (msg0 0x6C [(64, 500)]) 0 (ask (msg0 0x6C [(64, 500)]) State.reset) _ (asked rfl (by decide +kernel) (by decide +kernel) (by decide +kernel) (by decide))
    ⟨rfl, (only (by decide +kernel)), rfl, .inr ⟨(by decide +kernel), (by decide +kernel)⟩, rfl⟩ (by decide +kernel)

theorem witness_ManagementMessagesAreAnswered_1_streamparam : ¬ (∀ (i : Instr) (op : Nat) (src : Option W32) (m v : Nat) (s t : State), Claims.Asked s op src m → Claims.manages s m i op t v →
    t.hole = none → False) :=
  fun h => h .streamparam 0x6D (some 1) (msg0 0x6D [(64, 5)]) 0 (ask (msg0 0x6D [(64, 5)]) State.reset) _ (asked rfl (by decide +kernel) (by decide +kernel) (by decide +kernel) (by decide))
    ⟨rfl, (only (by decide +kernel)), rfl, rfl⟩ (by decide +kernel)

theorem witness_ManagementMessagesAreAnswered_1_powercap : ¬ (∀ (i : Instr) (op : Nat) (src : Option W32) (m v : Nat) (s t : State), Claims.Asked s op src m → Claims.manages s m i op t v →
    t.hole = none → False) :=
  fun h => h .powercap 0x6E (some 1) (msg0 0x6E [(64, 1000)]) 0 (ask (msg0 0x6E [(64, 1000)]) State.reset) _ (asked rfl (by decide +kernel) (by decide +kernel) (by decide +kernel) (by decide))
    ⟨rfl, (only (by decide +kernel)), rfl, (by decide +kernel), (by decide +kernel), rfl⟩ (by decide +kernel)

theorem witness_ManagementMessagesAreAnswered_1_powerstate : ¬ (∀ (i : Instr) (op : Nat) (src : Option W32) (m v : Nat) (s t : State), Claims.Asked s op src m → Claims.manages s m i op t v →
    t.hole = none → False) :=
  fun h => h .powerstate 0x6F (some 1) (msg0 0x6F [(64, 2)]) 0 (ask (msg0 0x6F [(64, 2)]) State.reset) _ (asked rfl (by decide +kernel) (by decide +kernel) (by decide +kernel) (by decide))
    ⟨rfl, (only (by decide +kernel)), rfl, .inl ⟨(by decide +kernel), rfl, rfl⟩⟩ (by decide +kernel)

theorem witness_ManagementMessagesAreAnswered_1_telemetry : ¬ (∀ (i : Instr) (op : Nat) (src : Option W32) (m v : Nat) (s t : State), Claims.Asked s op src m → Claims.manages s m i op t v →
    t.hole = none → False) :=
  fun h => h .telemetry 0x70 (some 1) (msg0 0x70 [(64, 5)]) 0 (ask (msg0 0x70 [(64, 5)]) State.reset) _ (asked rfl (by decide +kernel) (by decide +kernel) (by decide +kernel) (by decide))
    ⟨rfl, (only (by decide +kernel)), rfl, rfl⟩ (by decide +kernel)

theorem witness_ManagementMessagesAreAnswered_1_rollback : ¬ (∀ (i : Instr) (op : Nat) (src : Option W32) (m v : Nat) (s t : State), Claims.Asked s op src m → Claims.manages s m i op t v →
    t.hole = none → False) :=
  fun h => h .rollback 0x71 (some 1) (msg0 0x71 [(64, 1)]) 0 ({ ask (msg0 0x71 [(64, 1)]) State.reset with boot := { Boot.reset with level := 3 } }) _ (asked rfl (by decide +kernel) (by decide +kernel) (by decide +kernel) (by decide))
    ⟨rfl, (only (by decide +kernel)), rfl, (by decide +kernel), (by decide +kernel), rfl⟩ (by decide +kernel)

theorem witness_ManagementMessagesAreAnswered_1_journalclr : ¬ (∀ (i : Instr) (op : Nat) (src : Option W32) (m v : Nat) (s t : State), Claims.Asked s op src m → Claims.manages s m i op t v →
    t.hole = none → False) :=
  fun h => h .journalclr 0x72 (some 1) (msg0 0x72 []) 0 (ask (msg0 0x72 []) State.reset) _ (asked rfl (by decide +kernel) (by decide +kernel) (by decide +kernel) (by decide))
    ⟨rfl, (only (by decide +kernel)), rfl, rfl⟩ (by decide +kernel)

theorem witness_ManagementMessagesAreAnswered_1_imgpiece : ¬ (∀ (i : Instr) (op : Nat) (src : Option W32) (m v : Nat) (s t : State), Claims.Asked s op src m → Claims.manages s m i op t v →
    t.hole = none → False) :=
  fun h => h .imgpiece 0x73 (some 1) (msg0 0x73 [(64, 4096), (128, 32)]) 0 (ask (msg0 0x73 [(64, 4096), (128, 32)]) booting) _ (asked rfl (by decide +kernel) (by decide +kernel) (by decide +kernel) (by decide))
    ⟨rfl, (only (by decide +kernel)), rfl, (by decide +kernel), (by decide +kernel), (by decide +kernel), (by decide +kernel), (by decide +kernel), (by decide +kernel), rfl⟩ (by decide +kernel)

theorem witness_ManagementMessagesAreAnswered_1_ctxcsr : ¬ (∀ (i : Instr) (op : Nat) (src : Option W32) (m v : Nat) (s t : State), Claims.Asked s op src m → Claims.manages s m i op t v →
    t.hole = none → False) :=
  fun h => h .ctxcsr 0x75 (some 1) (msg0 0x75 [(64, 0x18), (128, 9), (192, 1)]) 9 (ask (msg0 0x75 [(64, 0x18), (128, 9), (192, 1)]) restful) _ (asked rfl (by decide +kernel) (by decide +kernel) (by decide +kernel) (by decide))
    ⟨rfl, (only (by decide +kernel)), ctx0, ctx0.csrPut 0x18 (csrKeeps 0x18 9), rfl, (by decide +kernel), (by decide +kernel), rfl, rfl⟩ (by decide +kernel)

theorem witness_ManagementMessagesAreAnswered_1_devcsr : ¬ (∀ (i : Instr) (op : Nat) (src : Option W32) (m v : Nat) (s t : State), Claims.Asked s op src m → Claims.manages s m i op t v →
    t.hole = none → False) :=
  fun h => h .devcsr 0x76 (some 1) (msg0 0x76 [(64, 0x101), (128, 0x100000000), (192, 1)]) 0x100000000 (ask (msg0 0x76 [(64, 0x101), (128, 0x100000000), (192, 1)]) restful) _ (asked rfl (by decide +kernel) (by decide +kernel) (by decide +kernel) (by decide))
    ⟨rfl, (only (by decide +kernel)), (by decide +kernel), (by decide +kernel), rfl, (by decide +kernel)⟩ (by decide +kernel)

theorem witness_ManagementMessagesAreAnswered_2 : ¬ (∀ (src : Option W32) (m host : Nat) (s : State), Claims.Asked s 0x74 src m → Claims.Only 1 m → s.boot.hostSource = some host →
    param m 1 ≤ 2 ^ 26 → s.hole = none →
    False) :=
  fun h => h (some 1) (msg0 0x74 [(64, 64)]) 1 (ask (msg0 0x74 [(64, 64)]) booting) (asked rfl (by decide +kernel) (by decide +kernel) (by decide +kernel) (by decide)) (only (by decide +kernel)) (by decide +kernel) (by decide +kernel) (by decide +kernel)

/-- The fields of a message that names lane 0 of warp slot 0 of core 0, and a machine in which that lane is parked with a record of a kind. -/
def lane0 : List (Nat × Nat) := [(384, 1)]
def parkedLane (kind : Nat) (x : Lane) : Lane :=
  { x with st := .parked { recId := 0, cause := .bkpt, kind := kind, addr := 0, detail := 0, pc := 0x10000 } }
def parked0 (kind : Nat) : State := mach (onLanes (parkedLane kind) warp0) []
def tgt (s : State) : Target := (s.target (msg0 0 lane0)).getD { ctx := ctx0, g := wg0 warp0, k := 0, w := warp0, ls := [] }
/-- The first lane of such a machine. -/
def firstLane : Lane := parkedLane 0 (Lane.start kernel0 0xF ((gridItems launch0 0 0).headD none))

theorem recorded {x : Target} {kind : Nat → Prop} (q : Nat → Bool) (hq : ∀ k, q k = true → kind k) (h1 : x.lanes.isEmpty = false)
    (h2 : x.lanes.all (fun l => match l.st with | .parked p => q p.kind | _ => false) = true) : Claims.Records x kind := by
  refine ⟨fun e => by simp [e] at h1, fun l hl => ?_⟩
  have h := List.all_eq_true.mp h2 l hl
  split at h
  · next p hp => exact ⟨p, hp, hq _ h⟩
  · cases h

/-- Lanes that STEP may name: Active ones, and parked ones but for a fault. -/
theorem steppable {x : Target} (h : x.lanes.all (fun l => l.live && l.st != .join && l.st != .exclusion &&
    (match l.park? with | some p => p.kind != 0 | none => true)) = true) :
    ∀ l ∈ x.lanes, l.live = true ∧ l.st ≠ .join ∧ l.st ≠ .exclusion ∧ ∀ p, l.park? = some p → p.kind ≠ 0 := by
  intro l hl
  have h := List.all_eq_true.mp h l hl
  simp only [Bool.and_eq_true, bne_iff_ne, ne_eq] at h
  refine ⟨h.1.1.1, h.1.1.2, h.1.2, fun p hp => ?_⟩
  have h2 := h.2
  rw [hp] at h2
  simpa using h2

theorem witness_DriverMessagesAreAnswered_1_resume : ¬ (∀ (i : Instr) (op : Nat) (src : Option W32) (m v e : Nat) (s t : State), Claims.Asked s op src m →
    Claims.steers s m i op t v e → t.hole = none → False) :=
  fun h => h .resume 0x01 (some 1) (msg0 0x01 lane0) 0 0 (ask (msg0 0x01 lane0) (parked0 1)) _ (asked rfl (by decide +kernel) (by decide +kernel) (by decide +kernel) (by decide))
    ⟨rfl, rfl, rfl, _, atSome (tgt (parked0 1)) (by decide +kernel), (recorded (· != 0) (fun k => by simp) (by decide +kernel) (by decide +kernel)), rfl⟩ (by decide +kernel)

theorem witness_DriverMessagesAreAnswered_1_redirect : ¬ (∀ (i : Instr) (op : Nat) (src : Option W32) (m v e : Nat) (s t : State), Claims.Asked s op src m →
    Claims.steers s m i op t v e → t.hole = none → False) :=
  fun h => h .redirect 0x02 (some 1) (msg0 0x02 (lane0 ++ [(448, 0x20000)])) 0 0 (ask (msg0 0x02 (lane0 ++ [(448, 0x20000)])) (parked0 0)) _ (asked rfl (by decide +kernel) (by decide +kernel) (by decide +kernel) (by decide))
    ⟨rfl, rfl, rfl, _, atSome (tgt (parked0 0)) (by decide +kernel), (recorded (fun _ => true) (fun _ _ => trivial) (by decide +kernel) (by decide +kernel)), (by decide +kernel), (by decide +kernel), rfl⟩ (by decide +kernel)

theorem witness_DriverMessagesAreAnswered_1_kill : ¬ (∀ (i : Instr) (op : Nat) (src : Option W32) (m v e : Nat) (s t : State), Claims.Asked s op src m →
    Claims.steers s m i op t v e → t.hole = none → False) :=
  fun h => h .kill 0x03 (some 1) (msg0 0x03 lane0) 0 0 (ask (msg0 0x03 lane0) (parked0 0)) _ (asked rfl (by decide +kernel) (by decide +kernel) (by decide +kernel) (by decide))
    ⟨rfl, rfl, rfl, _, atSome (tgt (parked0 0)) (by decide +kernel), (by decide +kernel), rfl⟩ (by decide +kernel)

theorem witness_DriverMessagesAreAnswered_1_read_lane : ¬ (∀ (i : Instr) (op : Nat) (src : Option W32) (m v e : Nat) (s t : State), Claims.Asked s op src m →
    Claims.steers s m i op t v e → t.hole = none → False) :=
  fun h => h .read 0x04 (some 1) (msg0 0x04 (lane0 ++ [(368, 2)])) 0 0 (ask (msg0 0x04 (lane0 ++ [(368, 2)])) (parked0 0)) _ (asked rfl (by decide +kernel) (by decide +kernel) (by decide +kernel) (by decide))
    ⟨rfl, rfl, _, firstLane, [], atSome (tgt (parked0 0)) (by decide +kernel), (by decide +kernel), .inl ⟨(by decide +kernel), (by decide +kernel), (by decide +kernel), { val := 0 }, (by decide +kernel), rfl, rfl⟩⟩ (by decide +kernel)

theorem witness_DriverMessagesAreAnswered_1_read_scalar : ¬ (∀ (i : Instr) (op : Nat) (src : Option W32) (m v e : Nat) (s t : State), Claims.Asked s op src m →
    Claims.steers s m i op t v e → t.hole = none → False) :=
  fun h => h .read 0x04 (some 1) (msg0 0x04 (lane0 ++ [(368, 0x102)])) 0 0 (ask (msg0 0x04 (lane0 ++ [(368, 0x102)])) (parked0 0)) _ (asked rfl (by decide +kernel) (by decide +kernel) (by decide +kernel) (by decide))
    ⟨rfl, rfl, _, firstLane, [], atSome (tgt (parked0 0)) (by decide +kernel), (by decide +kernel), .inr (.inl ⟨(by decide +kernel), (by decide +kernel), (by decide +kernel), { val := 0 }, (by decide +kernel), rfl, rfl⟩)⟩ (by decide +kernel)

theorem witness_DriverMessagesAreAnswered_1_read_preds : ¬ (∀ (i : Instr) (op : Nat) (src : Option W32) (m v e : Nat) (s t : State), Claims.Asked s op src m →
    Claims.steers s m i op t v e → t.hole = none → False) :=
  fun h => h .read 0x04 (some 1) (msg0 0x04 (lane0 ++ [(368, 0x140)])) 0 0 (ask (msg0 0x04 (lane0 ++ [(368, 0x140)])) (parked0 0)) _ (asked rfl (by decide +kernel) (by decide +kernel) (by decide +kernel) (by decide))
    ⟨rfl, rfl, _, firstLane, [], atSome (tgt (parked0 0)) (by decide +kernel), (by decide +kernel), .inr (.inr (.inl ⟨(by decide +kernel), (by decide +kernel), (by decide +kernel), (by decide +kernel)⟩))⟩ (by decide +kernel)

theorem witness_DriverMessagesAreAnswered_1_read_csr : ¬ (∀ (i : Instr) (op : Nat) (src : Option W32) (m v e : Nat) (s t : State), Claims.Asked s op src m →
    Claims.steers s m i op t v e → t.hole = none → False) :=
  fun h => h .read 0x04 (some 1) (msg0 0x04 (lane0 ++ [(368, 0x1009)])) 0 0 (ask (msg0 0x04 (lane0 ++ [(368, 0x1009)])) (parked0 0)) _ (asked rfl (by decide +kernel) (by decide +kernel) (by decide +kernel) (by decide))
    ⟨rfl, rfl, _, firstLane, [], atSome (tgt (parked0 0)) (by decide +kernel), (by decide +kernel), .inr (.inr (.inr ⟨(by decide +kernel), (by decide +kernel), (by decide +kernel), (by decide +kernel), rfl⟩))⟩ (by decide +kernel)

theorem witness_DriverMessagesAreAnswered_1_write_lane : ¬ (∀ (i : Instr) (op : Nat) (src : Option W32) (m v e : Nat) (s t : State), Claims.Asked s op src m →
    Claims.steers s m i op t v e → t.hole = none → False) :=
  fun h => h .write 0x05 (some 1) (msg0 0x05 (lane0 ++ [(368, 2), (448, 1)])) 0 0 (ask (msg0 0x05 (lane0 ++ [(368, 2), (448, 1)])) (parked0 0)) _ (asked rfl (by decide +kernel) (by decide +kernel) (by decide +kernel) (by decide))
    ⟨rfl, rfl, rfl, _, atSome (tgt (parked0 0)) (by decide +kernel), .inl ⟨(by decide +kernel), (by decide +kernel), (by decide +kernel), rfl⟩⟩ (by decide +kernel)

theorem witness_DriverMessagesAreAnswered_1_write_scalar : ¬ (∀ (i : Instr) (op : Nat) (src : Option W32) (m v e : Nat) (s t : State), Claims.Asked s op src m →
    Claims.steers s m i op t v e → t.hole = none → False) :=
  fun h => h .write 0x05 (some 1) (msg0 0x05 (lane0 ++ [(368, 0x102), (448, 1)])) 0 0 (ask (msg0 0x05 (lane0 ++ [(368, 0x102), (448, 1)])) (parked0 0)) _ (asked rfl (by decide +kernel) (by decide +kernel) (by decide +kernel) (by decide))
    ⟨rfl, rfl, rfl, _, atSome (tgt (parked0 0)) (by decide +kernel), .inr (.inl ⟨(by decide +kernel), (by decide +kernel), (by decide +kernel), (by decide +kernel), rfl⟩)⟩ (by decide +kernel)

theorem witness_DriverMessagesAreAnswered_1_write_preds : ¬ (∀ (i : Instr) (op : Nat) (src : Option W32) (m v e : Nat) (s t : State), Claims.Asked s op src m →
    Claims.steers s m i op t v e → t.hole = none → False) :=
  fun h => h .write 0x05 (some 1) (msg0 0x05 (lane0 ++ [(368, 0x140), (448, 1)])) 0 0 (ask (msg0 0x05 (lane0 ++ [(368, 0x140), (448, 1)])) (parked0 0)) _ (asked rfl (by decide +kernel) (by decide +kernel) (by decide +kernel) (by decide))
    ⟨rfl, rfl, rfl, _, atSome (tgt (parked0 0)) (by decide +kernel), .inr (.inr (.inl ⟨(by decide +kernel), (by decide +kernel), rfl⟩))⟩ (by decide +kernel)

theorem witness_DriverMessagesAreAnswered_1_write_csr : ¬ (∀ (i : Instr) (op : Nat) (src : Option W32) (m v e : Nat) (s t : State), Claims.Asked s op src m →
    Claims.steers s m i op t v e → t.hole = none → False) :=
  fun h => h .write 0x05 (some 1) (msg0 0x05 (lane0 ++ [(368, 0x1009), (448, 1)])) 0 0 (ask (msg0 0x05 (lane0 ++ [(368, 0x1009), (448, 1)])) (parked0 0)) _ (asked rfl (by decide +kernel) (by decide +kernel) (by decide +kernel) (by decide))
    ⟨rfl, rfl, rfl, _, atSome (tgt (parked0 0)) (by decide +kernel), .inr (.inr (.inr ⟨(by decide +kernel), (by decide +kernel), (by decide +kernel), (by decide +kernel), rfl⟩))⟩ (by decide +kernel)

theorem witness_DriverMessagesAreAnswered_1_halt : ¬ (∀ (i : Instr) (op : Nat) (src : Option W32) (m v e : Nat) (s t : State), Claims.Asked s op src m →
    Claims.steers s m i op t v e → t.hole = none → False) :=
  fun h => h .halt 0x10 (some 1) (msg0 0x10 lane0) 0 0 (ask (msg0 0x10 lane0) (mach)) _ (asked rfl (by decide +kernel) (by decide +kernel) (by decide +kernel) (by decide))
    ⟨rfl, rfl, rfl, _, atSome (tgt (mach)) (by decide +kernel), rfl⟩ (by decide +kernel)

theorem witness_DriverMessagesAreAnswered_1_step : ¬ (∀ (i : Instr) (op : Nat) (src : Option W32) (m v e : Nat) (s t : State), Claims.Asked s op src m →
    Claims.steers s m i op t v e → t.hole = none → False) :=
  fun h => h .step 0x11 (some 1) (msg0 0x11 lane0) 0 0 (ask (msg0 0x11 lane0) (parked0 1)) _ (asked rfl (by decide +kernel) (by decide +kernel) (by decide +kernel) (by decide))
    ⟨rfl, rfl, rfl, _, atSome (tgt (parked0 1)) (by decide +kernel), (steppable (by decide +kernel)), rfl⟩ (by decide +kernel)

theorem witness_DriverMessagesAreAnswered_1_step_active : ¬ (∀ (i : Instr) (op : Nat) (src : Option W32) (m v e : Nat) (s t : State), Claims.Asked s op src m →
    Claims.steers s m i op t v e → t.hole = none → False) :=
  fun h => h .step 0x11 (some 1) (msg0 0x11 lane0) 0 0 (ask (msg0 0x11 lane0) (mach)) _ (asked rfl (by decide +kernel) (by decide +kernel) (by decide +kernel) (by decide))
    ⟨rfl, rfl, rfl, _, atSome (tgt (mach)) (by decide +kernel), (steppable (by decide +kernel)), rfl⟩ (by decide +kernel)

theorem witness_DriverMessagesAreAnswered_1_resumeDbg : ¬ (∀ (i : Instr) (op : Nat) (src : Option W32) (m v e : Nat) (s t : State), Claims.Asked s op src m →
    Claims.steers s m i op t v e → t.hole = none → False) :=
  fun h => h .resumeDbg 0x12 (some 1) (msg0 0x12 lane0) 0 0 (ask (msg0 0x12 lane0) (parked0 2)) _ (asked rfl (by decide +kernel) (by decide +kernel) (by decide +kernel) (by decide))
    ⟨rfl, rfl, rfl, _, atSome (tgt (parked0 2)) (by decide +kernel), (recorded (· == 2) (fun k => by simp) (by decide +kernel) (by decide +kernel)), rfl⟩ (by decide +kernel)

theorem witness_DriverMessagesAreAnswered_1_trace : ¬ (∀ (i : Instr) (op : Nat) (src : Option W32) (m v e : Nat) (s t : State), Claims.Asked s op src m →
    Claims.steers s m i op t v e → t.hole = none → False) :=
  fun h => h .trace 0x13 (some 1) (msg0 0x13 (lane0 ++ [(448, 1)])) 0 0 (ask (msg0 0x13 (lane0 ++ [(448, 1)])) (mach)) _ (asked rfl (by decide +kernel) (by decide +kernel) (by decide +kernel) (by decide))
    ⟨rfl, rfl, rfl, _, atSome (tgt (mach)) (by decide +kernel), rfl⟩ (by decide +kernel)

theorem witness_DriverMessagesAreAnswered_1_breakpoint_clear : ¬ (∀ (i : Instr) (op : Nat) (src : Option W32) (m v e : Nat) (s t : State), Claims.Asked s op src m →
    Claims.steers s m i op t v e → t.hole = none → False) :=
  fun h => h .breakpoint 0x14 (some 1) (msg0 0x14 lane0) 0 0 (ask (msg0 0x14 lane0) (mach)) _ (asked rfl (by decide +kernel) (by decide +kernel) (by decide +kernel) (by decide))
    ⟨rfl, rfl, rfl, .inl ⟨(by decide +kernel), (by decide +kernel), rfl⟩⟩ (by decide +kernel)

theorem witness_DriverMessagesAreAnswered_1_breakpoint_set : ¬ (∀ (i : Instr) (op : Nat) (src : Option W32) (m v e : Nat) (s t : State), Claims.Asked s op src m →
    Claims.steers s m i op t v e → t.hole = none → False) :=
  fun h => h .breakpoint 0x14 (some 1) (msg0 0x14 (lane0 ++ [(448, 0x10000)])) 0 0 (ask (msg0 0x14 (lane0 ++ [(448, 0x10000)])) (mach)) _ (asked rfl (by decide +kernel) (by decide +kernel) (by decide +kernel) (by decide))
    ⟨rfl, rfl, rfl, .inr ⟨(by decide +kernel), _, atSome (tgt mach) (by decide +kernel), rfl⟩⟩ (by decide +kernel)

theorem witness_DriverMessagesAreAnswered_2_inval : ¬ (∀ (i : Instr) (op : Nat) (src : Option W32) (m v : Nat) (s t : State), Claims.Asked s op src m → Claims.recovers s m i op t v →
    t.hole = none → False) :=
  fun h => h .inval 0x20 (some 1) (msg0 0x20 []) 0 (ask (msg0 0x20 []) (mach)) _ (asked rfl (by decide +kernel) (by decide +kernel) (by decide +kernel) (by decide))
    ⟨rfl, rfl, (by unfold Claims.NoLanes; decide +kernel), (by decide +kernel), (by decide +kernel), (by decide +kernel), (by decide +kernel), rfl⟩ (by decide +kernel)

theorem witness_DriverMessagesAreAnswered_2_sethwm : ¬ (∀ (i : Instr) (op : Nat) (src : Option W32) (m v : Nat) (s t : State), Claims.Asked s op src m → Claims.recovers s m i op t v →
    t.hole = none → False) :=
  fun h => h .sethwm 0x21 (some 1) (msg0 0x21 [(448, 0x20000)]) 0 (ask (msg0 0x21 [(448, 0x20000)]) (mach)) _ (asked rfl (by decide +kernel) (by decide +kernel) (by decide +kernel) (by decide))
    ⟨rfl, rfl, (by unfold Claims.NoLanes; decide +kernel), ⟨ctx0, rfl, (by decide +kernel)⟩, (by decide +kernel), (by decide +kernel), rfl⟩ (by decide +kernel)

theorem witness_DriverMessagesAreAnswered_2_resumepage : ¬ (∀ (i : Instr) (op : Nat) (src : Option W32) (m v : Nat) (s t : State), Claims.Asked s op src m → Claims.recovers s m i op t v →
    t.hole = none → False) :=
  fun h => h .resumepage 0x22 (some 1) (msg0 0x22 [(448, 0x5000)]) 0 (ask (msg0 0x22 [(448, 0x5000)]) (mach)) _ (asked rfl (by decide +kernel) (by decide +kernel) (by decide +kernel) (by decide))
    ⟨rfl, rfl, (by unfold Claims.NoLanes; decide +kernel), (by decide +kernel), rfl⟩ (by decide +kernel)

/-- A copy that holds at a missing page. -/
def heldCopy : Op := { op0 with st := .started, held := [0x40000000] }
def launched : State := { inMachine (inProgress true (.launch launch0)) [] with pool := some (0x400000, 2 ^ 30) }
def saved0 : State := { sched (pktBarrier 3) [] with ctxs := [{ ctx0 with saved := true }] }

theorem witness_DriverMessagesAreAnswered_2_engresume : ¬ (∀ (i : Instr) (op : Nat) (src : Option W32) (m v : Nat) (s t : State), Claims.Asked s op src m → Claims.recovers s m i op t v →
    t.hole = none → False) :=
  fun h => h .engresume 0x30 (some 1) (msg0 0x30 []) 0 (ask (msg0 0x30 []) (engine heldCopy)) _ (asked rfl (by decide +kernel) (by decide +kernel) (by decide +kernel) (by decide))
    ⟨rfl, rfl, (by decide +kernel), (by decide +kernel), (by decide +kernel), heldCopy, (by decide +kernel), rfl⟩ (by decide +kernel)

theorem witness_DriverMessagesAreAnswered_2_engend : ¬ (∀ (i : Instr) (op : Nat) (src : Option W32) (m v : Nat) (s t : State), Claims.Asked s op src m → Claims.recovers s m i op t v →
    t.hole = none → False) :=
  fun h => h .engend 0x31 (some 1) (msg0 0x31 []) 0 (ask (msg0 0x31 []) (engine heldCopy)) _ (asked rfl (by decide +kernel) (by decide +kernel) (by decide +kernel) (by decide))
    ⟨rfl, rfl, (by decide +kernel), (by decide +kernel), (by decide +kernel), heldCopy, (by decide +kernel), rfl⟩ (by decide +kernel)

theorem witness_DriverMessagesAreAnswered_2_endlaunch : ¬ (∀ (i : Instr) (op : Nat) (src : Option W32) (m v : Nat) (s t : State), Claims.Asked s op src m → Claims.recovers s m i op t v →
    t.hole = none → False) :=
  fun h => h .endlaunch 0x32 (some 1) (msg0 0x32 []) 0 (ask (msg0 0x32 []) (launched)) _ (asked rfl (by decide +kernel) (by decide +kernel) (by decide +kernel) (by decide))
    ⟨rfl, rfl, (by decide +kernel), ctx0, inProgress true (.launch launch0), launch0, rfl, (by decide +kernel), rfl, rfl⟩ (by decide +kernel)

theorem witness_DriverMessagesAreAnswered_2_ctxsave : ¬ (∀ (i : Instr) (op : Nat) (src : Option W32) (m v : Nat) (s t : State), Claims.Asked s op src m → Claims.recovers s m i op t v →
    t.hole = none → False) :=
  fun h => h .ctxsave 0x33 (some 1) (msg0 0x33 []) 0 (ask (msg0 0x33 []) (mach)) _ (asked rfl (by decide +kernel) (by decide +kernel) (by decide +kernel) (by decide))
    ⟨rfl, rfl, (by decide +kernel), (by decide +kernel), rfl⟩ (by decide +kernel)

theorem witness_DriverMessagesAreAnswered_2_ctxrestore : ¬ (∀ (i : Instr) (op : Nat) (src : Option W32) (m v : Nat) (s t : State), Claims.Asked s op src m → Claims.recovers s m i op t v →
    t.hole = none → False) :=
  fun h => h .ctxrestore 0x34 (some 1) (msg0 0x34 []) 0 (ask (msg0 0x34 []) (saved0)) _ (asked rfl (by decide +kernel) (by decide +kernel) (by decide +kernel) (by decide))
    ⟨rfl, rfl, (by decide +kernel), _, rfl, rfl, rfl⟩ (by decide +kernel)

theorem witness_DriverMessagesAreAnswered_2_chretire : ¬ (∀ (i : Instr) (op : Nat) (src : Option W32) (m v : Nat) (s t : State), Claims.Asked s op src m → Claims.recovers s m i op t v →
    t.hole = none → False) :=
  fun h => h .chretire 0x40 (some 1) (msg0 0x40 [(448, 0x300)]) 0 (ask (msg0 0x40 [(448, 0x300)]) (inPod)) _ (asked rfl (by decide +kernel) (by decide +kernel) (by decide +kernel) (by decide))
    ⟨rfl, rfl, (by unfold Claims.NoLanes; decide +kernel), chan0, (by decide +kernel), rfl⟩ (by decide +kernel)

theorem witness_DriverMessagesAreAnswered_2_chrestore : ¬ (∀ (i : Instr) (op : Nat) (src : Option W32) (m v : Nat) (s t : State), Claims.Asked s op src m → Claims.recovers s m i op t v →
    t.hole = none → False) :=
  fun h => h .chrestore 0x41 (some 1) (msg0 0x41 [(448, 0x300)]) 0 (ask (msg0 0x41 [(448, 0x300)]) (inPod)) _ (asked rfl (by decide +kernel) (by decide +kernel) (by decide +kernel) (by decide))
    ⟨rfl, rfl, (by unfold Claims.NoLanes; decide +kernel), chan0, (by decide +kernel), rfl⟩ (by decide +kernel)

theorem witness_DriverMessagesAreAnswered_2_slreplay : ¬ (∀ (i : Instr) (op : Nat) (src : Option W32) (m v : Nat) (s t : State), Claims.Asked s op src m → Claims.recovers s m i op t v →
    t.hole = none → False) :=
  fun h => h .slreplay 0x42 (some 1) (msg0 0x42 [(448, 0x20000)]) 0 (ask (msg0 0x42 [(448, 0x20000)]) (logging)) _ (asked rfl (by decide +kernel) (by decide +kernel) (by decide +kernel) (by decide))
    ⟨rfl, rfl, (by unfold Claims.NoLanes; decide +kernel), .inr (by decide +kernel), { ctx := 0, page := 0x20, log := [] }, (by decide +kernel), atSome mach (by decide +kernel)⟩ (by decide +kernel)

theorem witness_DriverMessagesAreAnswered_2_sldiscard : ¬ (∀ (i : Instr) (op : Nat) (src : Option W32) (m v : Nat) (s t : State), Claims.Asked s op src m → Claims.recovers s m i op t v →
    t.hole = none → False) :=
  fun h => h .sldiscard 0x43 (some 1) (msg0 0x43 [(448, 0x20000)]) 0 (ask (msg0 0x43 [(448, 0x20000)]) (logging)) _ (asked rfl (by decide +kernel) (by decide +kernel) (by decide +kernel) (by decide))
    ⟨rfl, rfl, (by unfold Claims.NoLanes; decide +kernel), .inr (by decide +kernel), { ctx := 0, page := 0x20, log := [] }, (by decide +kernel), rfl⟩ (by decide +kernel)

theorem witness_DriverMessagesAreAnswered_2_podhold : ¬ (∀ (i : Instr) (op : Nat) (src : Option W32) (m v : Nat) (s t : State), Claims.Asked s op src m → Claims.recovers s m i op t v →
    t.hole = none → False) :=
  fun h => h .podhold 0x44 (some 1) (msg0 0x44 [(448, 8)]) 0 (ask (msg0 0x44 [(448, 8)]) (inPod)) _ (asked rfl (by decide +kernel) (by decide +kernel) (by decide +kernel) (by decide))
    ⟨rfl, rfl, (by unfold Claims.NoLanes; decide +kernel), (by decide +kernel), rfl⟩ (by decide +kernel)

theorem witness_DriverMessagesAreAnswered_2_podset : ¬ (∀ (i : Instr) (op : Nat) (src : Option W32) (m v : Nat) (s t : State), Claims.Asked s op src m → Claims.recovers s m i op t v →
    t.hole = none → False) :=
  fun h => h .podset 0x45 (some 1) (msg0 0x45 []) 8 (ask (msg0 0x45 []) ((inPod (fun f => { f with podWait := some { keep := 8, done := 8, limit := 1 } })))) _ (asked rfl (by decide +kernel) (by decide +kernel) (by decide +kernel) (by decide))
    ⟨rfl, (by unfold Claims.NoLanes; decide +kernel), .inl (by decide +kernel), _, rfl, (by decide +kernel), (by decide +kernel), rfl⟩ (by decide +kernel)

/-- A store of context 0 to a peer that waits in the buffer. -/
def storing : State := inPod (fun f => { f with wc := [lineOut] })

theorem witness_DriverMessagesAreAnswered_3 : ¬ (∀ (src : Option W32) (m : Nat) (s : State), Claims.Asked s 0x20 src m → Claims.NoLanes m → (s.ctx? (msgCtx m)).isSome →
    bitsOf (param m 7) 2 10 = 0 → param m 7 % 4 ≠ 3 →
    let pages := 512 ^ (param m 7 % 4)
    let first := param m 7 / 4096 / pages * pages
    let since := s.host.inval.getD (s.fab.nextTag, s.now)
    let u := Claims.invalidated s (msgCtx m) first pages
    let tag := if s.host.inval.isSome then since.1 else u.fab.nextTag
    u.xlInFlight (msgCtx m) first pages tag since.2 = true → u.hole = none → False) :=
  fun h => h (some 1) (msg0 0x20 []) (ask (msg0 0x20 []) storing) (asked rfl (by decide +kernel) (by decide +kernel) (by decide +kernel) (by decide)) (by unfold Claims.NoLanes; decide +kernel) (by decide +kernel) (by decide +kernel) (by decide +kernel) (by decide +kernel) (by decide +kernel)

theorem witness_DriverMessagesAreAnswered_4 : ¬ (∀ (src : Option W32) (m : Nat) (s : State), Claims.Asked s 0x50 src m → Claims.NoLanes m → (s.ctx? (msgCtx m)).isSome →
    s.hole = none →
    False) :=
  fun h => h (some 1) (msg0 0x50 []) (ask (msg0 0x50 [])) (asked rfl (by decide +kernel) (by decide +kernel) (by decide +kernel) (by decide)) (by unfold Claims.NoLanes; decide +kernel) (by decide +kernel) (by decide +kernel)

theorem witness_DriverMessagesAreAnswered_5 : ¬ (∀ (op : Nat) (src : Option W32) (m : Nat) (s : State), Claims.Asked s op src m → opAssigned op = false →
    s.host.attached.isSome → s.hole = none → False) :=
  fun h => h 0x7F (some 1) (msg0 0x7F []) (ask (msg0 0x7F [])) (asked rfl (by decide +kernel) (by decide +kernel) (by decide +kernel) (by decide)) (by decide +kernel) (by decide +kernel) (by decide +kernel)

theorem witness_EncodedInstructionsDecode : ¬ (∀ (i : Instr) (rest : List Byte), Instr.wf i = true → Instr.isWord i = true →
    False) :=
  fun h => h (.iadd (fa 5 1 2 0 0 10)) [] (by decide +kernel) (by decide +kernel)

theorem witness_AcceptedWordsAreEncodings_1 : ¬ (∀ (w : Word) (i : Instr), decodeWords none w = .ok i →
    False) :=
  fun h => h 0x10000A0101000280 (.iadd (fa 5 1 2 0 0 10)) rfl

theorem witness_AcceptedWordsAreEncodings_2 : ¬ (∀ (p w : Word) (i : Instr), wordMajor p = 1 → wordUnassigned w = false → decodeWords (some p) w = .ok i →
    False) :=
  fun h => h 0x0102000000000000 0x180C06010100E000 (.ffma { fa 3 1 2 3 8 with px := some { me := false, mp := 0, rm := 1, mz := false, e := 0, ximm := 0 } }) (by decide +kernel) (by decide +kernel) rfl

/-- The machine after reset with a word placed for its next step, and what that step finds. -/
def placed (n : Nat) : State := State.reset.withFetchWord 64 n
def placedWg (n : Nat) : Wg := ((placed n).wg? 0).getD (wg0 warp0)
def placedWarp (n : Nat) : Warp := ((placed n).warp? 0 0).getD warp0
def issued (n : Nat) : Issue := { wid := 0, warp := 0, lanes := List.range 16, pc := 0x10000, wpc := 0x10000, word := BitVec.ofNat 64 n }
def s1Of (n : Nat) : State := { (placed n).forgetTold with free := (placed n).free + 1, agenda := [] }
theorem unheld {v : Warp} {ls : List Nat} (h : ls.all (fun l => !v.mustWait l) = true) : ∀ l ∈ ls, v.mustWait l = false := by
  intro l hl
  simpa using List.all_eq_true.mp h l hl

theorem inClause {w : Warp} {ls : List Nat} {f : Lane → Bool}
    (h : ls.all (fun l => match w.lanes[l]? with | some x => !f x | none => false) = true) :
    ∀ l ∈ ls, ∃ x, w.lanes[l]? = some x ∧ f x = false := by
  intro l hl
  have q := List.all_eq_true.mp h l hl
  split at q
  · next x hx => exact ⟨x, hx, by simpa using q⟩
  · cases q

/-- What that step finds of a BAR: its lanes marked as arrived. -/
def arrived : State :=
  (s1Of 0x2918000000000000).mapWarp 0 0 (fun y => y.mapLanes (List.range 16) (fun x =>
    { x with st := .waiting, wait := none }))

theorem witness_StepRunsTheDecodedInstruction_goes : ¬ (∀ (s : State) (core slot : Nat) (rest : List Input) (wid k : Nat) (g : Wg) (c : Context) (w : Warp) (pc first wpc word : Word)
    (bs : List Byte) (i : Instr) (ls : List Nat),
    let s1 := { s.forgetTold with free := s.free + 1, agenda := rest }
    s.agenda = .issue core slot :: rest → s.slot? core slot = some (wid, k) → s.wg? wid = some g → g.warps[k]? = some w →
    s.ctx? g.pkt.ctx = some c → w.sleep = none → w.halts = [] → w.front = some (pc, ls) → breakHits c g w ls pc = [] →
    Claims.Words s1 c g w pc ls first wpc word bs → decodeBytes bs = .ok (i, []) → beyondDeclared g.kernel i = false →
    (∀ l ∈ ls, ∃ x, w.lanes[l]? = some x ∧
      s1.breaksForm c g.core x pc first (if wordMajor first = 1 then 2 else 1) (wordMajor word) = false) →
    let runs := fun (u : State) (v : Warp) (front : List Nat) =>
      let es := front.filter (fun l => match v.lanes[l]? with
        | some x => (match x.wait with | some y => !y.asleep | none => true)
        | none => true)
      es ≠ [] → ((∀ h, i ≠ .clauseHeader h) → ∀ l ∈ es, v.mustWait l = false) →
      let is : Issue := { wid := wid, warp := k, lanes := es, pc := pc, wpc := wpc, word := word }
      let f := (Claims.issuing u is).useFetch c g.core w.slot (s1.fetchParts c g.core pc)
      ∀ g' v', f.wg? wid = some g' → g'.warps[k]? = some v' →
        step s = Claims.andThen (exec i f) (fun t => t.afterIssue is g' v')
    Instr.converges i = false →
      let es := ls.filter (fun l => match w.lanes[l]? with
        | some x => (match x.wait with | some y => !y.asleep | none => true)
        | none => true)
      es ≠ [] → ((∀ h, i ≠ .clauseHeader h) → ∀ l ∈ es, w.mustWait l = false) →
      ∀ g' v', (Claims.issuing s1 { wid := wid, warp := k, lanes := es, pc := pc, wpc := wpc, word := word }).wg? wid = some g' →
        g'.warps[k]? = some v' → False) :=
  fun h => h (placed 0x10000A0101000280) 0 0 [] 0 0 (placedWg 0x10000A0101000280) placeCtx (placedWarp 0x10000A0101000280) 0x10000 0x10000A0101000280 0x10000 0x10000A0101000280 (leBytes 8 0x10000A0101000280) (.iadd (fa 5 1 2 0 0 10)) (List.range 16)
    rfl (by decide +kernel) (atSome (wg0 warp0) (by decide +kernel)) (by decide +kernel) (by decide +kernel) (by decide +kernel) (by decide +kernel) (by decide +kernel) (by decide +kernel) ⟨(by decide +kernel), .inl ⟨(by decide +kernel), rfl, rfl, rfl⟩⟩ rfl (by decide +kernel) (inClause (by decide +kernel)) (by decide) (by decide +kernel) (fun _ => unheld (by decide +kernel)) _ _ (atSome (wg0 warp0) (by decide +kernel)) (atSome warp0 (by decide +kernel))

theorem witness_StepRunsTheDecodedInstruction_converges : ¬ (∀ (s : State) (core slot : Nat) (rest : List Input) (wid k : Nat) (g : Wg) (c : Context) (w : Warp) (pc first wpc word : Word)
    (bs : List Byte) (i : Instr) (ls : List Nat),
    let s1 := { s.forgetTold with free := s.free + 1, agenda := rest }
    s.agenda = .issue core slot :: rest → s.slot? core slot = some (wid, k) → s.wg? wid = some g → g.warps[k]? = some w →
    s.ctx? g.pkt.ctx = some c → w.sleep = none → w.halts = [] → w.front = some (pc, ls) → breakHits c g w ls pc = [] →
    Claims.Words s1 c g w pc ls first wpc word bs → decodeBytes bs = .ok (i, []) → beyondDeclared g.kernel i = false →
    (∀ l ∈ ls, ∃ x, w.lanes[l]? = some x ∧
      s1.breaksForm c g.core x pc first (if wordMajor first = 1 then 2 else 1) (wordMajor word) = false) →
    let runs := fun (u : State) (v : Warp) (front : List Nat) =>
      let es := front.filter (fun l => match v.lanes[l]? with
        | some x => (match x.wait with | some y => !y.asleep | none => true)
        | none => true)
      es ≠ [] → ((∀ h, i ≠ .clauseHeader h) → ∀ l ∈ es, v.mustWait l = false) →
      let is : Issue := { wid := wid, warp := k, lanes := es, pc := pc, wpc := wpc, word := word }
      let f := (Claims.issuing u is).useFetch c g.core w.slot (s1.fetchParts c g.core pc)
      ∀ g' v', f.wg? wid = some g' → g'.warps[k]? = some v' →
        step s = Claims.andThen (exec i f) (fun t => t.afterIssue is g' v')
    Instr.converges i = true →
      let u := s1.mapWarp wid k (fun y => y.mapLanes ls (fun x => { x with st := .waiting, wait := none }))
      ∀ v, u.warp? wid k = some v →
      let es := (v.team ls).filter (fun l => match v.lanes[l]? with
        | some x => (match x.wait with | some y => !y.asleep | none => true)
        | none => true)
      es ≠ [] → ((∀ h, i ≠ .clauseHeader h) → ∀ l ∈ es, v.mustWait l = false) →
      ∀ g' v', (Claims.issuing u { wid := wid, warp := k, lanes := es, pc := pc, wpc := wpc, word := word }).wg? wid = some g' →
        g'.warps[k]? = some v' → False) :=
  fun h => h (placed 0x2918000000000000) 0 0 [] 0 0 (placedWg 0x2918000000000000) placeCtx (placedWarp 0x2918000000000000) 0x10000 0x2918000000000000 0x10000 0x2918000000000000 (leBytes 8 0x2918000000000000) (.bar (fa 0 0 0 0 0)) (List.range 16)
    rfl (by decide +kernel) (atSome (wg0 warp0) (by decide +kernel)) (by decide +kernel) (by decide +kernel) (by decide +kernel) (by decide +kernel) (by decide +kernel) (by decide +kernel) ⟨(by decide +kernel), .inl ⟨(by decide +kernel), rfl, rfl, rfl⟩⟩ rfl (by decide +kernel) (inClause (by decide +kernel)) rfl (arrived.warp? 0 0 |>.getD warp0) (atSome warp0 (by decide +kernel)) (by decide +kernel) (fun _ => unheld (by decide +kernel)) _ _ (atSome (wg0 warp0) (by decide +kernel)) (atSome warp0 (by decide +kernel))

theorem witness_TrapEntrySavesAndGoesToTheHandler_1 : ¬ (∀ (w : Warp) (l : Nat) (x : Lane) (c : Cause) (cond : BitVec 5) (addr pc ret : Word), w.lanes[l]? = some x →
    False) :=
  fun h => h warp0 0 (Lane.start kernel0 0xF ((gridItems launch0 0 0).headD none)) .bkpt 0 0 0x10000 0x10008 (by decide +kernel)

theorem witness_TrapEntrySavesAndGoesToTheHandler_2_enters : ¬ (∀ (s : State) (wid k l : Nat) (w : Warp) (x : Lane) (c : Cause) (cond : BitVec 5) (addr pc next : Word) (ret : Option Word)
    (detail : Nat), s.warp? wid k = some w → w.lanes[l]? = some x →
    let t := s.stopLanes wid k pc next false [(l, .trap c cond addr ret detail)]
    w.trapvec ≠ 0 → x.handler = false → False) :=
  fun h => h (mach) 0 0 0 warp0 (Lane.start kernel0 0xF ((gridItems launch0 0 0).headD none)) .bkpt 0 0 0x10000 0x10008 none 0 rfl (by decide +kernel) (by decide +kernel) rfl

theorem witness_TrapEntrySavesAndGoesToTheHandler_2_faults : ¬ (∀ (s : State) (wid k l : Nat) (w : Warp) (x : Lane) (c : Cause) (cond : BitVec 5) (addr pc next : Word) (ret : Option Word)
    (detail : Nat), s.warp? wid k = some w → w.lanes[l]? = some x →
    let t := s.stopLanes wid k pc next false [(l, .trap c cond addr ret detail)]
    w.trapvec = 0 ∨ x.handler = true → False) :=
  fun h => h (mach ({ warp0 with trapvec := 0 })) 0 0 0 ({ warp0 with trapvec := 0 }) (Lane.start kernel0 0xF ((gridItems launch0 0 0).headD none)) .bkpt 0 0 0x10000 0x10008 none 0 rfl (by decide +kernel) (.inl rfl)

theorem witness_StepKeepsMemoryCanonical : ¬ (∀ s t : State, Safety.MemoryOk s → step s = .next t →
    False) :=
  fun h => h (placed 0x10000A0101000280) _ (by unfold Safety.MemoryOk; decide +kernel) rfl

theorem witness_ArithmeticChangesOnlyItsDestination : ¬ (∀ (i : Instr) (e : Entry) (s t : State) (cx : Cx), Claims.InFrame i e → Claims.At s cx →
    stopsOf (Claims.laneOuts i e s cx) = [] → exec i s = .next t →
    False) :=
  fun h => h (.iadd (fa 2 0 1 0 0)) _ (mach (warp0 (fun l => [l, 7])) [0, 2]) _ (cx0 (warp0 (fun l => [l, 7])) [0, 2]) (.inl rfl) ⟨rfl, rfl⟩ (by decide +kernel) rfl

theorem witness_LoadsAndStoresChangeOnlyTheirBytes_1 : ¬ (∀ (w : FmtM) (s t : State) (cx : Cx), Claims.At s cx → s.mem.unfound = [] →
    Claims.Ready s cx (drainsFirst 0 0) (fun _ => false) w.sz.toNat w.sp.toNat 0 Claims.noHold
      ((actors cx (form (.ld w)).scalarUnit).map (loadPlan s cx (form (.ld w)).scalarUnit w)) →
    exec (.ld w) s = .next t →
    False) :=
  fun h => h (fl 2 0x100 0x180 3 0 1) (mach (warp0 (s := [0x20000, 0x101])) [0, 2]) _ (cx0 (warp0 (s := [0x20000, 0x101])) [0, 2]) ⟨rfl, rfl⟩ rfl (ready_of (by decide +kernel)) rfl

theorem witness_LoadsAndStoresChangeOnlyTheirBytes_2 : ¬ (∀ (w : FmtM) (s t : State) (cx : Cx), Claims.At s cx → s.mem.unfound = [] →
    let su := (form (.st w)).scalarUnit
    let drains := fun loc => w.sp != 2 && drainsFirst w.ord.toNat w.scope.toNat loc
    let plan := (actors cx su).map (fun l => guardedPlan s cx su w l (storeData s cx su l w).2 true .store)
    Claims.Ready s cx drains (fun loc => !drains loc) w.sz.toNat w.sp.toNat 1 (fun s _ a loc => fillingHold s a loc w.sz.toNat 1) plan →
    exec (.st w) s = .next t →
    False) :=
  fun h => h (fm 2 0x100 0x180 3 0 1) (mach (warp0 (s := [0x20000, 0x101])) [0, 2]) _ (cx0 (warp0 (s := [0x20000, 0x101])) [0, 2]) ⟨rfl, rfl⟩ rfl (ready_of (by decide +kernel)) rfl

/-! ### What WellFormed refuses: an ill-formed term for each check (R19, R43, R98 to R111) -/

def px0 : Px := { me := false, mp := 0, rm := 0, mz := false, e := 0, ximm := 0 }

/-- Refused at a step of R111 with a cause. -/
def refusedAt (i : Instr) (n : Nat) (c : Cause) : Bool := !i.wf && i.firstFault == some (n, c)

/-- Step 3: TY 15, a reserved operand code, an immediate destination, a scalar destination per lane, a lane register where a scalar
stands, a condition code or an operation that is not assigned, PX's rounding mode 6 and type code 17. -/
theorem test_wf_illegal :
    refusedAt (.iadd (fa 5 1 2 0 15)) 3 .illegal = true ∧ refusedAt (.iadd (fa 5 0x156 2 0 0)) 3 .illegal = true ∧
    refusedAt (.iadd (fa 0x180 1 2 0 0)) 3 .illegal = true ∧ refusedAt (.iadd (fa 0x100 1 2 0 0)) 3 .illegal = true ∧
    refusedAt (.tcall (fa 0 8 0x100 0x181 0)) 3 .illegal = true ∧ refusedAt (.icmp (fa 2 1 3 6 0)) 3 .illegal = true ∧
    refusedAt (.red (fa 2 1 0 6 0)) 3 .illegal = true ∧ refusedAt (.csrr (fa 4 0 0x1F 0 3)) 3 .illegal = true ∧
    refusedAt (.ffma { fa 3 1 2 3 8 with px := some { px0 with rm := 6 } }) 3 .illegal = true ∧
    refusedAt (.clauseHeader { count := 1, cls := 5, hwait := 0, barw := false, yh := false }) 3 .illegal = true := by decide +kernel

/-- Step 4: a bit of MOD, an operand or a flag that the entry does not use, a run-on of an instruction that is not long-latency, and
PX fields that the instruction does not take. -/
theorem test_wf_reserved :
    refusedAt (.imulh (fa 5 1 2 0 0 1)) 4 .reservedBits = true ∧ refusedAt (.iadd (fa 5 1 2 3 0)) 4 .reservedBits = true ∧
    refusedAt (.iadd { fa 5 1 2 0 0 with run := 3 }) 4 .reservedBits = true ∧
    refusedAt (.iadd { fa 5 1 2 0 0 with px := some { px0 with rm := 1 } }) 4 .reservedBits = true ∧
    refusedAt (.iadd { fa 5 1 2 0 0 with px := some { px0 with mp := 1 } }) 4 .reservedBits = true ∧
    refusedAt (.iadd { fa 5 1 2 0 0 with px := some { px0 with e := 1 } }) 4 .reservedBits = true ∧
    refusedAt (.iadd { fa 5 1 2 0 0 with px := some { px0 with ximm := 1 } }) 4 .reservedBits = true ∧
    refusedAt (.br { guard := 7, u := true, disp := 0, px := none }) 4 .reservedBits = true ∧
    refusedAt (.mloop (fe 1 0x100 1 0 0 0)) 4 .reservedBits = true ∧ refusedAt (.ld { fm 2 0x100 0x180 3 0 1 with guard := 1 }) 4 .reservedBits = true := by
  decide +kernel

/-- Step 5: a type that the entry does not take, and a pair at an odd register. -/
theorem test_wf_bad_type :
    refusedAt (.iadd (fa 5 1 2 0 8)) 5 .badType = true ∧ refusedAt (.fadd (fa 5 1 2 0 0)) 5 .badType = true ∧
    refusedAt (.iadd (fa 5 2 4 0 2)) 5 .badType = true ∧ refusedAt (.fcvt (fa 6 2 0 0 8)) 5 .badType = true := by decide +kernel

/-- Numbers out of range of other agents' steps. -/
theorem test_wf_numbers :
    (Instr.unassignedEncoding 0x10000A0101000280).wf = false ∧ (Instr.sleepExpiry 96 0).wf = false ∧ (Instr.signalPoll 0 128).wf = false ∧
    (Instr.tagWaitTimeout (.lanes 96 0)).wf = false ∧ (Instr.matrixCommandPerform 96).wf = false ∧ (Instr.timeSliceEnd 64).wf = false ∧
    (Instr.remoteArrivalBeat { beat0 1 0 with cc := 8 }).wf = false ∧ (Instr.remoteRequest (request0 16)).wf = false ∧
    (Instr.remoteStoreLine { line0 with data := [] }).wf = false ∧
    (Instr.flitReceive { peer := 3, plane := 64, seq := 0, burst := 0, crcBad := false }).wf = false ∧
    (Instr.replayRequest 3 0 256).wf = false ∧ (Instr.channelSilence 16 0).wf = false ∧
    (Instr.healthReport { peer := 3, plane := 0, score := 1024, retired := false }).wf = false ∧
    (Instr.linkUp { peer := 16, plane := 0, podId := 0, verLo := 1, verHi := 3 }).wf = false ∧ (Instr.ingestFrame 65536 []).wf = false ∧
    (Instr.kstep 0 4096).wf = false ∧ (Instr.thermalTrip 2 0).wf = false ∧ (Instr.registerWrite 0x4000000 [1]).wf = false := by
  decide +kernel

/-! ### Single steps of the other families, worked out by hand -/

/-- The values that the pending results of the warp write to lane register k of lanes `ls`. -/
def pends (k : Nat) (ls : List Nat) (t : State) : Option (List (Option Nat)) :=
  (t.warp? 0 0).map (fun w => ls.map (fun l => (w.results.flatMap (·.writes)).findSome? (fun x =>
    if x.lane == some l && x.dst == .lane k then some x.val.toNat else none)))

/-- Lane register k of lanes `ls` after an instruction in them. -/
def lanesGet (i : Instr) (v : Nat → List Nat) (ls : List Nat) (k : Nat) : Option (List (Option Nat)) :=
  see i (mach (warp0 v) ls) (fun t => some (ls.map (fun l => vreg l k t)))

/-- R168, R169 Case 1: SHFL.rel and PUSHL with lane 2 not at the point; SHFL.rot and SHFL.flip. -/
theorem test_shuffles :
    lanesGet (.shfl (fa 5 1 0x181 1 0)) (fun l => [0, 10 + l, 0, 0, 0, 0, 0]) [0, 1, 3] 5 = some [some 11, some 11, some 13] ∧
    lanesGet (.pushl (fa 6 1 2 0 0)) (fun l => [0, 10 + l, [3, 3, 0, 0][l]!, 0, 0, 0, 0]) [0, 1, 3] 6 = some [some 13, some 0, some 11] ∧
    lanesGet (.shfl (fa 5 1 0x1FF 2 0)) (fun l => [0, 10 + l]) [0, 1, 2, 3] 5 = some [some 13, some 10, some 11, some 12] ∧
    lanesGet (.shfl (fa 5 1 0x181 3 0)) (fun l => [0, 10 + l]) [0, 1, 2, 3] 5 = some [some 11, some 10, some 13, some 12] := by
  decide +kernel

/-- R170 to R173: a ballot and a count, the example of SCAN, a sum to a scalar register, and equal values. -/
theorem test_votes_and_reductions :
    see (.vote (fa 8 2 0 3 3)) (mach (onLanes (fun x => { x with p := x.p.set 2 { val := 1 } }) warp0) [0, 1, 3]) (vpair 0 8) = some 0b1011 ∧
    see (.vote (fa 9 2 0 4 1)) (mach (onLanes (fun x => { x with p := x.p.set 2 { val := 1 } }) warp0) [0, 1, 3]) (vreg 3 9) = some 3 ∧
    lanesGet (.scan (fa 4 2 0 8 0)) (fun l => [0, 0, [3, 1, 4, 9][l]!]) [0, 1, 2] 4 = some [some 0, some 3, some 4] ∧
    see (.red (fa 0x106 1 0 0 0)) (mach (warp0 (fun l => [0, 10 + l])) [0, 1, 2, 3]) (sreg 6) = some 46 ∧
    lanesGet (.matchLanes (fa 10 3 0 0 1)) (fun l => [0, 0, 0, [5, 6, 5, 7][l]!]) [0, 1, 2, 3] 10 =
      some [some 0b0101, some 0b0010, some 0b0101, some 0b1000] := by decide +kernel

/-- Where lane l stands. -/
def pcOf (l : Nat) (s : State) : Option Nat := (s.lane? 0 0 l).map (·.pc.toNat)
/-- Lane 0 with p2 set and the others with it clear. -/
def forked : Warp := { warp0 with lanes := warp0.lanes.zipIdx.map (fun x => { x.1 with p := x.1.p.set 2 { val := if x.2 == 0 then 1 else 0 } }) }

/-- R174, R175, R177, R178: a guarded branch divides the lanes and BRU does not; a call pushes the address that a return pops. -/
theorem test_branches :
    see (.br { guard := 2, u := false, disp := 8, px := none }) (mach forked) (fun t => some ((List.range 2).map (fun l => pcOf l t))) =
      some [some 0x10040, some 0x10008] ∧
    see (.bru { guard := 2, u := true, disp := 8, px := none }) (mach forked) (fun t => some ((List.range 2).map (fun l => pcOf l t))) =
      some [some 0x10040, some 0x10040] ∧
    see (.call { guard := 7, u := false, disp := 0x20, px := none }) (mach warp0 [1]) (fun t =>
      (t.lane? 0 0 1).map (fun x => (x.pc.toNat, x.ret.map (·.toNat)))) = some (0x10100, [0x10008]) ∧
    see (.jmpi (fa 0 4 0 0 3)) (mach (warp0 (fun _ => [0, 0, 0, 0, 0x30000])) [1]) (pcOf 1) = some 0x30000 ∧
    see (.ret (fa 0 0 0 0 0)) (mach (onLanes (fun x => { x with ret := [0x20008] }) warp0) [1]) (pcOf 1) = some 0x20008 := by decide +kernel

/-- A machine with bytes 0x11 to 0x88 at 0x20108, where s0 points 0x108 below and s2 at them, and its memory read there. -/
def filled : State :=
  let s := mach (warp0 (fun l => [l, 7, 5, 0]) [0x20000, 0, 0x20108]) [0]
  { s with mem := { s.mem with hbm := Memory.write s.mem.hbm 0x20108 [0x11, 0x22, 0x33, 0x44, 0x55, 0x66, 0x77, 0x88] } }
def byteAt (n : Nat) (s : State) : Option Nat := some (leNat (Memory.read s.mem.hbm 0x20108 n))

/-- R203, R204, R208, R209: bytes lie little-endian, and a narrow load zero-extends; a store writes the low bytes; an atomic gives the old
value and writes the new one. -/
theorem test_loads_stores_atomics :
    see (.ld (fl 4 0x102 0x180 2 0 0)) filled (pends 4 [0]) = some [some 0x44332211] ∧
    see (.ld (fl 4 0x102 0x180 1 0 1)) filled (pends 4 [0]) = some [some 0x4433] ∧
    see (.st (fm 1 0x102 0x180 0 0 0)) filled (byteAt 4) = some 0x44332207 ∧
    see (.atom (fm 2 0x102 0x180 2 0 0)) filled (byteAt 8) = some 0x8877665544332216 ∧
    see (.atom (fm 2 0x102 0x180 2 0 0)) filled (pends 2 [0]) = some [some 0x44332211] := by decide +kernel

/-- R59, R205, R207: TSET makes a tile FULL, LDC consumes it, and TTEST tests it. -/
theorem test_tags :
    see (.tset (fl 0x181 0x180 0x180 0 1 0)) (mach warp0 [0]) (fun t => (t.wg? 0).map (fun g => g.tag 0)) = some (.full 1) ∧
    see (.ldc (fl 2 0x180 0x180 2 1 0)) (mach warp0 [0] (fun g => { g with tags := [(0, .full 1)], data := [(0, 9)] }))
      (fun t => (t.wg? 0).map (fun g => g.tag 0)) = some .empty ∧
    see (.ldc (fl 2 0x180 0x180 2 1 0)) (mach warp0 [0] (fun g => { g with tags := [(0, .full 2)], data := [(0, 9)] }))
      (pends 2 [0]) = some [some 9] := by decide +kernel

/-- R46, R195 to R197, R240, R242: EVSIG adds in each lane, or once on the scalar unit; TIME is in ns; a trap enters the handler and RTT leaves it. -/
theorem test_events_and_system :
    see (.evsig (fa 0 0x185 0 0 1)) (mach (warp0 (fun l => [l + 1])) [0, 1]) (fun t => (t.ctx? 0).map (·.events)) = some [(5, 3)] ∧
    see (.evsig (fa 0 0x185 0x183 0 1)) (mach warp0 [0, 1]) (fun t => (t.ctx? 0).map (·.events)) = some [(5, 3)] ∧
    see (.time (fa 2 0 0 0 3)) (later 4400 (mach warp0 [0])) (pends 2 [0]) = some [some 2] ∧
    see (.trap (fa 0 0x185 0 0 0)) (mach warp0 [0]) (fun t => (t.lane? 0 0 0).map (fun x => (x.pc.toNat, x.handler, x.trappc.toNat))) =
      some (0x20000, true, 0x10000) ∧
    see (.rtt (fa 0 0 0 0 0)) (mach (onLanes (fun x => { x with handler := true, trapret := 0x10040 }) warp0) [0]) (fun t =>
      (t.lane? 0 0 0).map (fun x => (x.pc.toNat, x.handler))) = some (0x10040, false) := by decide +kernel

/-- R20, R387: a warp starts with registers to speak of: s0 and s1, and its lanes' registers. -/
theorem witness_WarpsStartWithTheirRegisters :
    (Warp.start kernel0 7 [none]).s[0]? = some { val := kernel0.data, poison := false } ∧
    (Warp.start kernel0 7 [none]).s[1]? = some { val := 7, poison := false } ∧
    ((Warp.start kernel0 7 [none]).s[2]?).isSome = true ∧ ((Warp.start kernel0 7 [none]).lanes[0]?).isSome = true := by decide +kernel


/-- R385, R386's example: start 41 has failed on stack 5; start 42 trains it at 8 Gb/s, records that, and is ready. -/
def failure41 : JournalEntry := { check := 0, start := 41, arg := 0x20, alt := 0, outcome := 2, step := 7 }
def start42 (e : JournalEntry) : Boot := (State.bootStart { State.reset with boot := { Boot.reset with
  start := 41, part := { Boot.reset.part with weak := 0x20 }, journal := [e] } }).boot
def good41 : JournalEntry := { failure41 with check := failure41.crc }
theorem test_start_42_has_an_alteration : (start42 good41).alt = [0, 0, 0, 0, 0, 0, 1, 0] ∧ (start42 good41).start = 42 ∧
    (start42 failure41).alt = List.replicate 8 0 := by decide +kernel
theorem test_start_42_is_ready : ((start42 good41).train).ready = true ∧
    (((start42 good41).train).journal.filter (fun e => e.step == 7)).getLast?.map (fun e => (e.start, e.arg, e.alt, e.outcome)) =
      some (42, 0x20, 1, 4) := by decide +kernel

/-- R385: the check value of CRC-32 with the IEEE 802.3 polynomial, that of the bytes "123456789", known apart from this model. -/
theorem test_crc_check_value : crc32 [0x31, 0x32, 0x33, 0x34, 0x35, 0x36, 0x37, 0x38, 0x39] = 0xCBF43926 := by decide +kernel
end Sys2Proof.Tests
end

section
/-!
SUPPORT. The core clock and the timebase (R2, R288 to R290, R322), and O43. A clock counts lanes in the registers of the bins
only, so that what it does next starts from the same state with other values there. A step of the timebase to where it stands
changes nothing, so that slewing and stepping are one meaning.
-/
namespace Sys2Proof.Machine

/-! ### The core clock (R2, R322) -/

/-- A lane has one of the five classes of R322. -/
theorem laneClass_lt (s : State) (g : Wg) (w : Warp) (l : Nat) (x : Lane) (apart : Bool) : laneClass s g w l x apart < 5 := by
  unfold laneClass
  repeat' split
  all_goals decide

/-- A lane counted without having executed has one of the five classes. -/
theorem idleLanes_class_lt {s : State} {g : Wg} {w : Warp} {x : Nat × Word} (h : x ∈ idleLanes s g w) : x.1 < 5 := by
  obtain ⟨⟨l, y⟩, _, hy⟩ := List.mem_filterMap.1 h
  obtain ⟨_, hx⟩ := Option.ite_none_right_eq_some.1 hy
  rw [← Option.some.inj hx]
  exact laneClass_lt ..

/-- What a core clock cycle counts: the lanes that have executed in it as EXEC, and the other lanes of every resident warp. -/
def State.countedLanes (s : State) : List (Nat × Word) :=
  s.ranSlots.flatMap (fun k => (s.ranLanes k.1 k.2).map (fun x => (0, x.2))) ++
    (s.wgs.filter (fun g => g.st == .resident)).flatMap (fun g => g.warps.flatMap (idleLanes s g))

/-- Every counted lane has one of the five classes. -/
theorem State.countedLanes_class_lt {s : State} {x : Nat × Word} (h : x ∈ s.countedLanes) : x.1 < 5 := by
  rcases List.mem_append.1 h with hran | hidle
  · obtain ⟨k, _, hk⟩ := List.mem_flatMap.1 hran
    obtain ⟨y, _, rfl⟩ := List.mem_map.1 hk
    exact Nat.zero_lt_succ 4
  · obtain ⟨g, _, hg⟩ := List.mem_flatMap.1 hidle
    obtain ⟨w, _, hw⟩ := List.mem_flatMap.1 hg
    exact idleLanes_class_lt hw

/-- The device's registers with other values. -/
def State.withRegs (s : State) (r : List Word) : State := { s with obs := { s.obs with regs := r } }

/-- Two lists of register values agree outside the counters of the lanes' cycles, 0x150 to 0x177. -/
def AgreeOutsideBins (r r' : List Word) : Prop := ∀ k, (k < 0x50 ∨ 0x78 ≤ k) → r[k]? = r'[k]?

/-- One of the eight bins. -/
theorem State.binOf_lt {s : State} {pc : Word} {b : Nat} (h : s.binOf pc = some b) : b < 8 :=
  List.mem_range.1 (List.mem_of_find?_eq_some h)

/-- A counted lane changes a counter of the lanes' cycles, if anything. -/
theorem State.countLane_eq_withRegs (s : State) {x : Nat × Word} (hx : x.1 < 5) :
    ∃ r, AgreeOutsideBins r s.obs.regs ∧ s.countLane x = s.withRegs r := by
  unfold State.countLane
  cases hb : s.binOf x.2 with
  | none => exact ⟨s.obs.regs, fun _ _ => rfl, rfl⟩
  | some b =>
    have hlt := State.binOf_lt hb
    have hbin : ∀ k, (k < 0x50 ∨ 0x78 ≤ k) → 0x150 + 5 * b + x.1 - 0x100 ≠ k := by omega
    exact ⟨s.obs.regs.modify (0x150 + 5 * b + x.1 - 0x100) (· + BitVec.ofNat 64 1),
      fun k hk => List.getElem?_modify_ne _ _ (hbin k hk), rfl⟩

/-- Counting lanes changes the counters of the lanes' cycles only. -/
theorem State.countLanes_eq_withRegs (xs : List (Nat × Word)) (hxs : ∀ x ∈ xs, x.1 < 5) (s : State) :
    ∃ r, AgreeOutsideBins r s.obs.regs ∧ xs.foldl State.countLane s = s.withRegs r := by
  induction xs generalizing s with
  | nil => exact ⟨s.obs.regs, fun _ _ => rfl, rfl⟩
  | cons x xs ih =>
    obtain ⟨r, hr, hx⟩ := s.countLane_eq_withRegs (hxs x List.mem_cons_self)
    obtain ⟨r', hr', hxs'⟩ := ih (fun y hy => hxs y (List.mem_cons_of_mem x hy)) (s.countLane x)
    rw [hx] at hr' hxs'
    refine ⟨r', fun k hk => (hr' k hk).trans (hr k hk), ?_⟩
    rw [List.foldl_cons, hx, hxs']
    rfl

/-- The core clock: lanes are counted, sampled cores write their records, and the timebase runs on by its rate. -/
theorem exec_coreClockCycle_eq (s : State) {t : State}
    (ht : s.obs.sampling.foldl State.sampleCore (s.countedLanes.foldl State.countLane s) = t) (hole : t.hole = none) :
    exec .coreClockCycle s = .next { t.bump 0x120 with
      time := { s.time with tb := (s.time.tb + (2000 + s.time.slew)).toNat },
      obs := { (t.bump 0x120).obs with executed := [], sampling := [], clocks := s.obs.clocks + 1 } } := by
  subst ht
  exact finish_next hole

/-- A counter that exists grows by 1. -/
theorem State.bump_regs {s : State} {k : Nat} {v : Word} (h : s.obs.regs[k]? = some v) :
    (s.bump (0x100 + k)).obs.regs[k]? = some (v + 1) := by
  unfold State.bump
  rw [State.bumpBy_obs, Nat.add_sub_cancel_left, List.getElem?_modify_eq, h]
  rfl

/-! ### The timebase and its master (R288 to R290) -/

/-- A step of the timebase to where it stands moves nothing. -/
theorem State.stepTime_self (s : State) : s.stepTime s.time.tb = s := by
  have hns : (s.time.tb : Int) / 2200 - s.now = 0 := Int.sub_self _
  unfold State.stepTime
  simp [hns]

/-- A Sync message is valid if it is of the driver's domain and the chosen master, on an enabled port (R289). -/
theorem State.syncValid_iff {s : State} {y : PtpSync} : s.syncValid y = true ↔
    y.domain = s.host.ptpDomain ∧ y.chosen = true ∧ s.host.ethPorts.testBit y.port.toNat = true := by
  unfold State.syncValid
  simp [and_assoc]

/-- A message that is not valid is ignored. -/
theorem exec_ptpSync_of_not_valid {y : PtpSync} {s : State} (hole : s.hole = none) (hv : ¬ s.syncValid y = true) :
    exec (.ptpSync y) s = .next s := by
  show execPtpSync y s = _
  unfold execPtpSync
  rw [if_pos (by simpa using hv), finish_next hole]

/-- How many valid Syncs in a row, with this one, have had an offset below 100 ns (R290). -/
def Time.goodAfter (t : Time) (off : Int) : Nat := if off.natAbs < 100 then t.good + 1 else 0

/-- The timebase's row after a valid Sync of this offset, which leaves it at tb and slewing so (R290). -/
def Time.synced (t : Time) (y : PtpSync) (off : Int) (tb : Nat) (slew : Int) : Time :=
  { tb := tb, slew := slew, state := if 16 ≤ t.goodAfter off ∨ t.state = 2 then 2 else 1,
    ever := t.ever || decide (16 ≤ t.goodAfter off), port := y.port, errb := y.errb, good := t.goodAfter off, lastSync := tb,
    holdAt := tb }

/-- While there is a context a valid Sync slews the timebase against its offset (R289). -/
theorem exec_ptpSync_slews {y : PtpSync} {s : State} (hole : s.hole = none) (hv : s.syncValid y = true) (hc : s.ctxs ≠ []) :
    exec (.ptpSync y) s = .next { s with
      time := s.time.synced y (s.ptpOffset y) s.time.tb (if s.ptpOffset y = 0 then 0 else if 0 < s.ptpOffset y then -1 else 1) } := by
  have hne : s.ctxs.isEmpty = false := by simpa using hc
  show execPtpSync y s = _
  unfold execPtpSync
  simp only [hv, hne, Bool.not_true, Bool.false_eq_true, if_false, Bool.false_or, State.stepTime_self]
  rw [finish_next (by exact hole)]
  simp only [Time.synced, Bool.or_eq_true, decide_eq_true_eq, beq_iff_eq]
  rfl

/-- While there is no context a valid Sync steps the timebase by its offset (R289). -/
theorem exec_ptpSync_steps {y : PtpSync} {s : State} (hole : s.hole = none) (hv : s.syncValid y = true) (hc : s.ctxs = []) :
    exec (.ptpSync y) s = .next { s.stepTime ((s.time.tb : Int) - 2200 * s.ptpOffset y).toNat with
      time := s.time.synced y (s.ptpOffset y) ((s.time.tb : Int) - 2200 * s.ptpOffset y).toNat 0 } := by
  show execPtpSync y s = _
  unfold execPtpSync
  simp only [hv, hc, Bool.not_true, Bool.false_eq_true, if_false, List.isEmpty_nil, Bool.true_or, if_true]
  rw [finish_next (by exact hole)]
  simp only [Time.synced, Bool.or_eq_true, decide_eq_true_eq, beq_iff_eq]
  rfl

/-- 3 s without a valid Sync hold the timebase over (R290). -/
theorem exec_tbHoldover_eq {s : State} (hole : s.hole = none) (hst : s.time.state ≠ 3)
    (hlate : s.time.lastSync + 3000000000 * 2200 ≤ s.time.tb) :
    exec .tbHoldover s = .next { s with time := { s.time with state := 3, slew := 0, good := 0, holdAt := s.time.tb } } := by
  have hgo : ¬ (s.time.state == 3 || decide (s.time.tb < s.time.lastSync + 3000000000 * 2200)) = true := by
    simpa [hst] using hlate
  show execTbHoldover s = _
  unfold execTbHoldover
  rw [if_neg hgo]
  exact finish_next hole

/-- Settles O43: counting lanes is a change of the bins' counters alone, and a Sync steps the timebase,
in place while there is a context. -/
theorem timeRunsAndFollowsItsMaster : Obligations.TimeRunsAndFollowsItsMaster := by
  unfold Obligations.TimeRunsAndFollowsItsMaster
  refine ⟨fun s => ?_, fun y s hole hbad => ?_, fun y s hole hd hm hp => ?_, fun s => exec_tbHoldover_eq⟩
  · obtain ⟨r, hr, hcount⟩ := State.countLanes_eq_withRegs s.countedLanes (fun _ => State.countedLanes_class_lt) s
    exact ⟨r, hr, exec_coreClockCycle_eq s (by rw [hcount]; rfl), fun _ => State.bump_regs⟩
  · refine exec_ptpSync_of_not_valid hole (fun hv => ?_)
    obtain ⟨hd, hm, hp⟩ := State.syncValid_iff.1 hv
    simp [hd, hm, hp] at hbad
  · have hv := State.syncValid_iff.2 ⟨hd, hm, hp⟩
    exact ⟨exec_ptpSync_slews hole hv, exec_ptpSync_steps hole hv⟩

end Sys2Proof.Machine
end

section
/-!
SUPPORT. The decoder against the encoder (R92 to R111), O51, O52 and O54. The majors of formats A, M and E are taken together: for
each of these formats one function gives the member that an opcode and a function code name, one lemma says that the encoder writes
that member with these codes, and one that the decoder reads it back.
-/
namespace Sys2Proof.Laws.Encoding

/-! ### The members of a format (R110) -/

/-- The majors whose words are of format A. -/
def majorsA : List Nat := [0x10, 0x12, 0x13, 0x14, 0x18, 0x19, 0x1A, 0x20, 0x29, 0x30, 0x48, 0x50]
/-- The majors whose words are of format M. -/
def majorsM : List Nat := [0x38, 0x39, 0x3A, 0x3B]
/-- The majors whose words are of format E. -/
def majorsE : List Nat := [0x40, 0x41, 0x42, 0x43]

/-- The format-A instruction that an opcode and a function code name. -/
def memberA (opc fn : Nat) (w : FmtA) : Option Instr :=
  match opc with
  | 0x10 => memberInt fn w
  | 0x12 => memberLogic fn w
  | 0x13 => memberBits fn w
  | 0x14 => memberMove fn w
  | 0x18 => memberFloat fn w
  | 0x19 => memberSpecial fn w
  | 0x1A => memberDecimal fn w
  | 0x20 => memberCross fn w
  | 0x29 => memberControl fn w
  | 0x30 => memberFlow fn w
  | 0x48 => memberEvent fn w
  | 0x50 => memberSystem fn w
  | _ => none

/-- The format-M instruction that an opcode and a function code name. -/
def memberM (opc fn : Nat) (w : FmtM) : Option Instr :=
  match opc with
  | 0x38 => memberMemory fn w
  | 0x39 => memberTag fn w
  | 0x3A => memberAtomic fn w
  | 0x3B => memberFence fn w
  | _ => none

/-- The format-E instruction that an opcode and a function code name. -/
def memberE (opc fn : Nat) (w : FmtE) : Option Instr :=
  match opc with
  | 0x40 => memberCopy fn w
  | 0x41 => memberMatrix fn w
  | 0x42 => memberAcc fn w
  | 0x43 => memberHandle fn w
  | _ => none

/-! ### What the decoder reads in a word, by its format -/

theorem parse_formatA {px : Option Px} {w : Word} (h : wordMajor w ∈ majorsA) :
    parse px w = memberA (wordMajor w) (w.extractLsb' 50 6).toNat (FmtA.ofWord px w) := by
  unfold parse memberA
  generalize wordMajor w = m at h ⊢
  simp only [majorsA, List.mem_cons, List.not_mem_nil, or_false] at h
  rcases h with rfl | rfl | rfl | rfl | rfl | rfl | rfl | rfl | rfl | rfl | rfl | rfl <;> rfl

theorem parse_formatI {px : Option Px} {w : Word} (h : wordMajor w = 0x11) :
    parse px w = memberImm (w.extractLsb' 50 6).toNat (FmtI.ofWord px w) := by
  simp only [parse, h]

theorem parse_formatB {px : Option Px} {w : Word} (h : wordMajor w = 0x28) :
    parse px w = memberBranch (w.extractLsb' 52 4).toNat (FmtB.ofWord px w) := by
  simp only [parse, h]

theorem parse_formatM {px : Option Px} {w : Word} (h : wordMajor w ∈ majorsM) :
    parse px w = memberM (wordMajor w) (w.extractLsb' 52 4).toNat (FmtM.ofWord px w) := by
  unfold parse memberM
  generalize wordMajor w = m at h ⊢
  simp only [majorsM, List.mem_cons, List.not_mem_nil, or_false] at h
  rcases h with rfl | rfl | rfl | rfl <;> rfl

theorem parse_formatE {px : Option Px} {w : Word} (h : wordMajor w ∈ majorsE) :
    parse px w = memberE (wordMajor w) (w.extractLsb' 52 4).toNat (FmtE.ofWord px w) := by
  unfold parse memberE
  generalize wordMajor w = m at h ⊢
  simp only [majorsE, List.mem_cons, List.not_mem_nil, or_false] at h
  rcases h with rfl | rfl | rfl | rfl <;> rfl

theorem parse_header {px : Option Px} {w : Word} (h : wordMajor w = 0x02) :
    parse px w = some (.clauseHeader (FmtH.ofWord w)) := by
  simp only [parse, h]

theorem parse_nop {px : Option Px} {w : Word} (h : wordMajor w = 0x03) : parse px w = some (.nop { px := px }) := by
  simp only [parse, h]

/-- A word that names an instruction is a header, a NOP or a word of one of the five formats. -/
theorem major_of_parse {px : Option Px} {w : Word} {i : Instr} (h : parse px w = some i) :
    wordMajor w = 0x02 ∨ wordMajor w = 0x03 ∨ wordMajor w ∈ majorsA ∨ wordMajor w = 0x11 ∨ wordMajor w = 0x28 ∨
      wordMajor w ∈ majorsM ∨ wordMajor w ∈ majorsE := by
  unfold parse at h
  generalize wordMajor w = m at h ⊢
  dsimp only at h
  split at h
  case h_25 => cases h
  all_goals decide

/-! ### O51: what the encoder writes, the decoder reads -/

/-- The bytes of words in memory order (R3). -/
abbrev bytesOf (ws : List Word) : List Byte := ws.flatMap (fun w => leBytes 8 w.toNat)

theorem decodes_memberA {i : Instr} {opc fn : Nat} {w : FmtA} (rest : List Byte) (hi : i.wf = true) (ho : opc ∈ majorsA)
    (hf : fn < 64) (hm : memberA opc fn w = some i) :
    decodeBytes (bytesOf (withPx w.px (w.toWord opc fn)) ++ rest) = .ok (i, rest) := by
  have hopc : opc < 256 := by
    simp only [majorsA, List.mem_cons, List.not_mem_nil, or_false] at ho
    omega
  have hmaj : wordMajor (w.toWord opc fn) = opc := by
    rw [wordMajor, A_major, BitVec.toNat_ofNat, Nat.mod_eq_of_lt hopc]
  refine decodes_A i opc fn w rest hi ho ?_
  rw [parse_formatA (by rwa [hmaj]), hmaj, A_fn, A_ofWord, BitVec.toNat_ofNat, Nat.mod_eq_of_lt hf, ← hm]

theorem decodes_memberI {i : Instr} {fn : Nat} {w : FmtI} (rest : List Byte) (hi : i.wf = true) (hf : fn < 64)
    (hm : memberImm fn w = some i) :
    decodeBytes (bytesOf (withPx w.px (w.toWord 0x11 fn)) ++ rest) = .ok (i, rest) := by
  have hmaj : wordMajor (w.toWord 0x11 fn) = 0x11 := by rw [wordMajor, I_major]; rfl
  refine decodes_I i fn w rest hi ?_
  rw [parse_formatI hmaj, I_fn, I_ofWord, BitVec.toNat_ofNat, Nat.mod_eq_of_lt hf, ← hm]

theorem decodes_memberB {i : Instr} {fn : Nat} {w : FmtB} (rest : List Byte) (hi : i.wf = true) (hf : fn < 16)
    (hm : memberBranch fn w = some i) :
    decodeBytes (bytesOf (withPx w.px (w.toWord 0x28 fn)) ++ rest) = .ok (i, rest) := by
  have hmaj : wordMajor (w.toWord 0x28 fn) = 0x28 := by rw [wordMajor, B_major]; rfl
  refine decodes_B i fn w rest hi ?_
  rw [parse_formatB hmaj, B_fn, B_ofWord, BitVec.toNat_ofNat, Nat.mod_eq_of_lt hf, ← hm]

theorem decodes_memberM {i : Instr} {opc fn : Nat} {w : FmtM} (rest : List Byte) (hi : i.wf = true) (ho : opc ∈ majorsM)
    (hf : fn < 16) (hm : memberM opc fn w = some i) :
    decodeBytes (bytesOf (withPx w.px (w.toWord opc fn)) ++ rest) = .ok (i, rest) := by
  have hopc : opc < 256 := by
    simp only [majorsM, List.mem_cons, List.not_mem_nil, or_false] at ho
    omega
  have hmaj : wordMajor (w.toWord opc fn) = opc := by
    rw [wordMajor, M_major, BitVec.toNat_ofNat, Nat.mod_eq_of_lt hopc]
  refine decodes_M i opc fn w rest hi ho ?_
  rw [parse_formatM (by rwa [hmaj]), hmaj, M_fn, M_ofWord, BitVec.toNat_ofNat, Nat.mod_eq_of_lt hf, ← hm]

theorem decodes_memberE {i : Instr} {opc fn : Nat} {w : FmtE} (rest : List Byte) (hi : i.wf = true) (ho : opc ∈ majorsE)
    (hf : fn < 16) (hm : memberE opc fn w = some i) :
    decodeBytes (bytesOf (withPx w.px (w.toWord opc fn)) ++ rest) = .ok (i, rest) := by
  have hopc : opc < 256 := by
    simp only [majorsE, List.mem_cons, List.not_mem_nil, or_false] at ho
    omega
  have hmaj : wordMajor (w.toWord opc fn) = opc := by
    rw [wordMajor, E_major, BitVec.toNat_ofNat, Nat.mod_eq_of_lt hopc]
  refine decodes_E i opc fn w rest hi ho ?_
  rw [parse_formatE (by rwa [hmaj]), hmaj, E_fn, E_ofWord, BitVec.toNat_ofNat, Nat.mod_eq_of_lt hf, ← hm]

/-- NOP is its opcode alone. -/
theorem decodes_nop (w : FmtN) (rest : List Byte) (hi : (Instr.nop w).wf = true) :
    decodeBytes (bytesOf (withPx w.px (0x03#8 ++ 0#56)) ++ rest) = .ok (.nop w, rest) :=
  decodes_words (.nop w) w.px _ rest hi rfl (by decide) (by decide) (by decide) (parse_nop rfl)

/-- Step 1 of R111 looks at the major opcode alone. -/
theorem wordUnassigned_eq (w : Word) : wordUnassigned w = !majorAssigned (wordMajor w) := by
  rw [wordUnassigned, toNat_major]

/-- A header is one word, with no PX word before it. -/
theorem decodes_header (w : FmtH) (rest : List Byte) (hi : (Instr.clauseHeader w).wf = true) :
    decodeBytes (bytesOf [w.toWord] ++ rest) = .ok (.clauseHeader w, rest) := by
  have hmaj : wordMajor w.toWord = 0x02 := by rw [wordMajor, H_major]; rfl
  have hassigned : wordUnassigned w.toWord = false := by rw [wordUnassigned_eq, hmaj]; rfl
  have hmbz : wordMbz w.toWord = true := by simp [wordMbz, hmaj, H_mbz]
  have hne : wordMajor w.toWord ≠ 0x01 := by omega
  simp only [bytesOf, List.flatMap_cons, List.flatMap_nil, List.append_nil]
  rw [decodeBytes_word _ _ hne]
  simp [decodeWords, hassigned, hmaj, parse_header hmaj, H_ofWord, hmbz, checked_wf hi, Except.map]

/-- An unassigned word is not a PX word, and step 1 of R111 takes it whole. -/
theorem decodes_unassigned (w : Word) (rest : List Byte) (hw : wordUnassigned w = true) :
    decodeBytes (bytesOf [w] ++ rest) = .ok (.unassignedEncoding w, rest) := by
  have hne : wordMajor w ≠ 0x01 := fun h => by rw [wordUnassigned_eq, h] at hw; cases hw
  simp only [bytesOf, List.flatMap_cons, List.flatMap_nil, List.append_nil]
  rw [decodeBytes_word _ _ hne]
  simp [decodeWords, hw, Except.map]

/-- The entry's own conditions for steps 3 and 4 of R111 hold of a well-formed instruction. -/
theorem form_of_wf {i : Instr} (h : i.wf = true) : (form i).ill = false ∧ (form i).resv = false := by
  simp only [Instr.wf, Instr.firstFault, Bool.and_eq_true, beq_iff_eq] at h
  obtain ⟨hfirst, -⟩ := h
  split at hfirst
  · cases hfirst
  next hill =>
  split at hfirst
  · cases hfirst
  next hres =>
  simp only [Form.illegal, Form.reserved, Bool.or_eq_true, not_or, Bool.not_eq_true] at hill hres
  exact ⟨hill.1.1.1, hres.1.1⟩

/-- A COPY's MODE is its member's (R217). -/
theorem mode_of_ill_formCopy {w : FmtE} {k : Nat} (h : (formCopy w k).ill = false) : w.mode = k := by
  unfold formCopy at h
  split at h
  · exact bne_eq_false_iff_eq.1 (Bool.or_eq_false_iff.1 (Bool.or_eq_false_iff.1 h).1).2
  · exact bne_eq_false_iff_eq.1 (Bool.or_eq_false_iff.1 h).2

/-- D[2:0] of a CCTL word is its member's code (R206). -/
theorem code_of_ill_cctl {w : FmtM} {k : Nat} (h : (formM w []
      (w.sp != 0 || w.ord != 0 || w.scope != 0 || w.d.toNat % 8 != k) (w.guard != 0 || rawAbove w.d 3)).ill = false) :
    w.d.toNat % 8 = k :=
  bne_eq_false_iff_eq.1 (Bool.or_eq_false_iff.1 (Bool.or_eq_false_iff.1 h).2).2

/-- BAR and BAR.arrive fix the whole of C (R184). -/
theorem c_of_resv_bar {w : FmtA} {c : Code}
    (h : (formK w [] (w.ty == 0) (w.d == 0 && w.a == 0 && w.b == 0 && w.c == c)).resv = false) : w.c = c :=
  eq_of_beq (Bool.and_eq_true_iff.1 ((Bool.not_eq_false' _).mp (Bool.or_eq_false_iff.1 h).2)).2

/-- Settles O51, by the format of the instruction: its word's opcode and function code are those of the member that the decoder
looks up, and where members share a code, well-formedness fixes the field that tells them apart. -/
theorem encodedInstructionsDecode : Obligations.EncodedInstructionsDecode := by
  intro i rest hi hw
  obtain ⟨hill, hresv⟩ := form_of_wf hi
  cases i with
  | clauseHeader w => exact decodes_header w rest hi
  | nop w => exact decodes_nop w rest hi
  | iadd w | isub w | imul w | imulh w | imad w | imin w | imax w | iabs w | ineg w | idiff w | icmp w | sel w | icvt w
  | idiv w | irem w | and w | or w | xor w | andn w | orn w | not w | lop3 w | shl w | shr w | sar w | rol w | ror w
  | fshl w | fshr w | popc w | clz w | ctz w | fns w | brev w | bfx w | bfxs w | bfi w | pdep w | pext w | bperm w
  | gf2mm w | prmb w | mix64 w | mov w | rdlane w | wrlane w | pand w | por w | pxor w | pnot w | pmov w | fadd w | fsub w
  | fmul w | ffma w | fmin w | fmax w | fcmp w | fclass w | fcvt w | frnd w | ftoi w | itof w | fscl w | fdiv w | fsqrt w
  | frcp w | frsq w | fex2 w | flg2 w | fsin w | fcos w | ftanh w | xadd w | xsub w | xmul w | xfma w | xdiv w | xquant w
  | xcmp w | xcvt w | xrnd w | xscaleb w | shfl w | pushl w | vote w | red w | scan w | matchLanes w | jmpi w | calli w
  | ret w | tcall w | tret w | exit w | tbar w | yield w | sleep w | relabel w | ordrel w | ordskip w | hold w
  | flowkill w | enq w | evwait w | evsig w | sigadd w | sigwait w | time w | trap w | bkpt w | rtt w | csrr w | csrw w =>
    exact decodes_memberA rest hi (by decide) (by decide) rfl
  | bar w =>
    have hbit : ¬ w.c.getLsbD 0 = true := by rw [show w.c = 0 from c_of_resv_bar hresv]; decide
    exact decodes_memberA rest hi (by decide) (by decide) (congrArg some (if_neg hbit))
  | barArrive w =>
    have hbit : w.c.getLsbD 0 = true := by rw [show w.c = 1 from c_of_resv_bar hresv]; decide
    exact decodes_memberA rest hi (by decide) (by decide) (congrArg some (if_pos hbit))
  | iaddImm w | imulImm w | iminImm w | imaxImm w | icmpImm w | andImm w | orImm w | xorImm w | shlImm w | shrImm w
  | sarImm w | movi w => exact decodes_memberI rest hi (by decide) rfl
  | br w | bru w | call w => exact decodes_memberB rest hi (by decide) rfl
  | ld w | st w | ldc w | pref w | twait w | tset w | tclr w | ttest w | atom w | cas w | fence w =>
    exact decodes_memberM rest hi (by decide) (by decide) rfl
  | cctlInv1 w | cctlInv1all w | cctlClean2 w | cctlFlush2 w =>
    exact decodes_memberM rest hi (by decide) (by decide) (by simp [memberM, memberMemory, code_of_ill_cctl hill, cctlOf])
  | copyLocal w | copyRemote w | copyMulticast w | copyDrain w =>
    exact decodes_memberE rest hi (by decide) (by decide) (by simp [memberE, memberCopy, mode_of_ill_formCopy hill, copyOf])
  | tcopy w | wnst w | ringwait w | mloop w | mzero w | acrd w | acwr w | acst w | acld w | wait w | htest w | hcancel w
  | ownpass w | owntake w => exact decodes_memberE rest hi (by decide) (by decide) rfl
  | mchainB w | hmovExport w =>
    have hbit : ¬ w.flags.getLsbD 0 = true := Bool.eq_false_iff.1 hill
    exact decodes_memberE rest hi (by decide) (by decide) (congrArg some (if_neg hbit))
  | mchainE w | hmovImport w =>
    have hbit : w.flags.getLsbD 0 = true := by simpa [form, formE] using hill
    exact decodes_memberE rest hi (by decide) (by decide) (congrArg some (if_pos hbit))
  | unassignedEncoding w =>
    have hu : wordUnassigned w = true := (Bool.and_eq_true_iff.1 hi).2
    exact decodes_unassigned w rest hu
  | _ => exact absurd hw Bool.false_ne_true

/-! ### O52: what the decoder reads, the encoder writes -/

/-- BAR and BAR.arrive have one function code; C tells them apart (R184). -/
theorem encode_memberControl {i : Instr} {fn : Nat} {w : FmtA} (h : memberControl fn w = some i) :
    encode i = withPx w.px (w.toWord 0x29 fn) := by
  unfold memberControl at h
  split at h
  case h_7 =>
    cases h
    split <;> rfl
  all_goals cases h
  all_goals rfl

/-- The encoder writes a format-A member with the codes that name it. -/
theorem encode_memberA {i : Instr} {opc fn : Nat} {w : FmtA} (h : memberA opc fn w = some i) :
    encode i = withPx w.px (w.toWord opc fn) := by
  unfold memberA at h
  split at h
  case h_9 => exact encode_memberControl h
  case h_13 => cases h
  all_goals
    simp only [memberInt, memberLogic, memberBits, memberMove, memberFloat, memberSpecial, memberDecimal, memberCross, memberFlow,
      memberEvent, memberSystem] at h
    split at h
    all_goals cases h
    all_goals rfl

theorem encode_memberImm {i : Instr} {fn : Nat} {w : FmtI} (h : memberImm fn w = some i) :
    encode i = withPx w.px (w.toWord 0x11 fn) := by
  unfold memberImm at h
  split at h
  all_goals cases h
  all_goals rfl

theorem encode_memberBranch {i : Instr} {fn : Nat} {w : FmtB} (h : memberBranch fn w = some i) :
    encode i = withPx w.px (w.toWord 0x28 fn) := by
  unfold memberBranch at h
  split at h
  all_goals cases h
  all_goals rfl

/-- The encoder writes every CCTL with the codes of CCTL; its own code stands in D. -/
theorem encode_cctlOf {i : Instr} {k : Nat} {w : FmtM} (h : cctlOf k w = some i) :
    encode i = withPx w.px (w.toWord 0x38 4) := by
  unfold cctlOf at h
  split at h
  all_goals cases h
  all_goals rfl

theorem encode_memberMemory {i : Instr} {fn : Nat} {w : FmtM} (h : memberMemory fn w = some i) :
    encode i = withPx w.px (w.toWord 0x38 fn) := by
  unfold memberMemory at h
  split at h
  case h_5 => exact encode_cctlOf h
  all_goals cases h
  all_goals rfl

/-- The encoder writes a format-M member with the codes that name it. -/
theorem encode_memberM {i : Instr} {opc fn : Nat} {w : FmtM} (h : memberM opc fn w = some i) :
    encode i = withPx w.px (w.toWord opc fn) := by
  unfold memberM at h
  split at h
  case h_1 => exact encode_memberMemory h
  case h_5 => cases h
  all_goals
    simp only [memberTag, memberAtomic, memberFence] at h
    split at h
    all_goals cases h
    all_goals rfl

/-- The encoder writes every COPY with the codes of COPY; its MODE stands in FLAGS. -/
theorem encode_copyOf {i : Instr} {k : Nat} {w : FmtE} (h : copyOf k w = some i) :
    encode i = withPx w.px (w.toWord 0x40 0) := by
  unfold copyOf at h
  split at h
  all_goals cases h
  all_goals rfl

theorem encode_memberCopy {i : Instr} {fn : Nat} {w : FmtE} (h : memberCopy fn w = some i) :
    encode i = withPx w.px (w.toWord 0x40 fn) := by
  unfold memberCopy at h
  split at h
  case h_1 => exact encode_copyOf h
  all_goals cases h
  all_goals rfl

/-- MCHAIN.B and MCHAIN.E have one function code; FLAGS tells them apart (R230). -/
theorem encode_memberMatrix {i : Instr} {fn : Nat} {w : FmtE} (h : memberMatrix fn w = some i) :
    encode i = withPx w.px (w.toWord 0x41 fn) := by
  unfold memberMatrix at h
  split at h
  case h_2 =>
    cases h
    split <;> rfl
  all_goals cases h
  all_goals rfl

theorem encode_memberAcc {i : Instr} {fn : Nat} {w : FmtE} (h : memberAcc fn w = some i) :
    encode i = withPx w.px (w.toWord 0x42 fn) := by
  unfold memberAcc at h
  split at h
  all_goals cases h
  all_goals rfl

/-- The two directions of HMOV have one function code; FLAGS tells them apart (R237). -/
theorem encode_memberHandle {i : Instr} {fn : Nat} {w : FmtE} (h : memberHandle fn w = some i) :
    encode i = withPx w.px (w.toWord 0x43 fn) := by
  unfold memberHandle at h
  split at h
  case h_4 =>
    cases h
    split <;> rfl
  all_goals cases h
  all_goals rfl

/-- The encoder writes a format-E member with the codes that name it. -/
theorem encode_memberE {i : Instr} {opc fn : Nat} {w : FmtE} (h : memberE opc fn w = some i) :
    encode i = withPx w.px (w.toWord opc fn) := by
  unfold memberE at h
  split at h
  · exact encode_memberCopy h
  · exact encode_memberMatrix h
  · exact encode_memberAcc h
  · exact encode_memberHandle h
  · cases h

/-- The must-be-zero bits of format A (R97). -/
theorem mbz_formatA {w : Word} (h : wordMajor w ∈ majorsA) (hm : wordMbz w = true) : w.extractLsb' 0 2 = 0 := by
  unfold wordMbz at hm
  generalize wordMajor w = m at h hm
  simp only [majorsA, List.mem_cons, List.not_mem_nil, or_false] at h
  rcases h with rfl | rfl | rfl | rfl | rfl | rfl | rfl | rfl | rfl | rfl | rfl | rfl <;> exact eq_of_beq hm

/-- A field is written back from its value. -/
theorem ofNat_toNat_self {n : Nat} (x : BitVec n) : BitVec.ofNat n x.toNat = x := by
  rw [BitVec.ofNat_toNat, BitVec.setWidth_eq]

/-- The opcode bits of a word are its major. -/
theorem ofNat_wordMajor (w : Word) : BitVec.ofNat 8 (wordMajor w) = w.extractLsb' 56 8 := ofNat_toNat_self _

/-- A word that names an instruction, its must-be-zero bits 0, is that instruction's encoding; no PX word stands
before a header. -/
theorem encode_of_parse {px : Option Px} {w : Word} {i : Instr} (h : parse px w = some i) (hm : wordMbz w = true)
    (hpx : wordMajor w = 0x02 → px = none) : encode i = withPx px w := by
  have hmaj {m : Nat} (hw : wordMajor w = m) : w.extractLsb' 56 8 = BitVec.ofNat 8 m := by rw [← hw, ofNat_wordMajor]
  have hopc := (ofNat_wordMajor w).symm
  have hfn6 := (ofNat_toNat_self (w.extractLsb' 50 6)).symm
  have hfn4 := (ofNat_toNat_self (w.extractLsb' 52 4)).symm
  rcases major_of_parse h with hw | hw | hw | hw | hw | hw | hw
  · rw [parse_header hw] at h
    cases h
    rw [hpx hw]
    exact congrArg (fun w => [w]) (H_toWord w (hmaj hw) (by simpa [wordMbz, hw] using hm))
  · rw [parse_nop hw] at h
    cases h
    have hword : 0x03#8 ++ 0#56 = w := by
      have hz : w.extractLsb' 0 56 = 0 := by simpa [wordMbz, hw] using hm
      rw [← hmaj hw, show (0#56) = w.extractLsb' 0 56 from hz.symm, ext_join _ _ _ _ _ (by omega)]
      exact ext_all w
    exact congrArg (withPx px) hword
  · rw [parse_formatA hw] at h
    rw [encode_memberA h, A_toWord px _ _ w hopc hfn6 (mbz_formatA hw hm)]
    rfl
  · rw [parse_formatI hw] at h
    rw [encode_memberImm h, I_toWord px _ _ w (hmaj hw) hfn6]
    rfl
  · rw [parse_formatB hw] at h
    rw [encode_memberBranch h, B_toWord px _ _ w (hmaj hw) hfn4 (by simpa [wordMbz, hw] using hm)]
    rfl
  · rw [parse_formatM hw] at h
    rw [encode_memberM h, M_toWord px _ _ w hopc hfn4]
    rfl
  · rw [parse_formatE hw] at h
    rw [encode_memberE h, E_toWord px _ _ w hopc hfn4]
    rfl

/-- Steps 3 to 5 of R111 accept only the instruction itself, and only with its must-be-zero bits 0. -/
theorem checked_eq_ok {i j : Instr} {mbz : Bool} (h : checked i mbz = .ok j) : i = j ∧ mbz = true := by
  unfold checked at h
  split at h
  · cases h
  · cases h
  · cases h
  · cases h
    exact ⟨rfl, rfl⟩

/-- A word that the decoder accepts is unassigned, or names an instruction and has its must-be-zero bits 0; a PX word is none
itself, and none stands before a header. -/
theorem decodeWords_eq_ok {px : Option Word} {w : Word} {i : Instr} (h : decodeWords px w = .ok i) :
    (wordUnassigned w = true ∧ i = .unassignedEncoding w) ∨
      parse (px.map Px.ofWord) w = some i ∧ wordMbz w = true ∧ (∀ p ∈ px, p.extractLsb' 24 15 = 0) ∧
        (wordMajor w = 0x02 → px = none) := by
  unfold decodeWords at h
  split at h
  next hu =>
    cases h
    exact .inl ⟨hu, rfl⟩
  next hu =>
  split at h
  · cases h
  next hform =>
  split at h
  · cases h
  next j hp =>
  obtain ⟨rfl, hmbz⟩ := checked_eq_ok h
  obtain ⟨hw, hpx⟩ := Bool.and_eq_true_iff.1 hmbz
  refine .inr ⟨hp, hw, ?_, ?_⟩
  · rintro p rfl
    exact eq_of_beq hpx
  · intro hm
    simpa [hm] using hform

/-- Settles O52: an accepted word is the one that its fields, its codes and its must-be-zero bits write. -/
theorem acceptedWordsAreEncodings : Obligations.AcceptedWordsAreEncodings := by
  refine ⟨fun w i h => ?_, fun p w i hp hu h => ?_⟩
  · rcases decodeWords_eq_ok h with ⟨-, rfl⟩ | ⟨hi, hm, -, -⟩
    · rfl
    · exact encode_of_parse hi hm (fun _ => rfl)
  · rcases decodeWords_eq_ok h with ⟨hu', -⟩ | ⟨hi, hm, hz, hh⟩
    · exact absurd hu' (by simp [hu])
    · have hpx : (Px.ofWord p).toWord = p := P_toWord p (by rw [← ofNat_wordMajor, hp]) (hz p rfl)
      rw [encode_of_parse hi hm (fun hw => by simp [hh hw])]
      exact congrArg (fun p => [p, w]) hpx

/-! ### O54: words that the spec writes out -/

/-- A table row whose bytes begin with the encoding of a well-formed instruction gives that instruction. -/
theorem decodeTableWord_of_encodeBytes {i : Instr} {nbits n : Nat} (rest : List Byte) (hi : i.wf = true) (hw : i.isWord = true)
    (h : tableBytes nbits n = encodeBytes i ++ rest) : decodeTableWord nbits n = some i := by
  rw [decodeTableWord, h, encodedInstructionsDecode i rest hi hw]

/-- Settles O54: each word is the encoding of the instruction that the spec gives it for, and that decodes (O51). -/
theorem wordsOfTheSpecDecode : Obligations.WordsOfTheSpecDecode := by
  refine ⟨?_, ?_, ?pair, ?_, ?_, ?_, ?_, ?_, ?_⟩
  case pair => exact decodeTableWord_of_encodeBytes [] (by decide) (by decide) (by decide)
  all_goals exact decodeTableWord_of_encodeBytes (leBytes 8 0) (by decide) (by decide) (by decide)

end Sys2Proof.Laws.Encoding
end

section
/-!
SUPPORT. The ends of a warp slot's waits (R106, R187, R241, R280), and O44. Each of the four steps changes the one warp that the slot
names, so what is left to say is what it does to that warp.
-/
namespace Sys2Proof.Machine

/-- A warp changed in the same way is changed to the same state. -/
theorem State.mapWarp_congr {f f' : Warp → Warp} (h : ∀ w, f w = f' w) (s : State) (wid k : Nat) :
    s.mapWarp wid k f = s.mapWarp wid k f' := congrArg (s.mapWarp wid k) (funext h)

/-- A pending result is written and is pending no more; one that is not there changes nothing (R106). -/
theorem Warp.arrive_eq (w : Warp) (id : Nat) :
    w.arrive id = (w.results.find? (fun r => r.id == id)).elim w (fun r =>
      { r.writes.foldl Warp.apply w with results := (r.writes.foldl Warp.apply w).results.filter (fun r => r.id != id) }) := by
  unfold Warp.arrive
  cases w.results.find? (fun r => r.id == id) <;> rfl

/-- A result comes to the slot's warp (R106). -/
theorem exec_longLatencyResult_eq {core slot wid k : Nat} {s : State} (hole : s.hole = none)
    (hslot : s.slot? core slot = some (wid, k)) (id : Nat) :
    exec (.longLatencyResult core slot id) s = .next (s.mapWarp wid k (fun w => w.arrive id)) := by
  show execLongLatencyResult core slot id s = _
  simp only [execLongLatencyResult, hslot]
  exact finish_next hole

/-- The warp after a look at its deadline at this time: it sleeps no more once the deadline has passed (R187). -/
def Warp.wokenAt (w : Warp) (tb : Nat) : Warp := { w with sleep := w.sleep.bind (fun t => if t < tb then none else some t) }

/-- A warp that does not sleep, or not yet long enough, stays as it is. -/
theorem Warp.wokenAt_eq_self {w : Warp} {tb : Nat} (h : ∀ t, w.sleep = some t → ¬ t < tb) : w.wokenAt tb = w := by
  have hs : w.sleep.bind (fun t => if t < tb then none else some t) = w.sleep := by
    cases hw : w.sleep with
    | none => rfl
    | some t => exact if_neg (h t hw)
  unfold Warp.wokenAt
  rw [hs]

/-- A warp whose deadline has passed sleeps no more. -/
theorem Warp.wokenAt_of_past {w : Warp} {t tb : Nat} (hw : w.sleep = some t) (h : t < tb) :
    w.wokenAt tb = { w with sleep := none } := by
  unfold Warp.wokenAt
  rw [hw, Option.bind_some, if_pos h]

/-- A look at the deadline of the slot's warp (R187). -/
theorem exec_sleepExpiry_eq {core slot wid k : Nat} {s : State} (hole : s.hole = none)
    (hslot : s.slot? core slot = some (wid, k)) :
    exec (.sleepExpiry core slot) s = .next (s.mapWarp wid k (fun w => w.wokenAt s.time.tb)) := by
  show execSleepExpiry core slot s = _
  simp only [execSleepExpiry, hslot]
  rw [finish_next (by exact hole)]
  refine congrArg _ (State.mapWarp_congr (fun w => ?_) s wid k)
  split
  next t hw =>
    split
    next h => exact (Warp.wokenAt_of_past hw h).symm
    next h => exact (Warp.wokenAt_eq_self (by simpa [hw] using h)).symm
  next hw => exact (Warp.wokenAt_eq_self (by simp [hw])).symm

/-- A poll wakes the lanes of the slot's warp that wait for something of its kind, a change `f` of each lane (R241, R280). -/
theorem finish_rouseSlot {core slot wid k : Nat} {s : State} (hole : s.hole = none) (hslot : s.slot? core slot = some (wid, k))
    {p : WaitOn → Bool} {f : Lane → Lane} (hnone : ∀ x : Lane, x.wait = none → f x = x)
    (hsome : ∀ (x : Lane) (y : Wait), x.wait = some y → f x = if p y.on then x.rouse else x) :
    finish (s.rouseSlot core slot p) = .next (s.mapWarp wid k (fun w => { w with lanes := w.lanes.map f })) := by
  simp only [State.rouseSlot, hslot]
  rw [finish_next (by exact hole)]
  refine congrArg _ (State.mapWarp_congr (fun w => ?_) s wid k)
  refine congrArg (fun ls => { w with lanes := ls }) (List.map_congr_left (fun x _ => ?_))
  split
  next y hx => exact (hsome x y hx).symm
  next hx => exact (hnone x hx).symm

/-- Settles O44: each step meets one warp; what becomes of it is said for the result, the deadline and the lanes that wait. -/
theorem waitsOfAWarpSlotEnd : Obligations.WaitsOfAWarpSlotEnd := by
  intro core slot wid k s hole hslot
  refine ⟨fun id => ?_, exec_sleepExpiry_eq hole hslot, ?_, ?_⟩
  · rw [exec_longLatencyResult_eq hole hslot]
    exact congrArg _ (State.mapWarp_congr (fun w => w.arrive_eq id) s wid k)
  · exact finish_rouseSlot hole hslot (fun x hx => by rw [hx]) (fun x ⟨on, _, _⟩ hx => by rw [hx]; cases on <;> rfl)
  · exact finish_rouseSlot hole hslot (fun x hx => by rw [hx]) (fun x ⟨on, _, _⟩ hx => by rw [hx]; cases on <;> rfl)

end Sys2Proof.Machine
end

section
/-!
SUPPORT. Clause headers, NOP and words of unassigned opcodes (R93, R96, R110, R111), and O14.
-/
namespace Sys2Proof.Machine

/-- Where every lane stops for one reason, the stops are all the lanes with it. -/
theorem stopsOf_map_stop (ls : List Nat) (st : Stop) :
    stopsOf (ls.map (fun l => (l, LaneOut.stop st))) = ls.map (fun l => (l, st)) := by
  rw [stopsOf, List.filterMap_map]
  exact congrFun (List.filterMap_eq_map (f := fun l => (l, st))) ls

/-- HWAIT names a handle by the bit of its number (R93). -/
theorem FmtH.mem_handles {w : FmtH} {h : Nat} : h ∈ FmtH.handles w ↔ h < 16 ∧ w.hwait.getLsbD h = true := by
  simp [FmtH.handles]

/-- No handle that HWAIT names is in a state that none of them is in. -/
theorem FmtH.find?_handles_eq_none {w : FmtH} {st : Nat → HandleSt} {x : HandleSt}
    (h : ∀ n < 16, w.hwait.getLsbD n = true → st n ≠ x) : (FmtH.handles w).find? (fun n => st n == x) = none := by
  rw [List.find?_eq_none]
  intro n hn
  obtain ⟨hlt, hbit⟩ := FmtH.mem_handles.1 hn
  simpa using h n hlt hbit

/-- A header that waits for nothing puts its lanes into the clause (R93, R96). -/
theorem exec_clauseHeader_enters {w : FmtH} {s : State} {cx : Cx} (hat : Claims.At s cx)
    (hinv : ∀ h < 16, w.hwait.getLsbD h = true → s.handleSt ((cx.w.h[h]?).getD .invalid) ≠ .invalid)
    (hpend : ∀ h < 16, w.hwait.getLsbD h = true → s.handleSt ((cx.w.h[h]?).getD .invalid) ≠ .pending)
    (hbar : w.barw = true → cx.w.pendBar ≠ some cx.g.barGen) :
    exec (.clauseHeader w) s = .next (s.mapWarp cx.wid cx.k (fun y =>
      { y.mapLanes cx.lanes (fun x => x.enterClause cx.wpc w) with rotate := y.rotate || w.yh })) := by
  obtain ⟨hcx, hole⟩ := hat
  have hgo : ¬ (w.barw && cx.g.barrierPending cx.w) = true := by simpa [Wg.barrierPending] using hbar
  show execClauseHeader w s = _
  unfold execClauseHeader
  rw [withCx_at hcx]
  simp only [FmtH.find?_handles_eq_none hinv, FmtH.find?_handles_eq_none hpend, if_neg hgo]
  exact finish_next hole

/-- NOP is done in every lane (R110). -/
theorem exec_nop_eq {w : FmtN} {s : State} {cx : Cx} (hat : Claims.At s cx) :
    exec (.nop w) s = .next (Claims.cross s cx (fun _ => .write [] 0 0)) := by
  obtain ⟨hcx, hole⟩ := hat
  show execNop w s = _
  unfold execNop
  rw [withCx_at hcx, State.commit_done false false 0 (waitsOf_map_nil (by simp)) (stopsOf_map_nil (by simp))]
  exact finish_next hole

/-- ILLEGAL with the word and, in DETAIL, its opcode and step 1 (R111). -/
def Stop.unassigned (v : Word) : Stop := .fault .illegal v (256 * wordMajor v + 1)

/-- Every lane that arrives at an unassigned word stops there. -/
theorem exec_unassignedEncoding_eq (v : Word) {s : State} {cx : Cx} (hcx : s.cx? = some cx) :
    exec (.unassignedEncoding v) s = finish ((Claims.cross s cx (fun _ => .stop (Stop.unassigned v))).stopLanes cx.wid cx.k cx.pc
      cx.next false (cx.lanes.map (fun l => (l, Stop.unassigned v)))) := by
  show execUnassignedEncoding v s = _
  unfold execUnassignedEncoding
  rw [withCx_at hcx, State.commit_stops false false 0 (waitsOf_map_nil (by simp)), scalarFault_lanes, stopsOf_map_stop]
  rfl

/-- Settles O14: none of the three has a wait left, so the header enters its clause, NOP is done and the others stop. -/
theorem headersNopsAndUnassignedWords : Obligations.HeadersNopsAndUnassignedWords := by
  refine ⟨fun w s cx hat hh hbar => ?_, fun w s cx => exec_nop_eq, fun v s cx hcx hole => ?_⟩
  · exact exec_clauseHeader_enters hat (fun h hlt hb => (hh h hlt hb).1) (fun h hlt hb => (hh h hlt hb).2) hbar
  · exact (exec_unassignedEncoding_eq v hcx).trans (finish_next hole)

end Sys2Proof.Machine
end

section
/-!
SUPPORT. Lane arithmetic (families 0x10 to 0x13 and 0x18 to 0x1A, R124 to R165): O1, O2 and O4 to O6. Every meaning is an entry in the
frame of R114 (`laneOp`), so a family is settled once each rule's entry is shown to be the one that its meaning runs; what the
frame does where no lane stops is said once, for all of them. At the end O3 is refuted on RDLANE.
-/
namespace Sys2Proof.Machine

/-! ### The frame -/

/-- An instruction that runs an entry, and in which no lane stops, completes with what the entry gives each lane (R114). -/
theorem exec_completes {i : Instr} {e : Entry} {s : State} {cx : Cx} (hrun : exec i s = laneOp i e s) (hat : Claims.At s cx)
    (hs : stopsOf (Claims.laneOuts i e s cx) = []) : exec i s = .next (Claims.after i s cx (Claims.laneOuts i e s cx)) := by
  obtain ⟨hcx, hole⟩ := hat
  exact hrun.trans (laneOp_done hcx hole hs)

/-- Entries with the same operands and the same results are the same instruction. -/
theorem laneOp_congr {i : Instr} {e e' : Entry} (hframe : { e with fn := e'.fn } = e') (hfn : ∀ rm vs, e.fn rm vs = e'.fn rm vs)
    (s : State) : laneOp i e s = laneOp i e' s := by
  have h : e.fn = e'.fn := funext fun rm => funext fun vs => hfn rm vs
  rw [← hframe, ← h]

/-! ### Comparisons and selection (R126, R127) -/

/-- A source of one element is the exact integer of its element 0 (R124). -/
theorem intSource_eq_intElem (t : BitVec 4) (neg abs : Bool) (x : Word) :
    intSource t neg abs x = Claims.intElem t abs neg x 0 := by
  have h : intOf (tySigned t) (elemBits t) (elemAt t x 0) = intOf (tySigned t) (elemBits t) x.toNat := by
    simp only [intOf, signedOf, elemAt, Nat.mul_zero, Nat.pow_zero, Nat.div_one, Nat.mod_mod]
  rw [Claims.intElem, h, intSource]

/-- The order of two integers, the first below the second. -/
theorem ordInt_of_lt {a b : Int} (h : a < b) : ordInt a b = .lt := if_pos h

/-- An integer is equal to itself. -/
theorem ordInt_self (a : Int) : ordInt a a = .eq := by rw [ordInt, if_neg (Int.lt_irrefl a), if_pos (beq_self_eq_true a)]

/-- The order of two integers, the first above the second. -/
theorem ordInt_of_gt {a b : Int} (h : b < a) : ordInt a b = .gt := by
  rw [ordInt, if_neg (Int.lt_asymm h), if_neg (mt eq_of_beq (Int.ne_of_gt h))]

/-- Integers are never unordered, so each condition code is its comparison (R126). -/
theorem condHolds_ordInt (cc : Nat) (a b : Int) : condHolds cc (ordInt a b) = Claims.intCond cc a b := by
  match cc with
  | 0 | 1 | 2 | 3 | 4 | 5 | 6 | 7 | _ + 8 =>
    obtain h | rfl | h := Int.lt_trichotomy a b
    · simp only [condHolds, Claims.intCond, ordInt_of_lt h, Int.ne_of_lt h, h, Int.le_of_lt h, Int.lt_asymm h, Int.not_le_of_gt h,
        ne_eq, not_false_eq_true, decide_true, decide_false]
    · simp only [condHolds, Claims.intCond, ordInt_self, Int.lt_irrefl, Int.le_refl, ne_eq, not_true_eq_false, decide_true,
        decide_false]
    · simp only [condHolds, Claims.intCond, ordInt_of_gt h, Int.ne_of_gt h, h, Int.le_of_lt h, Int.lt_asymm h, Int.not_le_of_gt h,
        ne_eq, not_false_eq_true, decide_true, decide_false]

/-- ICMP compares the exact integers of its elements 0 (R126). -/
theorem intCmp_eq_intCond (cc : Nat) (t mod : BitVec 4) (a b : Word) :
    intCmp cc t mod a b = Claims.intCond cc (Claims.intElem t (mod.getLsbD 0) (mod.getLsbD 2) a 0)
      (Claims.intElem t false (mod.getLsbD 1) b 0) := by
  rw [intCmp, condHolds_ordInt, intSource_eq_intElem, intSource_eq_intElem]

/-- The predicate that a comparison gives. -/
theorem compared_eq (vs : List Val) (cc : Nat) (t mod : BitVec 4) (a b : Word) :
    plainRes vs (if intCmp cc t mod a b then 1 else 0) = plainRes vs (if Claims.intCond cc
      (Claims.intElem t (mod.getLsbD 0) (mod.getLsbD 2) a 0) (Claims.intElem t false (mod.getLsbD 1) b 0) then 1 else 0) := by
  rw [intCmp_eq_intCond]

/-- The chosen source, with the predicate's poison, is the chosen value with the chosen poison and the predicate's (R127). -/
theorem selected_eq (c : Bool) (a b : Val) (q : Bool) :
    (if c then { a with p := a.p || q } else { b with p := b.p || q }) =
      ({ v := if c then a.v else b.v, p := (if c then a.p else b.p) || q } : Val) := by
  cases c <;> rfl

/-! ### Each rule is what the instruction runs -/

/-- The integer members, register forms (R125 to R129). -/
theorem exec_of_integerRule {i : Instr} {e : Entry} (h : Claims.integerRule i = some e) (s : State) :
    exec i s = laneOp i e s := by
  cases i with
  | iadd w | isub w | imul w | imulh w | imad w | imin w | imax w | iabs w | ineg w | idiff w => cases h; rfl
  | icvt w | idiv w | irem w => cases h; rfl
  | icmp w =>
    cases h
    exact laneOp_congr rfl (fun _ vs => compared_eq vs (w.c.toNat % 8) w.ty w.mod (argv vs 0) (argv vs 1)) s
  | sel w =>
    cases h
    refine laneOp_congr rfl (fun _ vs => ?_) s
    match vs with
    | [a, b, p] => exact congrArg (fun r => ({ r := r } : AluRes)) (selected_eq (p.v == 1) a b p.p)
    | [] | [_] | [_, _] | _ :: _ :: _ :: _ :: _ => rfl
  | _ => cases h

/-- The integer members, immediate forms (R130, R131). -/
theorem exec_of_immediateRule {i : Instr} {e : Entry} (h : Claims.immediateRule i = some e) (s : State) :
    exec i s = laneOp i e s := by
  cases i with
  | iaddImm w | imulImm w | iminImm w | imaxImm w => cases h; rfl
  | andImm w | orImm w | xorImm w | shlImm w | shrImm w | sarImm w | movi w => cases h; rfl
  | icmpImm w =>
    cases h
    exact laneOp_congr rfl (fun _ vs => compared_eq vs (w.imm.toNat / 2 ^ 29) (w.ty 0) 0 (argv vs 0) (cmpImm w)) s
  | _ => cases h

/-- The logic, shift and rotate members (R132 to R134). -/
theorem exec_of_logicRule {i : Instr} {e : Entry} (h : Claims.logicRule i = some e) (s : State) : exec i s = laneOp i e s := by
  cases i with
  | and w | or w | xor w | andn w | orn w | not w | lop3 w => cases h; rfl
  | shl w | shr w | sar w | rol w | ror w | fshl w | fshr w => cases h; rfl
  | _ => cases h

/-- The bit members (R135 to R141). -/
theorem exec_of_bitRule {i : Instr} {e : Entry} (h : Claims.bitRule i = some e) (s : State) : exec i s = laneOp i e s := by
  cases i with
  | popc w | clz w | ctz w | fns w | brev w | bfx w | bfxs w | bfi w => cases h; rfl
  | pdep w | pext w | bperm w | gf2mm w | prmb w | mix64 w => cases h; rfl
  | _ => cases h

/-- The floating-point and special members (R147 to R151, R153, R157). -/
theorem exec_of_floatRule {i : Instr} {e : Entry} (h : Claims.floatRule i = some e) (s : State) : exec i s = laneOp i e s := by
  cases i with
  | fadd w | fsub w | fmul w | ffma w | fmin w | fmax w | frnd w | fcmp w | fclass w => cases h; rfl
  | fdiv w | fsqrt w | frcp w | frsq w | fex2 w | flg2 w | fsin w | fcos w | ftanh w => cases h; rfl
  | _ => cases h

/-- The conversions and the scaling (R152, R154 to R156). -/
theorem exec_of_convertRule {i : Instr} {e : Entry} (h : Claims.convertRule i = some e) (s : State) :
    exec i s = laneOp i e s := by
  cases i with
  | fcvt w | ftoi w | itof w | fscl w => cases h; rfl
  | _ => cases h

/-- The decimal members (R160 to R165). -/
theorem exec_of_decimalRule {i : Instr} {e : Entry} (h : Claims.decimalRule i = some e) (s : State) :
    exec i s = laneOp i e s := by
  cases i with
  | xadd w | xsub w | xmul w | xfma w | xdiv w | xquant w | xrnd w => cases h; rfl
  | xscaleb w | xcmp w | xcvt w => cases h; rfl
  | _ => cases h

/-- Settles O1: each integer rule is the entry that its instruction runs, and an entry whose lanes do not stop completes. -/
theorem integerInstructionsExecute : Obligations.IntegerInstructionsExecute :=
  fun _ _ s _ h hat hs => exec_completes (h.elim (exec_of_integerRule · s) (exec_of_immediateRule · s)) hat hs

/-- Settles O2: the same of the logic and the bit rules. -/
theorem logicAndBitInstructionsExecute : Obligations.LogicAndBitInstructionsExecute :=
  fun _ _ s _ h hat hs => exec_completes (h.elim (exec_of_logicRule · s) (exec_of_bitRule · s)) hat hs

/-- Settles O4: the same of the floating-point and special rules. -/
theorem floatInstructionsExecute : Obligations.FloatInstructionsExecute :=
  fun _ _ s _ h hat hs => exec_completes (exec_of_floatRule h s) hat hs

/-- Settles O5: the same of the conversion rules. -/
theorem conversionsExecute : Obligations.ConversionsExecute :=
  fun _ _ s _ h hat hs => exec_completes (exec_of_convertRule h s) hat hs

/-- Settles O6: the same of the decimal rules. -/
theorem decimalInstructionsExecute : Obligations.DecimalInstructionsExecute :=
  fun _ _ s _ h hat hs => exec_completes (exec_of_decimalRule h s) hat hs

/-! ### RDLANE inside a run-on window of its own lane (R106, R143) -/

/-- A warp whose lane 0 has an open run-on window on v0: a long-latency instruction of RUN 2 wrote it, and its result has come. -/
def runOnWarp : Warp :=
  { (placeWarp 0).mapLane 0 (fun x => { x with windows := [{ res := 0, dsts := [.lane 0], left := 2 }] }) with nextRes := 1 }

/-- Its workgroup. -/
def runOnWg : Wg :=
  { Wg.start 0 { ctx := 0, q := 0, num := 0 } placeLaunch 0 0 0 0 (0, 0, 0) false [runOnWarp] with st := .resident }

/-- The machine in which lane 0 of that warp executes an instruction. -/
def runOnState : State :=
  { State.reset with
    issue := some { wid := 0, warp := 0, lanes := [0], pc := placeAt, wpc := placeAt, word := 0 },
    ctxs := [placeCtx], wgs := [runOnWg] }

/-- What executes there. -/
def runOnCx : Cx :=
  { wid := 0, k := 0, g := runOnWg, w := runOnWarp, ctx := placeCtx, lanes := [0], pc := placeAt, wpc := placeAt, word := 0 }

/-- It is an issue of that machine. -/
theorem at_runOnState : Claims.At runOnState runOnCx := ⟨rfl, rfl⟩

/-- `RDLANE.u32 v2, v0, 0`. -/
def readOwnV0 : FmtA := { d := 2, a := 0, b := 0x180, c := 0, ty := 1, mod := 0, run := 0, px := none }

/-- The poison bit of v2 in lane 0, where an instruction goes on. -/
def poisonOfV2 : Host.Outcome State Fault Refusal → Option Bool
  | .next t => ((t.lane? 0 0 0).bind (fun x => x.v[2]?)).map (fun r => r.poison)
  | _ => none

/-- RDLANE of the executing lane's own register is a read inside the window, so its result is poisoned (R106). -/
theorem rdlane_poisoned_in_own_window : poisonOfV2 (exec (.rdlane readOwnV0) runOnState) = some true := by decide +kernel

/-- Refutes O3: its RDLANE clause gives lane m's register without what a window adds, also where lane m is the lane that executes
the RDLANE, inside its own run-on window; there R106 poisons the read, and so does the model. -/
theorem not_movesAndPredicatesExecute : ¬ Obligations.MovesAndPredicatesExecute := by
  rintro ⟨-, -, hread, -⟩
  have hnext := hread readOwnV0 runOnState runOnCx 0 { v := 0 } at_runOnState (by decide +kernel) (by decide +kernel)
    (by decide +kernel) (by decide +kernel)
  have hpoison := rdlane_poisoned_in_own_window
  rw [hnext] at hpoison
  exact absurd hpoison (by decide +kernel)

end Sys2Proof.Machine
end

section
/-!
SUPPORT. The queue scheduler and placement (R269 to R284, R388, R393): O34, O35 and O36. Every step looks something up and then makes
one change, so each gets one equation for each of its outcomes. Two looks have content of their own: the verdict of a barrier over its
entries (R276), and the order in which the slots of a class become the holder (R282).
-/
namespace Sys2Proof.Machine

/-! ### Reads of the scheduler (R393) -/

/-- A read that gives bytes is over. -/
theorem State.agentGet_of_bytes {s : State} {who va n : Nat} {c : Context} {bs : List Byte}
    (h : s.agentRead who c va n = .bytes bs) : s.agentGet who c va n = (s.agentUsed who c va n, .bytes bs) := by
  unfold State.agentGet
  rw [h]

/-- A read that fails changes nothing. -/
theorem State.agentGet_of_fail {s : State} {who va n a : Nat} {c : Context} {cause : Cause}
    (h : s.agentRead who c va n = .fail cause a) : s.agentGet who c va n = (s, .fail cause a) := by
  unfold State.agentGet
  rw [h]

/-! ### Barriers (R276) -/

/-- An evaluation is met without a used entry, with every entry of an AND met, or with one of an OR. -/
theorem barVerdict_eq_met {all : Bool} {xs : List DepSt}
    (h : xs = [] ∨ if all then ∀ x ∈ xs, x = .met else ∃ x ∈ xs, x = .met) : barVerdict all xs = .met := by
  rcases h with rfl | h
  · rfl
  · cases all with
    | true => simp [barVerdict, List.all_eq_true.2 fun x hx => beq_iff_eq.2 (h x hx)]
    | false =>
      obtain ⟨x, hx, rfl⟩ := h
      have hany : xs.any (· == .met) = true := List.any_eq_true.2 ⟨_, hx, rfl⟩
      simp [barVerdict, hany]

/-- One that is not met has failed with an entry of an AND failed, or with every entry of an OR. -/
theorem barVerdict_eq_failed {all : Bool} {xs : List DepSt} (hne : xs ≠ [])
    (hmet : ¬ if all then ∀ x ∈ xs, x = .met else ∃ x ∈ xs, x = .met)
    (hfail : if all then ∃ x ∈ xs, x = .failed else ∀ x ∈ xs, x = .failed) : barVerdict all xs = .failed := by
  have hused : xs.isEmpty = false := by simpa using hne
  cases all with
  | true =>
    have hmet : xs.all (· == .met) = false := by simpa using hmet
    have hfail : xs.any (· == .failed) = true := by simpa using hfail
    simp only [barVerdict, hused, hmet, hfail, if_true, Bool.false_eq_true, if_false]
  | false =>
    have hmet : xs.any (· == .met) = false := List.any_eq_false.2 fun x hx h => hmet ⟨x, hx, beq_iff_eq.1 h⟩
    have hfail : xs.all (· == .failed) = true := by simpa using hfail
    simp only [barVerdict, hused, hmet, hfail, if_true, Bool.false_eq_true, if_false]

/-- An evaluation of a started barrier whose signals can all be read, or have failed, ends as its verdict says. -/
theorem State.evaluate_eq {s : State} {c : Context} {p : Pkt} {all : Bool} {deps : List BarDep} {xs : List (Option DepSt)}
    (hstarted : p.started = true) (howes : p.owes = none) (hbody : p.body = .barrier all deps)
    (hxs : allSome (deps.map (s.depState c)) = some xs) :
    (barVerdict all (xs.filterMap id) = .met →
      s.evaluate c p = (s.agentGets 2 c (depReads deps)).1.mapPkt p.key (fun p => { p with body := .done })) ∧
    (barVerdict all (xs.filterMap id) = .failed →
      s.evaluate c p =
        (s.agentGets 2 c (depReads deps)).1.abortPkt c p 2 (((deps.findSome? (s.depCause c)).map Cause.code).getD 0)) := by
  constructor <;> intro hv <;>
    simp only [State.evaluate, hbody, hstarted, howes, hxs, hv, Bool.not_true, Option.isSome_none, Bool.or_self, Bool.false_eq_true,
      if_false]

/-- BARRIER_EVALUATE of a packet in progress is its evaluation. -/
theorem exec_barrierEvaluate_eq {ctx q n : Nat} {s : State} {c : Context} {p : Pkt} (hctx : s.ctx? ctx = some c)
    (hpkt : s.pkt? { ctx := ctx, q := q, num := n } = some p) :
    exec (.barrierEvaluate ctx q n) s = finish (s.evaluate c p) := by
  show execBarrierEvaluate ctx q n s = _
  simp only [execBarrierEvaluate, hctx, hpkt]

/-! ### Starting and completing a packet (R271, R275) -/

/-- A flow launch whose flow queue no earlier one holds starts, with its context's budget. -/
theorem State.startPkt_flow {s : State} {c : Context} {p : Pkt} {l : Launch} (hbody : p.body = .launch l) (hflow : l.flow = true)
    (hfree : s.fqdBusy p.key l.fqd = false) :
    s.startPkt c p = (s.mapPkt p.key (fun p => { p with started := true })).mapLaunch p.key (fun l =>
      { l with budget := if l.budget.isSome && c.tbudget != 0 then some c.tbudget.toNat else none }) := by
  simp [State.startPkt, hbody, hflow, hfree]

/-- PACKET_START of a packet that has been taken and waits. -/
theorem exec_packetStart_waiting {ctx q n : Nat} {s : State} {c : Context} {p : Pkt} (hctx : s.ctx? ctx = some c)
    (hpkt : s.pkt? { ctx := ctx, q := q, num := n } = some p) (hwaits : p.started = false) :
    exec (.packetStart ctx q n) s = finish (s.startPkt c p) := by
  show execPacketStart ctx q n s = _
  simp [execPacketStart, hctx, hpkt, hwaits]

/-- PACKET_START of the packet at RIDX, which has not been taken. -/
theorem exec_packetStart_next {ctx q n : Nat} {s : State} {c : Context} {bs : List Byte} (hctx : s.ctx? ctx = some c)
    (hpkt : s.pkt? { ctx := ctx, q := q, num := n } = none) (hread : s.agentRead 0 c (c.qdescAt q + 16) 8 = .bytes bs)
    (hridx : leNat bs = n) :
    exec (.packetStart ctx q n) s =
      finish ((s.agentUsed 0 c (c.qdescAt q + 16) 8).takePacket ctx q (fun _ => true)) := by
  show execPacketStart ctx q n s = _
  simp [execPacketStart, hctx, hpkt, State.agentGet_of_bytes hread, hridx]

/-- PACKET_COMPLETE of a packet whose work is over and whose CSIG can be updated. -/
theorem exec_packetComplete_over {ctx q n : Nat} {s t : State} {c : Context} {p : Pkt} (hctx : s.ctx? ctx = some c)
    (hpkt : s.pkt? { ctx := ctx, q := q, num := n } = some p) (hstarted : p.started = true) (howes : p.owes = none)
    (hover : s.pktOver p = some none) (hcsig : (s.dropPkt p.key).csig c p.csig 0 (-1) = .ok (t, none)) :
    exec (.packetComplete ctx q n) s = finish (t.dropOps.examine c q) := by
  have hdone : s.completePkt c p = t := by simp only [State.completePkt, hcsig]
  show execPacketComplete ctx q n s = _
  simp [execPacketComplete, hctx, hpkt, hstarted, howes, hover, hdone]

/-- Settles O34: the steps look up the packet, and a barrier's entries give its verdict. -/
theorem packetsStartAndComplete : Obligations.PacketsStartAndComplete := by
  unfold Obligations.PacketsStartAndComplete
  refine ⟨?flow, ?next, ?complete, ?barrier⟩
  case flow =>
    intro ctx q n s c p l hole hctx hpkt hwaits hbody hflow hfree
    rw [exec_packetStart_waiting hctx hpkt hwaits, State.startPkt_flow hbody hflow hfree]
    exact finish_next hole
  case next =>
    intro ctx q n s c bs hctx hpkt hread hridx t hole
    exact (exec_packetStart_next hctx hpkt hread hridx).trans (finish_next hole)
  case complete =>
    intro ctx q n s t c p hctx hpkt hstarted howes hover hcsig hole
    exact (exec_packetComplete_over hctx hpkt hstarted howes hover hcsig).trans (finish_next hole)
  case barrier =>
    intro ctx q n s c p all deps xs hctx hpkt hstarted howes hbody hxs used good bad read
    obtain ⟨hmet, hfailed⟩ := State.evaluate_eq hstarted howes hbody hxs
    rw [exec_barrierEvaluate_eq hctx hpkt]
    refine ⟨fun hgood hole => ?_, fun ⟨hne, hnot, hbad⟩ hole => ?_⟩
    · rw [hmet (barVerdict_eq_met hgood)]
      exact finish_next hole
    · rw [hfailed (barVerdict_eq_failed hne (fun h => hnot (.inr h)) hbad)]
      exact finish_next hole

/-! ### Examining a queue (R281, R388, R393) -/

@[simp] theorem State.mapQueue_hole (s : State) (ctx q : Nat) (f : Queue → Queue) : (s.mapQueue ctx q f).hole = s.hole := by
  unfold State.mapQueue
  split <;> rfl

@[simp] theorem State.unmap_hole (s : State) (x : Slot) : (s.unmap x).hole = s.hole := rfl

@[simp] theorem State.setReady_hole (s : State) (ctx q cls : Nat) (ready : Bool) : (s.setReady ctx q cls ready).hole = s.hole := by
  unfold State.setReady
  split
  · exact State.mapQueue_hole ..
  · dsimp only
    split
    · rw [State.unmap_hole, State.mapQueue_hole]
    · exact State.mapQueue_hole ..

section Examine
variable {s : State} {c : Context} {q : Nat} (hsaved : c.saved = false) (hq : q < c.qcount)
  (hblocked : ((s.queue? c.num q).map (·.blocked)).getD false = false)
include hsaved hq hblocked

/-- A descriptor in range, with no ERR left to clear, says whether the queue is ready. -/
theorem State.examine_fit {db : List Byte} (hread : s.agentRead 0 c (c.qdescAt q) 32 = .bytes db)
    (hfit : (QDesc.ofBytes db).unfit = false) (herr : (QDesc.ofBytes db).state = 0 → (QDesc.ofBytes db).err = 0) :
    s.examine c q = (s.agentUsed 0 c (c.qdescAt q) 32).setReady c.num q (QDesc.ofBytes db).cls
      (s.hasStarted c.num q || decide ((QDesc.ofBytes db).state = 0 ∧ (QDesc.ofBytes db).waiting ≠ 0)) := by
  have hclear : ((QDesc.ofBytes db).state == 0 && (QDesc.ofBytes db).err != 0) = false := by simpa using herr
  have hready : ((QDesc.ofBytes db).state == 0 && (QDesc.ofBytes db).waiting != 0) =
      decide ((QDesc.ofBytes db).state = 0 ∧ (QDesc.ofBytes db).waiting ≠ 0) := by
    rw [Bool.eq_iff_iff]
    simp
  simp only [State.examine, hsaved, hblocked, State.agentGet_of_bytes hread, hfit, hclear, hready, Nat.not_le.2 hq, decide_false,
    Bool.or_self, Bool.false_eq_true, if_false]

/-- A descriptor out of range is written so. -/
theorem State.examine_unfit {db : List Byte} {t : State} (hread : s.agentRead 0 c (c.qdescAt q) 32 = .bytes db)
    (hunfit : (QDesc.ofBytes db).unfit = true) (hnew : ¬ ((QDesc.ofBytes db).state = 2 ∧ (QDesc.ofBytes db).err = 5))
    (hput : (s.agentUsed 0 c (c.qdescAt q) 32).putQState c q 2 5 = .ok t) :
    s.examine c q = t.setReady c.num q (((s.queue? c.num q).map (·.cls)).getD 0) (s.hasStarted c.num q) := by
  have hnew : ((QDesc.ofBytes db).state == 2 && (QDesc.ofBytes db).err == 5) = false := by simpa using hnew
  simp only [State.examine, hsaved, hblocked, State.agentGet_of_bytes hread, hunfit, hnew, hput, Tried.after, Nat.not_le.2 hq,
    decide_false, Bool.or_self, Bool.false_eq_true, if_false, if_true]

/-- A descriptor that cannot be read blocks its queue. -/
theorem State.examine_fail {cause : Cause} {a : Nat} {t : State} (hread : s.agentRead 0 c (c.qdescAt q) 32 = .fail cause a)
    (hblock : s.blockQueue c q cause = .ok t) :
    s.examine c q = t.setReady c.num q (((s.queue? c.num q).map (·.cls)).getD 0) (s.hasStarted c.num q) := by
  simp only [State.examine, hsaved, hblocked, State.agentGet_of_fail hread, hblock, Tried.after, Nat.not_le.2 hq, decide_false,
    Bool.or_self, Bool.false_eq_true, if_false]

end Examine

/-- QUEUE_EXAMINE in a context that exists. -/
theorem exec_queueExamine_eq {ctx : Nat} {s : State} {c : Context} (hctx : s.ctx? ctx = some c) (q : Nat) :
    exec (.queueExamine ctx q) s = finish (s.examine c q) := by
  show execQueueExamine ctx q s = _
  simp only [execQueueExamine, hctx]

/-! ### Slots (R281, R282) -/

section SlotMap
variable {ctx q : Nat} {s : State} {x : Queue} (hqueue : s.queue? ctx q = some x) (hfirst : s.firstWaiting x = true)
include hqueue hfirst

/-- The queue that comes first takes the lowest free slot. -/
theorem exec_queueSlotMap_free {i : Nat} (hfree : (List.range 64).find? (fun i => !s.slots.any (fun y => y.slot == i)) = some i) :
    exec (.queueSlotMap ctx q) s = finish (s.mapTo x i) := by
  show execQueueSlotMap ctx q s = _
  simp [execQueueSlotMap, hqueue, hfirst, hfree]

/-- Without a free slot it takes the one that it may evict. -/
theorem exec_queueSlotMap_evict {y : Slot} (hfull : ∀ i < 64, s.slots.any (fun y => y.slot == i) = true)
    (hevict : s.evictable x.cls = some y) :
    exec (.queueSlotMap ctx q) s = finish ((s.evict y).mapTo x y.slot) := by
  have hnone : (List.range 64).find? (fun i => !s.slots.any (fun y => y.slot == i)) = none := by
    rw [List.find?_eq_none]
    intro i hi
    rw [hfull i (List.mem_range.1 hi)]
    exact Bool.false_ne_true
  show execQueueSlotMap ctx q s = _
  simp [execQueueSlotMap, hqueue, hfirst, hnone, hevict]

end SlotMap

/-! ### The next holder of a class (R282) -/

/-- Of the best slot so far and another one, the lower on the same side of `slot`. -/
def Slot.lowerOf (slot : Nat) (b : Option Slot) (z : Slot) : Option Slot :=
  match b with
  | none => some z
  | some w => if decide (slot < z.slot) == decide (slot < w.slot) && decide (z.slot < w.slot) then some z else b

/-- The slot of a class that follows `slot`: the lowest above it, or else the lowest. -/
def nextHolder (slot : Nat) (same : List Slot) : Option Slot :=
  (same.filter (fun z => decide (slot < z.slot)) ++ same).foldl (Slot.lowerOf slot) none

/-- One comparison keeps the side, and gives a slot no higher than either on it. -/
theorem Slot.lowerOf_some (slot : Nat) (w z : Slot) : ∃ y, Slot.lowerOf slot (some w) z = some y ∧ (y = w ∨ y = z) ∧
    (slot < y.slot ↔ slot < w.slot) ∧ y.slot ≤ w.slot ∧ ((slot < z.slot ↔ slot < w.slot) → y.slot ≤ z.slot) := by
  simp only [Slot.lowerOf]
  split
  next h =>
    obtain ⟨hside, hlt⟩ : (slot < z.slot ↔ slot < w.slot) ∧ z.slot < w.slot := by simpa using h
    exact ⟨z, rfl, .inr rfl, hside, Nat.le_of_lt hlt, fun _ => Nat.le_refl _⟩
  next h =>
    refine ⟨w, rfl, .inl rfl, Iff.rfl, Nat.le_refl _, fun hside => ?_⟩
    simpa [hside] using h

/-- From a slot on, the comparisons give the lowest slot on its side. -/
theorem Slot.foldl_lowerOf (slot : Nat) (zs : List Slot) (w : Slot) : ∃ y ∈ w :: zs, zs.foldl (Slot.lowerOf slot) (some w) = some y ∧
    (slot < y.slot ↔ slot < w.slot) ∧ ∀ z ∈ w :: zs, (slot < z.slot ↔ slot < w.slot) → y.slot ≤ z.slot := by
  induction zs generalizing w with
  | nil => exact ⟨w, List.mem_cons_self, rfl, Iff.rfl, fun z hz _ => List.mem_singleton.1 hz ▸ Nat.le_refl _⟩
  | cons z zs ih =>
    obtain ⟨v, hv, hmem, hside, hle, hle'⟩ := Slot.lowerOf_some slot w z
    obtain ⟨y, hy, hfold, hyside, hlow⟩ := ih v
    have hyv : y.slot ≤ v.slot := hlow v List.mem_cons_self Iff.rfl
    refine ⟨y, ?_, by rw [List.foldl_cons, hv, hfold], hyside.trans hside, fun u hu huside => ?_⟩
    · rcases List.mem_cons.1 hy with rfl | hy
      · rcases hmem with rfl | rfl <;> simp
      · simp [hy]
    · rcases List.mem_cons.1 hu with rfl | hu
      · exact Nat.le_trans hyv hle
      · rcases List.mem_cons.1 hu with rfl | hu
        · exact Nat.le_trans hyv (hle' huside)
        · exact hlow u (List.mem_cons_of_mem v hu) (huside.trans hside.symm)

/-- A class with a slot has a next holder: the lowest slot above `slot`, or the lowest of all where none is above. -/
theorem nextHolder_spec (slot : Nat) {same : List Slot} (hne : same ≠ []) : ∃ z ∈ same, nextHolder slot same = some z ∧
    (∀ w ∈ same, slot < w.slot → slot < z.slot ∧ z.slot ≤ w.slot) ∧
    ((∀ w ∈ same, w.slot ≤ slot) → ∀ w ∈ same, z.slot ≤ w.slot) := by
  unfold nextHolder
  cases habove : same.filter (fun z => decide (slot < z.slot)) with
  | nil =>
    have hbelow : ∀ w ∈ same, w.slot ≤ slot := by simpa using habove
    obtain ⟨w, ws, rfl⟩ := List.exists_cons_of_ne_nil hne
    obtain ⟨z, hz, hfold, -, hlow⟩ := Slot.foldl_lowerOf slot ws w
    have hside : ∀ v ∈ w :: ws, (slot < v.slot ↔ slot < w.slot) := fun v hv =>
      iff_of_false (Nat.not_lt.2 (hbelow v hv)) (Nat.not_lt.2 (hbelow w List.mem_cons_self))
    exact ⟨z, hz, hfold, fun v hv hlt => absurd hlt (Nat.not_lt.2 (hbelow v hv)), fun _ v hv => hlow v hv (hside v hv)⟩
  | cons w ws =>
    have hin : ∀ v, v ∈ w :: ws ↔ v ∈ same ∧ slot < v.slot := fun v => by rw [← habove, List.mem_filter, decide_eq_true_iff]
    obtain ⟨hwsame, hw⟩ := (hin w).1 List.mem_cons_self
    obtain ⟨z, hz, hfold, hside, hlow⟩ := Slot.foldl_lowerOf slot (ws ++ same) w
    have hzsame : z ∈ same := by
      rcases List.mem_append.1 (List.cons_append ▸ hz) with hz | hz
      · exact ((hin z).1 hz).1
      · exact hz
    refine ⟨z, hzsame, hfold, fun v hv hlt => ⟨hside.2 hw, ?_⟩, fun hall => absurd hw (Nat.not_lt.2 (hall w hwsame))⟩
    exact hlow v (List.mem_cons_of_mem w (List.mem_append_right ws hv)) (iff_of_true hlt hw)

section SliceEnd
variable {slot : Nat} {s : State} {y : Slot} (hslot : s.slots.find? (fun y => y.slot == slot) = some y) (hholder : y.holder = true)
  (hend : y.sliceEnd ≤ s.now)
include hslot hholder hend

/-- At the end of a slice a waiting queue of the class takes the holder's slot. -/
theorem exec_timeSliceEnd_waiter {x : Queue}
    (hwaiter : s.queues.find? (fun x => x.cls == y.cls && decide (y.cls < 3) && s.firstWaiting x && s.slots.length == 64) = some x) :
    exec (.timeSliceEnd slot) s = finish ((s.evict y).mapTo x slot) := by
  show execTimeSliceEnd slot s = _
  simp [execTimeSliceEnd, hslot, hholder, Nat.not_lt.2 hend, hwaiter]

/-- Where none waits, the next slot of the class becomes the holder. -/
theorem exec_timeSliceEnd_turn {z : Slot} (hnone : ∀ x ∈ s.queues, x.cls = y.cls → s.firstWaiting x = false)
    (hnext : nextHolder slot (s.slots.filter (fun z => z.cls == y.cls)) = some z) :
    exec (.timeSliceEnd slot) s = finish { s with slots := s.slots.map (fun x =>
      if x.slot == z.slot then
        { x with holder := true, due := s.unfit z, sliceEnd := s.now + 1000 * ((s.ctx? z.ctx).map (·.tslice)).getD 500 }
      else if x.cls == y.cls then { x with holder := false } else x) } := by
  have hwaiter : s.queues.find? (fun x => x.cls == y.cls && decide (y.cls < 3) && s.firstWaiting x && s.slots.length == 64) = none := by
    rw [List.find?_eq_none]
    intro x hx hp
    simp only [Bool.and_eq_true, beq_iff_eq] at hp
    obtain ⟨⟨⟨hcls, -⟩, hfirst⟩, -⟩ := hp
    exact Bool.false_ne_true ((hnone x hx hcls).symm.trans hfirst)
  show execTimeSliceEnd slot s = _
  simp only [execTimeSliceEnd, hslot, hholder, Nat.not_lt.2 hend, hwaiter, decide_false, Bool.not_true, Bool.or_self,
    Bool.false_eq_true, if_false]
  change (match nextHolder slot (s.slots.filter (fun z => z.cls == y.cls)) with | none => _ | some z => _) = _
  rw [hnext]

end SliceEnd

/-- Settles O35: what is read of a descriptor decides, a waiting queue is mapped, and a slice ends for the class's next holder. -/
theorem queuesAreExaminedAndTakeSlots : Obligations.QueuesAreExaminedAndTakeSlots := by
  unfold Obligations.QueuesAreExaminedAndTakeSlots
  refine ⟨?examine, ?map, ?slice⟩
  case examine =>
    intro ctx q s c hctx hsaved hq hblocked read
    rw [exec_queueExamine_eq hctx]
    refine ⟨fun db hread hfit herr hole => ?_, fun db t hread hunfit hnew hput hole => ?_, fun cause a t hread hblock hole => ?_⟩
    · rw [State.examine_fit hsaved hq hblocked hread hfit herr]
      exact finish_next hole
    · rw [State.examine_unfit hsaved hq hblocked hread hunfit hnew hput]
      exact finish_next ((State.setReady_hole ..).trans hole)
    · rw [State.examine_fail hsaved hq hblocked hread hblock]
      exact finish_next ((State.setReady_hole ..).trans hole)
  case map =>
    intro ctx q s x hqueue hfirst
    refine ⟨fun i hfree hole => ?_, fun y hfull hevict hole => ?_⟩
    · exact (exec_queueSlotMap_free hqueue hfirst hfree).trans (finish_next hole)
    · exact (exec_queueSlotMap_evict hqueue hfirst hfull hevict).trans (finish_next hole)
  case slice =>
    intro slot s y hslot hholder hend
    refine ⟨fun x hwaiter hole => ?_, fun hole hnone => ?_⟩
    · exact (exec_timeSliceEnd_waiter hslot hholder hend hwaiter).trans (finish_next hole)
    · have hin : ∀ w, w ∈ s.slots.filter (fun z => z.cls == y.cls) ↔ w ∈ s.slots ∧ w.cls = y.cls := by simp
      have hy := (hin y).2 ⟨List.mem_of_find?_eq_some hslot, rfl⟩
      obtain ⟨z, hz, hnext, habove, hwrap⟩ := nextHolder_spec slot (List.ne_nil_of_mem hy)
      obtain ⟨hzslots, hzcls⟩ := (hin z).1 hz
      refine ⟨z, hzslots, hzcls, fun w hw hcls => habove w ((hin w).2 ⟨hw, hcls⟩), fun hall w hw hcls => ?_, ?_⟩
      · exact hwrap (fun v hv => hall v ((hin v).1 hv).1 ((hin v).1 hv).2) w ((hin w).2 ⟨hw, hcls⟩)
      · exact (exec_timeSliceEnd_turn hslot hholder hend hnone hnext).trans (finish_next hole)

/-! ### Placement and pre-emption (R282 to R284) -/

/-- A column that is next in its slot takes its place on the chosen core. -/
theorem exec_placeWorkgroup_eq {wid core : Nat} {s t : State} {g : Wg} {x : Slot} (hwg : s.wg? wid = some g)
    (hslot : s.slotOf g.pkt.ctx g.pkt.q = some x) (htrip : s.power.tripped = false) (hmay : s.mayPlace x = true)
    (hnext : ∃ h ∈ s.waitingOf x, h.wid ∈ s.column g) (hcore : s.chooseCore (s.column g) = some core)
    (hput : State.putAll core (s.column g) s = some t) :
    exec (.placeWorkgroup wid) s =
      let u := ((s.column g).foldl State.retryJoins t).withoutDue (s.column g)
      finish (if g.st = .pending then u.openColumn g.pkt else u) := by
  have hnext : (s.waitingOf x).any (fun h => (s.column g).elem h.wid) = true := by simpa using hnext
  show execPlaceWorkgroup wid s = _
  simp only [execPlaceWorkgroup, hwg, hslot, htrip, hmay, hnext, hcore, hput, Bool.not_true, Bool.or_self, Bool.false_eq_true,
    if_false, beq_iff_eq]

/-- A slot's next workgroup for which no core has room is one that fits nowhere. -/
theorem State.mem_unfit {s : State} {x : Slot} {n : Nat} :
    n ∈ s.unfit x ↔ ∃ h ∈ s.waitingOf x, s.chooseCore (s.column h) = none ∧ h.wid = n := by
  simp [State.unfit, and_assoc]

/-- The column of a victim for a workgroup that fits nowhere is pre-empted. -/
theorem exec_preempt_eq {wid n : Nat} {s : State} {g v : Wg} {x : Slot} (hwg : s.wg? wid = some g) (hx : x ∈ s.slots)
    (hn : n ∈ s.unfit x) (hvictim : s.victim x n = some v) (hcol : v.wid ∈ s.column g) :
    exec (.preempt wid) s = finish (s.preemptWgs (s.column g)) := by
  have hclaim : s.slots.any (fun x => (s.unfit x).any (fun n => (s.victim x n).any (fun v => (s.column g).elem v.wid))) = true :=
    List.any_eq_true.2 ⟨x, hx, List.any_eq_true.2 ⟨n, hn, by simpa [hvictim] using hcol⟩⟩
  show execPreempt wid s = _
  simp only [execPreempt, hwg, hclaim, if_true]

/-- Settles O36: the guards of both steps hold, and what they then do is one change of the state. -/
theorem workgroupsArePlacedAndPreempted : Obligations.WorkgroupsArePlacedAndPreempted := by
  unfold Obligations.WorkgroupsArePlacedAndPreempted
  refine ⟨fun wid core s t g x hwg hslot htrip hmay hnext hcore hput hole => ?_,
    fun wid n s g h v x hwg hx hh hn hcore hvictim hcol hole => ?_⟩
  · exact (exec_placeWorkgroup_eq hwg hslot htrip hmay hnext hcore hput).trans (finish_next hole)
  · exact (exec_preempt_eq hwg hx (State.mem_unfit.2 ⟨h, hh, hcore, hn⟩) hvictim hcol).trans (finish_next hole)

end Sys2Proof.Machine
end

section
/-!
SUPPORT. Frames and ticks (R291 to R295, R357): O42. A datagram passes the checks of R291 one after another, so it gets one equation
for each check at which it can end, and one for the frame that passes them all. Such a frame is written or waits, and a tick that
is due is offered or waits: what decides is whether a stamp, or a page to be written, has to be waited for.
-/
namespace Sys2Proof.Machine

/-! ### The checks of a datagram (R291) -/

/-- What R291 finds wrong with a header, field by field; a field that a short header does not hold whole is not looked at (log 63). -/
theorem badHeader_iff {h : List Byte} : badHeader h = true ↔
    (2 ≤ h.length ∧ field h 0 16 ≠ 0xB5D7) ∨ (4 ≤ h.length ∧ field h 24 8 ≠ 1) ∨ field h 16 8 ≠ 0 ∨ field h 32 32 ≠ 0 ∨
      field h 128 16 ≠ 0 ∨ (24 ≤ h.length ∧ field h 160 32 = 0) ∨ (20 ≤ h.length ∧ field h 144 16 = 0) := by
  simp only [badHeader, Bool.or_eq_true, Bool.and_eq_true, decide_eq_true_eq, bne_iff_ne, beq_iff_eq, or_assoc]

/-- A datagram on another port is no frame. -/
theorem exec_ingestFrame_otherPort {port : Nat} {s : State} (hport : port ≠ s.host.ingestPort) (payload : List Byte) :
    exec (.ingestFrame port payload) s = finish s := by
  show execIngestFrame port payload s = _
  simp only [execIngestFrame, bne_iff_ne.2 hport, if_true]

/-- A frame with a wrong header is counted in INGBADHDR, whatever else is wrong with it. -/
theorem exec_ingestFrame_badHeader {payload : List Byte} (hbad : badHeader (payload.take 32) = true) (s : State) :
    exec (.ingestFrame s.host.ingestPort payload) s = finish (s.bump 0x12B) := by
  show execIngestFrame _ payload s = _
  simp only [execIngestFrame, bne_self_eq_false, hbad, Bool.false_eq_true, if_false, if_true]

section GoodHeader
variable {payload : List Byte} {s : State} (hgood : ¬ badHeader (payload.take 32) = true)
include hgood

/-- A frame that ends before its stream's id is whole is counted in INGBADLEN. -/
theorem exec_ingestFrame_noId (hlen : payload.length < 12) :
    exec (.ingestFrame s.host.ingestPort payload) s = finish (s.bump 0x12D) := by
  have hshort : (payload.take 32).length < 12 := by rw [List.length_take]; omega
  show execIngestFrame _ payload s = _
  simp only [execIngestFrame, bne_self_eq_false, hgood, hshort, Bool.false_eq_true, if_false, if_true]

/-- A frame of no active stream is counted in INGNOSTRM, whatever its length. -/
theorem exec_ingestFrame_noStream (hlen : 12 ≤ payload.length)
    (hfound : s.streams.find? (fun x => x.id == BitVec.ofNat 32 (field (payload.take 32) 64 32) && x.active) = none) :
    exec (.ingestFrame s.host.ingestPort payload) s = finish (s.bump 0x12C) := by
  have hid : ¬ (payload.take 32).length < 12 := by rw [List.length_take]; omega
  show execIngestFrame _ payload s = _
  simp only [execIngestFrame, bne_self_eq_false, hgood, hid, hfound, Bool.false_eq_true, if_false]

section Found
variable {x : Stream}
  (hfound : s.streams.find? (fun x => x.id == BitVec.ofNat 32 (field (payload.take 32) 64 32) && x.active) = some x)
include hfound

/-- A frame whose length is not that of its header and its tokens is counted in INGBADLEN. -/
theorem exec_ingestFrame_badLength (hlen : 12 ≤ payload.length)
    (hsize : payload.length ≠ 32 + field (payload.take 32) 144 16 * x.tsize) :
    exec (.ingestFrame s.host.ingestPort payload) s = finish (s.bump 0x12D) := by
  have hid : ¬ (payload.take 32).length < 12 := by rw [List.length_take]; omega
  show execIngestFrame _ payload s = _
  simp only [execIngestFrame, bne_self_eq_false, hgood, hid, hfound, bne_iff_ne.2 hsize, Bool.or_true, Bool.false_eq_true,
    if_false, if_true]

/-- A frame in order is ingested. -/
theorem exec_ingestFrame_inOrder {c : Context} (hsize : payload.length = 32 + field (payload.take 32) 144 16 * x.tsize)
    (hctx : s.ctx? x.ctx = some c) :
    exec (.ingestFrame s.host.ingestPort payload) s = finish (s.ingest x c payload) := by
  have hwhole : (payload.take 32).length = 32 := by rw [List.length_take]; omega
  have hsize : (payload.length != 32 + field (payload.take 32) 144 16 * x.tsize) = false := bne_eq_false_iff_eq.2 hsize
  show execIngestFrame _ payload s = _
  simp only [execIngestFrame, bne_self_eq_false, hgood, hwhole, hfound, hsize, hctx, Nat.lt_irrefl, Nat.reduceLT, decide_false,
    Bool.or_self, Bool.false_eq_true, if_false]

end Found
end GoodHeader

/-! ### A frame in order (R292, R293, R357) -/

section Ingest
variable {s : State} {x : Stream} {c : Context} {payload : List Byte}

/-- A frame that waits for nothing is counted and its tokens are written, and a WAIT stream offers a due tick that they make ready. -/
theorem State.ingest_written (hread : (s.readStamps c x ((frameTokens x payload).map (·.1))).2 = false)
    (hstalls : s.tokenStalls c x ((frameTokens x payload).map (·.1)) = []) :
    s.ingest x c payload =
      let t := State.ingestTokens s c x (frameTokens x payload) []
        ((s.readStamps c x ((frameTokens x payload).map (·.1))).1.bump 0x12A)
      if x.policy = 0 ∧ c.saved = false ∧ x.time x.next ≤ t.now ∧ t.tickReady c x = true then t.offerTick x false else t := by
  simp only [State.ingest, hread, hstalls, List.isEmpty_nil, Bool.not_true, Bool.or_self, Bool.false_eq_true, if_false,
    Bool.and_eq_true, beq_iff_eq, Bool.not_eq_true', decide_eq_true_eq, and_assoc]

/-- A frame that waits for a stamp or for a page marks what it waits for, and comes again. -/
theorem State.ingest_waits (hwaits : (s.readStamps c x ((frameTokens x payload).map (·.1))).2 = true ∨
      s.tokenStalls c x ((frameTokens x payload).map (·.1)) ≠ []) :
    s.ingest x c payload =
      let read := s.readStamps c x ((frameTokens x payload).map (·.1))
      let t := (s.tokenStalls c x ((frameTokens x payload).map (·.1))).foldl
        (fun s n => s.agentWait 4 c (x.slotAt n) x.tsize) (if read.2 then read.1 else s)
      { t with agenda := t.agenda ++ [.ev (.ingestFrame t.host.ingestPort payload)] } := by
  have hwaits : ((s.readStamps c x ((frameTokens x payload).map (·.1))).2 ||
      !(s.tokenStalls c x ((frameTokens x payload).map (·.1))).isEmpty) = true := by simpa using hwaits
  simp only [State.ingest, hwaits, if_true]

end Ingest

/-! ### The tick engine (R294, R295) -/

section Tick
variable {ctx id : Nat} {s : State} {x : Stream} {c : Context} (hstream : s.stream? ctx (BitVec.ofNat 32 id) = some (x, c))
include hstream

/-- A due tick whose stamps are read is offered, under WAIT if it is ready. -/
theorem exec_tickDue_offered (hread : (s.readStamps c x x.tokens).2 = false) (hdue : x.time x.next ≤ s.now)
    (hready : x.policy = 0 → s.tickReady c x = true) :
    exec (.tickDue ctx id) s = finish ((s.readStamps c x x.tokens).1.offerTick x (!s.tickReady c x)) := by
  have hhold : (x.policy == 0 && !s.tickReady c x) = false := by simpa using hready
  show execTickDue ctx id s = _
  simp only [execTickDue, hstream, Nat.not_lt.2 hdue, hread, hhold, Bool.or_self, Bool.false_eq_true, if_false]

/-- A due tick waits for the stamps that stall. -/
theorem exec_tickDue_waits (hread : (s.readStamps c x x.tokens).2 = true) (hdue : x.time x.next ≤ s.now) :
    exec (.tickDue ctx id) s = finish (s.readStamps c x x.tokens).1 := by
  show execTickDue ctx id s = _
  simp only [execTickDue, hstream, Nat.not_lt.2 hdue, hread, Bool.true_or, if_false, if_true]

/-- When its grace is over, a WAIT tick is offered whether or not it is ready. -/
theorem exec_tickGraceExpiry_offered (hread : (s.readStamps c x x.tokens).2 = false) (hpolicy : x.policy = 0)
    (hover : x.time x.next + x.grace ≤ s.now) :
    exec (.tickGraceExpiry ctx id) s = finish ((s.readStamps c x x.tokens).1.offerTick x (!s.tickReady c x)) := by
  have hwait : (x.policy != 0) = false := bne_eq_false_iff_eq.2 hpolicy
  show execTickGraceExpiry ctx id s = _
  simp only [execTickGraceExpiry, hstream, hwait, Nat.not_lt.2 hover, hread, decide_false, Bool.or_self,
    Bool.false_eq_true, if_false]

end Tick

/-- Settles O42: the checks of R291 come in order, a frame that passes them is written or waits, and a due tick is offered or waits. -/
theorem framesAreIngestedAndTicksOffered : Obligations.FramesAreIngestedAndTicksOffered := by
  unfold Obligations.FramesAreIngestedAndTicksOffered
  refine ⟨?other, ?frame, ?tick⟩
  case other =>
    intro port payload s hole hport
    exact (exec_ingestFrame_otherPort hport payload).trans (finish_next hole)
  case frame =>
    intro payload s hole h wrong found
    have hgood (hwrong : ¬ wrong) : ¬ badHeader h = true := fun hbad => hwrong (badHeader_iff.1 hbad)
    refine ⟨fun hwrong => ?_, fun hwrong hlen => ?_, fun hwrong hlen hfound => ?_, fun x hwrong hlen hfound hsize => ?_,
      fun x c hwrong hfound hsize hctx => ⟨fun hread hstalls hole => ?_, fun hwaits hole => ?_⟩⟩
    · exact (exec_ingestFrame_badHeader (badHeader_iff.2 hwrong) s).trans (finish_next hole)
    · exact (exec_ingestFrame_noId (hgood hwrong) hlen).trans (finish_next hole)
    · exact (exec_ingestFrame_noStream (hgood hwrong) hlen hfound).trans (finish_next hole)
    · exact (exec_ingestFrame_badLength (hgood hwrong) hfound hlen hsize).trans (finish_next hole)
    · rw [exec_ingestFrame_inOrder (hgood hwrong) hfound hsize hctx, State.ingest_written hread hstalls]
      exact finish_next hole
    · rw [exec_ingestFrame_inOrder (hgood hwrong) hfound hsize hctx, State.ingest_waits hwaits]
      exact finish_next hole
  case tick =>
    intro ctx id s x c hstream ready read
    refine ⟨fun hread => ⟨fun hdue hready hole => ?_, fun hpolicy hover hole => ?_⟩, fun hread hdue hole => ?_⟩
    · exact (exec_tickDue_offered hstream hread hdue hready).trans (finish_next hole)
    · exact (exec_tickGraceExpiry_offered hstream hread hpolicy hover).trans (finish_next hole)
    · exact (exec_tickDue_waits hstream hread hdue).trans (finish_next hole)

end Sys2Proof.Machine
end

section
/-!
SUPPORT. This device as a peer's target, and what its own requests and lines become (R305 to R307, R317, R380, R381), and O40. A
request or a line is looked up, checked, and then performed, answered, logged or held, so each of these outcomes gets one equation.
-/
namespace Sys2Proof.Machine

/-! ### Requests (R305, R306, R381) -/

@[simp] theorem State.respond_hole (s : State) (peer tag : Nat) (a : PeerAnswer) : (s.respond peer tag a).hole = s.hole := rfl

/-- The access for which a request is checked: an atomic or CAS needs the rights of an atomic (R305). -/
def requestKind (r : PeerRequest) : AccKind :=
  match r.what with
  | .load => .load
  | _ => .atomic

/-- What becomes of a request by what its checks give: performed, answered with a cause, or left to wait. -/
def State.serveChecked (s : State) (c : Context) (r : PeerRequest) : Acc → Option State
  | .stop cause _ _ => some (s.respond r.sender r.tag (.fault cause.code))
  | .wait _ => none
  | .hole a => some { s with hole := some a }
  | .ok ps =>
    if ps.any (fun p => p.leaf.target != .hbm) then some (s.respond r.sender r.tag (.fault Cause.protection.code))
    else some (s.performRequest c r ps)

/-- The request joins those that wait. -/
def State.keepRequest (s : State) (r : PeerRequest) : State := { s with fab := { s.fab with requests := s.fab.requests ++ [r] } }

section Request
variable {r : PeerRequest} {s t : State} {c : Context}

/-- A request that is answered at once. -/
theorem exec_remoteRequest_of_serve (h : s.serve r = some t) (hole : t.hole = none) : exec (.remoteRequest r) s = .next t := by
  show execRemoteRequest r s = _
  rw [execRemoteRequest, h]
  exact finish_next hole

/-- A request that stalls waits. -/
theorem exec_remoteRequest_of_stall (h : s.serve r = none) (hole : s.hole = none) :
    exec (.remoteRequest r) s = .next (s.keepRequest r) := by
  show execRemoteRequest r s = _
  rw [execRemoteRequest, h]
  exact finish_next hole

/-- Without an exported context a request faults, unless its page is in repair for its sender (R317, R381). -/
theorem State.serve_unexported (hexp : s.exportOf r.sender = none) :
    s.serve r = if (s.repairOf 0xFFFF (r.addr.toNat / 4096) r.sender).isSome then none
      else some (s.respond r.sender r.tag (.fault Cause.xlateMiss.code)) := by
  simp only [State.serve, hexp]

/-- A request to a page in repair stalls (R381). -/
theorem State.serve_inRepair (hexp : s.exportOf r.sender = some c)
    (hrep : (s.repairOf c.num (r.addr.toNat / 4096) r.sender).isSome) : s.serve r = none := by
  simp only [State.serve, hexp, hrep, if_true]

/-- Any other request of an exported context is checked (R305). -/
theorem State.serve_exported (hexp : s.exportOf r.sender = some c)
    (hrep : s.repairOf c.num (r.addr.toNat / 4096) r.sender = none) :
    s.serve r = s.serveChecked c r (s.checkRange 0 1002 c (requestKind r) r.addr.toNat r.bytes) := by
  simp only [State.serve, hexp, hrep, Option.isSome_none, Bool.false_eq_true, if_false]
  rfl

/-- A request whose parts all lie in HBM is performed. -/
theorem State.serveChecked_hbm {ps : List Part} (hps : ∀ p ∈ ps, p.leaf.target = .hbm) :
    s.serveChecked c r (.ok ps) = some (s.performRequest c r ps) := by
  have hany : ps.any (fun p => p.leaf.target != .hbm) = false := by simpa using hps
  simp only [State.serveChecked, hany, Bool.false_eq_true, if_false]

/-- A request with a part outside HBM is answered with PROTECTION. -/
theorem State.serveChecked_notHbm {ps : List Part} {p : Part} (hp : p ∈ ps) (hout : p.leaf.target ≠ .hbm) :
    s.serveChecked c r (.ok ps) = some (s.respond r.sender r.tag (.fault Cause.protection.code)) := by
  have hany : ps.any (fun p => p.leaf.target != .hbm) = true := List.any_eq_true.2 ⟨p, hp, bne_iff_ne.2 hout⟩
  simp only [State.serveChecked, hany, if_true]

end Request

/-! ### Store lines (R245, R253, R380, R381) -/

/-- The line joins those that wait in its sender's allowance. -/
def State.keepLine (s : State) (l : PeerLine) : State := { s with fab := { s.fab with lines := s.fab.lines ++ [l] } }

/-- The line is entered in the log with a cause, its page's lines in repair are as given, and it is acknowledged. -/
def State.lineLogged (s : State) (repair : List Repair) (l : PeerLine) (ctx : Nat) (cause : Byte) : State :=
  ({ s with fab := { s.fab with repair := repair } }.postStoreLog (logEntry l ctx cause)).respond l.sender l.tag .ack

/-- What becomes of a line by what its checks give: performed, logged with a cause, or left to wait. -/
def State.takeChecked (s : State) (c : Context) (l : PeerLine) : Acc → Option State
  | .stop cause _ _ => s.logLine c.num l cause.code
  | .wait _ => none
  | .hole a => some { s with hole := some a }
  | .ok ps =>
    match ps with
    | [p] =>
      if p.leaf.target != .hbm then s.logLine c.num l Cause.protection.code
      else some (((s.writeLine p.pa l).targetTouch c true [p]).respond l.sender l.tag .ack)
    | _ => none

section Line
variable {l : PeerLine} {s t : State} {c : Context}

/-- A sender without an exported context has the number of none. -/
theorem exportCtx_of_none {sender : Nat} (h : s.exportOf sender = none) : Claims.exportCtx s sender = 0xFFFF := by
  rw [Claims.exportCtx, h]
  rfl

/-- A sender with an exported context has its number. -/
theorem exportCtx_of_some {sender : Nat} (h : s.exportOf sender = some c) : Claims.exportCtx s sender = c.num := by
  rw [Claims.exportCtx, h]
  rfl

/-- A line to a page of HBM is performed and acknowledged. -/
theorem State.takeChecked_hbm {p : Part} (hhbm : p.leaf.target = .hbm) :
    s.takeChecked c l (.ok [p]) = some (((s.writeLine p.pa l).targetTouch c true [p]).respond l.sender l.tag .ack) := by
  simp only [State.takeChecked, hhbm, bne_self_eq_false, Bool.false_eq_true, if_false]

/-- A line to a page that is not HBM is logged with PROTECTION. -/
theorem State.takeChecked_notHbm {p : Part} (hout : p.leaf.target ≠ .hbm) :
    s.takeChecked c l (.ok [p]) = s.logLine c.num l Cause.protection.code := by
  simp only [State.takeChecked, bne_iff_ne.2 hout, if_true]

/-- A line that is taken at once. -/
theorem exec_remoteStoreLine_of_take (h : s.takeLine s.fab.lines l = some t) (hole : t.hole = none) :
    exec (.remoteStoreLine l) s = .next t := by
  show execRemoteStoreLine l s = _
  rw [execRemoteStoreLine, h]
  exact finish_next hole

/-- A line that is not taken waits. -/
theorem exec_remoteStoreLine_of_wait (h : s.takeLine s.fab.lines l = none) (hole : s.hole = none) :
    exec (.remoteStoreLine l) s = .next (s.keepLine l) := by
  show execRemoteStoreLine l s = _
  rw [execRemoteStoreLine, h]
  exact finish_next hole

/-- The earlier lines of the same exported page are those behind which a line waits. -/
theorem any_samePage_iff : s.fab.lines.any (s.samePage l) = true ↔ Claims.LineBehind s l := by
  simp only [List.any_eq_true, Claims.LineBehind, State.samePage, Bool.and_eq_true, Bool.or_eq_true, beq_iff_eq]
  exact exists_congr fun m => and_congr_right fun _ => and_congr eq_comm (or_congr eq_comm eq_comm)

/-- A line waits behind an earlier one of its page (R245). -/
theorem State.takeLine_behind (h : Claims.LineBehind s l) : s.takeLine s.fab.lines l = none := by
  simp only [State.takeLine, any_samePage_iff.2 h, if_true]

variable (hfirst : ¬ Claims.LineBehind s l)
include hfirst

/-- Without an exported context a line is logged (R317, R381). -/
theorem State.takeLine_unexported (hexp : s.exportOf l.sender = none) :
    s.takeLine s.fab.lines l = s.logLine 0xFFFF l Cause.xlateMiss.code := by
  have hfirst := mt any_samePage_iff.1 hfirst
  simp only [State.takeLine, hfirst, hexp, Bool.false_eq_true, if_false]

/-- A line to a page in repair is logged (R381). -/
theorem State.takeLine_inRepair (hexp : s.exportOf l.sender = some c)
    (hrep : (s.repairOf c.num (l.addr.toNat / 4096) l.sender).isSome) :
    s.takeLine s.fab.lines l = s.logLine c.num l 0 := by
  have hfirst := mt any_samePage_iff.1 hfirst
  simp only [State.takeLine, hfirst, hexp, hrep, Bool.false_eq_true, if_false, if_true]

/-- Any other line of an exported context is checked (R381). -/
theorem State.takeLine_exported (hexp : s.exportOf l.sender = some c)
    (hrep : s.repairOf c.num (l.addr.toNat / 4096) l.sender = none) :
    s.takeLine s.fab.lines l = s.takeChecked c l (s.checkPart 0 1002 c .store l.addr.toNat 128) := by
  have hfirst := mt any_samePage_iff.1 hfirst
  simp only [State.takeLine, hfirst, hexp, hrep, Option.isSome_none, Bool.false_eq_true, if_false]
  rfl

/-- A line to a page in repair, with or without an exported context, is logged. -/
theorem State.takeLine_of_repairOf {r : Repair}
    (hrep : s.repairOf (Claims.exportCtx s l.sender) (l.addr.toNat / 4096) l.sender = some r) :
    ∃ cause, s.takeLine s.fab.lines l = s.logLine (Claims.exportCtx s l.sender) l cause := by
  cases hexp : s.exportOf l.sender with
  | none => exact ⟨_, exportCtx_of_none hexp ▸ State.takeLine_unexported hfirst hexp⟩
  | some c =>
    rw [exportCtx_of_some hexp] at hrep ⊢
    exact ⟨_, State.takeLine_inRepair hfirst hexp (Option.isSome_of_eq_some hrep)⟩

/-- A line that cannot be performed and whose page is not in repair is logged with the cause. -/
theorem State.takeLine_of_lineStops {cause : Byte} (hstops : Claims.lineStops s l cause)
    (hrep : s.repairOf (Claims.exportCtx s l.sender) (l.addr.toNat / 4096) l.sender = none) :
    s.takeLine s.fab.lines l = s.logLine (Claims.exportCtx s l.sender) l cause := by
  obtain ⟨hexp, rfl⟩ | ⟨c, hexp, hstop⟩ := hstops
  · exact exportCtx_of_none hexp ▸ State.takeLine_unexported hfirst hexp
  · rw [exportCtx_of_some hexp] at hrep ⊢
    rw [State.takeLine_exported hfirst hexp hrep]
    obtain ⟨x, a, d, hcheck, rfl⟩ | ⟨p, hcheck, hout, rfl⟩ := hstop
    · rw [hcheck]
      rfl
    · rw [hcheck, State.takeChecked_notHbm hout]

end Line

/-! ### The store log (R380, R381) -/

section Log
variable {l : PeerLine} {s : State} {ctx : Nat}

/-- While the log has no room no line is logged. -/
theorem State.logLine_noRoom (hroom : s.logRoom = false) (cause : Byte) : s.logLine ctx l cause = none := by
  simp only [State.logLine, hroom, Bool.not_false, Bool.true_or, if_true]

/-- The repair entry that a page has for a context is also the entry for its own context's number. -/
theorem State.repairOf_own {page sender : Nat} {r : Repair} (h : s.repairOf ctx page sender = some r) :
    (s.repairOf r.ctx page sender).isSome := by
  have hmem := List.mem_of_find?_eq_some h
  have hpage := List.find?_some h
  simp only [Bool.and_eq_true] at hpage
  exact List.find?_isSome.2 ⟨r, hmem, by simp [hpage.1]⟩

/-- A line to a page in repair is logged behind the page's earlier ones, with no cause. -/
theorem State.logLine_known {r : Repair} (hrep : s.repairOf ctx (l.addr.toNat / 4096) l.sender = some r)
    (hroom : s.logRoom = true) (cause : Byte) :
    s.logLine ctx l cause = some (s.lineLogged (s.fab.repair.map (fun (x : Repair) =>
      if x.ctx == r.ctx && x.page == l.addr.toNat / 4096 then { x with log := x.log ++ [l] } else x)) l r.ctx 0) := by
  simp only [State.logLine, hrep, State.repairOf_own hrep, hroom, Option.map_some, Option.getD_some, Bool.not_true, Bool.false_and,
    Bool.or_self, Bool.false_eq_true, if_false, if_true]
  rfl

section New
variable (hrep : s.repairOf ctx (l.addr.toNat / 4096) l.sender = none)
include hrep

/-- A line to a page that is not in repair takes the page into repair, and is logged with its cause. -/
theorem State.logLine_new (hroom : s.logRoom = true) (hpages : s.fab.repair.length < 64) (cause : Byte) :
    s.logLine ctx l cause =
      some (s.lineLogged (s.fab.repair ++ [{ ctx := ctx, page := l.addr.toNat / 4096, log := [l] }]) l ctx cause) := by
  simp only [State.logLine, hrep, hroom, Nat.not_le.2 hpages, Option.map_none, Option.getD_none, Option.isSome_none, Bool.not_true,
    Bool.not_false, Bool.and_false, decide_false, Bool.or_self, Bool.false_eq_true, if_false]
  rfl

/-- While 64 pages are in repair no other page is taken into repair. -/
theorem State.logLine_noPage (hpages : 64 ≤ s.fab.repair.length) (cause : Byte) : s.logLine ctx l cause = none := by
  simp only [State.logLine, hrep, hpages, Option.map_none, Option.getD_none, Option.isSome_none, Bool.not_false, decide_true,
    Bool.and_self, Bool.or_true, if_true]

end New
end Log

/-! ### Responses and ageing (R304, R306, R307) -/

/-- A response settles what it answers, and what waited goes on. -/
theorem exec_remoteResponse_eq (r : PeerResponse) (s : State) :
    exec (.remoteResponse r) s = finish (Claims.goesOn { s with fab := { s.fab with
      wc := s.fab.wc.filter (fun e => e.tag != some r.tag),
      remote := (s.fab.remote.filter (fun (x : Remote) => x.tag != r.tag || s.awaited x)).map (fun (x : Remote) =>
        if x.tag == r.tag then { x with answer := some r.answer } else x) } }) := rfl

/-- An entry can be sent when its peer is not held, the allowance is there, and no earlier stores of its core to the line are under
way. -/
theorem State.sendable_iff {s : State} {e : WcLine} : s.sendable e = true ↔
    s.heldPeer e.peer = false ∧ s.allowed e.peer false = true ∧
      ¬ ∃ y ∈ s.fab.wc, y.core = e.core ∧ y.peer = e.peer ∧ y.line = e.line ∧ y.tag.isSome := by
  simp only [State.sendable, WcLine.onLine, Bool.and_eq_true, Bool.not_eq_true', and_assoc, ← Bool.not_eq_true, List.any_eq_true,
    beq_iff_eq]

/-- The one entry that has aged is sent if it can be. -/
theorem exec_wcAgeing_eq {core line : Nat} {s : State} {e : WcLine}
    (haged : s.fab.wc.filter (fun e => e.tag == none && (e.core == core && e.line == line &&
      decide (e.since + s.fab.ageing < s.now))) = [e]) :
    exec (.wcAgeing core line) s = finish (if s.sendable e then s.sendLine e else s) := by
  show execWcAgeing core line s = _
  rw [execWcAgeing, State.drainWc, haged]
  rfl

/-- Settles O40: a request or a line meets its page's repair entry or its checks, and these decide what becomes of it. -/
theorem peersAreServed : Obligations.PeersAreServed := by
  unfold Obligations.PeersAreServed
  refine ⟨?performed, ?unexported, ?exported, ?behind, ?written, ?stalled, ?relogged, ?logged, ?response, ?aged⟩
  case performed =>
    intro r s c ps hexp hrep hcheck hhbm hole
    have hcheck : s.checkRange 0 1002 c (requestKind r) r.addr.toNat r.bytes = .ok ps := hcheck
    exact exec_remoteRequest_of_serve (by rw [State.serve_exported hexp hrep, hcheck, State.serveChecked_hbm hhbm]) hole
  case unexported =>
    intro r s hole hexp
    refine ⟨fun hrep => ?_, fun hrep => ?_⟩
    · exact exec_remoteRequest_of_serve (by rw [State.serve_unexported hexp, hrep]; rfl) hole
    · exact exec_remoteRequest_of_stall (by rw [State.serve_unexported hexp, if_pos hrep]) hole
  case exported =>
    intro r s c hole hexp
    refine ⟨fun hwait => ?_, fun x a d hrep hcheck => ?_, fun ps p hrep hcheck hp hout => ?_⟩
    · refine exec_remoteRequest_of_stall ?_ hole
      cases hrep : s.repairOf c.num (r.addr.toNat / 4096) r.sender with
      | some x => exact State.serve_inRepair hexp (Option.isSome_of_eq_some hrep)
      | none =>
        obtain ⟨on, hcheck⟩ : ∃ on, s.checkRange 0 1002 c (requestKind r) r.addr.toNat r.bytes = .wait on :=
          hwait.resolve_left (by simp [hrep])
        rw [State.serve_exported hexp hrep, hcheck]
        rfl
    · have hcheck : s.checkRange 0 1002 c (requestKind r) r.addr.toNat r.bytes = .stop x a d := hcheck
      exact exec_remoteRequest_of_serve (by rw [State.serve_exported hexp hrep, hcheck]; rfl) hole
    · have hcheck : s.checkRange 0 1002 c (requestKind r) r.addr.toNat r.bytes = .ok ps := hcheck
      exact exec_remoteRequest_of_serve (by rw [State.serve_exported hexp hrep, hcheck, State.serveChecked_notHbm hp hout]) hole
  case behind =>
    intro l s hole hbehind
    exact exec_remoteStoreLine_of_wait (State.takeLine_behind hbehind) hole
  case written =>
    intro l s c p hfirst hexp hrep hcheck hhbm t hole
    exact exec_remoteStoreLine_of_take (by rw [State.takeLine_exported hfirst hexp hrep, hcheck, State.takeChecked_hbm hhbm]) hole
  case stalled =>
    intro l s c on hole hfirst hexp hrep hcheck
    exact exec_remoteStoreLine_of_wait (by rw [State.takeLine_exported hfirst hexp hrep, hcheck]; rfl) hole
  case relogged =>
    intro l s r hole hfirst hrep t
    obtain ⟨cause, htake⟩ := State.takeLine_of_repairOf hfirst hrep
    refine ⟨fun hroom hole => ?_, fun hroom => ?_⟩
    · exact exec_remoteStoreLine_of_take (htake.trans (State.logLine_known hrep hroom cause)) hole
    · exact exec_remoteStoreLine_of_wait (htake.trans (State.logLine_noRoom hroom cause)) hole
  case logged =>
    intro l s cause hfirst hstops ctx hrep t
    have htake := State.takeLine_of_lineStops hfirst hstops hrep
    refine ⟨fun hroom hpages hole => ?_, fun hfull hole => exec_remoteStoreLine_of_wait (htake.trans ?_) hole⟩
    · exact exec_remoteStoreLine_of_take (htake.trans (State.logLine_new hrep hroom hpages cause)) hole
    · exact hfull.elim (fun hroom => State.logLine_noRoom hroom cause) (fun hpages => State.logLine_noPage hrep hpages cause)
  case response =>
    intro r s t hole
    exact (exec_remoteResponse_eq r s).trans (finish_next hole)
  case aged =>
    intro core line s e haged sent
    refine ⟨fun hheld hallowed hsent hole => ?_, fun hstays hole => ?_⟩
    · rw [exec_wcAgeing_eq haged, if_pos (State.sendable_iff.2 ⟨hheld, hallowed, hsent⟩)]
      exact finish_next hole
    · have hnot : ¬ s.sendable e = true := fun h => by
        obtain ⟨hheld, hallowed, hsent⟩ := State.sendable_iff.1 h
        rcases hstays with h | h | h
        · simp [hheld] at h
        · simp [hallowed] at h
        · exact hsent h
      rw [exec_wcAgeing_eq haged, if_neg hnot]
      exact finish_next hole

end Sys2Proof.Machine
end

section
/-!
SUPPORT. An uncorrectable error of a tile in a state that has two workgroups of one number (R59, R361), and O48.
-/
namespace Sys2Proof.Machine

/-- A workgroup with the number 0, resident on core 0, which has two tiles from a tile base onwards. -/
def twinWg (base : Nat) : Wg :=
  { Wg.start 0 { ctx := 0, q := 0, num := 0 } placeLaunch 0 0 0 0 (0, 0, 0) false [] with st := .resident, tileBase := base, tiles := 2 }

/-- The machine with two workgroups of that number, whose tile bases differ. -/
def twinState : State := { State.reset with wgs := [twinWg 0, twinWg 1] }

/-- The tags of the second workgroup, where a step goes on. -/
def secondTags : Host.Outcome State Fault Refusal → Option (List (Nat × Tag))
  | .next t => (t.wgs[1]?).map (·.tags)
  | .fault _ => none
  | .refused _ => none

/-- An error in tile 1 of core 0 is one in tile 1 of the workgroup found, the first, and that is the tile whose tag becomes POISON in
every workgroup of its number. -/
theorem tileError_secondTags : secondTags (exec (.uncorrectableError (.tile 0 0 1)) twinState) = some [(1, .poison)] := by
  decide +kernel

/-- Refutes O48: where it gives the state after an error of a tile, `fun g => g.setTag (tile - g.tileBase) .poison` names the tile from
the base of each workgroup that has the number of the one found, and the model from the base of the one found. Nothing in the
statement keeps two workgroups from having one number, and with different bases they end with different tags. -/
theorem not_theHostPortAndErrorsReachTheMachine : ¬ Obligations.TheHostPortAndErrorsReachTheMachine := by
  rintro ⟨-, -, -, -, -, -, -, -, -, -, -, -, -, -, -, htile, -⟩
  have hnext := (htile 0 0 1 twinState (twinWg 0) (by decide +kernel)).1 (by decide +kernel) (by decide +kernel)
  have htags := tileError_secondTags
  rw [hnext] at htags
  exact absurd htags (by decide +kernel)

end Sys2Proof.Machine
end

section
/-!
SUPPORT. Management messages (R314 to R320), and O49. What every message shares is said once: the oldest message is looked at, it is
not turned away, and its operation's answer is the reply (`message_answered`). Then each operation has to be shown to give its answer,
and IMGDONE to boot its image.
-/
namespace Sys2Proof.Machine

/-! ### Messages and replies (R314 to R316, R347) -/

@[simp] theorem State.answer_hole (s : State) (src : Option W32) (r : Nat) : (s.answer src r).hole = s.hole := by
  unfold State.answer
  cases src with
  | none => rfl
  | some q =>
    dsimp only
    split
    · exact State.msix_hole ..
    · rfl

/-- A record of three fields. -/
theorem packFields_three (lo₁ n₁ v₁ lo₂ n₂ v₂ lo₃ n₃ v₃ : Nat) :
    packFields [(lo₁, n₁, v₁), (lo₂, n₂, v₂), (lo₃, n₃, v₃)] =
      v₁ % 2 ^ n₁ * 2 ^ lo₁ + v₂ % 2 ^ n₂ * 2 ^ lo₂ + v₃ % 2 ^ n₃ * 2 ^ lo₃ := by
  simp only [packFields, List.foldl_cons, List.foldl_nil, Nat.zero_add]

/-- A reply in the layout of R347. -/
theorem State.answer_replyOf (s : State) (src : Option W32) (status value extra : Nat) :
    s.answer src (replyOf status value extra) = Claims.replied s src status value extra := by
  rw [replyOf, packFields_three, Nat.pow_zero, Nat.mul_one, show (2 : Nat) ^ 8 = 256 from rfl, Claims.replied]

/-- No parameter after the first n is set (R316). -/
theorem namesOnly_iff {n m : Nat} : namesOnly n m = true ↔ Claims.Only n m := by
  simp only [namesOnly, Claims.Only, List.all_eq_true, List.mem_range, Bool.or_eq_true, decide_eq_true_eq, beq_iff_eq]
  constructor
  · intro h i hn hi
    have := h (i - 1) (by omega)
    rw [Nat.sub_add_cancel (by omega)] at this
    exact this.resolve_left (by omega)
  · intro h i hi
    exact Decidable.or_iff_not_imp_left.2 fun hn => h (i + 1) (by omega) (by omega)

section Message
variable {op m : Nat} {src : Option W32} {s t : State}

/-- An operation that is asked for is not turned away (R314, R384). -/
theorem State.refuses_of_asked (h : Claims.Asked s op src m) : s.refuses op = none := by
  obtain ⟨_, _, _, _, _, hneeds, hversion⟩ := h
  unfold State.refuses
  cases hatt : s.host.attached with
  | none =>
    have hfree : op = 0x60 ∨ op = 0x73 ∨ op = 0x74 := hneeds.resolve_right (by simp [hatt])
    exact if_pos (by simpa [or_assoc] using hfree)
  | some v =>
    refine if_neg fun hlacks => ?_
    simp only [Bool.and_eq_true, beq_iff_eq, decide_eq_true_eq] at hlacks
    obtain ⟨⟨rfl, hlow⟩, hhigh⟩ := hlacks
    exact hversion hlow hhigh hatt

/-- A message that is asked for, with no other parameters set, is answered as its operation says. -/
theorem message_answered {n status v extra : Nat} {f : State → Nat → Ans} (hasked : Claims.Asked s op src m) (honly : Claims.Only n m)
    (hans : f s m = .now t status v extra) (hole : t.hole = none) :
    message op (namesOnly n) f s = .next (Claims.replied t src status v extra) := by
  have hrefuses := State.refuses_of_asked hasked
  obtain ⟨msg, rest, hinbox, rfl, hop, -, -⟩ := hasked
  have hsame : (msg.toNat % 256 != op) = false := bne_eq_false_iff_eq.2 hop
  simp only [message, hinbox, hsame, hrefuses, namesOnly_iff.2 honly, hans, Ans.send, State.answer_replyOf, Bool.false_eq_true, if_false,
    if_true]
  exact finish_next ((State.answer_hole ..).trans hole)

/-- A message about a context that there is. -/
theorem onCtx_of_some {c : Context} (hctx : s.ctx? (msgCtx m) = some c) (f : State → Context → Nat → Ans) :
    onCtx f s m = f s c m := by
  simp only [onCtx, hctx]

/-- A context that is found by its number has it. -/
theorem State.num_of_ctx? {k : Nat} {c : Context} (hctx : s.ctx? k = some c) : c.num = k := beq_iff_eq.1 (List.find?_some hctx :)

end Message

/-! ### Rings (R348, R363, R380) -/

/-- The lengths of a ring that are in order: powers of 2 in a range of exponents. -/
theorem powerIn_iff {n a b : Nat} : powerIn n a b = true ↔ ∃ k, a ≤ k ∧ k ≤ b ∧ n = 2 ^ k := by
  simp only [powerIn, List.any_eq_true, List.mem_range, Bool.and_eq_true, decide_eq_true_eq, beq_iff_eq, Nat.lt_succ_iff]
  exact exists_congr fun k => by rw [and_left_comm]

/-- A ring whose parameters are in order is named. -/
theorem ringMessage_of_fits {align m : Nat} {s : State} (h : Claims.RingFits s align m) (put : State → Nat → State) :
    ringMessage align put s m = .ok (put s m) := by
  obtain ⟨-, hctxs, halign, hlen, hvector⟩ := h
  simp only [ringMessage, hctxs, halign, powerIn_iff.2 hlen, Nat.not_le.2 hvector, List.isEmpty_nil, bne_self_eq_false, Bool.not_true,
    decide_false, Bool.or_self, Bool.false_eq_true, if_false]

/-! ### Contexts stay as they are when errors are found (R362) -/

@[simp] theorem State.ringRecord_ctxs (s : State) (a : Nat) (bs : List Byte) : (s.ringRecord a bs).ctxs = s.ctxs :=
  State.hbmRecord_ctxs s a bs

@[simp] theorem ringDrain_ctxs (slot : Nat) (bss : List (List Byte)) (s : State) (r : Ring) :
    (ringDrain slot bss s r).1.ctxs = s.ctxs := by
  induction bss generalizing s r with
  | nil => rfl
  | cons bs bss ih =>
    unfold ringDrain
    split
    · rw [ih, State.msix_ctxs, State.ringRecord_ctxs]
    · rfl

@[simp] theorem State.notify_ctxs (s : State) (ctx core slot addr sub : Nat) : (s.notify ctx core slot addr sub).ctxs = s.ctxs := by
  unfold State.notify State.postFault
  split
  · rfl
  · exact ringDrain_ctxs ..

/-- Errors that are notified one after another leave the contexts. -/
theorem State.foldl_notify_ctxs (ctx core slot : Nat) (found : List (Nat × Nat)) (s : State) :
    (found.foldl (fun s g => s.notify ctx core slot (16 * g.1) g.2) s).ctxs = s.ctxs := by
  induction found generalizing s with
  | nil => rfl
  | cons g found ih => rw [List.foldl_cons, ih, State.notify_ctxs]

@[simp] theorem State.physUsed_ctxs (s : State) (store : Bool) (a n : Nat) : (s.physUsed store a n).ctxs = s.ctxs := by
  simp only [State.physUsed, State.fillLines, State.bumpBy_ctxs, State.foldl_notify_ctxs]

/-! ### Each operation gives its answer (R317) -/

/-- An operation that is asked for, with its parameters and conditions in order, has its effect and is answered with status 0. -/
def Manages (i : Instr) : Prop :=
  ∀ {op m v : Nat} {src : Option W32} {s t : State}, Claims.Asked s op src m → Claims.manages s m i op t v → t.hole = none →
    exec i s = .next (Claims.replied t src 0 v 0)

theorem manages_attach : Manages .attach := by
  rintro op m v src s t hasked ⟨rfl, honly, hnone, rfl, hone, hlow, rfl⟩ hole
  show execAttach s = _
  unfold execAttach
  refine message_answered hasked honly (if_neg ?_) hole
  simp only [hnone, Option.isSome_none, Bool.false_or, decide_eq_true_eq]
  omega

theorem manages_detach : Manages .detach := by
  rintro op m v src s t hasked ⟨rfl, honly, hctxs, rfl, rfl⟩ hole
  show execDetach s = _
  unfold execDetach
  exact message_answered hasked honly (if_pos (by rw [hctxs]; rfl)) hole

theorem manages_ctxcreate : Manages .ctxcreate := by
  rintro op m v src s t hasked ⟨rfl, honly, hfring, hsring, hslog, hpool, hstate, halign, hhbm, hfree, hfits, rfl⟩ hole
  show execCtxcreate s = _
  unfold execCtxcreate
  have hnamed : s.named4 = true := by simp only [State.named4, hfring, hsring, hslog, hpool, Bool.and_self]
  have hfits : (Context.ofBytes v ((param m 2).testBit 0) (s.hbmRead (param m 1) 64)).fits = true := hfits
  refine message_answered hasked honly ?_ hole
  simp only [hfree, hnamed, hfits, beq_eq_false_iff_ne.2 hstate, halign, Nat.not_lt.2 hhbm, State.physUsed_ctxs, bne_self_eq_false,
    Bool.not_true, Bool.or_self, Bool.false_eq_true, if_false, if_true]
  rfl

theorem manages_ctxdestroy : Manages .ctxdestroy := by
  rintro op m v src s t hasked ⟨rfl, honly, rfl, hctx, hpkts, hwgs, rfl⟩ hole
  show execCtxdestroy s = _
  unfold execCtxdestroy
  obtain ⟨c, hctx⟩ := Option.isSome_iff_exists.1 hctx
  have hpkts : s.pkts.any (fun p => p.key.ctx == msgCtx m && p.launch?.isSome) = false := by
    simpa using hpkts
  have hwgs : s.wgs.any (fun g => g.pkt.ctx == msgCtx m) = false := by simpa using hwgs
  refine message_answered hasked honly ((onCtx_of_some hctx _).trans ?_) hole
  simp only [State.num_of_ctx? hctx, hpkts, hwgs, Bool.or_self, Bool.false_eq_true, if_false]
  rfl

theorem manages_faultring : Manages .faultring := by
  rintro op m v src s t hasked ⟨rfl, hfits, rfl, rfl⟩ hole
  show execFaultring s = _
  unfold execFaultring
  exact message_answered hasked hfits.1 (ringMessage_of_fits hfits _) hole

theorem manages_servring : Manages .servring := by
  rintro op m v src s t hasked ⟨rfl, hfits, rfl, rfl⟩ hole
  show execServring s = _
  unfold execServring
  exact message_answered hasked hfits.1 (ringMessage_of_fits hfits _) hole

theorem manages_storelog : Manages .storelog := by
  rintro op m v src s t hasked ⟨rfl, hfits, rfl, rfl⟩ hole
  show execStorelog s = _
  unfold execStorelog
  exact message_answered hasked hfits.1 (ringMessage_of_fits hfits _) hole

theorem manages_savepool : Manages .savepool := by
  rintro op m v src s t hasked ⟨rfl, honly, hctxs, halign, hsize, rfl, rfl⟩ hole
  show execSavepool s = _
  unfold execSavepool
  refine message_answered hasked honly (if_neg ?_) hole
  simp only [hctxs, halign, List.isEmpty_nil, Bool.not_true, bne_self_eq_false, Bool.or_self, Bool.false_or, decide_eq_true_eq]
  omega

theorem manages_podform : Manages .podform := by
  rintro op m v src s t hasked ⟨rfl, honly, hown, hformed, rfl, rfl⟩ hole
  show execPodform s = _
  unfold execPodform
  refine message_answered hasked honly ((if_neg ?_).trans (if_pos hformed)) hole
  rw [hown]
  exact Bool.false_ne_true

theorem manages_exportCtx : Manages .exportCtx := by
  rintro op m v src s t hasked ⟨rfl, honly, rfl, hcase⟩ hole
  show execExportCtx s = _
  unfold execExportCtx
  obtain ⟨hnone, rfl⟩ | ⟨hsome, hctx, rfl⟩ := hcase
  · exact message_answered hasked honly (if_pos (beq_iff_eq.2 hnone)) hole
  · refine message_answered hasked honly ((if_neg (mt beq_iff_eq.1 hsome)).trans (if_neg ?_)) hole
    rw [Option.isNone_eq_false_iff.2 hctx]
    exact Bool.false_ne_true

theorem manages_bar2base : Manages .bar2base := by
  rintro op m v src s t hasked ⟨rfl, honly, rfl, rfl⟩ hole
  show execBar2base s = _
  unfold execBar2base
  exact message_answered hasked honly rfl hole

theorem manages_hostatomic : Manages .hostatomic := by
  rintro op m v src s t hasked ⟨rfl, honly, rfl, rfl⟩ hole
  show execHostatomic s = _
  unfold execHostatomic
  exact message_answered hasked honly rfl hole

theorem manages_fabparam : Manages .fabparam := by
  rintro op m v src s t hasked ⟨rfl, honly, rfl, hage, rfl⟩ hole
  show execFabparam s = _
  unfold execFabparam
  refine message_answered hasked honly ((if_neg ?_).trans ?_) hole
  · simp only [Bool.and_eq_true, Bool.or_eq_true, bne_iff_ne, decide_eq_true_eq]
    omega
  · simp only [beq_iff_eq]
    rfl

theorem manages_streamparam : Manages .streamparam := by
  rintro op m v src s t hasked ⟨rfl, honly, rfl, rfl⟩ hole
  show execStreamparam s = _
  unfold execStreamparam
  exact message_answered hasked honly rfl hole

theorem manages_powercap : Manages .powercap := by
  rintro op m v src s t hasked ⟨rfl, honly, rfl, hlow, hhigh, rfl⟩ hole
  show execPowercap s = _
  unfold execPowercap
  refine message_answered hasked honly (if_neg ?_) hole
  simp only [Bool.or_eq_true, decide_eq_true_eq]
  omega

theorem manages_powerstate : Manages .powerstate := by
  rintro op m v src s t hasked ⟨rfl, honly, rfl, hcase⟩ hole
  show execPowerstate s = _
  unfold execPowerstate
  obtain ⟨hstandby, hctxs, rfl⟩ | ⟨hrun, rfl⟩ := hcase
  · refine message_answered hasked honly ?_ hole
    simp only [hstandby, hctxs, beq_self_eq_true, List.isEmpty_nil, beq_iff_eq, if_true]
    rfl
  · refine message_answered hasked honly ?_ hole
    simp only [hrun, Nat.reduceBEq, beq_iff_eq, Bool.false_eq_true, if_false, if_true]
    rfl

theorem manages_telemetry : Manages .telemetry := by
  rintro op m v src s t hasked ⟨rfl, honly, rfl, rfl⟩ hole
  show execTelemetry s = _
  unfold execTelemetry
  exact message_answered hasked honly rfl hole

theorem manages_rollback : Manages .rollback := by
  rintro op m v src s t hasked ⟨rfl, honly, rfl, hlow, hhigh, rfl⟩ hole
  show execRollback s = _
  unfold execRollback
  refine message_answered hasked honly (if_neg ?_) hole
  simp only [Bool.or_eq_true, decide_eq_true_eq]
  omega

theorem manages_journalclr : Manages .journalclr := by
  rintro op m v src s t hasked ⟨rfl, honly, rfl, rfl⟩ hole
  show execJournalclr s = _
  unfold execJournalclr
  exact message_answered hasked honly rfl hole

theorem manages_imgpiece : Manages .imgpiece := by
  rintro op m v src s t hasked ⟨rfl, honly, rfl, hsource, hoff, hsize, hleast, hmost, hend, rfl⟩ hole
  show execImgpiece s = _
  unfold execImgpiece
  refine message_answered hasked honly (if_neg ?_) hole
  simp only [Option.isNone_eq_false_iff.2 hsource, hoff, hsize, bne_self_eq_false, Bool.or_eq_true, decide_eq_true_eq,
    Bool.false_eq_true, false_or]
  omega

theorem manages_ctxcsr : Manages .ctxcsr := by
  rintro op m v src s t hasked ⟨rfl, honly, c, d, hctx, hreg, rfl, rfl, rfl⟩ hole
  show execCtxcsr s = _
  unfold execCtxcsr
  refine message_answered hasked honly ((onCtx_of_some hctx _).trans ((if_neg ?_).trans ?_)) hole
  · simp only [Bool.and_eq_true, bne_iff_ne]
    omega
  · simp only [beq_iff_eq]

theorem manages_devcsr : Manages .devcsr := by
  rintro op m v src s t hasked ⟨rfl, honly, hdevice, hassigned, rfl, rfl⟩ hole
  show execDevcsr s = _
  unfold execDevcsr
  refine message_answered hasked honly (if_neg ?_) hole
  simp [hassigned, hdevice]

/-! ### Steps 5 to 8 of start-up (R319, R320, R386) -/

/-- A note changes the journal alone. -/
theorem Boot.note_eq (b : Boot) (step outcome arg : Nat) : ∃ j, b.note step outcome arg = { b with journal := j } := by
  unfold Boot.note
  exact ⟨_, rfl⟩

/-- A source that fails leaves its place to the next one, and after the last start-up waits. -/
theorem Boot.fetch_eq (b : Boot) (left : List Nat) (now : Nat) : ∃ j, b.fetch left now =
    { b with journal := j, left := left, retryAt := if left = [] then some (now + 10000000000) else none } := by
  cases left with
  | nil => exact ⟨b.journal, by simp only [Boot.fetch, if_true]⟩
  | cons x xs =>
    obtain ⟨j, hj⟩ := b.note_eq 4 0 x
    exact ⟨j, by simp only [Boot.fetch, hj, List.cons_ne_nil, if_false]⟩

/-- When every stack and die-to-die link trains, the device is ready. -/
theorem Boot.train_succeeds {b : Boot} (h : b.untrained = 0 ∧ b.part.dies = true) :
    ∃ j, b.train = { b with journal := j, step := 8, ready := true } := by
  have hfails : (b.untrained != 0 || !b.part.dies) = false := by simp [h.1, h.2]
  unfold Boot.train Boot.note
  rw [hfails, if_neg Bool.false_ne_true]
  exact ⟨_, rfl⟩

/-- When one fails to train, the start stops at step 7. -/
theorem Boot.train_fails {b : Boot} (h : ¬ (b.untrained = 0 ∧ b.part.dies = true)) :
    ∃ j, b.train = { b with journal := j, step := 7, stopped := true } := by
  have hfails : (b.untrained != 0 || !b.part.dies) = true := by
    simpa [Decidable.imp_iff_not_or] using h
  unfold Boot.train Boot.note
  rw [if_pos hfails]
  exact ⟨_, rfl⟩

/-- What R320 asks of an image. -/
theorem Boot.accepts_iff {b : Boot} {image : List Byte} :
    b.accepts image = true ↔ Config.xmssValid image = true ∧ b.rollback ≤ Config.imageLevel image := by
  simp only [Boot.accepts, Bool.and_eq_true, decide_eq_true_eq]

/-- The image has come and step 5 begins: two notes. -/
theorem Boot.note_note_eq (b : Boot) (src : Nat) : ∃ j, (b.note 4 1 src).note 5 0 src = { b with journal := j } := by
  obtain ⟨j, hj⟩ := b.note_eq 4 1 src
  obtain ⟨k, hk⟩ := Boot.note_eq { b with journal := j } 5 0 src
  exact ⟨k, by rw [hj, hk]⟩

/-- An image in order passes steps 5 and 6, and the stacks and links are trained. -/
theorem State.bootImage_accepted {s : State} {image : List Byte}
    (hgood : Config.xmssValid image = true ∧ s.boot.rollback ≤ Config.imageLevel image) (src : Nat) :
    ∃ j, s.bootImage src image = { s with boot := Boot.train { s.boot with
      journal := j, fwver := Config.imageVersion image, level := Config.imageLevel image, measure := Config.shake256 image } } := by
  obtain ⟨j, hj⟩ := s.boot.note_note_eq src
  have haccepts : Boot.accepts { s.boot with journal := j } image = true := Boot.accepts_iff.2 hgood
  simp only [State.bootImage, hj, haccepts, if_true]
  unfold Boot.note
  exact ⟨_, rfl⟩

/-- Any other image is rejected, and the next source is tried. -/
theorem State.bootImage_rejected {s : State} {image : List Byte}
    (hbad : ¬ (Config.xmssValid image = true ∧ s.boot.rollback ≤ Config.imageLevel image)) (src : Nat) :
    ∃ j, s.bootImage src image =
      { s with boot := Boot.fetch { s.boot with journal := j } (s.boot.left.filter (· != src)) s.now } := by
  obtain ⟨j, hj⟩ := s.boot.note_note_eq src
  have hrejects : ¬ Boot.accepts { s.boot with journal := j } image = true := mt Boot.accepts_iff.1 hbad
  obtain ⟨k, hk⟩ := Boot.note_eq { s.boot with journal := j } 5 2 src
  exact ⟨k, by simp only [State.bootImage, hj, hrejects, State.sourceFails, hk]; rfl⟩

/-- An image is booted, or leaves its place to the next source. -/
theorem State.bootImage_booted (s : State) (src : Nat) (image : List Byte) :
    ∃ b, s.bootImage src image = { s with boot := b } ∧ Claims.Booted s src image b := by
  refine ⟨(s.bootImage src image).boot, ?_⟩
  by_cases hgood : Config.xmssValid image = true ∧ s.boot.rollback ≤ Config.imageLevel image
  · obtain ⟨j, himage⟩ := State.bootImage_accepted hgood src
    rw [himage, Claims.Booted, if_pos hgood]
    refine ⟨rfl, ?_⟩
    by_cases htrained : (s.boot.part.weak &&& ~~~s.boot.hbmSlow) ||| s.boot.part.dead = 0 ∧ s.boot.part.dies = true
    · obtain ⟨k, htrain⟩ := Boot.train_succeeds (b := { s.boot with
        journal := j, fwver := Config.imageVersion image, level := Config.imageLevel image, measure := Config.shake256 image }) htrained
      rw [htrain]
      exact ⟨by rw [if_pos htrained.symm], fun _ => ⟨rfl, rfl⟩, fun h => absurd htrained h⟩
    · obtain ⟨k, htrain⟩ := Boot.train_fails (b := { s.boot with
        journal := j, fwver := Config.imageVersion image, level := Config.imageLevel image, measure := Config.shake256 image }) htrained
      rw [htrain]
      exact ⟨by rw [if_neg (mt And.symm htrained)], fun h => absurd h htrained, fun _ => ⟨rfl, rfl⟩⟩
  · obtain ⟨j, himage⟩ := State.bootImage_rejected hgood src
    obtain ⟨k, hfetch⟩ := Boot.fetch_eq { s.boot with journal := j } (s.boot.left.filter (· != src)) s.now
    rw [himage, Claims.Booted, if_neg hgood, hfetch]
    exact ⟨rfl, rfl⟩

/-- IMGDONE boots the image that has been sent. -/
theorem exec_imgdone_eq {src : Option W32} {m host : Nat} {s : State} (hasked : Claims.Asked s 0x74 src m) (honly : Claims.Only 1 m)
    (hsource : s.boot.hostSource = some host) (hsize : param m 1 ≤ 2 ^ 26) (hole : s.hole = none) {b : Boot}
    (hboot : s.bootImage host (Memory.read s.boot.image 0 (param m 1)) = { s with boot := b }) :
    exec .imgdone s = .next (Claims.replied { s with boot := b } src
      (if Config.xmssValid (Memory.read s.boot.image 0 (param m 1)) = true ∧
          s.boot.rollback ≤ Config.imageLevel (Memory.read s.boot.image 0 (param m 1)) then 0 else 3) 0 0) := by
  show execImgdone s = _
  unfold execImgdone
  refine message_answered hasked honly ?_ hole
  simp only [hsource, hboot, Nat.not_lt.2 hsize, if_false, Boot.accepts, Bool.and_eq_true, decide_eq_true_eq]
  split <;> rfl

/-- Settles O49: a message that is asked for is answered as its operation says, and each operation says what the statement gives;
IMGDONE boots its image. -/
theorem managementMessagesAreAnswered : Obligations.ManagementMessagesAreAnswered := by
  unfold Obligations.ManagementMessagesAreAnswered
  refine ⟨?manages, ?imgdone⟩
  case manages =>
    intro i op src m v s t hasked hman hole
    cases i with
    | attach => exact manages_attach hasked hman hole
    | detach => exact manages_detach hasked hman hole
    | ctxcreate => exact manages_ctxcreate hasked hman hole
    | ctxdestroy => exact manages_ctxdestroy hasked hman hole
    | faultring => exact manages_faultring hasked hman hole
    | servring => exact manages_servring hasked hman hole
    | storelog => exact manages_storelog hasked hman hole
    | savepool => exact manages_savepool hasked hman hole
    | podform => exact manages_podform hasked hman hole
    | exportCtx => exact manages_exportCtx hasked hman hole
    | bar2base => exact manages_bar2base hasked hman hole
    | hostatomic => exact manages_hostatomic hasked hman hole
    | fabparam => exact manages_fabparam hasked hman hole
    | streamparam => exact manages_streamparam hasked hman hole
    | powercap => exact manages_powercap hasked hman hole
    | powerstate => exact manages_powerstate hasked hman hole
    | telemetry => exact manages_telemetry hasked hman hole
    | rollback => exact manages_rollback hasked hman hole
    | journalclr => exact manages_journalclr hasked hman hole
    | imgpiece => exact manages_imgpiece hasked hman hole
    | ctxcsr => exact manages_ctxcsr hasked hman hole
    | devcsr => exact manages_devcsr hasked hman hole
    | _ => exact hman.elim
  case imgdone =>
    intro src m host s hasked honly hsource hsize hole image good
    obtain ⟨b, hboot, hbooted⟩ := s.bootImage_booted host image
    exact ⟨b, exec_imgdone_eq hasked honly hsource hsize hole hboot, hbooted⟩

end Sys2Proof.Machine
end

section
/-!
SUPPORT. The Gleaner, the sampler and the rings that the device reads (R323 to R326, R348, R381), and O45.
-/
namespace Sys2Proof.Machine

/-! ### The Gleaner (R323, R324) -/

/-- GLCTL keeps the same bits with ONCE set as without (R324). -/
theorem devKeeps_or_once (v : Word) : devKeeps 0x101 (v ||| 1) = devKeeps 0x101 v := by
  have hmask : (1 : Word) &&& 0xFFFFFFFF000F0000 = 0 := by decide
  show (v ||| 1) &&& 0xFFFFFFFF000F0000 = v &&& 0xFFFFFFFF000F0000
  rw [BitVec.and_or_distrib_right, hmask]
  exact BitVec.or_zero

/-- A device register that is written with what it holds stays as it is. -/
theorem State.regs_set_devReg {s : State} {k : Nat} (h : k < s.obs.regs.length) :
    s.obs.regs.set k (s.devReg (0x100 + k)) = s.obs.regs := by
  have hreg : s.devReg (0x100 + k) = s.obs.regs[k] := by
    rw [State.devReg, Nat.add_sub_cancel_left, List.getElem?_eq_getElem h, Option.getD_some]
  rw [hreg, List.set_getElem_self]

/-- GLCTL written as it stands, with ONCE set, makes a sweep and changes nothing else (R324). -/
theorem State.devWrite_once {s : State} (hkept : s.devReg 0x101 = devKeeps 0x101 (s.devReg 0x101)) (hlen : 1 < s.obs.regs.length) :
    s.devWrite 0x101 (s.devReg 0x101 ||| 1) = s.sweep := by
  have honce : (s.devReg 0x101 ||| 1).getLsbD 0 = true := by simp
  have hregs := State.regs_set_devReg hlen
  simp only [State.devWrite, devKeeps_or_once, ← hkept, honce, beq_self_eq_true, if_true, hregs]

/-- The Gleaner writes its slot when a period is over, and skips others that are over too (R324). -/
theorem exec_gleanerSweep_eq {s : State} (hperiod : bitsOf (s.devReg 0x101).toNat 32 32 ≠ 0) (hdue : s.obs.nextSweep ≤ s.time.tb) :
    exec .gleanerSweep s = finish { s.sweep with obs := { s.sweep.obs with
      nextSweep := s.obs.nextSweep + 2200000 * bitsOf (s.devReg 0x101).toNat 32 32 *
        ((s.time.tb - s.obs.nextSweep) / (2200000 * bitsOf (s.devReg 0x101).toNat 32 32) + 1) } } := by
  show execGleanerSweep s = _
  unfold execGleanerSweep
  refine if_neg ?_
  simp only [Bool.or_eq_true, beq_iff_eq, decide_eq_true_eq]
  omega

/-! ### The sampler (R325, R326) -/

/-- SMCTL samples every core or the one that it names, while it has a period (R325). -/
theorem samples_iff {ctl : Word} {core : Nat} : samples ctl core = true ↔
    bitsOf ctl.toNat 32 32 ≠ 0 ∧ (ctl.toNat % 2 = 1 ∨ bitsOf ctl.toNat 1 7 = core) := by
  simp only [samples, Bool.and_eq_true, Bool.or_eq_true, bne_iff_ne, beq_iff_eq]

/-- A sampled core whose period is over is sampled in this clock (R325). -/
theorem exec_samplerSample_eq {core due : Nat} {s : State} (hsampled : samples (s.devReg 0x103) core = true)
    (hat : s.obs.sampleAt[core]? = some due) (hdue : due ≤ s.obs.clocks) :
    exec (.samplerSample core) s = finish { s with obs := { s.obs with
      sampleAt := s.obs.sampleAt.set core (due + bitsOf (s.devReg 0x103).toNat 32 32),
      sampling := s.obs.sampling ++ [core] } } := by
  show execSamplerSample core s = _
  unfold execSamplerSample
  simp only [hat, Option.getD_some, hsampled, Nat.not_lt.2 hdue, Bool.not_true, decide_false, Bool.or_self, Bool.false_eq_true, if_false]

/-- The record of a sampled core is of its next resident warp, at the PC at which it executed in the clock (R325, R326). -/
theorem State.sampleCore_of_nextWarp {core : Nat} {s : State} {g : Wg} {w : Warp}
    (hnext : s.nextWarp core ((s.obs.nextSlot[core]?).getD 0) = some (g, w)) :
    s.sampleCore core = State.postSample
      { s with obs := { s.obs with nextSlot := s.obs.nextSlot.set core ((w.slot + 1) % Config.slotsPerCore) } }
      (((s.executedAt core w.slot).head?.map (·.pc)).getD (w.minPc.getD 0))
      ((s.executedAt core w.slot).foldl (fun m e => m ||| e.lanes) 0) g.launchId core w.slot 0 (majority (s.classes g w)) := by
  simp only [State.sampleCore, hnext]
  cases s.executedAt core w.slot <;> rfl

/-! ### Rings that are read (R348, R381) -/

section Poll
variable {s : State} {x y : Ring}

/-- The fault ring is read, and the records that wait are posted. -/
theorem exec_ringConsumedPoll_fault (hring : s.fring = some x) (hread : (s.physUsed false (x.base + 64 * x.len) 8).fring = some y) :
    exec (.ringConsumedPoll .fault) s = finish
      { ((s.physUsed false (x.base + 64 * x.len) 8).pollRing 64 y).1 with
        fring := some ((s.physUsed false (x.base + 64 * x.len) 8).pollRing 64 y).2 } := by
  show execRingConsumedPoll .fault s = _
  simp only [execRingConsumedPoll, State.readCount, hring, hread]

/-- The service ring is read, and the records that wait are posted. -/
theorem exec_ringConsumedPoll_service (hring : s.sring = some x) (hread : (s.physUsed false (x.base + 64 * x.len) 8).sring = some y) :
    exec (.ringConsumedPoll .service) s = finish
      { ((s.physUsed false (x.base + 64 * x.len) 8).pollRing 64 y).1 with
        sring := some ((s.physUsed false (x.base + 64 * x.len) 8).pollRing 64 y).2 } := by
  show execRingConsumedPoll .service s = _
  simp only [execRingConsumedPoll, State.readCount, hring, hread]

/-- The store log is read, its entries that wait are posted, and the lines that wait for room are taken. -/
theorem exec_ringConsumedPoll_storeLog (hring : s.slog = some x) (hread : (s.physUsed false (x.base + 256 * x.len) 8).slog = some y) :
    exec (.ringConsumedPoll .storeLog) s = finish (State.serveStalled
      { ((s.physUsed false (x.base + 256 * x.len) 8).pollRing 256 y).1 with
        slog := some ((s.physUsed false (x.base + 256 * x.len) 8).pollRing 256 y).2 }) := by
  show execRingConsumedPoll .storeLog s = _
  simp only [execRingConsumedPoll, State.readCount, hring, hread]

end Poll

/-- Settles O45: each of these events meets its condition and has one equation; ONCE writes GLCTL with what it holds. -/
theorem countersAndSamplesAreRecorded : Obligations.CountersAndSamplesAreRecorded := by
  unfold Obligations.CountersAndSamplesAreRecorded
  refine ⟨?sweep, ?once, ?sample, ?record, ?fault, ?service, ?storeLog⟩
  case sweep =>
    intro s period hperiod hdue hole
    exact (exec_gleanerSweep_eq (Nat.ne_zero_of_mul_ne_zero_right hperiod) hdue).trans (finish_next (by simpa only using hole))
  case once =>
    intro s hkept hlen hole
    show finish (s.devWrite 0x101 (s.devReg 0x101 ||| 1)) = _
    rw [State.devWrite_once hkept hlen, finish_next hole]
  case sample =>
    intro core s due ctl period hole hperiod hcore hat hdue
    exact (exec_samplerSample_eq (samples_iff.2 ⟨hperiod, hcore⟩) hat hdue).trans (finish_next hole)
  case record =>
    intro core s g w hnext
    exact State.sampleCore_of_nextWarp hnext
  case fault =>
    intro s x y hring u hread r hole
    exact (exec_ringConsumedPoll_fault hring hread).trans (finish_next hole)
  case service =>
    intro s x y hring u hread r hole
    exact (exec_ringConsumedPoll_service hring hread).trans (finish_next hole)
  case storeLog =>
    intro s x y hring u hread r t hole
    exact (exec_ringConsumedPoll_storeLog hring hread).trans (finish_next hole)

end Sys2Proof.Machine
end

section
/-!
SUPPORT. Power, heat, coolant and idleness (R330 to R334, R376), and O46.
-/
namespace Sys2Proof.Machine

/-! ### Temperature and trips (R332, R376) -/

/-- A reading that does not trip the device: it turns hot above 105 °C and cool again at 100 °C, and a trip ends at 95 °C (R332). -/
def Power.reading (p : Power) (milli : Nat) : Power :=
  Power.paced { p with
    temp := milli, hot := if 105000 < milli then true else if milli ≤ 100000 then false else p.hot,
    tripped := if milli ≤ 95000 then false else p.tripped }

/-- A reading up to 115 °C, or after a trip, changes the power's row alone. -/
theorem exec_junctionTemperature_of_no_trip {die milli : Nat} {s : State} (hcool : 115000 < milli → s.power.tripped = true) :
    exec (.junctionTemperature { die := die, milli := milli }) s = finish { s with power := s.power.reading milli } := by
  have hstays : ¬ (decide (115000 < milli) && !s.power.tripped) = true := by simpa using hcool
  have hhot : (decide (105000 < milli) || (s.power.hot && decide (100000 < milli))) =
      if 105000 < milli then true else if milli ≤ 100000 then false else s.power.hot := by
    by_cases hwarm : 105000 < milli
    · simp [hwarm]
    · by_cases hcold : milli ≤ 100000
      · simp [hwarm, hcold, Nat.not_lt.2 hcold]
      · simp [hwarm, hcold, Nat.lt_of_not_le hcold]
  have htripped : (s.power.tripped && decide (95000 < milli)) = if milli ≤ 95000 then false else s.power.tripped := by
    by_cases hended : milli ≤ 95000
    · simp [hended, Nat.not_lt.2 hended]
    · simp [hended, Nat.lt_of_not_le hended]
  show execJunctionTemperature { die := die, milli := milli } s = _
  unfold execJunctionTemperature
  rw [if_neg hstays, hhot, htripped]
  rfl

/-- A reading above 115 °C trips a device that has not tripped. -/
theorem exec_junctionTemperature_of_trip {die milli : Nat} {s : State} (hhot : 115000 < milli) (hnot : s.power.tripped = false) :
    exec (.junctionTemperature { die := die, milli := milli }) s = finish (s.trip die milli) := by
  show execJunctionTemperature { die := die, milli := milli } s = _
  unfold execJunctionTemperature
  exact if_pos (by simp [hhot, hnot])

/-- A trip above 115 °C trips the device. -/
theorem exec_thermalTrip_eq {die milli : Nat} {s : State} (hhot : 115000 < milli) :
    exec (.thermalTrip die milli) s = finish (s.trip die milli) := if_neg (Nat.not_le.2 hhot)

/-! ### Coolant and idleness (R330, R333) -/

/-- Coolant that runs low under load lowers the cap (R333). -/
theorem exec_coolantFlowLow_of_load {s : State} (hload : s.power.pstate = 0) :
    exec .coolantFlowLow s = finish { s with power := Power.paced { s.power with cap := min s.power.cap 900 } } :=
  if_neg (by simp [hload])

/-- At rest it changes nothing. -/
theorem exec_coolantFlowLow_of_rest {s : State} (hrest : s.power.pstate ≠ 0) : exec .coolantFlowLow s = finish s :=
  if_pos (by simp [hrest])

/-- A device that is seen idle for the first time notes the time (R330). -/
theorem exec_idleEntry_of_first {s : State} (hidle : s.idle = true) (hfirst : s.power.idle = none) :
    exec .idleEntry s = finish { s with power := { s.power with idle := some s.now } } := by
  show execIdleEntry s = _
  simp only [execIdleEntry, hidle, hfirst, Bool.not_true, Bool.false_eq_true, if_false]

/-- One that has been idle for 1 ms enters P1 (R330). -/
theorem exec_idleEntry_of_long {s : State} {t : Nat} (hidle : s.idle = true) (hsince : s.power.idle = some t)
    (hstate : s.power.pstate = 0) (hlong : t + 1000000 ≤ s.now) :
    exec .idleEntry s = finish { s with power := { s.power with pstate := 1 } } := by
  show execIdleEntry s = _
  simp only [execIdleEntry, hidle, hsince, hstate, hlong, Bool.not_true, Bool.false_eq_true, if_false, beq_self_eq_true, decide_true,
    Bool.and_self, if_true]

/-! ### Telemetry (R334) -/

/-- The samples go out when a collector is named, the port is up and a second is over. -/
theorem exec_telemetrySend_eq (s : State) : exec .telemetrySend s = finish (
    if s.host.collector = (0, 0, 0) ∨ s.boot.ported = false ∨ s.now < s.power.sendAt then s
    else { s with power := { s.power with samples := [], sendAt := s.now + 1000000000 } }.emit (.telemetry s.power.samples)) := by
  show execTelemetrySend s = _
  simp only [execTelemetrySend, apply_ite finish, Bool.or_eq_true, beq_iff_eq, Bool.not_eq_true', decide_eq_true_eq, or_assoc]

/-- Settles O46: pacing and the trip are the model's own, and each event has one equation for each way that it goes. -/
theorem powerAndHeatAreManaged : Obligations.PowerAndHeatAreManaged := by
  unfold Obligations.PowerAndHeatAreManaged
  intro paced tripped
  refine ⟨?measure, ?reading, ?trip, ?coolant, ?first, ?long, ?telemetry⟩
  case measure =>
    intro m s hole
    exact finish_next hole
  case reading =>
    intro die milli s hcool hole
    exact (exec_junctionTemperature_of_no_trip hcool).trans (finish_next hole)
  case trip =>
    intro die milli s hhot hole
    have hole : (s.trip die milli).hole = none := hole
    exact ⟨fun hnot => (exec_junctionTemperature_of_trip hhot hnot).trans (finish_next hole),
      (exec_thermalTrip_eq hhot).trans (finish_next hole)⟩
  case coolant =>
    intro s hole
    exact ⟨fun hload => (exec_coolantFlowLow_of_load hload).trans (finish_next hole),
      fun hrest => (exec_coolantFlowLow_of_rest hrest).trans (finish_next hole)⟩
  case first =>
    intro s hole hidle hfirst
    exact (exec_idleEntry_of_first hidle hfirst).trans (finish_next hole)
  case long =>
    intro s t hole hidle hsince hstate hlong
    exact (exec_idleEntry_of_long hidle hsince hstate hlong).trans (finish_next hole)
  case telemetry =>
    intro s hole
    refine ⟨fun hnamed hported hdue => ?_, fun hnot => ?_⟩
    · have hgoes : ¬ (s.host.collector = (0, 0, 0) ∨ s.boot.ported = false ∨ s.now < s.power.sendAt) := by
        rintro (hnone | hoff | hearly)
        · exact hnamed hnone
        · exact Bool.false_ne_true (hoff.symm.trans hported)
        · exact Nat.not_lt.2 hdue hearly
      rw [exec_telemetrySend_eq, if_neg hgoes]
      exact finish_next hole
    · rw [exec_telemetrySend_eq, if_pos hnot]
      exact finish_next hole

end Sys2Proof.Machine
end

section
/-!
SUPPORT. Flits, silence, health and link-up of the channels (R303, R378, R379, R382, R383), and O41. What becomes of a flit is said
once, by its number and its errors, and link-up once, as a change of the channels; each of their cases is then one equation.
-/
namespace Sys2Proof.Machine

/-! ### Flits (R378) -/

/-- Whether a flit is damaged beyond what is corrected (R378). -/
def damaged (f : Flit) : Bool := f.crcBad || decide (32 < f.burst)

theorem damaged_iff {f : Flit} : damaged f = true ↔ f.crcBad = true ∨ 32 < f.burst := by
  simp only [damaged, Bool.or_eq_true, decide_eq_true_eq]

theorem not_damaged {f : Flit} (hcrc : f.crcBad = false) (hburst : f.burst ≤ 32) : damaged f = false := by
  simp only [damaged, hcrc, Nat.not_lt.2 hburst, decide_false, Bool.or_self]

/-- A burst of at most 32 bits in error is corrected, and counted (R378). -/
def State.corrected (s : State) (f : Flit) : State :=
  if f.burst ≠ 0 ∧ f.burst ≤ 32 then Claims.chanTo (s.bump 0x128) f.peer f.plane (fun c => { c with fixed := c.fixed + 1 }) else s

/-- What becomes of a flit, by its number and whether it is damaged (R378): one out of sequence is discarded either way. -/
def State.received (s : State) (f : Flit) (c : Channel) : State :=
  if f.seq ≠ c.expect then
    if c.fails = 0 then s else Claims.chanTo s f.peer f.plane (fun c => { c with replays := c.replays + 1 })
  else if damaged f then
    if 8 ≤ c.fails then Claims.chanTo s f.peer f.plane (fun c => { c with up := false, sendUp := false, fails := 0 })
    else (Claims.chanTo s f.peer f.plane (fun c => { c with fails := c.fails + 1, replays := c.replays + 1 })).emit
      (.replay f.peer f.plane c.expect)
  else (Claims.chanTo s f.peer f.plane (fun c => { c with expect := c.expect + 1, fails := 0 })).bump 0x127

section Flit
variable {f : Flit} {s : State} {c : Channel}

/-- A flit on a channel that is down is lost. -/
theorem exec_flitReceive_of_down (hchan : s.chan? f.peer f.plane = some c) (hdown : c.up = false) :
    exec (.flitReceive f) s = finish s := by
  show execFlitReceive f s = _
  simp only [execFlitReceive, hchan, hdown, Bool.not_false, if_true]

/-- A flit on a channel that is up is corrected where it can be, and then looked at. -/
theorem exec_flitReceive_of_up (hchan : s.chan? f.peer f.plane = some c) (hup : c.up = true) :
    exec (.flitReceive f) s = finish ((s.corrected f).received f c) := by
  have hcorrected : (if (f.burst != 0 && decide (f.burst ≤ 32)) = true then
      (s.bump 0x128).withChans (onChan f.peer f.plane (fun c => { c with fixed := c.fixed + 1 })) else s) = s.corrected f := by
    simp only [Bool.and_eq_true, bne_iff_ne, decide_eq_true_eq]
    rfl
  show execFlitReceive f s = _
  simp only [execFlitReceive, hchan, hup, Bool.not_true, Bool.false_eq_true, if_false, hcorrected, ← apply_ite finish]
  congr 1
  unfold State.received damaged
  by_cases hseq : f.seq = c.expect
  · simp only [hseq, bne_self_eq_false, beq_self_eq_true, Bool.false_eq_true, ne_eq, not_true_eq_false, if_false, if_true]
    rfl
  · simp only [bne_iff_ne.2 hseq, beq_eq_false_iff_ne.2 hseq, hseq, beq_iff_eq, Bool.false_eq_true, ne_eq, not_false_eq_true, if_false,
      if_true, ite_self]
    rfl

/-- A flit out of sequence is discarded; it counts as replayed while a replay is awaited. -/
theorem State.received_of_other (hseq : f.seq ≠ c.expect) : s.received f c =
    if c.fails = 0 then s else Claims.chanTo s f.peer f.plane (fun c => { c with replays := c.replays + 1 }) := if_pos hseq

/-- A damaged flit in sequence is asked for again. -/
theorem State.received_of_damaged (hseq : f.seq = c.expect) (hbad : damaged f = true) (hfails : c.fails < 8) :
    s.received f c = (Claims.chanTo s f.peer f.plane (fun c => { c with fails := c.fails + 1, replays := c.replays + 1 })).emit
      (.replay f.peer f.plane c.expect) :=
  (if_neg (fun hother => hother hseq)).trans ((if_pos hbad).trans (if_neg (Nat.not_le.2 hfails)))

/-- The ninth in a row takes the channel down. -/
theorem State.received_of_ninth (hseq : f.seq = c.expect) (hbad : damaged f = true) (hfails : 8 ≤ c.fails) :
    s.received f c = Claims.chanTo s f.peer f.plane (fun c => { c with up := false, sendUp := false, fails := 0 }) :=
  (if_neg (fun hother => hother hseq)).trans ((if_pos hbad).trans (if_pos hfails))

/-- A flit in sequence without an error is passed on. -/
theorem State.received_of_good (hseq : f.seq = c.expect) (hgood : damaged f = false) :
    s.received f c = (Claims.chanTo s f.peer f.plane (fun c => { c with expect := c.expect + 1, fails := 0 })).bump 0x127 :=
  (if_neg (fun hother => hother hseq)).trans (if_neg (by simp [hgood]))

end Flit

/-- How far a number stands back from the last that was sent, the two being counted modulo 256. -/
theorem seq_back (last seq : Byte) : (last.toNat + 256 - seq.toNat % 256) % 256 = (last - seq).toNat := by
  have := last.isLt
  have := seq.isLt
  rw [BitVec.toNat_sub]
  omega

section Channels
variable {peer plane : Nat} {s : State} {c : Channel}

/-- What the peer asks for is sent again, if the replay buffer holds it (R378). -/
theorem exec_replayRequest_eq {seq : Byte} (hchan : s.chan? peer plane = some c) (hup : c.sendUp = true)
    (hsent : (c.lastSeq - seq).toNat + 1 ≤ c.sent) :
    exec (.replayRequest peer plane seq.toNat) s = finish ((s.bumpBy 0x129 ((c.lastSeq - seq).toNat + 1)).emit
      (.resend peer plane seq ((c.lastSeq - seq).toNat + 1))) := by
  show execReplayRequest peer plane seq.toNat s = _
  simp only [execReplayRequest, hchan, hup, seq_back, Nat.not_lt.2 hsent, BitVec.ofNat_toNat, BitVec.setWidth_eq, Bool.not_true,
    decide_false, Bool.or_self, Bool.false_eq_true, if_false]

/-- Silence takes a channel of a peer that is not held down in both directions (R378, R383). -/
theorem exec_channelSilence_of_known (hheld : s.heldPeer peer = false) (hchan : s.chan? peer plane = some c) :
    exec (.channelSilence peer plane) s =
      finish (Claims.chanTo s peer plane (fun c => { c with up := false, sendUp := false })) := by
  show execChannelSilence peer plane s = _
  simp only [execChannelSilence, hheld, hchan, Option.isNone_some, Bool.false_and, Bool.false_eq_true, if_false]
  rfl

/-- Silence on a channel that a forming pod has asked for: it has failed (log 38). -/
theorem exec_channelSilence_of_forming {m : BitVec 16} (hheld : s.heldPeer peer = false) (hchan : s.chan? peer plane = none)
    (hforming : s.fab.forming = some m) (hpeer : m.getLsbD peer = true) (hplane : plane < 64) :
    exec (.channelSilence peer plane) s =
      finish { s with fab := { s.fab with chans := s.fab.chans ++ [Channel.fresh peer plane 1] } } := by
  show execChannelSilence peer plane s = _
  simp only [execChannelSilence, hheld, hchan, hforming, hpeer, hplane, Option.isNone_none, decide_true, Bool.and_self,
    Bool.false_eq_true, if_false, if_true]

/-- A window's errors lower the health, and below the threshold the channel is retired (R379). -/
theorem exec_healthWindow_eq (hchan : s.chan? peer plane = some c) (hup : c.up = true) (hheld : s.heldPeer peer = false) :
    let h := healthAfter c.health c.fixed c.replays
    let gone := decide (h < s.fab.threshold)
    let u := Claims.chanTo s peer plane (fun c => { c with
      health := h, fixed := 0, replays := 0, retired := c.retired || gone, up := !gone,
      sendUp := c.sendUp && !(gone && decide (c.ver < 3)) })
    exec (.healthWindow peer plane) s = finish (if 3 ≤ c.ver then u.emit (.health peer plane h gone) else u) := by
  show execHealthWindow peer plane s = _
  simp only [execHealthWindow, hchan, hup, hheld, Bool.not_true, Bool.or_self, Bool.false_eq_true, if_false]
  rfl

/-- The flits of a channel that has gone down go over another to the peer, the next in turn (R378, log 77). -/
theorem State.moveFlits_eq {i : Nat} {x : Channel} (hnext : s.fab.nextChan c.peer = some i) (hchan : s.fab.chans[i]? = some x)
    (hsent : c.sent ≠ 0) :
    s.moveFlits c = { s with
      fab := { s.fab with chans := s.fab.chans.modify i (Channel.send c.sent), turn := s.fab.turn + 1 } }.emit
        (.moved c.peer c.plane c.sent x.plane) := by
  simp only [State.moveFlits, hnext, hchan, beq_eq_false_iff_ne.2 hsent, Bool.false_eq_true, if_false]

end Channels

/-! ### Link-up (R303, R383) -/

/-- What link-up makes of a channel. -/
theorem Channel.linked_eq {c : Channel} {peer plane : Nat} (hc : c.peer = peer ∧ c.plane = plane) (ver : Nat) (held : Bool) :
    c.linked ver held = { Channel.fresh peer plane ver with
      up := !c.retired, sendUp := !c.sendRet && !(c.retired && decide (ver < 3)), retired := c.retired, sendRet := c.sendRet,
      health := if c.dark = true ∨ c.retired = true ∨ held = true then c.health else 1023 } := by
  obtain ⟨rfl, rfl⟩ := hc
  simp only [Channel.linked, Bool.or_eq_true, or_assoc]

/-- A peer that is not held has not to relock. -/
theorem State.relock_of_not_held {s : State} {p : Nat} (hheld : s.heldPeer p = false) : s.relock p = s := by
  unfold State.relock
  split
  · rfl
  · rw [hheld, Bool.false_and, Bool.false_and, if_neg Bool.false_ne_true]

/-- A held and kept peer that is reachable again has relocked (R383, R391). -/
theorem State.relock_of_back {s : State} {p : Nat} {w : PodWait} (hwait : s.fab.podWait = some w) (hheld : s.heldPeer p = true)
    (hkept : w.keep.getLsbD p = true) (hback : s.reachable p = true) :
    s.relock p = { s with fab := { s.fab with
      held := s.fab.held &&& ~~~(BitVec.ofNat 16 (2 ^ p)),
      podWait := some { w with done := w.done ||| BitVec.ofNat 16 (2 ^ p) },
      wc := s.fab.wc.map (fun e => if e.peer == p then { e with since := s.now - e.since } else e) } } := by
  simp only [State.relock, hwait, hheld, hkept, hback, Bool.and_self, if_true]

/-- A change of a channel that is not there changes none. -/
theorem State.map_onChan_of_none {s : State} {peer plane : Nat} (hnone : s.chan? peer plane = none) (f : Channel → Channel) :
    s.fab.chans.map (onChan peer plane f) = s.fab.chans := by
  refine (List.map_congr_left fun c hc => ?_).trans s.fab.chans.map_id
  exact if_neg (List.find?_eq_none.1 hnone c hc)

/-- The channels after link-up: a channel that was not there has come, and the channel is linked (R303). -/
def State.linkedUp (s : State) (l : LinkFrame) : State :=
  let chans := if (s.chan? l.peer l.plane).isSome then s.fab.chans
    else s.fab.chans ++ [Channel.fresh l.peer l.plane (min 3 l.verHi)]
  { s with fab := { s.fab with
    chans := chans.map (onChan l.peer l.plane (fun c => c.linked (min 3 l.verHi) (s.heldPeer l.peer))) } }

@[simp] theorem State.linkedUp_heldPeer (s : State) (l : LinkFrame) (p : Nat) : (s.linkedUp l).heldPeer p = s.heldPeer p := rfl

section LinkUp
variable {l : LinkFrame} {s : State}

/-- Link-up with a peer of the pod in a common version, with the optics lit (R303, R330). -/
theorem exec_linkUp_eq (hlit : s.power.pstate ≠ 2) (hpod : l.podId = s.fab.podId) (hhigh : 1 ≤ l.verHi) (hlow : l.verLo ≤ min 3 l.verHi)
    (hmember : s.fab.members.getLsbD l.peer = true) (hother : l.peer ≠ s.fab.index) (hplane : l.plane < 64) :
    exec (.linkUp l) s = finish (Claims.goesOn ((s.linkedUp l).relock l.peer)) := by
  have hcommon : ¬ min 3 l.verHi < max 1 l.verLo := by omega
  show execLinkUp l s = _
  simp only [execLinkUp, hpod, hcommon, hmember, beq_eq_false_iff_ne.2 hother, Nat.not_le.2 hplane, beq_eq_false_iff_ne.2 hlit,
    bne_self_eq_false, decide_false, Bool.not_true, Bool.or_self, Bool.false_eq_true, if_false]
  rfl

/-- A channel that is new comes up in both directions with the full score. -/
theorem State.linkedUp_of_new (hheld : s.heldPeer l.peer = false) (hnone : s.chan? l.peer l.plane = none) :
    s.linkedUp l = { s with fab := { s.fab with
      chans := s.fab.chans ++ [{ Channel.fresh l.peer l.plane (min 3 l.verHi) with up := true, sendUp := true }] } } := by
  have hnew : onChan l.peer l.plane (fun c => c.linked (min 3 l.verHi) (s.heldPeer l.peer))
      (Channel.fresh l.peer l.plane (min 3 l.verHi)) =
        { Channel.fresh l.peer l.plane (min 3 l.verHi) with up := true, sendUp := true } := by
    rw [hheld]
    simp [onChan, Channel.linked, Channel.fresh]
  simp only [State.linkedUp, hnone, Option.isSome_none, Bool.false_eq_true, if_false, List.map_append, State.map_onChan_of_none hnone,
    List.map_cons, List.map_nil, hnew]

/-- A channel that is there is linked where it stands. -/
theorem State.linkedUp_of_known {c : Channel} (hchan : s.chan? l.peer l.plane = some c) :
    s.linkedUp l = { s with fab := { s.fab with chans := s.fab.chans.map (fun c =>
      if c.peer = l.peer ∧ c.plane = l.plane then { Channel.fresh l.peer l.plane (min 3 l.verHi) with
        up := !c.retired, sendUp := !c.sendRet && !(c.retired && decide (min 3 l.verHi < 3)), retired := c.retired, sendRet := c.sendRet,
        health := if c.dark = true ∨ c.retired = true ∨ s.heldPeer l.peer = true then c.health else 1023 } else c) } } := by
  have hlinked : ∀ c : Channel, onChan l.peer l.plane (fun c => c.linked (min 3 l.verHi) (s.heldPeer l.peer)) c =
      if c.peer = l.peer ∧ c.plane = l.plane then { Channel.fresh l.peer l.plane (min 3 l.verHi) with
        up := !c.retired, sendUp := !c.sendRet && !(c.retired && decide (min 3 l.verHi < 3)), retired := c.retired, sendRet := c.sendRet,
        health := if c.dark = true ∨ c.retired = true ∨ s.heldPeer l.peer = true then c.health else 1023 } else c := by
    intro c
    simp only [onChan, Bool.and_eq_true, beq_iff_eq]
    split
    · next hc => exact Channel.linked_eq hc ..
    · rfl
  simp only [State.linkedUp, hchan, Option.isSome_some, if_true, funext hlinked]

end LinkUp

/-- Settles O41: a flit is corrected and then received, link-up links the channel and lets its peer relock, and the other events have
one equation each. -/
theorem channelsCarryFlitsAndFail : Obligations.ChannelsCarryFlitsAndFail := by
  unfold Obligations.ChannelsCarryFlitsAndFail
  refine ⟨?down, ?flit, ?replay, ?silence, ?forming, ?window, ?report, ?move, ?link, ?relock, ?dark⟩
  case down =>
    intro f s c hole hchan hdown
    exact (exec_flitReceive_of_down hchan hdown).trans (finish_next hole)
  case flit =>
    intro f s c hchan hup u
    have hexec : exec (.flitReceive f) s = finish (u.received f c) := exec_flitReceive_of_up hchan hup
    refine ⟨?good, ?early, ?damaged, ?ninth, ?damagedEarly⟩
    case good =>
      intro hcrc hburst hseq t hole
      rw [hexec, State.received_of_good hseq (not_damaged hcrc hburst)]
      exact finish_next hole
    case early =>
      intro hcrc hburst hseq t hole
      rw [hexec, State.received_of_other hseq]
      exact finish_next hole
    case damaged =>
      intro hbad hseq hfails t hole
      rw [hexec, State.received_of_damaged hseq (damaged_iff.2 hbad) hfails]
      exact finish_next hole
    case ninth =>
      intro hbad hseq hfails t hole
      rw [hexec, State.received_of_ninth hseq (damaged_iff.2 hbad) hfails]
      exact finish_next hole
    case damagedEarly =>
      intro hbad hseq t hole
      rw [hexec, State.received_of_other hseq]
      exact finish_next hole
  case replay =>
    intro peer plane seq s c hole hchan hup hsent
    exact (exec_replayRequest_eq hchan hup hsent).trans (finish_next (by simpa using hole))
  case silence =>
    intro peer plane s c hheld hchan t hole
    exact (exec_channelSilence_of_known hheld hchan).trans (finish_next hole)
  case forming =>
    intro peer plane s m hole hheld hchan hforming hpeer hplane
    exact (exec_channelSilence_of_forming hheld hchan hforming hpeer hplane).trans (finish_next hole)
  case window =>
    intro peer plane s c hchan hup hheld h gone u t hole
    exact (exec_healthWindow_eq hchan hup hheld).trans (finish_next hole)
  case report =>
    intro r s t hole
    exact (apply_ite finish ..).symm.trans (finish_next hole)
  case move =>
    intro c s i x hnext hchan hsent
    exact State.moveFlits_eq hnext hchan hsent
  case link =>
    intro l s hlit hpod hhigh hlow hmember hother hplane ver up
    have hexec := exec_linkUp_eq hlit hpod hhigh hlow hmember hother hplane
    refine ⟨?new, ?known⟩
    case new =>
      intro hheld hnone t hole
      rw [hexec, State.relock_of_not_held ((State.linkedUp_heldPeer ..).trans hheld), State.linkedUp_of_new hheld hnone]
      exact finish_next hole
    case known =>
      intro c hchan t r hole
      have hr : r = Claims.goesOn ((s.linkedUp l).relock l.peer) := by
        by_cases hheld : s.heldPeer l.peer = true
        · rw [State.linkedUp_of_known hchan]
          exact congrArg Claims.goesOn (if_pos hheld)
        · rw [State.relock_of_not_held ((State.linkedUp_heldPeer ..).trans (Bool.eq_false_iff.2 hheld)),
            State.linkedUp_of_known hchan]
          exact congrArg Claims.goesOn (if_neg hheld)
      rw [hexec, ← hr]
      exact finish_next hole
  case relock =>
    intro p s w hwait hheld hkept hback
    exact State.relock_of_back hwait hheld hkept hback
  case dark =>
    intro s w hwait t hole
    show execDarkLimitExpiry s = _
    simp only [execDarkLimitExpiry, hwait]
    exact finish_next hole

end Sys2Proof.Machine
end

section
/-!
SUPPORT. Messages of the driver and of the debugger (R316, R327, R347, R351, R355, R366, R372, R375, R381, R383, R384, R389), and O50.
What they share is said once: a message that is asked for is answered by its operation (`message_now`), which has looked up the lanes,
the register, the context, the held operation, the channel or the page that the message names. Then each operation has to be shown to
give its answer.
-/
namespace Sys2Proof.Machine

/-! ### Messages (R316, R347) -/

section Message
variable {op m : Nat} {src : Option W32} {s t : State} {frame : Nat → Bool} {f : State → Nat → Ans}

/-- A message that is asked for, in its operation's frame, gets what the operation answers. -/
theorem message_send (hasked : Claims.Asked s op src m) (hframe : frame m = true) :
    message op frame f s = finish ((f s m).send src) := by
  have hrefuses := State.refuses_of_asked hasked
  obtain ⟨msg, rest, hinbox, rfl, hop, -, -⟩ := hasked
  have hsame : (msg.toNat % 256 != op) = false := bne_eq_false_iff_eq.2 hop
  simp only [message, hinbox, hsame, hrefuses, hframe, Bool.false_eq_true, if_false, if_true]

/-- One that has its effect at once is answered with status 0. -/
theorem message_now {v e : Nat} (hasked : Claims.Asked s op src m) (hframe : frame m = true) (hans : f s m = .now t 0 v e)
    (hole : t.hole = none) : message op frame f s = .next (Claims.replied t src 0 v e) := by
  rw [message_send hasked hframe, hans, Ans.send, State.answer_replyOf]
  exact finish_next ((State.answer_hole ..).trans hole)

/-- CORE, WARP, LANES and REG of a message are 0. -/
theorem noLaneFields_of_noLanes (h : Claims.NoLanes m) : noLaneFields m = true := by
  obtain ⟨hwarp, hcore, hreg, hlanes⟩ := h
  have hlanes : param m 6 = 0 := hlanes
  simp only [noLaneFields, msgCore, msgWarp, msgReg, hwarp, hcore, hreg, hlanes, beq_self_eq_true, Bool.and_self]

end Message

/-! ### Lanes that a message names (R347) -/

/-- A lane that is parked with a record has it. -/
theorem Lane.park?_of_parked {l : Lane} {p : Park} (h : l.st = .parked p) : l.park? = some p := by
  simp only [Lane.park?, h]

section Lanes
variable {m : Nat} {s : State} {x : Target}

/-- A message about lanes that are there. -/
theorem onLanes_of_target (htarget : s.target m = some x) (f : State → Target → Nat → Ans) : onLanes f s m = f s x m := by
  simp only [onLanes, htarget]

/-- A message about lanes that hold records of a KIND that it takes. -/
theorem onRecords_of_records {kind : Nat → Prop} {ok : Park → Nat → Bool} (htarget : s.target m = some x)
    (hrecords : Claims.Records x kind) (hok : ∀ p : Park, kind p.kind → ok p m = true) (f : State → Target → Nat → State) :
    onRecords ok f s m = .ok (f s x m) := by
  obtain ⟨-, hrecords⟩ := hrecords
  refine (onLanes_of_target htarget _).trans ((if_neg ?_).trans (if_neg ?_))
  · rw [Bool.not_eq_true, List.any_eq_false]
    intro l hl
    obtain ⟨p, hp, -⟩ := hrecords l hl
    simp [Lane.isParked, Lane.park?_of_parked hp]
  · rw [Bool.not_eq_true, List.any_eq_false]
    intro l hl
    obtain ⟨p, hp, hkind⟩ := hrecords l hl
    simp [Lane.park?_of_parked hp, hok p hkind]

/-! ### Registers that a message names (R347) -/

/-- A message about a register that the lanes or the warp have, with the lanes parked as it needs. -/
theorem onReg_of_named {r : RegName} (htarget : s.target m = some x) (hreg : RegName.ofNat (msgReg m) = some r)
    (hparked : (if r.perLane then x.lanes.all Lane.isParked else x.lanes.any Lane.isParked) = true) (hwithin : r.within x.w = true)
    (f : State → Target → RegName → Nat → Ans) : onReg f s m = f s x r m := by
  refine (onLanes_of_target htarget _).trans ?_
  simp only [hreg, hparked, hwithin, Bool.not_true, Bool.false_eq_true, if_false]

/-- A vector register of lanes that are all parked. -/
theorem onReg_lane (htarget : s.target m = some x) (hreg : msgReg m < 0x100) (hparked : ∀ y ∈ x.lanes, y.isParked = true)
    (hlen : ∀ y ∈ x.w.lanes, msgReg m < y.v.length) (f : State → Target → RegName → Nat → Ans) :
    onReg f s m = f s x (.lane (msgReg m)) m :=
  onReg_of_named (r := .lane (msgReg m)) htarget (if_pos hreg) (List.all_eq_true.2 hparked)
    (List.all_eq_true.2 fun y hy => decide_eq_true (hlen y hy)) f

/-- A scalar register of a warp of which a lane is parked. -/
theorem onReg_scalar (htarget : s.target m = some x) (hlow : 0x100 ≤ msgReg m) (hhigh : msgReg m < 0x140)
    (hparked : ∃ y ∈ x.lanes, y.isParked = true) (hlen : msgReg m - 0x100 < x.w.s.length)
    (f : State → Target → RegName → Nat → Ans) : onReg f s m = f s x (.scalar (msgReg m - 0x100)) m :=
  onReg_of_named (r := .scalar (msgReg m - 0x100)) htarget ((if_neg (Nat.not_lt.2 hlow)).trans (if_pos hhigh))
    (List.any_eq_true.2 hparked) (decide_eq_true hlen) f

/-- The predicates of lanes that are all parked. -/
theorem onReg_preds (htarget : s.target m = some x) (hreg : msgReg m = 0x140) (hparked : ∀ y ∈ x.lanes, y.isParked = true)
    (f : State → Target → RegName → Nat → Ans) : onReg f s m = f s x .preds m :=
  onReg_of_named (r := .preds) htarget (by rw [hreg]; rfl) (List.all_eq_true.2 hparked) rfl f

/-- A system register: one that each lane has, with all of them parked, or another, with one of them parked. -/
theorem onReg_csr {n : Nat} (htarget : s.target m = some x) (hlow : 0x1000 ≤ msgReg m) (hn : msgReg m - 0x1000 = n)
    (hassigned : csrAssigned n = true)
    (hparked : if csrPerLane n then ∀ y ∈ x.lanes, y.isParked = true else ∃ y ∈ x.lanes, y.isParked = true)
    (f : State → Target → RegName → Nat → Ans) : onReg f s m = f s x (.csr n) m := by
  refine onReg_of_named htarget ?_ ?_ rfl f
  · have hlane : ¬ msgReg m < 0x100 := by omega
    have hscalar : ¬ msgReg m < 0x140 := by omega
    have hpreds : (msgReg m == 0x140) = false := by
      rw [beq_eq_false_iff_ne]
      omega
    simp only [RegName.ofNat, hlane, hscalar, hpreds, hlow, hn, hassigned, decide_true, Bool.and_self, Bool.false_eq_true, if_false,
      if_true]
  · simp only [RegName.perLane, ← List.all_eq_true, ← List.any_eq_true] at hparked ⊢
    split at hparked
    · next hlane => exact (if_pos hlane).trans hparked
    · next hlane => exact (if_neg hlane).trans hparked

end Lanes

/-! ### What the driver and the debugger do to lanes (R327, R347, R351) -/

/-- An operation on lanes that is asked for, with its conditions in order, has its effect and is answered with status 0. -/
def Steers (i : Instr) : Prop :=
  ∀ {op m v e : Nat} {src : Option W32} {s t : State}, Claims.Asked s op src m → Claims.steers s m i op t v e → t.hole = none →
    exec i s = .next (Claims.replied t src 0 v e)

theorem steers_resume : Steers .resume := by
  rintro op m v e src s t hasked ⟨rfl, rfl, rfl, x, htarget, hrecords, rfl⟩ hole
  show execResume s = _
  unfold execResume
  exact message_now hasked rfl (onRecords_of_records htarget hrecords (fun _ hkind => by simpa using hkind) _) hole

/-- A redirected lane stays in its clause only if that holds the record's PC (R347). -/
theorem Lane.redirect_eq (l : Lane) (pc : Word) : l.redirect pc = { l.goOn with
    pc := pc, clause := if l.park?.any (fun p => (l.place p.pc).isSome) then l.clause else none,
    dbg := { l.goOn.dbg with passed := false } } := by
  unfold Lane.redirect
  cases l.park? <;> rfl

theorem steers_redirect : Steers .redirect := by
  rintro op m v e src s t hasked ⟨rfl, rfl, rfl, x, htarget, hrecords, halign, hlow, rfl⟩ hole
  have hfits : (param m 7 % 8 == 0 && decide (param m 7 < 2 ^ 48)) = true := by
    simp only [halign, hlow, beq_self_eq_true, decide_true, Bool.and_self]
  show execRedirect s = _
  unfold execRedirect
  simp only [← Lane.redirect_eq] at hole ⊢
  exact message_now hasked rfl (onRecords_of_records htarget hrecords (fun _ _ => hfits) _) hole

theorem steers_kill : Steers .kill := by
  rintro op m v e src s t hasked ⟨rfl, rfl, rfl, x, htarget, hparked, rfl⟩ hole
  show execKill s = _
  unfold execKill
  refine message_now hasked rfl ((onLanes_of_target htarget _).trans (if_neg ?_)) hole
  simpa using hparked

theorem steers_read : Steers .read := by
  rintro op m v e src s t hasked ⟨rfl, rfl, x, l, rest, htarget, hlanes, hcase⟩ hole
  show execRead _ = _
  unfold execRead
  rcases hcase with ⟨hreg, hparked, hlen, y, hy, rfl, rfl⟩ | ⟨hlow, hhigh, hparked, y, hy, rfl, rfl⟩ | ⟨hreg, hparked, rfl, rfl⟩ |
    hcsr
  · refine message_now hasked rfl ((onReg_lane htarget hreg hparked hlen _).trans ?_) hole
    have hy : l.v[msgReg m]? = some y := hy
    simp only [hlanes, hy, Option.getD_some]
  · have hy : x.w.s[msgReg m - 0x100]? = some y := hy
    have hlen := (List.getElem?_eq_some_iff.1 hy).1
    refine message_now hasked rfl ((onReg_scalar htarget hlow hhigh hparked hlen _).trans ?_) hole
    simp only [hlanes, hy, Option.getD_some]
  · refine message_now hasked rfl ((onReg_preds htarget hreg hparked _).trans ?_) hole
    simp only [hlanes]
  · generalize hn : bitsOf m 368 16 - 0x1000 = n at hcsr
    obtain ⟨hlow, hassigned, hparked, rfl, rfl⟩ := hcsr
    refine message_now hasked rfl ((onReg_csr htarget hlow hn hassigned hparked _).trans ?_) hole
    simp only [hlanes, Bool.toNat_false, Nat.zero_mul]

theorem steers_write : Steers .write := by
  rintro op m v e src s t hasked ⟨rfl, rfl, rfl, x, htarget, hcase⟩ hole
  show execWrite s = _
  unfold execWrite
  rcases hcase with ⟨hreg, hparked, hlen, rfl⟩ | ⟨hlow, hhigh, hparked, hlen, rfl⟩ | ⟨hreg, hparked, rfl⟩ | hcsr
  · exact message_now hasked rfl (onReg_lane htarget hreg hparked hlen _) hole
  · exact message_now hasked rfl (onReg_scalar htarget hlow hhigh hparked hlen _) hole
  · exact message_now hasked rfl (onReg_preds htarget hreg hparked _) hole
  · generalize hn : bitsOf m 368 16 - 0x1000 = n at hcsr
    obtain ⟨hlow, hassigned, hparked, htakes, rfl⟩ := hcsr
    refine message_now hasked rfl ((onReg_csr htarget hlow hn hassigned hparked _).trans (if_neg ?_)) hole
    exact Bool.eq_false_iff.1 htakes

/-- HALT on the lanes of a target: those that a condition picks park at once, and of the others those that are alive and hold no record
stop later (R351). -/
def State.haltTarget (s : State) (x : Target) (parks : Nat × Lane → Bool) : State :=
  let named := x.ls.filterMap (fun l => (x.w.lanes[l]?).map (fun y => (l, y)))
  let now := if x.w.sleep.isSome then [] else named.filter parks
  let later := named.filter (fun y => y.2.live && y.2.park?.isNone && !now.any (fun z => z.1 == y.1))
  (s.mapWarp x.g.wid x.k (fun w => w.mapLanes (later.map (·.1)) (fun y => { y with dbg := { y.dbg with halt := some 1 } }))).debugPark
    x.g.wid x.k (now.map (fun y => (y.1, y.2.pc, 1)))

theorem steers_halt : Steers .halt := by
  rintro op m v e src s t hasked ⟨rfl, rfl, rfl, x, htarget, ht⟩ hole
  have ht : t = s.haltTarget x (fun y => y.2.haltsNow) := by
    refine ht.trans (congrArg (s.haltTarget x) (funext fun y => ?_))
    unfold Lane.haltsNow
    cases y.2.wait with
    | none => rfl
    | some z =>
      obtain ⟨on, since, asleep⟩ := z
      cases on <;> rfl
  show execHalt s = _
  unfold execHalt
  subst ht
  exact message_now hasked rfl (onLanes_of_target htarget _) hole

theorem steers_step : Steers .step := by
  rintro op m v e src s t hasked ⟨rfl, rfl, rfl, x, htarget, hlanes, rfl⟩ hole
  show execStep s = _
  unfold execStep
  refine message_now hasked rfl ((onLanes_of_target htarget _).trans ((if_neg ?_).trans (if_neg ?_))) hole
  · rw [Bool.not_eq_true, List.any_eq_false]
    intro l hl
    obtain ⟨hlive, -, -, -⟩ := hlanes l hl
    simp [hlive]
  · rw [Bool.not_eq_true, List.any_eq_false]
    intro l hl
    obtain ⟨-, hjoin, hexcl, hkind⟩ := hlanes l hl
    have hkind : l.park?.any (fun p => p.kind == 0) = false := by
      cases hpark : l.park? with
      | none => rfl
      | some p => simpa using hkind p hpark
    simp [hjoin, hexcl, hkind]

theorem steers_resumeDbg : Steers .resumeDbg := by
  rintro op m v e src s t hasked ⟨rfl, rfl, rfl, x, htarget, hrecords, rfl⟩ hole
  show execResumeDbg s = _
  unfold execResumeDbg
  exact message_now hasked rfl (onRecords_of_records htarget hrecords (fun _ hkind => by simpa using hkind) _) hole

theorem steers_trace : Steers .trace := by
  rintro op m v e src s t hasked ⟨rfl, rfl, rfl, x, htarget, rfl⟩ hole
  show execTrace s = _
  unfold execTrace
  exact message_now hasked rfl (onLanes_of_target htarget _) hole

theorem steers_breakpoint : Steers .breakpoint := by
  rintro op m v e src s t hasked ⟨rfl, rfl, rfl, hcase⟩ hole
  show execBreakpoint s = _
  unfold execBreakpoint
  rcases hcase with ⟨hclear, hctx, rfl⟩ | ⟨hset, x, htarget, rfl⟩
  · obtain ⟨c, hctx⟩ := Option.isSome_iff_exists.1 hctx
    exact message_now hasked rfl ((if_pos (beq_iff_eq.2 hclear)).trans (onCtx_of_some hctx _)) hole
  · exact message_now hasked rfl ((if_neg (mt beq_iff_eq.1 hset)).trans (onLanes_of_target htarget _)) hole

/-! ### What else a message names (R366, R381, R384) -/

section Named
variable {m : Nat} {s : State}

/-- A message about a held operation that there is. -/
theorem onHeld_of_held {o : Op} (hctx : (s.ctx? (msgCtx m)).isSome) (hcore : msgCore m < Config.cores)
    (hheld : s.heldOp (msgCtx m) (msgCore m) (param m 7) = some o) (f : State → Op → State) : onHeld f s m = .ok (f s o) := by
  refine (if_neg ?_).trans (by simp only [hheld])
  simp [Option.isNone_eq_false_iff.2 hctx, Nat.not_le.2 hcore]

/-- A message about a channel that there is. -/
theorem onChannel_of_some {c : Channel} (hchan : s.chan? (bitsOf (param m 7) 8 4) (bitsOf (param m 7) 0 6) = some c)
    (f : State → Channel → State) : onChannel f s m = .ok (f s c) := by
  simp only [onChannel, hchan]

/-- A message about a page that is in repair, of a context or of none (R380, R381). -/
theorem onRepair_of_some {r : Repair} (hctx : msgCtx m = 0xFFFF ∨ (s.ctx? (msgCtx m)).isSome)
    (hrepair : s.fab.repair.find? (fun r => r.ctx == msgCtx m && r.page == param m 7 / 4096) = some r)
    (f : State → Repair → Ans) : onRepair f s m = f s r := by
  refine (if_neg ?_).trans (by simp only [hrepair])
  rcases hctx with hnone | hctx
  · simp [hnone]
  · simp [Option.isNone_eq_false_iff.2 hctx]

/-! ### INVAL (R355) -/

/-- What INVAL answers: it waits for the accesses in flight that may use what it drops, and keeps the time at which it began. -/
def State.invalAns (s : State) (ctx first pages : Nat) : Ans :=
  let since := s.host.inval.getD (s.fab.nextTag, s.now)
  let u := Claims.invalidated s ctx first pages
  let tag := if s.host.inval.isSome then since.1 else u.fab.nextTag
  if u.xlInFlight ctx first pages tag since.2 then .later { u with host := { u.host with inval := some (tag, since.2) } }
  else .ok { u with host := { u.host with inval := none } }

/-- INVAL of pages of a context that there is. -/
theorem exec_inval_eq {src : Option W32} (hasked : Claims.Asked s 0x20 src m) (hlanes : Claims.NoLanes m)
    (hctx : (s.ctx? (msgCtx m)).isSome) (hbits : bitsOf (param m 7) 2 10 = 0) (hsize : param m 7 % 4 ≠ 3) :
    exec .inval s = finish ((s.invalAns (msgCtx m) (param m 7 / 4096 / 512 ^ (param m 7 % 4) * 512 ^ (param m 7 % 4))
      (512 ^ (param m 7 % 4))).send src) := by
  obtain ⟨c, hctx⟩ := Option.isSome_iff_exists.1 hctx
  have hgood : ¬ (bitsOf (param m 7) 2 10 != 0 || param m 7 % 4 == 3) = true := by simp [hbits, hsize]
  have hsince : ∀ (b : Bool) (x : Nat × Nat) (n : Nat), (if b then x else (n, x.2)) = (if b then x.1 else n, x.2) := by
    intro b x n
    cases b <;> rfl
  show execInval s = _
  unfold execInval
  rw [message_send hasked (noLaneFields_of_noLanes hlanes), onCtx_of_some hctx, if_neg hgood, State.num_of_ctx? hctx]
  simp only [hsince]
  rfl

end Named

/-! ### What the driver does to pages, operations, launches, contexts, channels and the pod (R355, R366, R372, R375, R381, R383, R384) -/

/-- An operation of these that is asked for, with its conditions in order, has its effect and is answered with status 0. -/
def Recovers (i : Instr) : Prop :=
  ∀ {op m v : Nat} {src : Option W32} {s t : State}, Claims.Asked s op src m → Claims.recovers s m i op t v → t.hole = none →
    exec i s = .next (Claims.replied t src 0 v 0)

theorem recovers_inval : Recovers .inval := by
  rintro op m v src s t hasked ⟨rfl, rfl, hlanes, hctx, hbits, hsize, hquiet, rfl⟩ hole
  rw [exec_inval_eq hasked hlanes hctx hbits hsize, State.invalAns, if_neg (Bool.eq_false_iff.1 hquiet), Ans.ok, Ans.send,
    State.answer_replyOf]
  exact finish_next ((State.answer_hole ..).trans hole)

theorem recovers_sethwm : Recovers .sethwm := by
  rintro op m v src s t hasked ⟨rfl, rfl, hlanes, ⟨c, hctx, hgrows⟩, halign, hmost, rfl⟩ hole
  have hgood : ¬ (param m 7 % 4096 != 0 || decide (param m 7 < c.privhwm.toNat) || decide (2 ^ 20 < param m 7)) = true := by
    simp only [halign, Nat.not_lt.2 hgrows, Nat.not_lt.2 hmost, bne_self_eq_false, decide_false, Bool.or_self, Bool.false_eq_true,
      not_false_eq_true]
  show execSethwm s = _
  unfold execSethwm
  rw [← State.num_of_ctx? hctx] at hole ⊢
  exact message_now hasked (noLaneFields_of_noLanes hlanes) ((onCtx_of_some hctx _).trans (if_neg hgood)) hole

theorem recovers_resumepage : Recovers .resumepage := by
  rintro op m v src s t hasked ⟨rfl, rfl, hlanes, hctx, rfl⟩ hole
  obtain ⟨c, hctx⟩ := Option.isSome_iff_exists.1 hctx
  show execResumepage s = _
  unfold execResumepage
  refine message_now hasked (noLaneFields_of_noLanes hlanes) ((onCtx_of_some hctx _).trans ?_) hole
  rw [State.num_of_ctx? hctx]
  rfl

theorem recovers_engresume : Recovers .engresume := by
  rintro op m v src s t hasked ⟨rfl, rfl, hlanes, hctx, hcore, o, hheld, rfl⟩ hole
  show execEngresume s = _
  unfold execEngresume
  exact message_now hasked hlanes (onHeld_of_held hctx hcore hheld _) hole

theorem recovers_engend : Recovers .engend := by
  rintro op m v src s t hasked ⟨rfl, rfl, hlanes, hctx, hcore, o, hheld, rfl⟩ hole
  show execEngend s = _
  unfold execEngend
  exact message_now hasked hlanes (onHeld_of_held hctx hcore hheld _) hole

theorem recovers_endlaunch : Recovers .endlaunch := by
  rintro op m v src s t hasked ⟨rfl, rfl, hlanes, c, x, l, hctx, hpkt, hbody, rfl⟩ hole
  have hlaunch : x.launch? = some l := by simp only [Pkt.launch?, hbody]
  show execEndlaunch s = _
  unfold execEndlaunch
  refine message_now hasked hlanes ((onCtx_of_some hctx _).trans ?_) hole
  simp only [hpkt, hlaunch]
  rfl

theorem recovers_ctxsave : Recovers .ctxsave := by
  rintro op m v src s t hasked ⟨rfl, rfl, hlanes, hctx, rfl⟩ hole
  obtain ⟨c, hctx⟩ := Option.isSome_iff_exists.1 hctx
  show execCtxsave s = _
  unfold execCtxsave
  refine message_now hasked hlanes ((onCtx_of_some hctx _).trans ?_) hole
  rw [State.num_of_ctx? hctx]
  rfl

theorem recovers_ctxrestore : Recovers .ctxrestore := by
  rintro op m v src s t hasked ⟨rfl, rfl, hlanes, c, hctx, hsaved, rfl⟩ hole
  show execCtxrestore s = _
  unfold execCtxrestore
  refine message_now hasked hlanes ((onCtx_of_some hctx _).trans (if_neg ?_)) hole
  simp [hsaved]

theorem recovers_chretire : Recovers .chretire := by
  rintro op m v src s t hasked ⟨rfl, rfl, hlanes, c, hchan, rfl⟩ hole
  show execChretire s = _
  unfold execChretire
  exact message_now hasked (noLaneFields_of_noLanes hlanes) (onChannel_of_some hchan _) hole

/-- A link-up frame leaves unless the optics are dark (R330). -/
theorem State.frameTo_eq (s : State) (peer plane : Nat) :
    s.frameTo peer plane = if s.power.pstate = 2 then s else s.emit (.linkFrame peer plane) := by
  simp only [State.frameTo, beq_iff_eq]

theorem recovers_chrestore : Recovers .chrestore := by
  rintro op m v src s t hasked ⟨rfl, rfl, hlanes, c, hchan, rfl⟩ hole
  show execChrestore s = _
  unfold execChrestore
  exact message_now hasked (noLaneFields_of_noLanes hlanes)
    ((onChannel_of_some hchan _).trans (congrArg Ans.ok (State.frameTo_eq ..))) hole

theorem recovers_slreplay : Recovers .slreplay := by
  rintro op m v src s t hasked ⟨rfl, rfl, hlanes, hctx, r, hrepair, hreplay⟩ hole
  show execSlreplay s = _
  unfold execSlreplay
  refine message_now hasked (noLaneFields_of_noLanes hlanes) ((onRepair_of_some hctx hrepair _).trans ?_) hole
  simp only [hreplay]
  rfl

theorem recovers_sldiscard : Recovers .sldiscard := by
  rintro op m v src s t hasked ⟨rfl, rfl, hlanes, hctx, r, hrepair, rfl⟩ hole
  show execSldiscard s = _
  unfold execSldiscard
  exact message_now hasked (noLaneFields_of_noLanes hlanes) (onRepair_of_some hctx hrepair _) hole

theorem recovers_podhold : Recovers .podhold := by
  rintro op m v src s t hasked ⟨rfl, rfl, hlanes, hquiet, rfl⟩ hole
  show execPodhold s = _
  unfold execPodhold
  exact message_now hasked (noLaneFields_of_noLanes hlanes) (if_neg (Bool.eq_false_iff.1 hquiet)) hole

theorem recovers_podset : Recovers .podset := by
  rintro op m v src s t hasked ⟨rfl, hlanes, hheld, w, hwait, hnone, rfl, rfl⟩ hole
  have hgoes : ¬ (s.fab.podWait.isNone && s.fab.held == 0) = true := by
    rcases hheld with hwaits | hheld
    · simp [Option.isNone_eq_false_iff.2 hwaits]
    · rw [beq_eq_false_iff_ne.2 hheld, Bool.and_false]
      exact Bool.false_ne_true
  show execPodset s = _
  unfold execPodset
  refine message_now hasked (noLaneFields_of_noLanes hlanes) ((if_neg hgoes).trans ?_) hole
  simp only [beq_iff_eq, hwait, hnone, if_true]

/-! ### FLOWSTATE and operations that are not assigned (R316, R389) -/

/-- FLOWSTATE has a reply of its own. -/
theorem exec_flowstate_eq {src : Option W32} {m : Nat} {s : State} (hasked : Claims.Asked s 0x50 src m) (hlanes : Claims.NoLanes m)
    (hctx : (s.ctx? (msgCtx m)).isSome) : exec .flowstate s = finish (s.answer src
      ((s.flow? (msgCtx m) (BitVec.ofNat 32 (param m 7))).getD (Flow.fresh (msgCtx m) (BitVec.ofNat 32 (param m 7)))).report) := by
  obtain ⟨c, hctx⟩ := Option.isSome_iff_exists.1 hctx
  show execFlowstate s = _
  unfold execFlowstate
  rw [message_send hasked (noLaneFields_of_noLanes hlanes), onCtx_of_some hctx, State.num_of_ctx? hctx]
  rfl

/-- An operation that is not assigned is answered with status 5. -/
theorem exec_unassignedMessageOp_eq {op : Nat} {src : Option W32} {m : Nat} {s : State} (hasked : Claims.Asked s op src m)
    (hnone : opAssigned op = false) : exec .unassignedMessageOp s = finish (Claims.replied s src 5 0 0) := by
  have hrefuses := State.refuses_of_asked hasked
  obtain ⟨msg, rest, hinbox, rfl, rfl, -, -⟩ := hasked
  show execUnassignedMessageOp s = _
  simp only [execUnassignedMessageOp, hinbox, hnone, hrefuses, Option.getD_none, State.answer_replyOf, Bool.false_eq_true, if_false]

/-- Settles O50: a message that is asked for is answered as its operation says, and each operation says what the statement gives. -/
theorem driverMessagesAreAnswered : Obligations.DriverMessagesAreAnswered := by
  unfold Obligations.DriverMessagesAreAnswered
  refine ⟨?steers, ?recovers, ?inval, ?flowstate, ?unassigned⟩
  case steers =>
    intro i op src m v e s t hasked hsteers hole
    cases i with
    | resume => exact steers_resume hasked hsteers hole
    | redirect => exact steers_redirect hasked hsteers hole
    | kill => exact steers_kill hasked hsteers hole
    | read => exact steers_read hasked hsteers hole
    | write => exact steers_write hasked hsteers hole
    | halt => exact steers_halt hasked hsteers hole
    | step => exact steers_step hasked hsteers hole
    | resumeDbg => exact steers_resumeDbg hasked hsteers hole
    | trace => exact steers_trace hasked hsteers hole
    | breakpoint => exact steers_breakpoint hasked hsteers hole
    | _ => exact hsteers.elim
  case recovers =>
    intro i op src m v s t hasked hrecovers hole
    cases i with
    | inval => exact recovers_inval hasked hrecovers hole
    | sethwm => exact recovers_sethwm hasked hrecovers hole
    | resumepage => exact recovers_resumepage hasked hrecovers hole
    | engresume => exact recovers_engresume hasked hrecovers hole
    | engend => exact recovers_engend hasked hrecovers hole
    | endlaunch => exact recovers_endlaunch hasked hrecovers hole
    | ctxsave => exact recovers_ctxsave hasked hrecovers hole
    | ctxrestore => exact recovers_ctxrestore hasked hrecovers hole
    | chretire => exact recovers_chretire hasked hrecovers hole
    | chrestore => exact recovers_chrestore hasked hrecovers hole
    | slreplay => exact recovers_slreplay hasked hrecovers hole
    | sldiscard => exact recovers_sldiscard hasked hrecovers hole
    | podhold => exact recovers_podhold hasked hrecovers hole
    | podset => exact recovers_podset hasked hrecovers hole
    | _ => exact hrecovers.elim
  case inval =>
    intro src m s hasked hlanes hctx hbits hsize pages first since u tag hflight hole
    rw [exec_inval_eq hasked hlanes hctx hbits hsize, State.invalAns, if_pos hflight]
    exact finish_next hole
  case flowstate =>
    intro src m s hasked hlanes hctx hole f
    exact (exec_flowstate_eq hasked hlanes hctx).trans (finish_next ((State.answer_hole ..).trans hole))
  case unassigned =>
    intro op src m s hasked hnone hattached hole
    exact (exec_unassignedMessageOp_eq hasked hnone).trans (finish_next ((State.answer_hole ..).trans hole))

end Sys2Proof.Machine
end

section
/-!
SUPPORT. The cross-lane instructions (R167 to R173): O7 and O8. Each is one shape, `crossOp`, over what a participant receives; the
shape is settled once.
-/
namespace Sys2Proof.Machine

/-- A participant waits only where what it receives is a wait. -/
theorem crossLane_ne_wait {cx : Cx} {px : Option Px} {zero : Nat → List ResWrite} {f : Nat → Lane → LaneOut}
    (hf : ∀ l x on a, f l x ≠ .wait on a) (l : Nat) (on : WaitOn) (a : Bool) : crossLane cx px zero f l ≠ .wait on a := by
  unfold crossLane
  split
  · simp
  · split
    · simp
    · split <;> simp
    · exact hf l _ on a

/-- A cross-lane instruction in which no participant waits or stops: each takes what it receives (R107, R167). -/
theorem crossOp_next {px : Option Px} {zero : Nat → List ResWrite} {f : State → Cx → Nat → Lane → LaneOut} {s : State} {cx : Cx}
    {outs : Nat → LaneOut} (hat : Claims.At s cx)
    (hstop : stopsOf (cx.lanes.map (fun l => (l, outs l))) = []) (hf : ∀ l x on a, f s cx l x ≠ .wait on a)
    (hout : ∀ l, crossLane cx px zero (f s cx) l = outs l) : crossOp px zero f s = .next (Claims.cross s cx outs) := by
  obtain ⟨hcx, hole⟩ := hat
  have hwait : waitsOf (cx.lanes.map (fun l => (l, outs l))) = [] :=
    waitsOf_map_nil (fun l _ on a => hout l ▸ crossLane_ne_wait hf l on a)
  rw [crossOp, withCx_at hcx, funext hout, State.commit_done false false 0 hwait hstop]
  exact finish_next hole

/-- What a participant writes is no wait. -/
theorem write_ne_wait {ws : List ResWrite} {fp dec : BitVec 5} {on : WaitOn} {a : Bool} : LaneOut.write ws fp dec ≠ .wait on a := nofun

/-- Settles O7: what SHFL and PUSHL give a participant is the rule's value, by definition. -/
theorem shuffleAndPushExecute : Obligations.ShuffleAndPushExecute := by
  constructor
  · intro w s cx hat out got outs hs
    show execShfl w s = _
    unfold execShfl
    refine crossOp_next hat hs ?_ ?_
    · exact fun _ _ _ _ => write_ne_wait
    · exact fun _ => rfl
  · intro w s cx hat outs hs
    show execPushl w s = _
    refine crossOp_next hat hs ?_ ?_
    · intro l x on a
      dsimp only
      split
      · nofun
      · exact write_ne_wait
    · exact fun _ => rfl

/-- The value of VOTE by its mode: the modes 0 to 2 give a truth value, 3 the mask, the others the count (R170). -/
theorem voteValue_eq (m n : Nat) (yes : List Nat) (mask : Word) :
    (match m with
      | 0 => if !yes.isEmpty then (1 : Word) else 0
      | 1 => if yes.length == n then 1 else 0
      | 2 => if yes.isEmpty || yes.length == n then 1 else 0
      | 3 => mask
      | _ => BitVec.ofNat 64 yes.length) =
    if m = 0 then (if yes.isEmpty then 0 else 1)
    else if m = 1 then (if yes.length = n then 1 else 0)
    else if m = 2 then (if yes.isEmpty ∨ yes.length = n then 1 else 0)
    else if m = 3 then mask else BitVec.ofNat 64 yes.length := by
  match m with
  | 0 => cases yes <;> rfl
  | 1 | 2 => simp
  | 3 => rfl
  | m + 4 => simp

/-- What a participant of RED or SCAN receives is no wait. -/
theorem redOut_ne_wait (cx : Cx) (w : FmtA) (l : Nat) (x : Lane) (r : Part3) (on : WaitOn) (a : Bool) :
    redOut cx w l x r ≠ .wait on a := by
  unfold redOut
  split
  · nofun
  · exact raiseOut_ne_wait x _ _ _ on a

/-- Settles O8: the results of RED, SCAN and MATCH are the rule's by definition, and that of VOTE mode by mode. -/
theorem teamReductionsExecute : Obligations.TeamReductionsExecute := by
  refine ⟨?_, ?_, ?_, ?_⟩
  · intro w s cx hat m ws yes p v outs hs
    show execVote w s = _
    unfold execVote
    refine crossOp_next hat hs ?_ ?_
    · intro l x on a
      dsimp only
      split
      · nofun
      · exact write_ne_wait
    · intro l
      exact congrArg (fun v => Claims.byMask cx w.px (ws l 0 false)
        (fun _ => if 3 ≤ m && Code.isScalar w.d && !cx.root then .stop cx.illegal else .write (ws l v p) 0 0) l)
        (voteValue_eq m cx.lanes.length yes (maskOf (yes.map cx.rank)))
  · intro w s cx hat outs hs
    show execRed w s = _
    unfold execRed
    refine crossOp_next hat hs ?_ ?_
    · exact fun l x => redOut_ne_wait cx w l x _
    · exact fun _ => rfl
  · intro w s cx hat outs hs
    show execScan w s = _
    unfold execScan
    refine crossOp_next hat hs ?_ ?_
    · exact fun l x => redOut_ne_wait cx w l x _
    · exact fun _ => rfl
  · intro w s cx hat same outs hs
    show execMatchLanes w s = _
    refine crossOp_next hat hs ?_ ?_
    · exact fun _ _ _ _ => write_ne_wait
    · exact fun _ => rfl

end Sys2Proof.Machine
end

section
/-!
SUPPORT. Moves of the PC (R174 to R178): O9 and O10. A move in which every executing lane goes is `Claims.goAll`; what is left of each
instruction is where its lanes go.
-/
namespace Sys2Proof.Machine

/-- Lanes that all go: each acts and then goes to its address. -/
theorem State.moveAll_go {s : State} {cx : Cx} {act act' : State → Nat → State} {f : Nat → Lane → Move} {pc : Nat → Word}
    (hact : ∀ l ∈ cx.lanes, ∀ s, act s l = act' s l) (hgo : ∀ l ∈ cx.lanes, ∀ x, cx.lane? l = some x → f l x = .go (pc l))
    (hnone : ∀ l ∈ cx.lanes, cx.lane? l = none → pc l = cx.next) : s.moveAll cx act f = Claims.goAll s cx act' pc := by
  have hmoves : cx.lanes.map (fun l => (l, match cx.lane? l with | some x => f l x | none => .go cx.next)) =
      cx.lanes.map (fun l => (l, Move.go (pc l))) := by
    refine List.map_congr_left (fun l hl => congrArg (Prod.mk l) ?_)
    cases hx : cx.lane? l with
    | some x => exact hgo l hl x hx
    | none => exact congrArg Move.go (hnone l hl hx).symm
  calc s.moveAll cx act f
      _ = s.move cx act (cx.lanes.map (fun l => (l, Move.go (pc l)))) := congrArg (s.move cx act) hmoves
      _ = cx.lanes.foldl (fun s l => (act s l).mapLane cx.wid cx.k l (fun x => x.goto (pc l))) s := State.move_go act cx.lanes pc
      _ = Claims.goAll s cx act' pc := List.foldl_ext _ _ _ (fun s l hl => by rw [hact l hl])

/-- The same where every executing lane is there. -/
theorem State.moveAll_go_of_some {s : State} {cx : Cx} {act act' : State → Nat → State} {f : Nat → Lane → Move} {pc : Nat → Word}
    (hact : ∀ l ∈ cx.lanes, ∀ s, act s l = act' s l)
    (hgo : ∀ l ∈ cx.lanes, ∃ x, cx.lane? l = some x ∧ f l x = .go (pc l)) : s.moveAll cx act f = Claims.goAll s cx act' pc := by
  refine State.moveAll_go hact (fun l hl x hx => ?_) (fun l hl hx => ?_)
  · obtain ⟨y, hy, hgo⟩ := hgo l hl
    rw [hy] at hx
    exact Option.some.inj hx ▸ hgo
  · obtain ⟨y, hy, -⟩ := hgo l hl
    exact absurd (hy.symm.trans hx) nofun

/-- Every lane goes on to the next word. -/
theorem State.moveAll_next (s : State) (cx : Cx) : s.moveAll cx noAct (fun _ _ => .go cx.next) =
    Claims.goAll s cx (fun s _ => s) (fun _ => cx.next) :=
  State.moveAll_go (fun _ _ _ => rfl) (fun _ _ _ _ => rfl) (fun _ _ _ => rfl)

/-- Lanes that only go leave the HBM alone. -/
theorem Claims.goAll_hole (s : State) (cx : Cx) (pc : Nat → Word) :
    (Claims.goAll s cx (fun s _ => s) pc).hole = s.hole := by
  unfold Claims.goAll
  generalize cx.lanes = ls
  induction ls generalizing s with
  | nil => rfl
  | cons l ls ih => exact ih _

/-- A guard that is not poisoned passes where the branch is taken (R98). -/
theorem gateGuard_of_clean {cx : Cx} {g : BitVec 4} {l : Nat} {x : Lane} (hx : cx.lane? l = some x)
    (hp : (x.pred (g.toNat % 8)).p = false) : gateGuard x g = if Claims.taken cx g l then .pass else .guarded := by
  simp [gateGuard, Claims.taken, hx, hp]

/-- BR (R174). -/
theorem exec_br_goes {w : FmtB} {s : State} {cx : Cx} (hat : Claims.At s cx)
    (hclean : ∀ l ∈ cx.lanes, ∀ x, cx.lane? l = some x → (x.pred (w.guard.toNat % 8)).p = false) :
    exec (.br w) s = .next (Claims.goAll s cx (fun s _ => s)
      (fun l => if Claims.taken cx w.guard l then Claims.target w cx else cx.next)) := by
  obtain ⟨hcx, hole⟩ := hat
  show execBr w s = _
  unfold execBr
  rw [withCx_at hcx]
  refine (congrArg finish (State.moveAll_go (fun _ _ _ => rfl) (fun l hl x hx => ?_) (fun l _ hx => ?_))).trans
    (finish_next ((Claims.goAll_hole s cx _).trans hole))
  · rw [gateGuard_of_clean hx (hclean l hl x hx)]
    cases Claims.taken cx w.guard l <;> rfl
  · have hnot : Claims.taken cx w.guard l = false := by rw [Claims.taken, hx]
    simp [hnot]

/-- Where every guard is clean, the outcomes that BRU compares are those of all its lanes (R175). -/
theorem bru_outcomes {cx : Cx} {g : BitVec 4} (ls : List Nat)
    (hclean : ∀ l ∈ ls, ∃ x, cx.lane? l = some x ∧ (x.pred (g.toNat % 8)).p = false) :
    ls.filterMap (fun l => (cx.lane? l).bind (fun x => if gateGuard x g == .poison then none else some (gateGuard x g == .pass))) =
      ls.map (Claims.taken cx g) := by
  rw [← List.filterMap_eq_map]
  refine List.filterMap_congr (fun l hl => ?_)
  obtain ⟨x, hx, hp⟩ := hclean l hl
  rw [hx, Option.bind_some, gateGuard_of_clean hx hp]
  cases h : Claims.taken cx g l <;> simp [h]

/-- UNIFCNT grows by one and saturates (R175). -/
theorem Warp.countDiffer_eq (w : Warp) :
    w.countDiffer = { w with unifcnt := if w.unifcnt = 0xFFFFFFFF then w.unifcnt else w.unifcnt + 1 } := by
  simp only [Warp.countDiffer, beq_iff_eq]

/-- BRU (R175). -/
theorem exec_bru_goes {w : FmtB} {s : State} {cx : Cx} (hat : Claims.At s cx) (hne : cx.lanes ≠ [])
    (hclean : ∀ l ∈ cx.lanes, ∃ x, cx.lane? l = some x ∧ (x.pred (w.guard.toNat % 8)).p = false)
    (htrap : ∀ l ∈ cx.lanes, ∀ x, cx.lane? l = some x → Claims.taken cx w.guard l ≠ Claims.taken cx w.guard cx.low →
      x.trapen.getLsbD 16 = false) :
    exec (.bru w) s = .next (Claims.goAll
      (if cx.lanes.any (fun l => Claims.taken cx w.guard l != Claims.taken cx w.guard cx.low) then
        s.mapWarp cx.wid cx.k Warp.countDiffer else s)
      cx (fun s _ => s) (fun _ => if Claims.taken cx w.guard cx.low then Claims.target w cx else cx.next)) := by
  obtain ⟨hcx, hole⟩ := hat
  have hlead : (cx.lanes.map (Claims.taken cx w.guard)).headD false = Claims.taken cx w.guard cx.low := by
    unfold Cx.low
    cases h : cx.lanes with
    | nil => exact absurd h hne
    | cons l ls => rfl
  show execBru w s = _
  unfold execBru
  rw [withCx_at hcx]
  dsimp only
  rw [bru_outcomes cx.lanes hclean, hlead, List.any_map]
  refine (congrArg finish (State.moveAll_go_of_some (fun _ _ _ => rfl) (fun l hl => ?_))).trans
    (finish_next ((Claims.goAll_hole _ cx _).trans ?_))
  · obtain ⟨x, hx, hp⟩ := hclean l hl
    refine ⟨x, hx, ?_⟩
    have htrap : (Claims.taken cx w.guard l != Claims.taken cx w.guard cx.low && x.trapen.getLsbD 16) = false := by
      by_cases h : Claims.taken cx w.guard l = Claims.taken cx w.guard cx.low
      · simp [h]
      · rw [htrap l hl x hx h, Bool.and_false]
    have hpass : (gateGuard x w.guard == .pass) = Claims.taken cx w.guard l := by
      rw [gateGuard_of_clean hx hp]
      cases Claims.taken cx w.guard l <;> simp
    have hpoison : (gateGuard x w.guard == .poison) = false := by
      rw [gateGuard_of_clean hx hp]
      cases Claims.taken cx w.guard l <;> simp
    simp only [hpoison, hpass, htrap]
    rfl
  · split
    · exact hole
    · exact hole

/-- JMPI (R177). -/
theorem exec_jmpi_goes {w : FmtA} {s : State} {cx : Cx} (hat : Claims.At s cx) (hsome : ∀ l ∈ cx.lanes, (cx.lane? l).isSome)
    (hclean : ∀ l ∈ cx.lanes, (readOp s cx l 3 w.a).p = false) :
    exec (.jmpi w) s = .next (Claims.goAll s cx (fun s _ => s) (fun l => (readOp s cx l 3 w.a).v)) := by
  obtain ⟨hcx, hole⟩ := hat
  show execJmpi w s = _
  unfold execJmpi
  rw [withCx_at hcx]
  refine (congrArg finish (State.moveAll_go_of_some (fun _ _ _ => rfl) (fun l hl => ?_))).trans
    (finish_next ((Claims.goAll_hole s cx _).trans hole))
  obtain ⟨x, hx⟩ := Option.isSome_iff_exists.1 (hsome l hl)
  exact ⟨x, hx, by simp only [jumpTarget, hclean l hl]; rfl⟩

/-- Settles O9: the three moves, each in every executing lane. -/
theorem branchesGoToTheirTargets : Obligations.BranchesGoToTheirTargets := by
  refine ⟨fun w s cx => exec_br_goes, ?_, fun w s cx => exec_jmpi_goes⟩
  intro w s cx hat hne hclean lead differ htrap
  rw [exec_bru_goes hat hne hclean htrap, funext Warp.countDiffer_eq]

/-! ### Calls and returns -/

/-- A push that can be made is no reason to stop or wait. -/
theorem pushed_of_bytes {cx : Cx} {l : Nat} {g : Got} {x : Lane} (m : Move) (h : ∃ bs, g = .bytes bs) : pushed cx l g x m = m := by
  obtain ⟨bs, rfl⟩ := h
  rfl

/-- CALL (R174, R176). -/
theorem exec_call_goes {w : FmtB} {s : State} {cx : Cx} (hcx : s.cx? = some cx)
    (hclean : ∀ l ∈ cx.lanes, ∃ x, cx.lane? l = some x ∧ (x.pred (w.guard.toNat % 8)).p = false ∧
      (Claims.taken cx w.guard l → ∃ bs, s.canPush cx l x = .bytes bs)) :
    exec (.call w) s = finish (Claims.goAll s cx (fun s l => if Claims.taken cx w.guard l then s.callFrame cx l else s)
      (fun l => if Claims.taken cx w.guard l then Claims.target w cx else cx.next)) := by
  show execCall w s = _
  unfold execCall
  rw [withCx_at hcx]
  refine congrArg finish (State.moveAll_go_of_some (fun l hl t => ?_) (fun l hl => ?_))
  · obtain ⟨x, hx, hp, -⟩ := hclean l hl
    simp only [hx, gateGuard_of_clean hx hp]
    cases Claims.taken cx w.guard l <;> rfl
  · obtain ⟨x, hx, hp, hpush⟩ := hclean l hl
    refine ⟨x, hx, ?_⟩
    rw [gateGuard_of_clean hx hp]
    cases ht : Claims.taken cx w.guard l with
    | true => exact pushed_of_bytes _ (hpush ht)
    | false => rfl

/-- CALLI (R177). -/
theorem exec_calli_goes {w : FmtA} {s : State} {cx : Cx} (hcx : s.cx? = some cx)
    (hclean : ∀ l ∈ cx.lanes, ∃ x, cx.lane? l = some x ∧ (readOp s cx l 3 w.a).p = false ∧ ∃ bs, s.canPush cx l x = .bytes bs) :
    exec (.calli w) s = finish (Claims.goAll s cx (fun s l => s.callFrame cx l) (fun l => (readOp s cx l 3 w.a).v)) := by
  show execCalli w s = _
  unfold execCalli
  rw [withCx_at hcx]
  refine congrArg finish (State.moveAll_go_of_some (fun l hl t => rfl) (fun l hl => ?_))
  obtain ⟨x, hx, hp, hpush⟩ := hclean l hl
  refine ⟨x, hx, ?_⟩
  simp only [jumpTarget, hp]
  exact pushed_of_bytes _ hpush

/-- Settles O10: a push that can be made and a frame that can be read leave only the move. -/
theorem callsPushAndReturnsPop : Obligations.CallsPushAndReturnsPop := by
  refine ⟨?_, ?_, ?_⟩
  · intro w s cx hcx hlanes t hole
    exact (exec_call_goes hcx hlanes).trans (finish_next hole)
  · intro w s cx hcx hlanes t hole
    exact (exec_calli_goes hcx hlanes).trans (finish_next hole)
  · intro w s cx frame hcx hlanes pop t hole
    show execRet w s = _
    unfold execRet
    rw [withCx_at hcx]
    refine (congrArg finish (State.moveAll_go_of_some (fun _ _ _ => rfl) (fun l hl => ?_))).trans (finish_next hole)
    obtain ⟨x, hx, hstall, hframe, hteam⟩ := hlanes l hl
    obtain ⟨fs, hret⟩ := List.head?_eq_some_iff.1 hframe
    exact ⟨x, hx, by simp [hstall, hret, hteam]⟩

end Sys2Proof.Machine
end

section
/-!
SUPPORT. Team-calls and their joins (R179 to R182, R337): O11. A lane's callee is found in the division of its own innermost team, since
the innermost teams that stand at a TCALL are disjoint.
-/
namespace Sys2Proof.Machine

/-! ### The innermost teams -/

/-- A lane's innermost team among the executing lanes is what the claims call so. -/
theorem Cx.teamOf_eq_innermost {cx : Cx} {l : Nat} {x : Lane} (hx : cx.lane? l = some x) :
    cx.teamOf l = Claims.innermost cx l := by
  unfold Cx.teamOf Claims.innermost
  rw [hx]
  refine List.filter_congr (fun j _ => ?_)
  cases cx.lane? j <;> rfl

/-- Whose innermost team a lane is in. -/
theorem Claims.mem_innermost {cx : Cx} {l j : Nat} : j ∈ Claims.innermost cx l ↔
    j ∈ cx.lanes ∧ ∃ x y, cx.lane? l = some x ∧ cx.lane? j = some y ∧ y.inner = x.inner ∧ y.level = x.level := by
  unfold Claims.innermost
  rw [List.mem_filter]
  refine and_congr_right (fun _ => ?_)
  cases cx.lane? l with
  | none => simp
  | some x =>
    cases cx.lane? j with
    | none => simp
    | some y => simp

/-- A lane is in its own innermost team. -/
theorem Claims.self_mem_innermost {cx : Cx} {l : Nat} (hl : l ∈ cx.lanes) {x : Lane} (hx : cx.lane? l = some x) :
    l ∈ Claims.innermost cx l := Claims.mem_innermost.2 ⟨hl, x, x, hx, hx, rfl, rfl⟩

/-- The lanes of one innermost team have the same innermost team. -/
theorem Claims.innermost_eq_of_mem {cx : Cx} {l j : Nat} (h : j ∈ Claims.innermost cx l) :
    Claims.innermost cx j = Claims.innermost cx l := by
  obtain ⟨-, x, y, hx, hy, hi, hv⟩ := Claims.mem_innermost.1 h
  unfold Claims.innermost
  rw [hx, hy]
  refine List.filter_congr (fun k _ => ?_)
  cases cx.lane? k with
  | none => rfl
  | some z => simp only [hi, hv]

/-! ### The division of a team -/

/-- Lanes that are given a callee are lanes of the team. -/
theorem mem_of_mem_assign {i : Nat} {qs ls : List Nat} {p : Nat × Nat} (h : p ∈ assign i qs ls) : p.1 ∈ ls := by
  induction qs generalizing i ls with
  | nil => exact absurd h (by simp [assign])
  | cons q qs ih =>
    rw [assign, List.mem_append] at h
    obtain h | h := h
    · obtain ⟨l, hl, rfl⟩ := List.mem_map.1 h
      exact List.mem_of_mem_take hl
    · exact List.mem_of_mem_drop (ih h)

/-- A team's division says nothing of lanes outside the team. -/
theorem find?_teamParts_eq_none {ws team : List Nat} {l : Nat} (h : l ∉ team) : (teamParts ws team).find? (fun p => p.1 == l) = none := by
  rw [List.find?_eq_none]
  intro p hp hpl
  exact h (beq_iff_eq.1 hpl ▸ mem_of_mem_assign hp)

/-- A search in which every element gives nothing or r, and one gives r, gives r. -/
theorem findSome?_eq_of_forall {α β : Type} {g : α → Option β} {r : Option β} {xs : List α} (hall : ∀ x ∈ xs, g x = none ∨ g x = r)
    (hone : ∃ x ∈ xs, g x = r) : xs.findSome? g = r := by
  cases r with
  | none => exact List.findSome?_eq_none_iff.2 (fun x hx => (hall x hx).elim id id)
  | some b =>
    obtain ⟨x, hx, hgx⟩ := hone
    cases h : xs.findSome? g with
    | none => exact absurd (List.findSome?_eq_none_iff.1 h x hx) (by simp [hgx])
    | some c =>
      obtain ⟨y, hy, hgy⟩ := List.exists_of_findSome?_eq_some h
      obtain hn | hs := hall y hy
      · exact absurd (hn.symm.trans hgy) nofun
      · exact (hgy.symm.trans hs)

section Tcall
variable {cx : Cx} (hlanes : ∀ l ∈ cx.lanes, ∃ x, cx.lane? l = some x)
include hlanes

/-- The innermost team of an executing lane. -/
theorem Cx.teamOf_eq {l : Nat} (hl : l ∈ cx.lanes) : cx.teamOf l = Claims.innermost cx l :=
  (hlanes l hl).elim (fun _ => Cx.teamOf_eq_innermost)

/-- The teams at the instruction are the innermost teams of the executing lanes. -/
theorem Cx.mem_teams {t : List Nat} : t ∈ cx.teams ↔ ∃ l ∈ cx.lanes, t = Claims.innermost cx l := by
  unfold Cx.teams
  rw [List.mem_map]
  constructor
  · rintro ⟨l, hl, rfl⟩
    have hl := List.mem_of_mem_filter hl
    exact ⟨l, hl, Cx.teamOf_eq hlanes hl⟩
  · rintro ⟨l, hl, rfl⟩
    obtain ⟨x, hx⟩ := hlanes l hl
    obtain ⟨h, hs, hcons⟩ := List.exists_cons_of_ne_nil (List.ne_nil_of_mem (Claims.self_mem_innermost hl hx))
    have hmem : h ∈ Claims.innermost cx l := by simp [hcons]
    have hh := (Claims.mem_innermost.1 hmem).1
    have hteam : cx.teamOf h = Claims.innermost cx l := (Cx.teamOf_eq hlanes hh).trans (Claims.innermost_eq_of_mem hmem)
    exact ⟨h, List.mem_filter.2 ⟨hh, by simp [hteam, hcons]⟩, hteam⟩

/-- A lane's callee stands in the division of its own team. -/
theorem find?_parts (ws : List Nat) {l : Nat} (hl : l ∈ cx.lanes) :
    ((cx.teams.map (teamParts ws)).flatten).find? (fun p => p.1 == l) =
      (teamParts ws (Claims.innermost cx l)).find? (fun p => p.1 == l) := by
  rw [List.find?_flatten, List.findSome?_map]
  refine findSome?_eq_of_forall (fun t ht => ?_) ⟨_, (Cx.mem_teams hlanes).2 ⟨l, hl, rfl⟩, rfl⟩
  obtain ⟨j, -, rfl⟩ := (Cx.mem_teams hlanes).1 ht
  by_cases h : l ∈ Claims.innermost cx j
  · exact .inr (by rw [Claims.innermost_eq_of_mem h]; rfl)
  · exact .inl (find?_teamParts_eq_none h)

/-- Where every executing lane enters, each team has one join record, under its lowest lane (R337). -/
theorem joins_eq {enters : Nat → Bool} (henters : ∀ l ∈ cx.lanes, enters l = true) :
    (cx.teams.map (joinFor cx enters)).flatten =
      (cx.lanes.filter (fun l => (Claims.innermost cx l).head? == some l)).map (fun l =>
        ({ level := ((cx.lane? l).map (·.level)).getD 0 + 1, members := maskOf (Claims.innermost cx l), returned := 0 } : JoinRec)) := by
  unfold Cx.teams
  rw [List.map_map, List.filter_congr (fun l hl => by rw [Cx.teamOf_eq hlanes hl]), ← List.flatMap_def, List.map_eq_flatMap]
  refine List.flatMap_congr (fun l hl => ?_)
  obtain ⟨hl, hhead⟩ := List.mem_filter.1 hl
  obtain ⟨ls, hcons⟩ := List.head?_eq_some_iff.1 (beq_iff_eq.1 hhead)
  have hall : (Claims.innermost cx l).filter enters = Claims.innermost cx l :=
    List.filter_eq_self.2 (fun j hj => henters j (Claims.mem_innermost.1 hj).1)
  simp only [Function.comp_apply, Cx.teamOf_eq hlanes hl, joinFor, hall]
  rw [hcons]

end Tcall

/-! ### TCALL and TRET -/

/-- Whether an executing lane can take part in a team-call (R179, R180). -/
def State.fits (s : State) (cx : Cx) (l : Nat) : Got := match cx.lane? l with | some x => s.canOpen cx l x | none => .stall

/-- Whether it takes part. -/
def State.enters (s : State) (cx : Cx) (l : Nat) : Bool := !cx.deepest l && (match s.fits cx l with | .bytes _ => true | _ => false)

/-- The callee of a lane: what the division of its innermost team gives it (R179). -/
def Cx.calleeOf (cx : Cx) (ws : List Nat) (l : Nat) : Nat :=
  (((teamParts ws (Claims.innermost cx l)).find? (fun p => p.1 == l)).map (·.2)).getD 0

/-- The callee of a lane, looked up in the divisions of all teams. -/
def Cx.calleeOfAll (cx : Cx) (ws : List Nat) (l : Nat) : Nat :=
  ((((cx.teams.map (teamParts ws)).flatten).find? (fun p => p.1 == l)).map (·.2)).getD 0

/-- TCALL with operands that are there: the join records open, then each lane enters or stops. -/
theorem execTcall_eq {w : FmtA} {s : State} {cx : Cx} {n : Nat} (hcx : s.cx? = some cx) (hn : w.c.toNat = 0x180 + n)
    {goal : List Val} (hgoal : goal = (List.range n).map (fun i => readUni s cx 3 (w.a + BitVec.ofNat 9 i)))
    {ws : List Nat} (hws : ws = (List.range n).map (fun i => bitsOf (readUni s cx 3 w.b).v.toNat (8 * i) 8))
    (hclean : (readUni s cx 3 w.b).p = false) (hcleans : goal.any (·.p) = false) (hsum : ws.foldl (· + ·) 0 ≠ 0) :
    exec (.tcall w) s = finish (State.moveAll
      (if cx.lanes.any (fun l => !cx.deepest l && s.fits cx l == .stall) then s
       else s.mapWarp cx.wid cx.k (fun y => { y with joins := y.joins ++ (cx.teams.map (joinFor cx (s.enters cx))).flatten }))
      cx
      (fun t l => if s.enters cx l then t.openTeam cx (maskOf ((cx.teamOf l).filter (fun j =>
        s.enters cx j && cx.calleeOfAll ws j == cx.calleeOfAll ws l))) (cx.calleeOfAll ws l) l else t)
      (fun l x => if cx.deepest l then .stop x.teamStop
        else pushed cx l (s.fits cx l) x (.go (((goal[cx.calleeOfAll ws l]?).map (·.v)).getD 0)))) := by
  show execTcall w s = _
  unfold execTcall
  rw [withCx_at hcx]
  have hsum : (ws.foldl (· + ·) 0 == 0) = false := beq_false_of_ne hsum
  simp only [hn, Nat.add_sub_cancel_left, ← hgoal, ← hws, hclean, hcleans, hsum]
  rfl

/-- TCALL where every executing lane can enter (R179, R180, R337). -/
theorem exec_tcall_enters {w : FmtA} {s : State} {cx : Cx} {n : Nat} (hcx : s.cx? = some cx) (hn : w.c.toNat = 0x180 + n)
    {goal : List Val} (hgoal : goal = (List.range n).map (fun i => readUni s cx 3 (w.a + BitVec.ofNat 9 i)))
    {ws : List Nat} (hws : ws = (List.range n).map (fun i => bitsOf (readUni s cx 3 w.b).v.toNat (8 * i) 8))
    (hclean : (readUni s cx 3 w.b).p = false) (hcleans : goal.any (·.p) = false) (hsum : ws.foldl (· + ·) 0 ≠ 0)
    (hfit : ∀ l ∈ cx.lanes, ∃ x, cx.lane? l = some x ∧ x.level ≠ 31 ∧ ∃ bs, s.canOpen cx l x = .bytes bs)
    {joins : List JoinRec} (hjoins : joins = (cx.lanes.filter (fun l => (Claims.innermost cx l).head? == some l)).map (fun l =>
        ({ level := ((cx.lane? l).map (·.level)).getD 0 + 1, members := maskOf (Claims.innermost cx l), returned := 0 } : JoinRec))) :
    exec (.tcall w) s = finish (Claims.goAll (s.mapWarp cx.wid cx.k (fun y => { y with joins := y.joins ++ joins })) cx
      (fun s l => s.openTeam cx (maskOf ((Claims.innermost cx l).filter (fun j => cx.calleeOf ws j == cx.calleeOf ws l)))
        (cx.calleeOf ws l) l)
      (fun l => ((goal[cx.calleeOf ws l]?).map (·.v)).getD 0)) := by
  have hsome : ∀ l ∈ cx.lanes, ∃ x, cx.lane? l = some x := fun l hl => (hfit l hl).imp (fun _ h => h.1)
  have hdeep : ∀ l ∈ cx.lanes, cx.deepest l = false := by
    intro l hl
    obtain ⟨x, hx, hlevel, -⟩ := hfit l hl
    simp [Cx.deepest, hx, hlevel]
  have hfits : ∀ l ∈ cx.lanes, ∃ bs, s.fits cx l = .bytes bs := by
    intro l hl
    obtain ⟨x, hx, -, hbytes⟩ := hfit l hl
    simpa only [State.fits, hx] using hbytes
  have henters : ∀ l ∈ cx.lanes, s.enters cx l = true := by
    intro l hl
    obtain ⟨bs, hbytes⟩ := hfits l hl
    simp [State.enters, hdeep l hl, hbytes]
  have hcallee : ∀ l ∈ cx.lanes, cx.calleeOfAll ws l = cx.calleeOf ws l := by
    intro l hl
    rw [Cx.calleeOfAll, find?_parts hsome ws hl]
    rfl
  have hstalls : cx.lanes.any (fun l => !cx.deepest l && s.fits cx l == .stall) = false := by
    rw [List.any_eq_false]
    intro l hl
    obtain ⟨bs, hbytes⟩ := hfits l hl
    simp [hbytes]
  rw [execTcall_eq hcx hn hgoal hws hclean hcleans hsum, hstalls, joins_eq hsome henters, ← hjoins]
  refine congrArg finish (State.moveAll_go_of_some (fun l hl t => ?_) (fun l hl => ?_))
  · have hmates : (cx.teamOf l).filter (fun j => s.enters cx j && cx.calleeOfAll ws j == cx.calleeOfAll ws l) =
        (Claims.innermost cx l).filter (fun j => cx.calleeOf ws j == cx.calleeOf ws l) := by
      rw [Cx.teamOf_eq hsome hl]
      refine List.filter_congr (fun j hj => ?_)
      have hj := (Claims.mem_innermost.1 hj).1
      rw [henters j hj, hcallee j hj, hcallee l hl, Bool.true_and]
    rw [if_pos (henters l hl), hmates, hcallee l hl]
  · obtain ⟨x, hx⟩ := hsome l hl
    refine ⟨x, hx, ?_⟩
    rw [hdeep l hl, hcallee l hl]
    exact pushed_of_bytes _ (hfits l hl)

/-- Whether an executing lane returns at TRET: its newest frame is that of a team-call (R182). -/
def State.returns (s : State) (cx : Cx) (l : Nat) : Bool :=
  match cx.lane? l with
  | some x => x.level != 0 && (match (s.ready cx l x).2.ret with | f :: _ => isTeamFrame f | [] => false)
  | none => false

/-- The executing lanes whose newest frame waits for a page in repair. -/
def State.stalledReturns (s : State) (cx : Cx) : List Nat :=
  cx.lanes.filter (fun l => match cx.lane? l with | some x => s.frameStalls cx l x | none => false)

/-- Lanes at TRET wait at their joins, where they count as returned (R182, R337). -/
def Warp.joinAt (s : State) (cx : Cx) (ls : List Nat) (y : Warp) : Warp :=
  ls.foldl (fun y l =>
    { y.mapLane l (fun x => { (s.ready cx l x).2.advance cx.pc with st := .join }) with
      joins := y.joins.map (fun j =>
        if hasLane j.members l && (match y.lanes[l]? with | some x => x.level == j.level | none => false) then
          { j with returned := j.returned ||| maskOf [l] }
        else j) }) y

/-- TRET where no frame has to wait: lanes with a team-call's frame join, and the others stop. -/
theorem exec_tret_eq {w : FmtA} {s : State} {cx : Cx} (hcx : s.cx? = some cx) (hstalled : s.stalledReturns cx = []) :
    exec (.tret w) s = finish (State.settleJoins cx.wid cx.k 64
      (((s.readFrames cx).mapWarp cx.wid cx.k (Warp.joinAt s cx (cx.lanes.filter (s.returns cx)))).stopLanes cx.wid cx.k cx.pc
        cx.next false ((cx.lanes.filter (fun l => !s.returns cx l)).filterMap (fun l => (cx.lane? l).map (fun x => (l, x.teamStop)))))) := by
  show execTret w s = _
  unfold execTret
  rw [withCx_at hcx]
  refine congrArg finish ?_
  exact if_neg (c := (!(s.stalledReturns cx).isEmpty) = true) (by rw [hstalled]; nofun)

/-- Settles O11: in a TCALL that every executing lane enters, the divisions of the teams do not meet; and in a TRET of lanes with team-call
frames every lane joins. -/
theorem teamCallsOpenAndCloseJoins : Obligations.TeamCallsOpenAndCloseJoins := by
  constructor
  · intro w s cx n hcx hn goal ws hclean hcleans hsum hfit team callee records opened t hole
    exact (exec_tcall_enters hcx hn rfl rfl hclean hcleans hsum hfit rfl).trans (finish_next hole)
  · intro w s cx hcx hlanes t hole
    have hstalled : s.stalledReturns cx = [] := by
      refine List.filter_eq_nil_iff.2 (fun l hl => ?_)
      obtain ⟨x, f, fs, hx, -, hstall, -, -⟩ := hlanes l hl
      simp [hx, hstall]
    have hreturns : ∀ l ∈ cx.lanes, s.returns cx l = true := by
      intro l hl
      obtain ⟨x, f, fs, hx, hlevel, -, hret, hteam⟩ := hlanes l hl
      simp [State.returns, hx, hlevel, hret, hteam]
    rw [exec_tret_eq hcx hstalled, List.filter_eq_self.2 hreturns,
      List.filter_eq_nil_iff.2 (fun l hl => by simp [hreturns l hl]), List.filterMap_nil, State.stopLanes_nil]
    exact finish_next hole

end Sys2Proof.Machine
end

section
/-!
SUPPORT. Exit, barriers and giving way (R183 to R187): O12 and O13.
-/
namespace Sys2Proof.Machine

/-- Where no executing lane is being stepped, EXIT reports nothing (R327). -/
theorem State.reportStepped_of_none {s : State} {cx : Cx} (h : ∀ l ∈ cx.lanes, ∀ x, cx.lane? l = some x → x.dbg.step = false) :
    s.reportStepped cx = s := by
  unfold State.reportStepped
  dsimp only
  rw [List.filter_eq_nil_iff.2]
  · rfl
  · intro l hl
    cases hx : cx.lane? l with
    | none => nofun
    | some x => simp [h l hl x hx]

/-- One lane's exit: its item ends, and what it was registered for goes with it (R183, R280). -/
def State.exitOne (wid k : Nat) (s : State) (l : Nat) : State :=
  match s.wg? wid, s.lane? wid k l with
  | some g, some x => if x.live then ((s.endItem g x).mapWarp wid k (fun w => w.exitLane l)).dropRegs g.pkt.ctx wid k else s
  | _, _ => s

/-- The registrations of a warp's lanes that wait no longer go: those whose own warp, the same one, has no waiter for them (R280). -/
theorem State.dropRegs_eq (s : State) (ctx wid k : Nat) :
    s.dropRegs ctx wid k = s.mapCtx ctx (fun c => { c with evRegs := c.evRegs.filter (fun r => !(match r.waiter with
      | .lane v j m => v == wid && j == k && (s.waitersOf v j m r.event r.target).isEmpty
      | .packet _ => false)) }) := by
  refine congrArg (s.mapCtx ctx) (funext fun c => congrArg (fun p => { c with evRegs := c.evRegs.filter p }) (funext fun ⟨e, t, waiter, entry⟩ => ?_))
  refine congrArg (!·) ?_
  cases waiter with
  | packet _ => rfl
  | lane v j m =>
    by_cases hv : v = wid
    · by_cases hj : j = k
      · subst hv hj; rfl
      · simp [beq_false_of_ne hj]
    · simp [beq_false_of_ne hv]

/-- Lanes exit one after another; then joins and the barrier are looked at again (R183). -/
theorem State.exitLanes_eq (s : State) (wid k : Nat) (lanes : List Nat) :
    s.exitLanes wid k lanes = (State.settleJoins wid k 64 (lanes.foldl (State.exitOne wid k) s)).mapWg wid Wg.settleBarrier := rfl

/-- Settles O12: with no lane to report, EXIT is the end of the lanes' items and what follows it. -/
theorem exitEndsItems : Obligations.ExitEndsItems := by
  intro w s cx hcx hstep ended t hole
  show execExit w s = _
  unfold execExit
  have hended : cx.lanes.foldl (State.exitOne cx.wid cx.k) s = ended := by
    refine List.foldl_ext _ _ _ (fun s l _ => ?_)
    simp only [State.exitOne, State.dropRegs_eq] <;> rfl
  rw [withCx_at hcx, State.reportStepped_of_none hstep, State.exitLanes_eq, hended]
  exact finish_next hole

/-! ### Barriers -/

/-- A stall in which no lane waits for a page in repair marks the waits and does nothing else (R357). -/
theorem State.stall_of_no_repair {s : State} {cx : Cx} {ws : List (Nat × WaitOn × Bool)}
    (h : ∀ x ∈ ws, ∀ p, x.2.1 ≠ .repair p) :
    s.stall cx ws = s.mapWarp cx.wid cx.k (fun w => ws.foldl (fun w x => w.mapLane x.1 (fun y => y.stall s.now x.2.1 x.2.2)) w) := by
  have hsame : ws.foldl (fun s x => match x.2.1 with
      | .repair p => (s.sawRepair (dieOf cx.g.core) x.1 cx.ctx (4096 * p) 1).sawRepair 0 1000 cx.ctx (4096 * p) 1
      | _ => s) s = s := by
    induction ws with
    | nil => rfl
    | cons x xs ih =>
      have hx : (match x.2.1 with
          | .repair p => (s.sawRepair (dieOf cx.g.core) x.1 cx.ctx (4096 * p) 1).sawRepair 0 1000 cx.ctx (4096 * p) 1
          | _ => s) = s := by
        split
        · exact absurd ‹_› (h x List.mem_cons_self _)
        · rfl
      rw [List.foldl_cons, hx]
      exact ih (fun y hy => h y (List.mem_cons_of_mem x hy))
  exact congrArg (fun t : State => t.mapWarp cx.wid cx.k
    (fun w => ws.foldl (fun w x => w.mapLane x.1 (fun y => y.stall s.now x.2.1 x.2.2)) w)) hsame

/-- BAR and BAR.arrive are one meaning. -/
theorem exec_bar_eq (arrive : Bool) (w : FmtA) (s : State) : exec (if arrive then .barArrive w else .bar w) s = barOp arrive s := by
  cases arrive <;> rfl

/-- BAR in the root team: the warp's first arrival in the generation, or a later one (R184). -/
theorem barOp_root {arrive : Bool} {s : State} {cx : Cx} {low : Lane} (hcx : s.cx? = some cx) (hlow : cx.lane? cx.low = some low)
    (hroot : low.level = 0) :
    barOp arrive s = finish (match cx.g.barHere.elem cx.k, cx.w.lastBar with
      | true, some b => s.joinBar cx b arrive
      | _, _ => s.arriveBar cx arrive) := by
  unfold barOp
  rw [withCx_at hcx]
  simp only [hlow, hroot]
  rfl

/-- The first arrival of a warp (R184). -/
theorem exec_bar_first {arrive : Bool} {w : FmtA} {s : State} {cx : Cx} {low : Lane} (hat : Claims.At s cx)
    (hlow : cx.lane? cx.low = some low) (hroot : low.level = 0) (hfirst : cx.k ∉ cx.g.barHere) :
    exec (if arrive then .barArrive w else .bar w) s = .next (s.arriveBar cx arrive) := by
  obtain ⟨hcx, hole⟩ := hat
  rw [exec_bar_eq, barOp_root hcx hlow hroot, List.elem_eq_mem, decide_eq_false hfirst]
  exact finish_next hole

/-- Lanes that reach the barrier after their warp's arrival (R184). -/
theorem exec_bar_later {arrive : Bool} {w : FmtA} {s : State} {cx : Cx} {low : Lane} {b : BarArrival} (hat : Claims.At s cx)
    (hlow : cx.lane? cx.low = some low) (hroot : low.level = 0) (hhere : cx.k ∈ cx.g.barHere) (hlast : cx.w.lastBar = some b) :
    exec (if arrive then .barArrive w else .bar w) s = finish (s.joinBar cx b arrive) := by
  obtain ⟨hcx, hole⟩ := hat
  rw [exec_bar_eq, barOp_root hcx hlow hroot, List.elem_eq_mem, decide_eq_true hhere, hlast]

/-- Settles O13: each case of a barrier is one arrival, and the others only move their lanes on. -/
theorem barriersAndGivingWay : Obligations.BarriersAndGivingWay := by
  refine ⟨?_, ?_, ?_, ?_, ?_⟩
  · intro arrive w s cx low hat hlow hroot hfirst lane
    exact exec_bar_first hat hlow hroot hfirst
  · intro arrive w s cx low b hat hlow hroot hhere hlast late again lane
    rw [exec_bar_later hat hlow hroot hhere hlast]
    unfold State.joinBar
    have hbarrier : ∀ x ∈ again.map (fun l => (l, WaitOn.barrier b.gen, false)), ∀ p, x.2.1 ≠ .repair p := by
      intro x hx p
      obtain ⟨l, -, rfl⟩ := List.mem_map.1 hx
      nofun
    dsimp only
    rw [State.stall_of_no_repair hbarrier, funext fun w => List.foldl_map]
    exact finish_next hat.2
  · intro w s cx ⟨hcx, hole⟩
    show execTbar w s = _
    unfold execTbar
    rw [withCx_at hcx, State.moveAll_next]
    exact finish_next ((Claims.goAll_hole s cx _).trans hole)
  · intro w s cx ⟨hcx, hole⟩
    show execYield w s = _
    unfold execYield
    rw [withCx_at hcx, State.moveAll_next]
    exact finish_next ((Claims.goAll_hole s cx _).trans hole)
  · intro w s cx ⟨hcx, hole⟩
    show execSleep w s = _
    unfold execSleep
    rw [withCx_at hcx, State.moveAll_next]
    exact finish_next ((Claims.goAll_hole s cx _).trans hole)

end Sys2Proof.Machine
end

section
/-!
SUPPORT. How flows number their items, how a warp starts, and the device right after reset (R20, R27, R29, R31, R42): O16, O55 and O58.
-/
namespace Sys2Proof.Machine

/-! ### Flows (R29, R31) -/

/-- A flow is named by its context and its label. -/
def Flow.named (ctx : Nat) (label : W32) (x : Flow) : Bool := x.ctx == ctx && x.label == label

/-- A flow has one name. -/
theorem Flow.named_iff {ctx : Nat} {label : W32} {x : Flow} : x.named ctx label = true ↔ x.ctx = ctx ∧ x.label = label := by
  simp [Flow.named]

/-- A flow is found by its name. -/
theorem State.flow?_eq (s : State) (ctx : Nat) (label : W32) : s.flow? ctx label = s.flows.find? (Flow.named ctx label) := rfl

/-- A change of a flow keeps its name. -/
def KeepsFlowName (f : Flow → Flow) : Prop := ∀ x ctx label, (f x).named ctx label = x.named ctx label

section MapFlow
variable {f : Flow → Flow} (hf : KeepsFlowName f) (s : State) {ctx : Nat} {label : W32}
include hf

/-- A flow that was there is found after a change of one flow: the one that was changed, or another as it was. -/
theorem find?_map_flows (xs : List Flow) (c : Nat) (l : W32) :
    (xs.map (fun x => if x.named ctx label then f x else x)).find? (Flow.named c l) =
      (xs.find? (Flow.named c l)).map (fun x => if x.named ctx label then f x else x) := by
  rw [List.find?_map]
  have hname : Flow.named c l ∘ (fun x => if x.named ctx label then f x else x) = Flow.named c l := by
    funext x
    simp only [Function.comp_apply]
    split
    · exact hf x c l
    · rfl
  rw [hname]

/-- The flow itself after its change: the one that was there, or a fresh one, changed (R29). -/
theorem State.flow?_mapFlow_same :
    (s.mapFlow ctx label f).flow? ctx label = some (f ((s.flow? ctx label).getD (Flow.fresh ctx label))) := by
  unfold State.mapFlow
  cases h : s.flow? ctx label with
  | some y =>
    have hy : y.named ctx label = true := List.find?_some (p := Flow.named ctx label) h
    calc (s.flows.map (fun x => if x.named ctx label then f x else x)).find? (Flow.named ctx label)
        _ = (s.flow? ctx label).map (fun x => if x.named ctx label then f x else x) := find?_map_flows hf s.flows ctx label
        _ = some (f y) := by rw [h, Option.map_some, if_pos hy]
  | none =>
    have hfresh : (f (Flow.fresh ctx label)).named ctx label = true := by
      rw [hf]
      simp [Flow.named, Flow.fresh]
    rw [State.flow?_eq] at h ⊢
    simp [List.find?_append, h, hfresh]

/-- Every other flow is as it was. -/
theorem State.flow?_mapFlow_other {c : Nat} {l : W32} (hne : (c, l) ≠ (ctx, label)) :
    (s.mapFlow ctx label f).flow? c l = s.flow? c l := by
  have hother : ∀ x : Flow, x.named c l = true → x.named ctx label = false := by
    intro x hx
    obtain ⟨rfl, rfl⟩ := Flow.named_iff.1 hx
    refine Bool.eq_false_iff.2 (fun h => hne ?_)
    obtain ⟨rfl, rfl⟩ := Flow.named_iff.1 h
    rfl
  unfold State.mapFlow
  cases h : s.flow? ctx label with
  | some y =>
    calc (s.flows.map (fun x => if x.named ctx label then f x else x)).find? (Flow.named c l)
        _ = (s.flow? c l).map (fun x => if x.named ctx label then f x else x) := find?_map_flows hf s.flows c l
        _ = s.flow? c l := by
          cases hx : s.flow? c l with
          | none => rfl
          | some x => rw [Option.map_some, hother x (List.find?_some (p := Flow.named c l) hx)]; rfl
  | none =>
    have hfresh : (f (Flow.fresh ctx label)).named c l = false := by
      refine Bool.eq_false_iff.2 (fun hx => ?_)
      have hnot := hother _ hx
      rw [hf] at hnot
      simp [Flow.named, Flow.fresh] at hnot
    rw [State.flow?_eq, State.flow?_eq]
    simp [List.find?_append, hfresh]

end MapFlow

/-- A flow changed is nothing else changed. -/
theorem State.mapFlow_eq (s : State) (ctx : Nat) (label : W32) (f : Flow → Flow) :
    ∃ fs, s.mapFlow ctx label f = { s with flows := fs } := by
  unfold State.mapFlow
  split
  · exact ⟨_, rfl⟩
  · exact ⟨_, rfl⟩

/-- A flow after an item of a class has joined it with a sequence number (R29, R31). -/
def Flow.joined (cls dispatch : Nat) (seq : W32) (f : Flow) : Flow :=
  { f with next := f.next + 1,
           items := if ordered cls then f.items ++ [{ seq := seq, dispatch := dispatch, rel := .none }] else f.items,
           excl := if atomicClass cls then f.excl ++ [{ seq := seq, dispatch := dispatch, holds := false }] else f.excl }

/-- An item joins a flow with the flow's next number. -/
theorem State.joinFlow_eq (s : State) (ctx : Nat) (label : W32) (cls dispatch : Nat) :
    s.joinFlow ctx label cls dispatch =
      (s.mapFlow ctx label (Flow.joined cls dispatch ((s.flow? ctx label).getD (Flow.fresh ctx label)).next),
        ((s.flow? ctx label).getD (Flow.fresh ctx label)).next) := by
  have hseq : ((s.flow? ctx label).map (·.next)).getD 0 = ((s.flow? ctx label).getD (Flow.fresh ctx label)).next := by
    cases s.flow? ctx label <;> rfl
  unfold State.joinFlow
  rw [hseq]
  rfl

/-- Joining keeps the flow's name. -/
theorem Flow.joined_keepsName (cls dispatch : Nat) (seq : W32) : KeepsFlowName (Flow.joined cls dispatch seq) := fun _ _ _ => rfl

/-- Settles O16: an item's joining is one change of its flow, which keeps the flow's name. -/
theorem joiningAFlowTakesTheNextNumber : Obligations.JoiningAFlowTakesTheNextNumber := by
  intro s ctx cls dispatch label r before
  have hr : r = (s.mapFlow ctx label (Flow.joined cls dispatch before.next), before.next) := s.joinFlow_eq ctx label cls dispatch
  have hkeeps := Flow.joined_keepsName cls dispatch before.next
  obtain ⟨fs, hfs⟩ := s.mapFlow_eq ctx label (Flow.joined cls dispatch before.next)
  have hmem : (s.mapFlow ctx label (Flow.joined cls dispatch before.next)).mem = s.mem := by rw [hfs]
  have hwgs : (s.mapFlow ctx label (Flow.joined cls dispatch before.next)).wgs = s.wgs := by rw [hfs]
  rw [hr]
  refine ⟨rfl, ⟨_, State.flow?_mapFlow_same hkeeps s, rfl, rfl, ?_, ?_⟩, fun c l => State.flow?_mapFlow_other hkeeps s,
    hmem, hwgs⟩
  · simp only [Flow.joined, ordered, beq_iff_eq]
    rfl
  · simp only [Flow.joined, atomicClass, decide_eq_true_eq]
    rfl

/-! ### Warps at their start (R20, R42) -/

/-- A scalar register at entry (R20, R387). -/
theorem startScalars_getElem? {k : Kernel} {args : Word} {j : Nat} {r : Reg 64} (h : (startScalars k args)[j]? = some r) :
    r = { val := if j == 0 then k.data else if j == 1 then args else 0 } := by
  obtain ⟨i, hi, rfl⟩ := Option.map_eq_some_iff.1 (List.getElem?_map .. ▸ h)
  obtain ⟨-, rfl⟩ := List.getElem?_eq_some_iff.1 hi
  simp

/-- p7 reads true, and a write to it is discarded (R42). -/
theorem Lane.pred_seven (x : Lane) (v : Word) (p : Bool) : x.pred 7 = { v := 1, p := false } ∧ x.put (.pred 7) v p = x :=
  ⟨rfl, rfl⟩

/-- The other predicates of a lane at its start are 0. -/
theorem Lane.start_pred (k : Kernel) (root : LaneMask) (it : Option Item) {j : Nat} (hj : j < 7) :
    (Lane.start k root it).pred j = { v := 0, p := false } := by
  have hne : (j == 7) = false := beq_false_of_ne (Nat.ne_of_lt hj)
  have hget : (List.replicate 7 ({ val := 0 } : Reg 1))[j]? = some { val := 0 } := List.getElem?_replicate.trans (if_pos hj)
  unfold Lane.pred Lane.start
  simp only [hne, hget]
  rfl

/-- Settles O58: the registers of a started warp, read off its lists. -/
theorem warpsStartWithTheirRegisters : Obligations.WarpsStartWithTheirRegisters := by
  refine ⟨?_, Lane.pred_seven⟩
  intro k args items w
  refine ⟨List.length_map .., (List.length_map ..).trans List.length_range, rfl, fun r h => startScalars_getElem? h,
    fun r h => startScalars_getElem? h, fun j r hj h => ?_, fun l x hx => ?_⟩
  · have h0 : (j == 0) = false := beq_false_of_ne (by omega)
    have h1 : (j == 1) = false := beq_false_of_ne (by omega)
    rw [startScalars_getElem? h, h0, h1]
    rfl
  · obtain ⟨it, -, rfl⟩ := Option.map_eq_some_iff.1 (List.getElem?_map .. ▸ hx)
    exact ⟨List.length_replicate, fun r hr => List.eq_of_mem_replicate hr, rfl, fun j hj => Lane.start_pred k _ it hj, rfl⟩

/-! ### Reset -/

/-- Every device register is 0 at reset (R321, log 9). -/
theorem State.reset_devReg (r : Nat) : State.reset.devReg r = 0 := by
  show ((List.replicate 120 (0 : Word))[r - 0x100]?).getD 0 = 0
  rw [List.getElem?_replicate]
  split <;> rfl

/-- Settles O55: every field of the state after reset is its literal, and a memory that lists nothing is canonical. -/
theorem resetHoldsTheInvariant : Obligations.ResetHoldsTheInvariant :=
  ⟨⟨rfl, rfl, rfl, rfl, rfl, fun _ h => nomatch h⟩, rfl, rfl, rfl, fun r _ _ => State.reset_devReg r, rfl, rfl, rfl, rfl, rfl, rfl, rfl, rfl⟩

end Sys2Proof.Machine
end

section
/-!
SUPPORT. The one shape of the memory instructions (R202 to R211) where every access can be made now: then nothing is sent, drained or
waited for, and what is left are the accesses in order (`MemOp.run_ready`). O17 to O21 are its instances.
-/
namespace Sys2Proof.Machine

/-! ### Accesses that can be made now -/

/-- What a memory instruction asks of peers is what the claims say that it asks. -/
theorem MemOp.asks_eq (m : MemOp) (loc : Loc) (ps : List Part) : m.asks loc ps = Claims.askedParts m.gather m.acc loc ps := by
  unfold MemOp.asks Claims.askedParts
  simp

/-- Where no part needs anything, nothing is sent (R306). -/
theorem MemOp.send_of_no_need {m : MemOp} {s : State} {cx : Cx} {l : Nat} {loc : Loc} {ps : List Part} (scal : Bool)
    (h : ∀ q ∈ ps, s.peerNeed cx l (m.gather loc) m.detail q = .none) : m.send cx scal l loc ps s = s := by
  induction ps with
  | nil => rfl
  | cons p rest ih =>
    have hrest := ih (fun q hq => h q (List.mem_cons_of_mem p hq))
    have hp := h p List.mem_cons_self
    unfold MemOp.send
    cases rest with
    | nil => simpa [hp] using hrest
    | cons q qs => simpa [hp, h q (by simp)] using hrest

/-- The checks of `Claims.Ready` on one plan. -/
def ReadyPlan (m : MemOp) (s : State) (cx : Cx) (p : MemPlan) : Prop :=
  match p.2 with
  | .error o => o = .skip ∨ ∃ ws, o = .write ws 0 0
  | .ok (a, loc) => (m.drains loc = true → s.wcQuiet cx.g.core = true) ∧ m.holds s p.1 a loc = none ∧
      match loc with
      | .mem ps => ∀ q ∈ Claims.askedParts m.gather m.acc loc ps, s.peerNeed cx p.1 (m.gather loc) m.detail q = .none
      | .scr _ _ => True
      | _ => False

section Ready
variable {m : MemOp} {s : State} {cx : Cx} {plan : List MemPlan}

/-- An access that can be made now reaches no hole, prepares nothing and is decided as planned. -/
theorem ReadyPlan.ok {l : Nat} {a : Word} {loc : Loc} (scal : Bool) (h : ReadyPlan m s cx (l, .ok (a, loc))) :
    (∀ x, loc ≠ .hole x) ∧ m.prepare s cx scal l loc = s ∧ m.decide s cx (l, .ok (a, loc)) = (l, .ok (a, loc)) := by
  obtain ⟨hdrains, hholds, hloc⟩ := h
  have hquiet : (m.drains loc && !s.wcQuiet cx.g.core) = false := by
    cases hd : m.drains loc with
    | false => rfl
    | true => rw [hdrains hd]; rfl
  match loc, hloc with
  | .scr o off, _ =>
    refine ⟨nofun, ?_, ?_⟩
    · simp [MemOp.prepare, hquiet]
    · simp only [MemOp.decide, MemOp.status, hquiet]
      simp [hholds]
  | .mem ps, hneed =>
    have hneed : ∀ q ∈ m.asks (.mem ps) ps, s.peerNeed cx l (m.gather (.mem ps)) m.detail q = .none := by
      rw [MemOp.asks_eq]
      exact hneed
    refine ⟨nofun, ?_, ?_⟩
    · simp [MemOp.prepare, hquiet, MemOp.send_of_no_need scal hneed]
    · have hstatus : m.status s cx l a (.mem ps) = none := by
        unfold MemOp.status
        dsimp only
        rw [hquiet]
        refine List.findSome?_eq_none_iff.2 (fun q hq => ?_)
        rw [hneed q hq]
      simp only [MemOp.decide, hstatus]
      simp [hholds]

/-- What is prepared for the accesses of a plan. -/
def MemOp.prepareAll (m : MemOp) (cx : Cx) (scal : Bool) (plan : List MemPlan) (s : State) : State :=
  plan.foldl (fun s p => match p.2 with | .ok (_, loc) => m.prepare s cx scal p.1 loc | _ => s) s

/-- The lanes of a plan that make no access. -/
def leftOut (plan : List MemPlan) : List (Nat × LaneOut) :=
  plan.filterMap (fun p => match p.2 with | .error o => some (p.1, o) | _ => none)

/-- A memory instruction none of whose accesses reaches beyond the part. -/
theorem MemOp.run_of_no_hole (su long : Bool) (run : Nat) (h : planHole plan = none) :
    m.run s cx su long run plan =
      let t := m.prepareAll cx su plan s
      let decided := plan.map (m.decide t cx)
      if !m.each && waitsOf (leftOut decided) != [] then t.commit cx su long run (spreadOuts cx su (leftOut decided))
      else
        let r := m.performAll decided t
        let outs := spreadOuts cx su r.2
        if m.each then (r.1.forget cx.wid cx.k (answeredLanes outs)).commitEach cx su long run outs
        else (r.1.forget cx.wid cx.k cx.lanes).commit cx su long run outs := by
  unfold MemOp.run
  rw [h]
  rfl

variable (hready : ∀ p ∈ plan, ReadyPlan m s cx p)
include hready

/-- No access reaches beyond the part. -/
theorem planHole_of_ready : planHole plan = none := by
  unfold planHole
  rw [List.findSome?_eq_none_iff]
  rintro ⟨l, e⟩ hp
  match e, hready _ hp with
  | .error o, _ => rfl
  | .ok (a, loc), h =>
    have hhole := (ReadyPlan.ok false h).1
    cases loc with
    | hole x => exact absurd rfl (hhole x)
    | _ => rfl

/-- Nothing is prepared. -/
theorem prepareAll_of_ready (scal : Bool) : m.prepareAll cx scal plan s = s := by
  unfold MemOp.prepareAll
  induction plan with
  | nil => rfl
  | cons p ps ih =>
    rw [List.foldl_cons]
    have hp : (match p.2 with | .ok (_, loc) => m.prepare s cx scal p.1 loc | _ => s) = s := by
      match p, hready p List.mem_cons_self with
      | (l, .error o), _ => rfl
      | (l, .ok (a, loc)), h => exact (ReadyPlan.ok scal h).2.1
    rw [hp]
    exact ih (fun q hq => hready q (List.mem_cons_of_mem p hq))

/-- Every access is decided as planned. -/
theorem decide_of_ready : plan.map (m.decide s cx) = plan := by
  refine (List.map_congr_left (g := id) ?_).trans (List.map_id _)
  rintro ⟨l, e⟩ hp
  match e, hready _ hp with
  | .error o, _ => rfl
  | .ok (a, loc), h => exact (ReadyPlan.ok false h).2.2

/-- No lane that is left out waits. -/
theorem waitsOf_leftOut_of_ready : waitsOf (leftOut plan) = [] := by
  unfold waitsOf
  rw [List.filterMap_eq_nil_iff]
  intro o ho
  obtain ⟨⟨l, e⟩, hp, he⟩ := List.mem_filterMap.1 ho
  match e, hready _ hp with
  | .error _, .inl h =>
    cases h; cases he; rfl
  | .error _, .inr ⟨_, h⟩ =>
    cases h; cases he; rfl
  | .ok _, _ => cases he

end Ready

/-- The accesses one after another. -/
theorem MemOp.performAll_eq (m : MemOp) (plan : List MemPlan) (s : State) :
    m.performAll plan s = Claims.performed m.perform plan s := by
  induction plan generalizing s with
  | nil => rfl
  | cons p ps ih =>
    match p with
    | (l, .error o) => simp only [MemOp.performAll, Claims.performed, ih]
    | (l, .ok (a, loc)) => simp only [MemOp.performAll, Claims.performed, ih]

/-- A memory instruction whose accesses can all be made now makes them; it ends in each lane on its own or in all together. -/
theorem MemOp.run_performs {m : MemOp} {s : State} {cx : Cx} {plan : List MemPlan} (su long : Bool) (run : Nat)
    (hready : Claims.Ready s cx m.drains m.gather m.sz m.sp m.acc m.holds plan) :
    m.run s cx su long run plan =
      let r := Claims.performed m.perform plan s
      let outs := spreadOuts cx su r.2
      if m.each then (r.1.forget cx.wid cx.k (answeredLanes outs)).commitEach cx su long run outs
      else (r.1.forget cx.wid cx.k cx.lanes).commit cx su long run outs := by
  have hready : ∀ p ∈ plan, ReadyPlan m s cx p := hready
  rw [MemOp.run_of_no_hole su long run (planHole_of_ready hready)]
  simp only [prepareAll_of_ready hready, decide_of_ready hready, waitsOf_leftOut_of_ready hready, MemOp.performAll_eq, bne_self_eq_false,
    Bool.and_false]
  rfl

/-- A memory instruction whose accesses can all be made now, and which ends in all lanes together (R202 to R211). -/
theorem MemOp.run_ready {m : MemOp} {s : State} {cx : Cx} {plan : List MemPlan} (su long : Bool) (run : Nat) (heach : m.each = false)
    (hready : Claims.Ready s cx m.drains m.gather m.sz m.sp m.acc m.holds plan) :
    m.run s cx su long run plan = Claims.accessed s cx su long run m.perform plan := by
  rw [MemOp.run_performs su long run hready, heach]
  rfl

/-! ### Loads, stores and atomics -/

/-- Settles O17: a load is the shape with no wait of its own. -/
theorem loadsReadTheirBytes : Obligations.LoadsReadTheirBytes := by
  intro w s cx hcx su plan t hready hole
  show execLd w s = _
  unfold execLd
  rw [withCx_at hcx, MemOp.run_ready _ _ _ rfl hready]
  exact finish_next hole

/-- Settles O18: a store is the shape that waits for tiles being filled. -/
theorem storesWriteTheirBytes : Obligations.StoresWriteTheirBytes := by
  intro w s cx hcx su drains plan t hready hole
  show execSt w s = _
  unfold execSt
  rw [withCx_at hcx, MemOp.run_ready _ _ _ rfl hready]
  exact finish_next hole

/-- Settles O20: ATOM and CAS are the shape that waits for tiles being filled and stops at what the host does not have. -/
theorem atomicsReadModifyWrite : Obligations.AtomicsReadModifyWrite := by
  constructor
  · intro w s cx hcx su op nr d plan t hready hole
    show execAtom w s = _
    unfold execAtom
    rw [withCx_at hcx, MemOp.run_ready _ _ _ rfl hready]
    exact finish_next hole
  · intro w s cx hcx exp new plan t hready hole
    show execCas w s = _
    unfold execCas
    rw [withCx_at hcx, MemOp.run_ready _ _ _ rfl hready]
    exact finish_next hole

/-! ### Consuming loads -/

/-- Where every access is ready, no tile of them is unready: the first access would wait for it. -/
theorem firstUnready_of_ready {m : MemOp} {s : State} {cx : Cx} {plan : List MemPlan} {sz n : Nat}
    (hholds : ∀ l a loc, m.holds s l a loc = jointHold s plan sz n a loc) (hready : ∀ p ∈ plan, ReadyPlan m s cx p) :
    firstUnready s plan n (fun t => !t.ready) = none := by
  cases h : firstUnready s plan n (fun t => !t.ready) with
  | none => rfl
  | some t =>
    obtain ⟨⟨l, e⟩, hp, he⟩ := List.exists_of_findSome?_eq_some h
    match e, he, hready _ hp with
    | .ok (a, .scr o off), _, ⟨_, hhold, _⟩ =>
      rw [hholds, jointHold] at hhold
      simp [h] at hhold

/-- LDC in the shape of the memory instructions. -/
def ldcOp (s : State) (cx : Cx) (su : Bool) (w : FmtM) : MemOp :=
  { drains := fun _ => false, sz := w.sz.toNat, acc := 0, what := fun _ _ => .access .load,
    holds := fun s' _ a loc => jointHold s' ((actors cx su).map (loadPlan s cx su w)) w.sz.toNat (szBytes w.sz) a loc,
    perform := fun s l _ loc => (s, .write (loadWrites l w.d (s.locBytes cx l loc (szBytes w.sz))) 0 0) }

/-- No access that is ready waits. -/
theorem any_wait_of_ready {m : MemOp} {s : State} {cx : Cx} {plan : List MemPlan} (hready : ∀ p ∈ plan, ReadyPlan m s cx p) :
    plan.any (fun p => match p.2 with | .ok (_, .wait _) => true | _ => false) = false := by
  rw [List.any_eq_false]
  rintro ⟨l, e⟩ hp
  match e, hready _ hp with
  | .error _, _ | .ok (_, .mem _), _ | .ok (_, .scr _ _), _ => nofun

/-- Settles O19: no tile is unready and no lane waits, so the tiles are consumed after the reads. -/
theorem consumingLoadsReadThenConsume : Obligations.ConsumingLoadsReadThenConsume := by
  intro w s cx hcx su n plan t hready hole
  show execLdc w s = _
  unfold execLdc
  rw [withCx_at hcx]
  have hplan : ∀ p ∈ plan, ReadyPlan (ldcOp s cx su w) s cx p := hready
  have hgo : ((planHole plan).isSome || (firstUnready s plan n (fun t => !t.ready)).isSome ||
      plan.any (fun p => match p.2 with | .ok (_, .wait _) => true | _ => false)) = false := by
    rw [planHole_of_ready hplan, firstUnready_of_ready (fun _ _ _ => rfl) hplan, any_wait_of_ready hplan]
    rfl
  have hrun : (ldcOp s cx su w).run s cx su true w.run.toNat plan =
      Claims.accessed s cx su true w.run.toNat (ldcOp s cx su w).perform plan := MemOp.run_ready _ _ _ rfl hready
  refine Eq.trans (congrArg finish ((if_neg (ne_true_of_eq_false hgo)).trans ?_)) (finish_next hole)
  exact congrArg (fun u => (planTiles plan n).foldl (fun s t => s.mapWg t.1 (fun g => g.consume t.2)) u) hrun

/-! ### Tags -/

/-- Accesses that can be made now can be made with other waits that do not arise either. -/
theorem Claims.Ready.of_holds {s : State} {cx : Cx} {drains gather : Loc → Bool} {sz sp acc : Nat}
    {holds holds' : State → Nat → Word → Loc → Option LaneOut} {plan : List MemPlan}
    (h : Claims.Ready s cx drains gather sz sp acc holds plan) (heq : ∀ p ∈ plan, ∀ a loc, holds' s p.1 a loc = holds s p.1 a loc) :
    Claims.Ready s cx drains gather sz sp acc holds' plan := by
  rintro ⟨l, e⟩ hp
  match e, h _ hp with
  | .error o, ho => exact ho
  | .ok (a, loc), ⟨hdrains, hhold, hloc⟩ => exact ⟨hdrains, (heq _ hp a loc).trans hhold, hloc⟩

/-- A tag instruction's plan is its lane's. -/
theorem tagPlan_fst (s : State) (cx : Cx) (w : FmtM) (l : Nat) : (tagPlan s cx w l).1 = l := by
  unfold tagPlan planAt
  split
  · rfl
  · simp only [Bool.false_eq_true, if_false]
    split <;> rfl

/-- A tile is in POISON where its tag says so (R58). -/
theorem Tag.state_eq_three_iff {t : Tag} : (t.state == 3) = true ↔ t = .poison := by
  cases t <;> simp [Tag.state]

/-- Settles O21: the tag instructions are the shape on whole tiles. -/
theorem tagInstructionsSetAndTest : Obligations.TagInstructionsSetAndTest := by
  refine ⟨?_, ?_, ?_, ?_⟩
  · intro w s cx hcx plan tiles t hready hole
    show execTwait w s = _
    unfold execTwait tagOp
    rw [withCx_at hcx, MemOp.run_ready _ _ _ rfl hready]
    exact finish_next hole
  · intro w s cx hcx plan n t hn hready hole
    show execTset w s = _
    unfold execTset tagOp
    have hcount : ∀ p ∈ plan, (n p.1 == 0 || decide (8 < n p.1)) = false := by
      intro p hp
      obtain ⟨l, hl, rfl⟩ := List.mem_map.1 hp
      obtain ⟨hlow, hhigh⟩ := hn l hl
      simp only [tagPlan_fst, Bool.or_eq_false_iff, beq_eq_false_iff_ne, decide_eq_false_iff_not]
      omega
    have hready := Claims.Ready.of_holds (holds' := fun s l a loc =>
        if n l == 0 || 8 < n l then some (.stop cx.illegal) else fillingHold s (a &&& ~~~0xFF) loc w.sz.toNat 0 1)
      hready (fun p hp a loc => if_neg (ne_true_of_eq_false (hcount p hp)))
    rw [withCx_at hcx, MemOp.run_ready _ _ _ rfl hready]
    exact finish_next hole
  · intro w s cx hcx plan t hready hole
    show execTclr w s = _
    unfold execTclr tagOp
    rw [withCx_at hcx, MemOp.run_ready _ _ _ rfl hready]
    simp only [Tag.state_eq_three_iff]
    exact finish_next hole
  · intro w s cx hcx plan t hready hole
    show execTtest w s = _
    unfold execTtest tagOp
    rw [withCx_at hcx, MemOp.run_ready _ _ _ rfl hready]
    exact finish_next hole

end Sys2Proof.Machine
end

section
/-!
SUPPORT. Cache hints and fences (R206, R211) and ENQ (R194): O22 and O23.
-/
namespace Sys2Proof.Machine

/-! ### ENQ -/

/-- ENQ in the shape of the memory instructions (R194). -/
def enqOp (s : State) (cx : Cx) (w : FmtA) : MemOp :=
  { drains := fun loc => drainsFirst 0 0 loc, sz := 6, acc := 0, what := fun _ _ => .access .load,
    holds := fun s' l _ loc =>
      match (s'.enqueue cx.ctx (readOp s cx l 1 w.b).v.toNat ((s'.locBytes cx l loc 64).map (·.1))).2 with
      | .error va => some (LaneOut.wait (.repair (va / 4096)) false)
      | .ok _ => none,
    each := cx.lanes.any (fun l => s.queueAtPeer cx.ctx (readOp s cx l 1 w.b).v.toNat),
    perform := fun s' l _ loc =>
      match cx.lane? l with
      | none => (s', .skip)
      | some x =>
        let t := s'.locTouch cx loc
        if (t.locBytes cx l loc 64).any (·.2) then (t, flowPoison x)
        else
          let r := t.enqueue cx.ctx (readOp s cx l 1 w.b).v.toNat ((t.locBytes cx l loc 64).map (·.1))
          match r.2 with
          | .error va => (r.1, .wait (.repair (va / 4096)) false)
          | .ok st => (r.1, .write (destWrites l w.d 1 (BitVec.ofNat 64 st) false) 0 0) }

/-- A queue whose ENQ is decided is not waited for: its descriptor's read does not stall. -/
theorem State.queueWait_of_decided {s : State} {c : Context} {q st : Nat} {bs : List Byte} (h : (s.enqueue c q bs).2 = .ok st) :
    s.queueWait c q = s := by
  refine if_neg (fun hstall => ?_)
  simp only [Bool.and_eq_true, decide_eq_true_eq, beq_iff_eq] at hstall
  obtain ⟨hq, hread⟩ := hstall
  rw [State.enqueue, if_neg (Nat.not_le_of_lt hq), hread] at h
  exact absurd h nofun

/-- No queue that the ready accesses name is waited for. -/
theorem queueWaits_of_ready {s : State} {cx : Cx} {w : FmtA} {plan : List MemPlan}
    (hready : ∀ p ∈ plan, ReadyPlan (enqOp s cx w) s cx p) :
    plan.foldl (fun s' p => match p.2 with
      | .ok (_, .mem _) => s'.queueWait cx.ctx (readOp s cx p.1 1 w.b).v.toNat
      | _ => s') s = s := by
  induction plan with
  | nil => rfl
  | cons p ps ih =>
    have hp : (match p.2 with
        | .ok (_, .mem _) => s.queueWait cx.ctx (readOp s cx p.1 1 w.b).v.toNat
        | _ => s) = s := by
      match p, hready p List.mem_cons_self with
      | (l, .error o), _ | (l, .ok (a, .scr o off)), _ => rfl
      | (l, .ok (a, .mem qs)), ⟨_, hholds, _⟩ =>
        have hdecided : ∃ st, (s.enqueue cx.ctx (readOp s cx l 1 w.b).v.toNat ((s.locBytes cx l (.mem qs) 64).map (·.1))).2 = .ok st := by
          simp only [enqOp] at hholds
          split at hholds
          · exact absurd hholds nofun
          · next st hst => exact ⟨st, hst⟩
        exact State.queueWait_of_decided hdecided.choose_spec
    rw [List.foldl_cons, hp]
    exact ih (fun q hq => hready q (List.mem_cons_of_mem p hq))

/-- Settles O23: a queue that does not stall is not waited for, and the rest is the shape. -/
theorem enqueuePutsPackets : Obligations.EnqueuePutsPackets := by
  intro w s cx hcx q bytes plan perform r t hready hole
  have hrun : (enqOp s cx w).run s cx false false 0 plan = t := MemOp.run_performs false false 0 hready
  show execEnq w s = _
  unfold execEnq
  rw [withCx_at hcx]
  have hqueues := queueWaits_of_ready (plan := plan) hready
  exact (congrArg finish ((congrArg (fun u : State =>
    MemOp.run { enqOp s cx w with each := cx.lanes.any (fun l => u.queueAtPeer cx.ctx (q l)) } u cx false false 0 plan) hqueues).trans hrun)).trans (finish_next hole)

/-! ### Cache hints and fences -/

/-- What a hint does to the caches, where its address names a line (R206). -/
def State.hintAt (s : State) (line : Option Nat) (f : Nat → MemState → MemState) : State :=
  match line with
  | some line => { s with mem := f line s.mem }
  | none => s

/-- What the hints of the lanes do, one after another. -/
def State.hints (s : State) (cx : Cx) (su : Bool) (w : FmtM) (f : Nat → Nat → MemState → MemState) (ls : List Nat) : State :=
  ls.foldl (fun s l => s.hintAt (s.hintLine cx l (addrOf s cx su l w true).v) (f cx.g.core)) s

/-- The same by what each lane has come to: one that stops gives no hint. -/
def State.hintsOver (s : State) (cx : Cx) (su : Bool) (w : FmtM) (f : Nat → Nat → MemState → MemState) (outs : List (Nat × LaneOut)) :
    State :=
  outs.foldl (fun s o => if o.2 == .skip then s.hintAt (s.hintLine cx o.1 (addrOf s cx su o.1 w true).v) (f cx.g.core) else s) s

/-- A lane that goes on is told from the others. -/
theorem laneOut_skip_beq : (LaneOut.skip == LaneOut.skip) = true := by decide

/-- Where no lane stops, each gives its hint. -/
theorem hintsOver_skips (s : State) (cx : Cx) (su : Bool) (w : FmtM) (f : Nat → Nat → MemState → MemState) (ls : List Nat) :
    s.hintsOver cx su w f (ls.map (fun l => (l, .skip))) = s.hints cx su w f ls := by
  unfold State.hintsOver State.hints
  rw [List.foldl_map]
  exact List.foldl_ext _ _ _ (fun s l _ => if_pos laneOut_skip_beq)

/-- A hint changes only the caches. -/
theorem State.hintAt_hole (s : State) (line : Option Nat) (f : Nat → MemState → MemState) : (s.hintAt line f).hole = s.hole := by
  cases line <;> rfl

/-- Hints change only the caches. -/
theorem State.hints_hole (s : State) (cx : Cx) (su : Bool) (w : FmtM) (f : Nat → Nat → MemState → MemState) (ls : List Nat) :
    (s.hints cx su w f ls).hole = s.hole := by
  unfold State.hints
  induction ls generalizing s with
  | nil => rfl
  | cons l ls ih => rw [List.foldl_cons, ih, State.hintAt_hole]

/-- Where every acting lane goes on, every executing lane does. -/
theorem spreadOuts_skip (cx : Cx) (su : Bool) :
    spreadOuts cx su ((actors cx su).map (fun l => (l, .skip))) = cx.lanes.map (fun l => (l, .skip)) := by
  cases su <;> rfl

/-- A hint whose addresses are not poisoned: every lane goes on. -/
theorem hintOp_clean {i : Instr} {w : FmtM} {f : Nat → Nat → MemState → MemState} {s : State} {cx : Cx} (hat : Claims.At s cx)
    (hclean : ∀ l ∈ actors cx (form i).scalarUnit, (cx.lane? l).isSome ∧ (addrOf s cx (form i).scalarUnit l w true).p = false) :
    hintOp i w f s = .next ((s.hints cx (form i).scalarUnit w f (actors cx (form i).scalarUnit)).mapWarp cx.wid cx.k (fun y =>
      y.commit cx.next false 0 (cx.lanes.map (fun l => (l, .skip))))) := by
  obtain ⟨hcx, hole⟩ := hat
  have houts : (actors cx (form i).scalarUnit).map (fun l =>
        match cx.lane? l with
        | none => (l, LaneOut.skip)
        | some x => (l, if (addrOf s cx (form i).scalarUnit l w true).p then .stop (poisonStop x 1) else .skip)) =
      (actors cx (form i).scalarUnit).map (fun l => (l, LaneOut.skip)) := by
    refine List.map_congr_left (fun l hl => ?_)
    obtain ⟨hlane, hpoison⟩ := hclean l hl
    obtain ⟨x, hx⟩ := Option.isSome_iff_exists.1 hlane
    rw [hx, hpoison]
    rfl
  have hwaits : waitsOf (cx.lanes.map (fun l => (l, LaneOut.skip))) = [] := waitsOf_map_nil (fun _ _ _ _ => nofun)
  have hstops : stopsOf (cx.lanes.map (fun l => (l, LaneOut.skip))) = [] := stopsOf_map_nil (fun _ _ _ => nofun)
  unfold hintOp
  rw [withCx_at hcx]
  refine Eq.trans (congrArg finish ?_) (finish_next ((State.hints_hole s cx _ w f _).trans hole))
  refine (congrArg (fun t : State => t.commit cx (form i).scalarUnit false 0 (spreadOuts cx (form i).scalarUnit _))
    (List.foldl_ext _ _ _ (fun s o _ => ?_))).trans
    ((congrArg (fun outs => (s.hintsOver cx (form i).scalarUnit w f outs).commit cx (form i).scalarUnit false 0
      (spreadOuts cx (form i).scalarUnit outs)) houts).trans ?_)
  · generalize s.hintLine cx o.1 (addrOf _ cx (form i).scalarUnit o.1 w true).v = line
    cases line <;> rfl
  · rw [spreadOuts_skip, State.commit_done _ _ _ hwaits hstops]
    exact congrArg (fun t : State => t.mapWarp cx.wid cx.k _) (hintsOver_skips s cx _ w f _)

/-- Settles O22: a hint changes the caches and goes on; a fence has nothing to send and nothing to wait for. -/
theorem cacheHintsAndFencesGoOn : Obligations.CacheHintsAndFencesGoOn := by
  refine ⟨?_, ?_⟩
  · intro i w f s cx hat hi su ls hclean hlanes
    have hexec : exec i s = hintOp i w f s := by
      rcases hi with ⟨rfl, rfl⟩ | ⟨rfl, rfl⟩ | ⟨rfl, rfl⟩ | ⟨rfl, rfl⟩ | ⟨rfl, rfl⟩
      · show execPref w s = _
        simp only [execPref, beq_iff_eq]
      all_goals rfl
    rw [hexec, hintOp_clean hat hclean]
    refine congrArg (fun t : State => Host.Outcome.next (t.mapWarp cx.wid cx.k _)) (List.foldl_ext _ _ _ (fun s l _ => ?_))
    generalize s.hintLine cx l (addrOf _ cx _ l w true).v = line
    cases line <;> rfl
  · intro w s cx hat hquiet
    obtain ⟨hcx, hole⟩ := hat
    have hnone : ∀ e ∈ s.fab.wc, (e.core == cx.g.core) = false := by
      simpa [State.wcQuiet] using hquiet
    have hdrain : s.drainWc (fun e => e.core == cx.g.core) = s := by
      unfold State.drainWc
      rw [List.filter_eq_nil_iff.2 (fun e he => by simp [hnone e he])]
      rfl
    have hunsent : s.unsent cx.g.core = [] := List.filter_eq_nil_iff.2 (fun e he => by rw [hnone e he]; nofun)
    have hwaits : waitsOf (cx.lanes.map (fun l => (l, LaneOut.skip))) = [] := waitsOf_map_nil (fun _ _ _ _ => nofun)
    have hstops : stopsOf (cx.lanes.map (fun l => (l, LaneOut.skip))) = [] := stopsOf_map_nil (fun _ _ _ => nofun)
    show execFence w s = _
    unfold execFence
    rw [withCx_at hcx]
    refine (congrArg finish ?_).trans (finish_next (s := Claims.cross s cx (fun _ => .skip)) hole)
    simp only [hdrain, hquiet, hunsent, ite_self, Bool.not_true, Bool.and_false, bne_self_eq_false, Bool.false_eq_true, if_false]
    exact State.commit_done false false 0 hwaits hstops

end Sys2Proof.Machine
end

section
/-!
SUPPORT. The flow instructions (R188 to R193): O15. Lanes that take effect one after another are `Claims.inTurn`, and each instruction's
effect on one lane is the one that the claims name.
-/
namespace Sys2Proof.Machine

/-- Lanes in order, none of which waits or stops: what they did, and then every lane goes on. -/
theorem State.inOrder_done {s : State} {cx : Cx} {f : State → Nat → Lane → State × LaneOut} (hwaits : waitsOf (Claims.inTurn cx f s).2 = [])
    (hstops : stopsOf (Claims.inTurn cx f s).2 = []) :
    s.inOrder cx f = (Claims.inTurn cx f s).1.mapWarp cx.wid cx.k (fun y => y.commit cx.next false 0 (Claims.inTurn cx f s).2) :=
  State.commit_done (s := (Claims.inTurn cx f s).1) (cx := cx) false false 0 hwaits hstops

/-- The flow instructions but FLOWKILL take effect lane by lane (R189 to R192). -/
theorem exec_inOrder_of_flowRule {i : Instr} {f : State → Nat → Lane → State × LaneOut} {s : State} {cx : Cx} {below : List (Word × Word)}
    (hcx : s.cx? = some cx) (hrule : Claims.flowRule cx below i = some f) (hkill : ∀ w, i ≠ .flowkill w)
    (hordrel : ∀ w, i = .ordrel w → s.wcQuiet cx.g.core = true ∧ s.ordrelHold cx = none) : exec i s = finish (s.inOrder cx f) := by
  cases i with
  | relabel w =>
    cases hrule
    exact withCx_at hcx _
  | ordrel w =>
    obtain ⟨hquiet, hhold⟩ := hordrel w rfl
    cases hrule
    show execOrdrel w s = _
    unfold execOrdrel
    rw [withCx_at hcx, hquiet, hhold]
    rfl
  | ordskip w =>
    cases hrule
    exact withCx_at hcx _
  | hold w =>
    cases hrule
    exact withCx_at hcx _
  | flowkill w => exact absurd rfl (hkill w)
  | _ => cases hrule

/-- Settles O15: the lanes take their turns; FLOWKILL reads the flow queues before and ends the killed lanes after. -/
theorem flowInstructionsTakeEffectInLaneOrder : Obligations.FlowInstructionsTakeEffectInLaneOrder := by
  intro i f s cx hcx hrule hordrel read r u
  refine ⟨?_, fun hwaits hstops => ⟨?_, ?_⟩⟩
  · rintro w p rfl hstall t hole
    show execFlowkill w s = _
    unfold execFlowkill
    rw [withCx_at hcx, hstall]
    exact finish_next hole
  · intro hkill hole
    have hread : read = s := by
      cases i with
      | flowkill w => exact absurd rfl (hkill w)
      | _ => rfl
    rw [exec_inOrder_of_flowRule hcx hrule hkill hordrel]
    have hdone : s.inOrder cx f = u := by
      have hr : r = Claims.inTurn cx f s := congrArg (Claims.inTurn cx f) hread
      show _ = r.1.mapWarp cx.wid cx.k (fun y => y.commit cx.next false 0 r.2)
      rw [hr] at hwaits hstops ⊢
      exact State.inOrder_done hwaits hstops
    rw [hdone]
    exact finish_next hole
  · rintro w rfl hstall hole
    cases hrule
    show execFlowkill w s = _
    unfold execFlowkill
    rw [withCx_at hcx, hstall]
    refine (congrArg (fun t : State => finish t.endKilled.tidy) ?_).trans (finish_next hole)
    exact State.inOrder_done hwaits hstops

end Sys2Proof.Machine
end

section
/-!
SUPPORT. Engine words whose operands pass the checks (R201, R212 to R233): O24 and O25. Each plan is `.issue` of the operation that the
claims name, and an operation for which there is room is issued.
-/
namespace Sys2Proof.Machine

/-! ### The frame of an engine word -/

/-- Every lane goes on. -/
theorem State.passAll_eq (s : State) (cx : Cx) : s.passAll cx = Claims.cross s cx (fun _ => .write [] 0 0) :=
  State.commit_done false false 0 (waitsOf_map_nil (fun _ _ _ _ => nofun)) (stopsOf_map_nil (fun _ _ _ => nofun))

/-- The issue of an operation leaves the HBM alone. -/
theorem State.issueOp_hole (s : State) (cx : Cx) (h : Option Nat) (kind : OpKind) (ev : Nat) : (s.issueOp cx h kind ev).hole = s.hole := by
  unfold State.issueOp
  cases h <;> cases kind.recorded <;> rfl

/-- An operation for which there is room is issued (R201, R213, R226). -/
theorem State.engine_issues {s : State} {cx : Cx} {h : Nat} {kind : OpKind} {ev : Nat} (hroom : Claims.CanIssue s cx h kind) :
    s.engine cx (some h) (.issue kind ev) = Claims.issued s cx h kind ev := by
  obtain ⟨hpending, hboard, hqueue⟩ := hroom
  have hfree : (s.handleSt (cx.w.handle h) == .pending) = false := beq_false_of_ne hpending
  have hslot : (kind.board.isSome && decide (32 ≤ (s.board cx.g.core).length)) = false := by
    cases hb : kind.board.isSome with
    | false => rfl
    | true => simpa using hboard hb
  unfold State.engine
  simp only [hfree, hslot, hqueue, Bool.false_eq_true, if_false, Bool.not_true]
  exact State.passAll_eq _ cx

/-- An operation that its plan issues is issued where there is room. -/
theorem exec_of_issue {i : Instr} {s : State} {cx : Cx} {h : Nat} {kind : OpKind} {ev : Nat} {plan : Cx → EngPlan} (hat : Claims.At s cx)
    (hroom : Claims.CanIssue s cx h kind) (hexec : exec i s = withCx s (fun cx => s.engine cx (some h) (plan cx)))
    (hplan : plan cx = .issue kind ev) : exec i s = .next (Claims.issued s cx h kind ev) := by
  obtain ⟨hcx, hole⟩ := hat
  rw [hexec, withCx_at hcx, hplan, State.engine_issues hroom]
  exact finish_next ((State.issueOp_hole s cx _ kind ev).trans hole)

/-- A memory side that passes its check (R212). -/
theorem memSide_of_side {cx : Cx} {scr : Bool} {a : Word} {n : Nat} {m : Ep} (acc : Nat) (k : Ep → EngPlan) (h : Claims.Side cx scr a n m) :
    memSide cx scr a n acc k = k m := by
  match scr, m, h with
  | true, .scr o b, h => simp [memSide, scrSide, show cx.g.scratch a.toNat n = some (o, b) from h]
  | false, .glob v, h => simp [memSide, show v = a from h]

/-- A scratch side that passes its check. -/
theorem scrSide_of_side {cx : Cx} {a : Word} {n : Nat} {m : Ep} (acc : Nat) (k : Ep → EngPlan) (h : Claims.Side cx true a n m) :
    scrSide cx a n acc k = k m :=
  memSide_of_side (scr := true) acc k h

/-- A uniform operand that is not poisoned. -/
theorem engOp_of_uniform {s : State} {cx : Cx} {t : BitVec 4} {c : Code} {v : Word} (h : Claims.Uniform s cx t c v) :
    engOp s cx t c = { v := v, p := false } := h

/-! ### COPY, TCOPY and WNST (R217 to R224) -/

/-- The event-and-map operand of COPY. -/
theorem copyEvent_of_eventMap {s : State} {cx : Cx} {w : FmtE} {ev map : Nat} (h : Claims.EventMap s cx w ev map) :
    ∃ d : Word, copyEvent s cx w = { v := d, p := false } ∧ bitsOf d.toNat 0 16 = ev ∧ bitsOf d.toNat 16 16 = map := by
  obtain ⟨d, rfl, rfl, ⟨hzero, rfl⟩ | ⟨hne, hd⟩⟩ := h
  · exact ⟨0, by simp [copyEvent, hzero], rfl, rfl⟩
  · exact ⟨d, by rw [copyEvent, if_neg (by simpa using hne), engOp_of_uniform hd], rfl, rfl⟩

/-- The plan of a copy whose operands pass the checks that all modes share. -/
theorem copyPlan_of_fits {s : State} {cx : Cx} {w : FmtE} {a b : Word} {n ev map : Nat} {src : Ep}
    (h : Claims.CopyFits s cx w a b n ev map src) (hmap : w.mode = 2 ∨ map = 0) :
    copyPlan s cx w =
      match w.mode with
      | 0 =>
        if a.toNat % 16 != 0 then engMem .align a 4 w.dscr.toNat 1
        else memSide cx w.dscr a n 1 (fun dst => .issue (.copy dst src n (w.cc + 1)) ev)
      | 1 =>
        if (Member.ofWord a).off % 16 != 0 then engMem .align (BitVec.ofNat 64 (Member.ofWord a).off) 4 1 1
        else .issue (.remote none false [(0, Member.ofWord a)] src n (w.cc + 1)) ev
      | _ =>
        if a.toNat % 8 != 0 then engMem .align a 3 0 0
        else .issue (.remote (some (a, map)) true [] src n (w.cc + 1)) ev := by
  obtain ⟨hright, ha, hb, ⟨v, hv, rfl⟩, hev, hsize, hmax, halign, hside⟩ := h
  obtain ⟨d, hd, rfl, rfl⟩ := copyEvent_of_eventMap hev
  have hmode : (w.mode != 2 && bitsOf d.toNat 16 16 != 0) = false := by
    rcases hmap with h | h <;> simp [h]
  unfold copyPlan
  simp only [engOp_of_uniform ha, engOp_of_uniform hb, engOp_of_uniform hv, hd, hright, hsize, halign, hmode, anyPoison, List.any_cons,
    List.any_nil, Bool.or_false, Bool.not_true, Bool.false_eq_true, if_false, bne_self_eq_false, Bool.false_or, decide_eq_true_eq,
    if_neg (Nat.not_lt.2 hmax), memSide_of_side _ _ hside] <;> rfl

/-- The copies of R217 to R221 are planned as the claims say. -/
theorem exec_of_copies {i : Instr} {s : State} {cx : Cx} {kind : OpKind} {ev : Nat} (hat : Claims.At s cx)
    (h : Claims.Copies s cx i kind ev) (hroom : Claims.CanIssue s cx (Claims.handleOf i) kind) :
    exec i s = .next (Claims.issued s cx (Claims.handleOf i) kind ev) := by
  cases i with
  | copyLocal w =>
    obtain ⟨a, b, n, src, dst, hmode, hfits, halign, hside, rfl⟩ := h
    refine exec_of_issue (plan := fun cx => copyPlan s cx w) hat hroom rfl ((copyPlan_of_fits hfits (.inr rfl)).trans ?_)
    simp [hmode, halign, memSide_of_side _ _ hside]
  | copyRemote w =>
    obtain ⟨a, b, n, src, hmode, hfits, halign, rfl⟩ := h
    refine exec_of_issue (plan := fun cx => copyPlan s cx w) hat hroom rfl ((copyPlan_of_fits hfits (.inr rfl)).trans ?_)
    simp [hmode, halign, Member.ofWord]
  | copyMulticast w =>
    obtain ⟨a, b, n, map, src, hmode, hfits, halign, rfl⟩ := h
    refine exec_of_issue (plan := fun cx => copyPlan s cx w) hat hroom rfl ((copyPlan_of_fits hfits (.inl hmode)).trans ?_)
    simp [hmode, halign]
  | copyDrain w =>
    obtain ⟨p, hright, hp, hmax, hev, rfl⟩ := h
    refine exec_of_issue hat hroom rfl ?_
    obtain ⟨d, hd, rfl, hzero⟩ := copyEvent_of_eventMap hev
    rw [engOp_of_uniform hp, hd]
    simp [hright, hzero, anyPoison, Nat.not_lt.2 hmax]
  | _ => exact h.elim

/-- The descriptor of a TCOPY is the one that the claims name. -/
theorem conversion_eq (x y : Word) (n : Nat) : Claims.conversion x y n = Convert.ofWords x y n := rfl

/-- A region of a WNST that is not mapped, or whose page is in the HBM of this device. -/
theorem regionPlan_of_local {s : State} {cx : Cx} {region : Word} (next : EngPlan) (hlow : region.toNat < 2 ^ 48)
    (htarget : ∀ f, s.translate (dieOf cx.g.core) 1000 cx.ctx region.toNat = .ok f → f.target = .hbm)
    (hhole : ∀ h, s.translate (dieOf cx.g.core) 1000 cx.ctx region.toNat ≠ .hole h) : regionPlan s cx region next = next := by
  unfold regionPlan
  rw [if_neg (Nat.not_le.2 hlow)]
  cases htr : s.translate (dieOf cx.g.core) 1000 cx.ctx region.toNat with
  | ok f => simp [htarget f htr]
  | hole a => exact absurd htr (hhole a)
  | stop => rfl

/-- TCOPY and WNST are planned as the claims say. -/
theorem exec_of_converts {i : Instr} {s : State} {cx : Cx} {kind : OpKind} (hat : Claims.At s cx) (h : Claims.Converts s cx i kind)
    (hroom : Claims.CanIssue s cx (Claims.handleOf i) kind) : exec i s = .next (Claims.issued s cx (Claims.handleOf i) kind 0) := by
  cases i with
  | tcopy w =>
    obtain ⟨a, b, x, y, n, src, dst, hright, ha, hb, hx, hy, hn, hfmt, hplanes, hone, hmax, halign, hdst, hsrc, rfl⟩ := h
    refine exec_of_issue hat hroom rfl ?_
    rw [engOp_of_uniform ha, engOp_of_uniform hb, engOp_of_uniform hx, engOp_of_uniform hy, engOp_of_uniform hn, conversion_eq]
    rw [conversion_eq] at hfmt hplanes hone hmax hdst hsrc
    have hbad : ((Convert.ofWords x y n.toNat).fmt == 8 && (Convert.ofWords x y n.toNat).planes != 1) = false := by
      cases h : (Convert.ofWords x y n.toNat).fmt == 8 with
      | false => rfl
      | true => simp [hplanes (by simpa using h)]
    have htiles : (Convert.ofWords x y n.toNat).tiles =
        if (Convert.ofWords x y n.toNat).fmt = 8 then 26 else 3 * (Convert.ofWords x y n.toNat).planes + 2 := by
      simp [Convert.tiles]
    simp only [hright, anyPoison, List.any_cons, List.any_nil, hbad, halign, Bool.or_false, Bool.not_true,
      Bool.false_eq_true, if_false, bne_self_eq_false, htiles, scrSide_of_side _ _ hdst, memSide_of_side _ _ hsrc]
    exact if_neg (by simp only [Bool.or_eq_true, decide_eq_true_eq, beq_iff_eq]; omega)
  | wnst w =>
    obtain ⟨a, b, base, n, src, hright, ha, hb, hbase, hn, hone, hmax, halign, hlow, htarget, hhole, hsrc, rfl⟩ := h
    refine exec_of_issue hat hroom rfl ?_
    rw [engOp_of_uniform ha, engOp_of_uniform hb, engOp_of_uniform hbase, engOp_of_uniform hn]
    have hill : (n.toNat == 0 || decide (16384 < n.toNat)) = false := by
      simp only [Bool.or_eq_false_iff, decide_eq_false_iff_not, beq_eq_false_iff_ne]
      omega
    simp only [hright, anyPoison, List.any_cons, List.any_nil, hill, halign, Bool.or_false, Bool.not_true, Bool.false_eq_true, if_false,
      bne_self_eq_false, regionPlan_of_local _ hlow htarget hhole, memSide_of_side _ _ hsrc]
  | _ => exact h.elim

/-- Settles O24: every such word is planned as the claims say, and issued. -/
theorem copiesAndConversionsAreIssued : Obligations.CopiesAndConversionsAreIssued := by
  rintro i s cx kind ev hat (h | ⟨rfl, h⟩) hroom
  · exact exec_of_copies hat h hroom
  · exact exec_of_converts hat h hroom

/-! ### Matrix commands (R226 to R233) -/

/-- The plan of ACST and ACLD (R233). -/
def accPlan (s : State) (cx : Cx) (w : FmtE) (store : Bool) : EngPlan :=
  let a := engOp s cx 3 w.a
  let b := engOp s cx 1 w.b
  let c := engOp s cx 1 w.c
  let d := engOp s cx 1 w.d
  let fmt := w.flags.toNat % 4
  let rows := 16 * (bitsOf w.flags.toNat 4 4 + 1)
  let cols := 16 * (bitsOf d.v.toNat 24 4 + 1)
  let pitch := bitsOf d.v.toNat 0 24
  let row := b.v.toNat
  let col := c.v.toNat
  let width := cols * (if fmt == 0 then 4 else 2)
  if anyPoison [a, b, c, d] then engPoison
  else if pitch % 16 != 0 || pitch < width then engIllegal cx
  else if row % 16 != 0 || col % 16 != 0 then engMem .align 0 2 0 store.toNat
  else if !accFits cx.g row col rows cols then engMem .protection 0 2 0 store.toNat
  else
    memSide cx (w.flags.getLsbD 2) a.v (spanBytes rows pitch width) store.toNat (fun m =>
      .issue (if store then .acst m row col rows cols pitch fmt else .acld m row col rows cols pitch fmt) 0)

/-- Operands that pass the checks of ACST and ACLD. -/
def AccMoves (s : State) (cx : Cx) (w : FmtE) (a row col d : Word) (m : Ep) (rows cols pitch : Nat) : Prop :=
  Claims.Uniform s cx 3 w.a a ∧ Claims.Uniform s cx 1 w.b row ∧ Claims.Uniform s cx 1 w.c col ∧ Claims.Uniform s cx 1 w.d d ∧
  rows = 16 * (bitsOf w.flags.toNat 4 4 + 1) ∧ cols = 16 * (bitsOf d.toNat 24 4 + 1) ∧ pitch = bitsOf d.toNat 0 24 ∧
  pitch % 16 = 0 ∧ row.toNat % 16 = 0 ∧ col.toNat % 16 = 0 ∧ row.toNat + rows ≤ cx.g.acc.length ∧ col.toNat + cols ≤ 256 ∧
  cols * (if w.flags.toNat % 4 = 0 then 4 else 2) ≤ pitch ∧
  Claims.Side cx (w.flags.getLsbD 2) a (spanBytes rows pitch (cols * (if w.flags.toNat % 4 = 0 then 4 else 2))) m

/-- Such operands are planned as the claims say. -/
theorem accPlan_of_moves {s : State} {cx : Cx} {w : FmtE} {a row col d : Word} {m : Ep} {rows cols pitch : Nat} (store : Bool)
    (h : AccMoves s cx w a row col d m rows cols pitch) :
    accPlan s cx w store = .issue (if store then .acst m row.toNat col.toNat rows cols pitch (w.flags.toNat % 4)
      else .acld m row.toNat col.toNat rows cols pitch (w.flags.toNat % 4)) 0 := by
  obtain ⟨ha, hrow, hcol, hd, rfl, rfl, rfl, hpitch, hrow16, hcol16, hfitr, hfitc, hwidth, hside⟩ := h
  have hfits : accFits cx.g row.toNat col.toNat (16 * (bitsOf w.flags.toNat 4 4 + 1)) (16 * (bitsOf d.toNat 24 4 + 1)) = true := by
    simp [accFits, hfitr, hfitc]
  unfold accPlan
  rw [engOp_of_uniform ha, engOp_of_uniform hrow, engOp_of_uniform hcol, engOp_of_uniform hd]
  simp only [anyPoison, List.any_cons, List.any_nil, hpitch, hrow16, hcol16, hfits, Bool.or_false, Bool.false_or, decide_eq_true_eq,
    Bool.false_eq_true, if_false, bne_self_eq_false, Bool.not_true, beq_iff_eq, if_neg (Nat.not_lt.2 hwidth), memSide_of_side _ _ hside]

/-- The plan of an MLOOP with the values of its four registers (R228). -/
def mloopPlan (cx : Cx) (x y z u : Val) : EngPlan :=
  let d := MloopDesc.ofWords x.v.toNat y.v.toNat z.v.toNat u.v.toNat
  let bad := fun (p : PanelRing) => (cx.g.scratch p.base (256 * p.stride * p.count)).isNone
  if anyPoison [x, y, z, u] then engPoison
  else if mloopIllegal x.v.toNat y.v.toNat z.v.toNat u.v.toNat then engIllegal cx
  else if d.a.base % 256 != 0 then engMem .align (BitVec.ofNat 64 d.a.base) 4 1 0
  else if d.b.base % 256 != 0 then engMem .align (BitVec.ofNat 64 d.b.base) 4 1 0
  else if [d.row0, d.col0, d.rowinc, d.colinc].any (fun x => x % 16 != 0) then engMem .align 0 2 0 1
  else if bad d.a then engMem .protection (BitVec.ofNat 64 d.a.base) 4 1 0
  else if bad d.b then engMem .protection (BitVec.ofNat 64 d.b.base) 4 1 0
  else if (List.range d.regions).any (fun r => !accFits cx.g (d.row r) (d.col r) 128 128) then engMem .protection 0 2 0 1
  else .issue (.mloop d) 0

/-- MLOOP is planned on the values of its registers. -/
theorem exec_mloop (w : FmtE) (s : State) : exec (.mloop w) s = withCx s (fun cx => s.engine cx (some w.h.toNat)
    (mloopPlan cx (engOp s cx 3 (w.a + 0)) (engOp s cx 3 (w.a + 1)) (engOp s cx 3 (w.a + 2)) (engOp s cx 3 (w.a + 3)))) := rfl

/-- The matrix commands are planned as the claims say. -/
theorem exec_of_commands {i : Instr} {s : State} {cx : Cx} {kind : OpKind} (hat : Claims.At s cx) (h : Claims.Commands s cx i kind)
    (hroom : Claims.CanIssue s cx (Claims.handleOf i) kind) : exec i s = .next (Claims.issued s cx (Claims.handleOf i) kind 0) := by
  cases i with
  | mloop w =>
    obtain ⟨x, y, z, u, hx, hy, hz, hu, hill, ha, hb, hrow, hcol, hrowinc, hcolinc, hina, hinb, hregions, rfl⟩ := h
    refine exec_of_issue hat hroom (exec_mloop w s) ?_
    rw [engOp_of_uniform hx, engOp_of_uniform hy, engOp_of_uniform hz, engOp_of_uniform hu]
    unfold mloopPlan
    have hfits : ((List.range (MloopDesc.ofWords x.toNat y.toNat z.toNat u.toNat).regions).any (fun r =>
        !accFits cx.g ((MloopDesc.ofWords x.toNat y.toNat z.toNat u.toNat).row r)
          ((MloopDesc.ofWords x.toNat y.toNat z.toNat u.toNat).col r) 128 128)) = false := by
      rw [List.any_eq_false]
      intro r hr
      obtain ⟨hr, hc⟩ := hregions r (List.mem_range.1 hr)
      simp [accFits, hr, hc]
    simp only [anyPoison, List.any_cons, List.any_nil, hill, ha, hb, hrow, hcol, hrowinc, hcolinc, hfits, Bool.or_false,
      Bool.false_eq_true, if_false, bne_self_eq_false, Option.isNone_eq_false_iff.2 hina, Option.isNone_eq_false_iff.2 hinb]
  | mzero w =>
    obtain ⟨row, col, rows, cols, hrow, hcol, hrows, hcols, hr16, hr1, hrmax, hc16, hc1, hcmax, hrow16, hcol16, hfitr, hfitc, rfl⟩ := h
    refine exec_of_issue hat hroom rfl ?_
    rw [engOp_of_uniform hrow, engOp_of_uniform hcol, engOp_of_uniform hrows, engOp_of_uniform hcols]
    have hfits : accFits cx.g row.toNat col.toNat rows.toNat cols.toNat = true := by simp [accFits, hfitr, hfitc]
    simp only [anyPoison, List.any_cons, List.any_nil, hr16, hc16, hrow16, hcol16, hfits, Bool.or_false, Bool.false_or,
      Bool.false_eq_true, if_false, bne_self_eq_false, Bool.not_true]
    exact if_neg (by simp only [Bool.or_eq_true, decide_eq_true_eq, beq_iff_eq]; omega)
  | acst w =>
    obtain ⟨a, row, col, d, m, rows, cols, pitch, hmoves, rfl⟩ := h
    exact exec_of_issue hat hroom rfl (accPlan_of_moves true hmoves)
  | acld w =>
    obtain ⟨a, row, col, d, m, rows, cols, pitch, hmoves, rfl⟩ := h
    exact exec_of_issue hat hroom rfl (accPlan_of_moves false hmoves)
  | _ => exact h.elim

/-- A chain marker for which there is room (R230). -/
theorem chainOp_issues {opens : Bool} {s : State} {cx : Cx} (hat : Claims.At s cx) (hchain : cx.w.chain.isSome = !opens)
    (hroom : s.queueRoom cx.g.core cx.wid .matrix = true) :
    chainOp opens s = .next (Claims.cross ((s.issueOp cx none (.chain opens) 0).mapWarp cx.wid cx.k (fun y =>
      { y with chain := if opens then some s.nextOp else none })) cx (fun _ => .write [] 0 0)) := by
  obtain ⟨hcx, hole⟩ := hat
  have hfree : (cx.w.chain.isSome == opens) = false := by rw [hchain]; cases opens <;> rfl
  unfold chainOp
  rw [withCx_at hcx]
  simp only [hfree, hroom, Bool.false_eq_true, if_false, Bool.not_true, State.passAll_eq]
  exact finish_next ((State.issueOp_hole s cx none _ 0).trans hole)

/-- Settles O25: every command is planned as the claims say and issued, and so is a marker. -/
theorem matrixCommandsAreQueued : Obligations.MatrixCommandsAreQueued := by
  refine ⟨fun i s cx kind hat h hroom => exec_of_commands hat h hroom, ?_⟩
  rintro (_ | _) w s cx hat hchain hroom
  · exact chainOp_issues hat hchain hroom
  · exact chainOp_issues hat hchain hroom

end Sys2Proof.Machine
end

section
/-!
SUPPORT. Completion records and the accumulator as lanes read and write them (R225, R232): O26.
-/
namespace Sys2Proof.Machine

/-! ### RINGWAIT, ACRD and ACWR (R225, R232) -/

/-- Accesses that can be made now can be made with other waits that do not arise where the first do not. -/
theorem Claims.Ready.mono {s : State} {cx : Cx} {drains gather : Loc → Bool} {sz sp acc : Nat}
    {holds holds' : State → Nat → Word → Loc → Option LaneOut} {plan : List MemPlan}
    (h : Claims.Ready s cx drains gather sz sp acc holds plan)
    (himp : ∀ l a loc, holds s l a loc = none → holds' s l a loc = none) :
    Claims.Ready s cx drains gather sz sp acc holds' plan := by
  rintro ⟨l, e⟩ hp
  match e, h _ hp with
  | .error o, ho => exact ho
  | .ok (a, loc), ⟨hdrains, hhold, hloc⟩ => exact ⟨hdrains, himp _ _ _ hhold, hloc⟩

/-- Lanes that all take results end their instruction. -/
theorem State.commit_writes (s : State) (cx : Cx) (scal long : Bool) (run : Nat) (ls : List Nat) (ws : Nat → List ResWrite) :
    s.commit cx scal long run (ls.map (fun l => (l, .write (ws l) 0 0))) =
      s.mapWarp cx.wid cx.k (fun y => y.commit cx.next long run (ls.map (fun l => (l, .write (ws l) 0 0)))) :=
  State.commit_done scal long run (waitsOf_map_nil (fun _ _ _ _ => nofun)) (stopsOf_map_nil (fun _ _ _ => nofun))

/-- RINGWAIT (R225). -/
theorem exec_ringwait {w : FmtE} {s : State} {cx : Cx} {a ph : Word} (hcx : s.cx? = some cx) (ha : Claims.Uniform s cx 3 w.a a)
    (hph : Claims.Uniform s cx 1 w.b ph) (hphase : ph.toNat ≤ 1) (halign : a.toNat % 32 = 0) :
    exec (.ringwait w) s = finish (MemOp.run
      { drains := fun loc => drainsFirst 0 0 loc, sz := 3, acc := 0, what := fun _ _ => .access .load,
        holds := fun s l _ loc =>
          if bitsOf (pval (s.locBytes cx l loc 8)).v.toNat 24 1 == ph.toNat then none else some (.wait (.ring a ph.toNat) false),
        perform := fun s l _ loc =>
          (s.locTouch cx loc, .write (destWrites l w.d 3 (pval (s.locBytes cx l loc 8)).v (pval (s.locBytes cx l loc 8)).p) 0 0) }
      s cx false true w.run.toNat (cx.lanes.map (fun l => (l, .ok (a, s.locate cx l 0 3 .load false a))))) := by
  show execRingwait w s = _
  unfold execRingwait
  rw [withCx_at hcx, engOp_of_uniform ha, engOp_of_uniform hph]
  simp only [halign, Nat.not_lt.2 hphase, Bool.or_self, Bool.false_eq_true, if_false, bne_self_eq_false]

/-- The frame of ACRD and ACWR where the operands pass the checks and no command writes an element of the region. -/
theorem accLanes_of_free {w : FmtE} {s : State} {cx : Cx} {row col n : Word} (acc : Nat) (f : Cx → Nat → Nat → Nat → State)
    (hcx : s.cx? = some cx) (hrow : Claims.Uniform s cx 1 w.a row) (hcol : Claims.Uniform s cx 1 w.b col)
    (hn : Claims.Uniform s cx 1 w.c n) (hone : 1 ≤ n.toNat) (hmax : n.toNat ≤ 16)
    (hregs : w.d.toNat + n.toNat ≤ 8 * ((cx.g.kernel.regs + 7) / 8)) (hrow16 : row.toNat % 16 = 0) (hcol16 : col.toNat % 16 = 0)
    (hfitr : row.toNat + cx.w.lanes.length ≤ cx.g.acc.length) (hfitc : col.toNat + n.toNat ≤ 256)
    (hfree : s.accBusy cx.wid row.toNat col.toNat cx.w.lanes.length n.toNat = false) :
    accLanes w s acc f = finish (f cx row.toNat col.toNat n.toNat) := by
  have hfits : accFits cx.g row.toNat col.toNat cx.w.lanes.length n.toNat = true := by simp [accFits, hfitr, hfitc]
  unfold accLanes
  rw [withCx_at hcx, engOp_of_uniform hrow, engOp_of_uniform hcol, engOp_of_uniform hn]
  simp only [anyPoison, List.any_cons, List.any_nil, hrow16, hcol16, hfits, hfree, Bool.or_false, Bool.false_eq_true, if_false,
    bne_self_eq_false, Bool.not_true]
  rw [if_neg (by simp only [Bool.or_eq_true, decide_eq_true_eq, beq_iff_eq]; omega)]

/-- What a command writes into a region depends only on the places in it. -/
theorem State.accMap_congr {s : State} {wid row col rows cols : Nat} {f f' : Nat → Nat → W32 → W32}
    (h : ∀ i j x, j < cols → f i j x = f' i j x) : s.accMap wid row col rows cols f = s.accMap wid row col rows cols f' := by
  have hacc : ∀ acc, Machine.accMap acc row col rows cols f = Machine.accMap acc row col rows cols f' := by
    intro acc
    refine List.map_congr_left (fun p _ => ?_)
    refine if_congr Iff.rfl (List.map_congr_left (fun q _ => ?_)) rfl
    by_cases hq : (decide (col ≤ q.2) && decide (q.2 < col + cols)) = true
    · have hj : q.2 - col < cols := by
        simp only [Bool.and_eq_true, decide_eq_true_eq] at hq
        omega
      simp only [hq, if_true]
      exact h _ _ _ hj
    · simp only [hq, Bool.false_eq_true, if_false]
  unfold State.accMap
  simp only [hacc]

/-- The elements that a lane's registers give ACWR (R232). -/
def acwrVals (s : State) (cx : Cx) (w : FmtE) (n l : Nat) : List Val :=
  (List.range n).map (fun i => readOp s cx l 1 (w.d + BitVec.ofNat 9 i))

/-- What each lane of ACWR comes to: it stops where one of its registers is poisoned. -/
def acwrOuts (s : State) (cx : Cx) (w : FmtE) (n : Nat) : List (Nat × LaneOut) :=
  cx.lanes.filterMap (fun l => (cx.lane? l).map (fun x =>
    (l, if anyPoison (acwrVals s cx w n l) then LaneOut.stop (poisonStop x 5) else .write [] 0 0)))

/-- The rows of the lanes that do not stop are written. -/
def State.writeRows (s : State) (cx : Cx) (row col n : Nat) (vals : Nat → List Val) (outs : List (Nat × LaneOut)) : State :=
  outs.foldl (fun s o =>
    match o.2 with
    | .write .. => s.accMap cx.wid (row + o.1) col 1 n (fun _ i _ => (argv (vals o.1) i).setWidth 32)
    | _ => s) s

/-- ACWR writes rows and goes on (R232). -/
theorem exec_acwr (w : FmtE) (s : State) : exec (.acwr w) s = accLanes w s 1 (fun cx row col n =>
    (s.writeRows cx row col n (acwrVals s cx w n) (acwrOuts s cx w n)).commit cx false false 0 (acwrOuts s cx w n)) := rfl

/-- Where no register is poisoned, no lane of ACWR stops. -/
theorem acwrOuts_clean {s : State} {cx : Cx} {w : FmtE} {n : Nat}
    (hclean : ∀ l ∈ cx.lanes, (cx.lane? l).isSome ∧ ∀ i < n, (readOp s cx l 1 (w.d + BitVec.ofNat 9 i)).p = false) :
    acwrOuts s cx w n = cx.lanes.map (fun l => (l, .write [] 0 0)) := by
  unfold acwrOuts
  rw [← List.filterMap_eq_map]
  refine List.filterMap_congr (fun l hl => ?_)
  obtain ⟨hlane, hval⟩ := hclean l hl
  obtain ⟨x, hx⟩ := Option.isSome_iff_exists.1 hlane
  have hnone : anyPoison (acwrVals s cx w n l) = false := by
    rw [anyPoison, acwrVals, List.any_map, List.any_eq_false]
    intro i hi
    rw [Function.comp, hval i (List.mem_range.1 hi)]
    exact Bool.false_ne_true
  rw [hx, Option.map_some, hnone]
  rfl

/-- Each lane that does not stop writes its elements. -/
theorem State.writeRows_writes (s t : State) (cx : Cx) (w : FmtE) (row col n : Nat) (ls : List Nat) :
    t.writeRows cx row col n (acwrVals s cx w n) (ls.map (fun l => (l, .write [] 0 0))) =
      ls.foldl (fun t l => t.accMap cx.wid (row + l) col 1 n (fun _ i x =>
        if i < n then (readOp s cx l 1 (w.d + BitVec.ofNat 9 i)).v.setWidth 32 else x)) t := by
  unfold State.writeRows
  rw [List.foldl_map]
  refine List.foldl_ext _ _ _ (fun t l _ => State.accMap_congr (fun _ i x hi => ?_))
  rw [if_pos hi, argv, acwrVals, List.getElem?_map, List.getElem?_range hi]
  rfl

/-- Settles O26: RINGWAIT is the shape of memory instructions; ACRD and ACWR find their region free and no register poisoned. -/
theorem lanesReadRecordsAndTheAccumulator : Obligations.LanesReadRecordsAndTheAccumulator := by
  refine ⟨?_, ?_, ?_⟩
  · intro w s cx a ph hcx ha hph hphase halign plan t hready hole
    rw [exec_ringwait hcx ha hph hphase halign, MemOp.run_ready _ _ _ rfl (Claims.Ready.mono hready (fun l a loc h => ?_))]
    · exact finish_next hole
    · simpa using h
  · intro w s cx row col n hat hrow hcol hn hone hmax hregs hrow16 hcol16 hfitr hfitc hfree
    obtain ⟨hcx, hole⟩ := hat
    show execAcrd w s = _
    unfold execAcrd
    refine (accLanes_of_free 0 _ hcx hrow hcol hn hone hmax hregs hrow16 hcol16 hfitr hfitc hfree).trans ?_
    rw [State.commit_writes]
    exact finish_next hole
  · intro w s cx row col n hat hrow hcol hn hone hmax hregs hrow16 hcol16 hfitr hfitc hfree val hclean
    obtain ⟨hcx, hole⟩ := hat
    rw [exec_acwr, accLanes_of_free 1 _ hcx hrow hcol hn hone hmax hregs hrow16 hcol16 hfitr hfitc hfree, acwrOuts_clean hclean,
      State.writeRows_writes, State.commit_writes]
    refine finish_next (List.foldlRecOn (motive := fun t : State => t.hole = none) _ _ hole (fun t ht l _ => ht))

end Sys2Proof.Machine
end

section
/-!
SUPPORT. Handles and ownership (R234 to R238): O27 and O28.
-/
namespace Sys2Proof.Machine

/-! ### Handles and ownership (R234 to R238) -/

/-- An instruction over a handle that is bound (R234 to R237). -/
theorem withHandle_of_bound {w : FmtE} {s : State} {cx : Cx} (f : Cx → HandleSt → State) (hcx : s.cx? = some cx)
    (hvalid : s.handleSt (cx.w.handle w.h.toNat) ≠ .invalid) :
    withHandle w s f = finish (f cx (s.handleSt (cx.w.handle w.h.toNat))) := by
  unfold withHandle
  rw [withCx_at hcx]
  split
  · next h => exact absurd h hvalid
  · rfl

/-- A bound handle is not invalid. -/
theorem State.handleSt_bound_ne (s : State) (id gen : Nat) : s.handleSt (.bound id gen) ≠ .invalid := by
  unfold State.handleSt
  dsimp only
  split
  · nofun
  · split <;> nofun

/-- The operation that a token names, where the handle that it was made from still holds it (R237). -/
theorem State.tokenOp_of_bound {s : State} {core wid k id gen : Nat} {v : Word} {y : Warp} (hcore : bitsOf v.toNat 11 7 = core % 128)
    (hslot : s.slot? core (bitsOf v.toNat 4 7) = some (wid, k)) (hwarp : s.warp? wid k = some y)
    (hhandle : y.handle (bitsOf v.toNat 0 4) = .bound id gen) (hgen : gen = bitsOf v.toNat 18 30) : s.tokenOp core v = some id := by
  unfold State.tokenOp
  simp only [hcore, bne_self_eq_false, Bool.false_eq_true, if_false, hslot, hwarp, hhandle, hgen, beq_self_eq_true, if_true]

/-- Settles O27: an operation that is left lets WAIT go on, and the others act on the handle as it is. -/
theorem handlesAreWaitedForTestedCancelledAndMoved : Obligations.HandlesAreWaitedForTestedCancelledAndMoved := by
  refine ⟨?_, ?_, ?_, ?_, ?_⟩
  · intro w s cx r c hat hleft
    obtain ⟨hcx, hole⟩ := hat
    show execWait w s = _
    unfold execWait
    rw [withHandle_of_bound _ hcx (by rw [hleft]; nofun), hleft]
    dsimp only
    split
    · rw [State.commit_writes]
      exact finish_next hole
    · rw [State.passAll_eq]
      exact finish_next hole
  · intro w s cx hat hvalid
    obtain ⟨hcx, hole⟩ := hat
    show execHtest w s = _
    unfold execHtest
    rw [withHandle_of_bound _ hcx hvalid, State.commit_writes]
    have hbne : (s.handleSt (cx.w.handle w.h.toNat) != .pending) = decide (s.handleSt (cx.w.handle w.h.toNat) ≠ .pending) := by
      by_cases h : s.handleSt (cx.w.handle w.h.toNat) = .pending <;> simp [h]
    rw [hbne]
    exact finish_next hole
  · intro w s cx id gen hcx hbound t hole
    show execHcancel w s = _
    unfold execHcancel
    rw [withHandle_of_bound _ hcx (by rw [hbound]; exact s.handleSt_bound_ne id gen), hbound]
    dsimp only
    rw [State.passAll_eq]
    exact finish_next hole
  · intro w s cx id gen hat hbound
    obtain ⟨hcx, hole⟩ := hat
    show execHmovExport w s = _
    unfold execHmovExport
    rw [withHandle_of_bound _ hcx (by rw [hbound]; exact s.handleSt_bound_ne id gen), hbound]
    dsimp only
    rw [State.commit_writes]
    exact finish_next hole
  · intro w s cx v wid k y id gen hat hpending hv hcore hslot hwarp hhandle hgen
    obtain ⟨hcx, hole⟩ := hat
    show execHmovImport w s = _
    unfold execHmovImport
    rw [withCx_at hcx, engOp_of_uniform hv]
    simp only [beq_false_of_ne hpending, Bool.false_eq_true, if_false, State.tokenOp_of_bound hcore hslot hwarp hhandle hgen,
      State.passAll_eq]
    exact finish_next hole

/-- Settles O28: the pass or the take that the operands ask for is issued, and then passes that meet their takes are taken. -/
theorem ownershipIsPassedAndTaken : Obligations.OwnershipIsPassedAndTaken := by
  refine ⟨?_, ?_⟩
  · intro w s cx off n slot kind hcx hstages hoff hn hslot hmax hoff256 hn256 hkind hroom t hole
    have hstage : (cx.g.kernel.stages == 1) = false := beq_false_of_ne hstages
    have hplan : passPlan s cx w = .issue kind 0 := by
      unfold passPlan
      rw [engOp_of_uniform hoff, engOp_of_uniform hn, engOp_of_uniform hslot]
      simp only [anyPoison, List.any_cons, List.any_nil, hoff256, hn256, hstage, Nat.not_lt.2 hmax, decide_false, Bool.or_false,
        Bool.false_eq_true, if_false, bne_self_eq_false]
      split at hkind
      · next hlow =>
        obtain ⟨hin, rfl⟩ := hkind
        obtain ⟨p, hp⟩ := Option.isSome_iff_exists.1 hin
        rw [if_pos hlow, hp]
      · next hhigh =>
        obtain ⟨x, hx, rfl⟩ := hkind
        rw [if_neg hhigh, hx]
    show execOwnpass w s = _
    unfold execOwnpass
    rw [withCx_at hcx, hplan, State.engine_issues hroom]
    exact finish_next hole
  · intro w s cx slot hcx hslot hmax hroom t hole
    show execOwntake w s = _
    unfold execOwntake
    rw [withCx_at hcx, engOp_of_uniform hslot]
    simp only [Nat.not_lt.2 hmax, Bool.false_eq_true, if_false, State.engine_issues hroom]
    exact finish_next hole

end Sys2Proof.Machine
end

section
/-!
SUPPORT. Events, signals and time (R239 to R242): O29. Where no lane waits, an instruction that ends in each lane on its own ends in all
of them together.
-/
namespace Sys2Proof.Machine

/-! ### Lanes that end on their own, none of which waits -/

/-- A warp changed to itself. -/
theorem State.mapWarp_self {s : State} {wid k : Nat} {f : Warp → Warp} (h : ∀ w, f w = w) : s.mapWarp wid k f = s := by
  have hf : f = id := funext h
  have hwg : ∀ g : Wg, (if g.wid == wid then g.mapWarp k f else g) = g := by
    intro g
    rw [hf, Wg.mapWarp, List.modify_id]
    exact ite_self g
  show { s with wgs := s.wgs.map (fun g => if g.wid == wid then g.mapWarp k f else g) } = s
  rw [List.map_congr_left (fun g _ => hwg g), List.map_id']

/-- What each lane comes to is a write. -/
def OnlyWrites (outs : List (Nat × LaneOut)) : Prop := ∀ o ∈ outs, ∃ ws, o.2 = .write ws 0 0

section
variable {outs : List (Nat × LaneOut)}

theorem OnlyWrites.waitsOf (h : OnlyWrites outs) : waitsOf outs = [] := by
  refine List.filterMap_eq_nil_iff.2 (fun o ho => ?_)
  obtain ⟨ws, hws⟩ := h o ho
  rw [hws]

theorem OnlyWrites.stopsOf (h : OnlyWrites outs) : stopsOf outs = [] := by
  refine List.filterMap_eq_nil_iff.2 (fun o ho => ?_)
  obtain ⟨ws, hws⟩ := h o ho
  rw [hws]

/-- No lane is left out: all complete. -/
theorem OnlyWrites.filter_waits (h : OnlyWrites outs) : outs.filter (fun o => !o.2.waits) = outs := by
  refine List.filter_eq_self.2 (fun o ho => ?_)
  obtain ⟨ws, hws⟩ := h o ho
  rw [hws]
  rfl

/-- Every lane has its answers. -/
theorem OnlyWrites.answeredLanes (h : OnlyWrites outs) : answeredLanes outs = outs.map (·.1) := by
  refine congrArg (List.map _) (List.filter_eq_self.2 (fun o ho => ?_))
  obtain ⟨ws, hws⟩ := h o ho
  rw [hws]

/-- Lanes that end on their own and all complete. -/
theorem State.commitEach_writes (s : State) (cx : Cx) (scal long : Bool) (run : Nat) (h : OnlyWrites outs) :
    s.commitEach cx scal long run outs = s.mapWarp cx.wid cx.k (fun y => y.commit cx.next long run outs) := by
  unfold State.commitEach
  rw [h.waitsOf, h.filter_waits]
  cases outs with
  | nil =>
    refine (State.mapWarp_self (fun w => ?_)).symm
    cases long <;> rfl
  | cons o os => exact State.commit_done (cx := { cx with lanes := _ }) scal long run h.waitsOf h.stopsOf

/-- What the scalar unit writes, every executing lane writes. -/
theorem OnlyWrites.spread (cx : Cx) (su : Bool) (h : OnlyWrites outs) : OnlyWrites (spreadOuts cx su outs) := by
  cases su with
  | false => exact h
  | true =>
    cases outs with
    | nil => exact h
    | cons o os =>
      intro p hp
      obtain ⟨l, -, rfl⟩ := List.mem_map.1 hp
      obtain ⟨ws, hws⟩ := h o List.mem_cons_self
      exact ⟨_, by rw [hws]; rfl⟩

end

/-- The lanes of what the acting lanes come to are the executing lanes. -/
theorem spreadOuts_fst {cx : Cx} {su : Bool} {outs : List (Nat × LaneOut)} (h : outs.map (·.1) = actors cx su) :
    (spreadOuts cx su outs).map (·.1) = cx.lanes := by
  cases su with
  | false => exact h
  | true =>
    cases outs with
    | nil => cases h
    | cons o os => simp [spreadOuts, Function.comp_def]

/-- The lanes of what a plan's accesses give are the plan's. -/
theorem Claims.performed_fst (perform : State → Nat → Word → Loc → State × LaneOut) (plan : List MemPlan) (s : State) :
    (Claims.performed perform plan s).2.map (·.1) = plan.map (·.1) := by
  induction plan generalizing s with
  | nil => rfl
  | cons p ps ih =>
    match p with
    | (l, .error o) => exact congrArg (l :: ·) (ih s)
    | (l, .ok (a, loc)) => exact congrArg (l :: ·) (ih _)

/-- Accesses that all write give only writes. -/
theorem Claims.performed_writes {perform : State → Nat → Word → Loc → State × LaneOut} {plan : List MemPlan}
    (hplan : ∀ p ∈ plan, ∃ a loc, p.2 = .ok (a, loc)) (hperform : ∀ s l a loc, ∃ ws, (perform s l a loc).2 = .write ws 0 0) (s : State) :
    OnlyWrites (Claims.performed perform plan s).2 := by
  induction plan generalizing s with
  | nil => exact fun _ h => absurd h List.not_mem_nil
  | cons p ps ih =>
    obtain ⟨a, loc, hp⟩ := hplan p List.mem_cons_self
    obtain ⟨l, e⟩ := p
    cases hp
    intro o ho
    rcases List.mem_cons.1 ho with rfl | ho
    · exact hperform s l a loc
    · exact ih (fun q hq => hplan q (List.mem_cons_of_mem _ hq)) _ o ho

/-- A memory instruction whose lanes end on their own, and whose accesses can all be made now and write. -/
theorem MemOp.run_each_ready {m : MemOp} {s : State} {cx : Cx} {plan : List MemPlan} (su long : Bool) (run : Nat) (heach : m.each = true)
    (hactors : plan.map (·.1) = actors cx su) (hplan : ∀ p ∈ plan, ∃ a loc, p.2 = .ok (a, loc))
    (hperform : ∀ s l a loc, ∃ ws, (m.perform s l a loc).2 = .write ws 0 0)
    (hready : Claims.Ready s cx m.drains m.gather m.sz m.sp m.acc m.holds plan) :
    m.run s cx su long run plan = Claims.accessed s cx su long run m.perform plan := by
  have hwrites := (Claims.performed_writes hplan hperform s).spread cx su
  rw [MemOp.run_performs su long run hready, heach]
  dsimp only
  rw [if_pos rfl, State.commitEach_writes _ cx su long run hwrites, hwrites.answeredLanes,
    spreadOuts_fst ((Claims.performed_fst m.perform plan s).trans hactors)]
  exact (State.commit_done su long run hwrites.waitsOf hwrites.stopsOf).symm

/-! ### Events (R239, R240) -/

/-- An event number in its range (R239). -/
theorem eventNumber_of_range {n : Nat} (hone : 1 ≤ n) (hmax : n < 65536) : eventNumber n = true := by
  simp [eventNumber, hone, hmax]

/-- EVWAIT in a lane whose event has reached its target. -/
theorem evwaitLane_of_reached {s : State} {cx : Cx} {su : Bool} {w : FmtA} {l : Nat} (hlane : (cx.lane? l).isSome)
    (he : (readAt s cx su l 1 w.a).p = false) (ht : (readAt s cx su l 1 w.b).p = false) (hone : 1 ≤ (readAt s cx su l 1 w.a).v.toNat)
    (hmax : (readAt s cx su l 1 w.a).v.toNat < 65536)
    (hreached : (cx.ctx.event (readAt s cx su l 1 w.a).v.toNat - (readAt s cx su l 1 w.b).v.setWidth 32).toNat < 2 ^ 31) :
    evwaitLane s cx su w l =
      .write (destWrites l w.d 1 ((cx.ctx.event (readAt s cx su l 1 w.a).v.toNat).setWidth 64) false) 0 0 := by
  obtain ⟨x, hx⟩ := Option.isSome_iff_exists.1 hlane
  unfold evwaitLane
  rw [hx]
  simp only [he, ht, eventNumber_of_range hone hmax, reaches, hreached, Bool.or_self, Bool.false_eq_true, if_false, Bool.not_true,
    decide_true, if_true]

/-- EVSIG in a lane whose operands are in range. -/
theorem evsigLane_of_range {s : State} {cx : Cx} {su : Bool} {w : FmtA} {l : Nat} (hlane : (cx.lane? l).isSome)
    (he : (readAt s cx su l 1 w.a).p = false) (hn : (readAt s cx su l 1 w.b).p = false) (hone : 1 ≤ (readAt s cx su l 1 w.a).v.toNat)
    (hmax : (readAt s cx su l 1 w.a).v.toNat < 65536) (hnone : 1 ≤ (readAt s cx su l 1 w.b).v.toNat)
    (hnmax : (readAt s cx su l 1 w.b).v.toNat < 65536) :
    evsigLane s cx su w l = .ok ((readAt s cx su l 1 w.a).v.toNat, (readAt s cx su l 1 w.b).v.setWidth 32) := by
  obtain ⟨x, hx⟩ := Option.isSome_iff_exists.1 hlane
  unfold evsigLane
  rw [hx]
  simp only [he, hn, eventNumber_of_range hone hmax, eventNumber_of_range hnone hnmax, Bool.or_self, Bool.false_eq_true, if_false,
    Bool.not_true]

/-- Lanes that all write give only writes. -/
theorem onlyWrites_map (ls : List Nat) (ws : Nat → List ResWrite) : OnlyWrites (ls.map (fun l => (l, .write (ws l) 0 0))) := by
  intro o ho
  obtain ⟨l, -, rfl⟩ := List.mem_map.1 ho
  exact ⟨_, rfl⟩

/-- EVWAIT where every event has reached its target (R240). -/
theorem exec_evwait_reached {w : FmtA} {s : State} {cx : Cx} {ws : Nat → List ResWrite} (hcx : s.cx? = some cx)
    (hlanes : ∀ l ∈ actors cx (form (.evwait w)).scalarUnit, evwaitLane s cx (form (.evwait w)).scalarUnit w l = .write (ws l) 0 0) :
    exec (.evwait w) s = finish (Claims.spread s cx (form (.evwait w)).scalarUnit true w.run.toNat (fun l => .write (ws l) 0 0)) := by
  have houts : (actors cx (form (.evwait w)).scalarUnit).map (fun l => (l, evwaitLane s cx (form (.evwait w)).scalarUnit w l)) =
      (actors cx (form (.evwait w)).scalarUnit).map (fun l => (l, .write (ws l) 0 0)) :=
    List.map_congr_left (fun l hl => congrArg (Prod.mk l) (hlanes l hl))
  have hwrites := (onlyWrites_map (actors cx (form (.evwait w)).scalarUnit) ws).spread cx (form (.evwait w)).scalarUnit
  show execEvwait w s = _
  unfold execEvwait
  dsimp only
  rw [withCx_at hcx, houts]
  simp only [List.foldl_map, List.map_map, Function.comp_def, List.foldl_const]
  rw [show (fun b : State => b) = id from rfl, Function.iterate_id, id, State.commitEach_writes s cx _ true _ hwrites]
  rfl

/-- EVSIG whose operands are in range adds to each lane's event (R240). -/
theorem exec_evsig_of_range {w : FmtA} {s : State} {cx : Cx} {e : Nat → Nat} {n : Nat → W32} (hcx : s.cx? = some cx)
    (hlanes : ∀ l ∈ actors cx (form (.evsig w)).scalarUnit, evsigLane s cx (form (.evsig w)).scalarUnit w l = .ok (e l, n l)) :
    exec (.evsig w) s = finish (Claims.spread ((actors cx (form (.evsig w)).scalarUnit).foldl (fun s l => s.evAdd cx.ctx.num (e l) (n l)) s)
      cx (form (.evsig w)).scalarUnit false 0 (fun _ => .write [] 0 0)) := by
  have hacts : (actors cx (form (.evsig w)).scalarUnit).map (fun l => (l, evsigLane s cx (form (.evsig w)).scalarUnit w l)) =
      (actors cx (form (.evsig w)).scalarUnit).map (fun l => (l, .ok (e l, n l))) :=
    List.map_congr_left (fun l hl => congrArg (Prod.mk l) (hlanes l hl))
  have hwrites := (onlyWrites_map (actors cx (form (.evsig w)).scalarUnit) (fun _ => [])).spread cx (form (.evsig w)).scalarUnit
  show execEvsig w s = _
  unfold execEvsig
  dsimp only
  rw [withCx_at hcx, hacts]
  simp only [List.foldl_map, List.map_map, Function.comp_def]
  rw [State.commit_done _ false 0 hwrites.waitsOf hwrites.stopsOf]
  rfl

/-! ### Signals (R241) -/

/-- The operands of a signal instruction pass its checks: its plan is the accesses. -/
theorem signalPlan_of_operands {s : State} {cx : Cx} {su : Bool} {w : FmtA} (k : AccKind) (h : Claims.SignalOperands s cx su w) :
    (actors cx su).map (signalPlan s cx su w k) = Claims.signalPlans s cx su w k := by
  refine List.map_congr_left (fun l hl => ?_)
  obtain ⟨hlane, ha, hv, halign⟩ := h l hl
  obtain ⟨x, hx⟩ := Option.isSome_iff_exists.1 hlane
  unfold signalPlan
  rw [hx]
  simp only [ha, hv, halign, Bool.or_self, Bool.false_eq_true, if_false, bne_self_eq_false]

/-- SIGADD's access to a location (R241): the update, which wakes the device's waiters on it. -/
theorem wakeSignal_sigKey (t : State) (loc : Loc) :
    (match loc.sigKey with | some k => t.wakeSignal k | none => t) =
      match loc with | .mem (p :: _) => t.wakeSignal p.sigKey | _ => t := by
  match loc with
  | .mem (p :: _) | .mem [] | .scr _ _ | .wait _ | .hole _ | .stop .. => rfl

/-- Settles O29: no lane waits, so the lanes that end on their own all end, and signals are accessed by the shape of memory instructions. -/
theorem eventsSignalsAndTime : Obligations.EventsSignalsAndTime := by
  refine ⟨?_, ?_, ?_, ?_, ?_⟩
  · intro w s cx hat su e t hlanes
    obtain ⟨hcx, hole⟩ := hat
    refine (exec_evwait_reached hcx (fun l hl => ?_)).trans (finish_next hole)
    obtain ⟨hlane, he, ht, hone, hmax, hreached⟩ := hlanes l hl
    exact evwaitLane_of_reached hlane he ht hone hmax hreached
  · intro w s cx hcx su e n hlanes t hole
    refine (exec_evsig_of_range hcx (fun l hl => ?_)).trans (finish_next hole)
    obtain ⟨hlane, he, hn, hone, hmax, hnone, hnmax⟩ := hlanes l hl
    exact evsigLane_of_range hlane he hn hone hmax hnone hnmax
  · intro w s cx hcx su v plan t hoperands hready hole
    show execSigadd w s = _
    unfold execSigadd
    dsimp only
    rw [withCx_at hcx, signalPlan_of_operands .signal hoperands, MemOp.run_ready _ _ _ rfl hready]
    refine (congrArg (fun perform => finish (Claims.accessed s cx su false 0 perform plan)) ?_).trans (finish_next hole)
    funext s l _ loc
    exact congrArg (·, LaneOut.write [] 0 0) (wakeSignal_sigKey _ loc)
  · intro w s cx hcx su plan m t hoperands hready hole
    show execSigwait w s = _
    unfold execSigwait
    dsimp only
    rw [withCx_at hcx, signalPlan_of_operands .await hoperands, MemOp.run_each_ready _ _ _ rfl]
    · exact finish_next hole
    · rw [Claims.signalPlans, List.map_map]
      exact List.map_id _
    · intro p hp
      obtain ⟨l, -, rfl⟩ := List.mem_map.1 hp
      exact ⟨_, _, rfl⟩
    · exact fun _ _ _ _ => ⟨_, rfl⟩
    · refine Claims.Ready.mono hready (fun l a loc h => ?_)
      simpa [condHolds_ordInt] using h
  · intro w s cx hat
    obtain ⟨hcx, hole⟩ := hat
    show execTime w s = _
    unfold execTime
    rw [withCx_at hcx, State.commit_writes]
    exact finish_next hole

end Sys2Proof.Machine
end

section
/-!
SUPPORT. User traps (R196): O57. The pending results of the lane are written as one update of its registers, and a stop that parks keeps
the lane's PC.
-/
namespace Sys2Proof.Machine

/-! ### The pending results of a lane -/

/-- What a write leaves in the registers of the lane that it names. -/
def ResWrite.onRegs (v : List (Reg 32)) (z : ResWrite) : List (Reg 32) :=
  match z.dst, z.lane with
  | .lane k, some _ => v.set k { val := z.val.setWidth 32, poison := z.poison }
  | _, _ => v

/-- What a write leaves in the predicates of the lane that it names. -/
def ResWrite.onPreds (p : List (Reg 1)) (z : ResWrite) : List (Reg 1) :=
  match z.dst, z.lane with
  | .pred k, some _ => if k < 7 then p.set k { val := z.val.setWidth 1, poison := z.poison } else p
  | _, _ => p

/-- What a write leaves in the scalar registers. -/
def ResWrite.onScalars (s : List (Reg 64)) (z : ResWrite) : List (Reg 64) :=
  match z.dst with
  | .scalar k => s.set k { val := z.val, poison := z.poison }
  | _ => s

/-- A lane with its registers and predicates changed by writes. -/
def Lane.written (zs : List ResWrite) (x : Lane) : Lane := { x with v := zs.foldl ResWrite.onRegs x.v, p := zs.foldl ResWrite.onPreds x.p }

/-- A warp with the registers of lane l and its scalar registers changed by writes. -/
def Warp.written (w : Warp) (l : Nat) (zs : List ResWrite) : Warp :=
  { w with lanes := w.lanes.modify l (Lane.written zs), s := zs.foldl ResWrite.onScalars w.s }

/-- One write of lane l's, or of none. -/
theorem Warp.apply_mine {z : ResWrite} {l : Nat} (h : z.for l = true) (w : Warp) : w.apply z = w.written l [z] := by
  obtain ⟨lane, dst, val, poison⟩ := z
  have hmine : lane = some l ∨ lane = none := by simpa [ResWrite.for] using h
  have hself : ∀ w : Warp, w = { w with lanes := w.lanes.modify l id } := fun w => by rw [List.modify_id]
  rcases hmine with rfl | rfl
  · cases dst with
    | lane k => rfl
    | scalar k => exact hself _
    | pred k =>
      show w.mapLane l _ = _
      refine congrArg (fun f => { w with lanes := w.lanes.modify l f }) (funext fun x => ?_)
      simp only [Lane.put, Lane.written, List.foldl_cons, List.foldl_nil, ResWrite.onRegs, ResWrite.onPreds]
      split <;> rfl
  · cases dst <;> exact hself _

/-- Writes of lane l's, or of none, one after another. -/
theorem Warp.foldl_apply_mine {l : Nat} {zs : List ResWrite} (h : ∀ z ∈ zs, z.for l = true) (w : Warp) :
    zs.foldl Warp.apply w = w.written l zs := by
  induction zs generalizing w with
  | nil => exact congrArg (fun ls => { w with lanes := ls }) (List.modify_id l w.lanes).symm
  | cons z zs ih =>
    rw [List.foldl_cons, ih (fun y hy => h y (List.mem_cons_of_mem z hy)), Warp.apply_mine (h z List.mem_cons_self)]
    unfold Warp.written
    rw [List.modify_modify_eq]
    rfl

/-- The writes of a lane's pending results, in their order. -/
def Warp.due (w : Warp) (l : Nat) : List ResWrite :=
  (w.results.filter (fun r => hasLane r.lanes l)).flatMap (fun r => r.writes.filter (fun z => z.for l))

/-- The pending results once those of a lane are written. -/
def Warp.resultsWithout (w : Warp) (l : Nat) : List Result :=
  (w.results.map (fun r =>
    if hasLane r.lanes l then { r with lanes := r.lanes &&& ~~~maskOf [l], writes := r.writes.filter (fun x => !x.for l) }
    else r)).filter (fun r => r.lanes != 0)

/-- The pending results of a lane are written, and its windows close. -/
theorem Warp.settleLane_eq (w : Warp) (l : Nat) : w.settleLane l =
    { w.written l (w.due l) with
      results := w.resultsWithout l, lanes := w.lanes.modify l (fun x => { Lane.written (w.due l) x with windows := [] }) } := by
  have hfold : (w.results.filter (fun r => hasLane r.lanes l)).foldl
      (fun w r => (r.writes.filter (fun x => x.for l)).foldl Warp.apply w) w = w.written l (w.due l) := by
    rw [← List.foldl_flatMap]
    refine Warp.foldl_apply_mine (fun z hz => ?_) w
    obtain ⟨r, -, hz⟩ := List.mem_flatMap.1 hz
    exact (List.mem_filter.1 hz).2
  unfold Warp.settleLane
  dsimp only
  rw [hfold]
  unfold Warp.mapLane Warp.written
  dsimp only
  rw [List.modify_modify_eq]
  rfl

/-- No result of the lane is pending any more. -/
theorem Warp.resultsWithout_lanes {w : Warp} {l : Nat} {r : Result} (h : r ∈ w.resultsWithout l) : hasLane r.lanes l = false := by
  obtain ⟨r', -, rfl⟩ := List.mem_map.1 (List.mem_filter.1 h).1
  split
  · next hl =>
    have hlow : l < 64 := by
      by_contra hhigh
      rw [hasLane, BitVec.getLsbD_of_ge _ _ (Nat.le_of_not_lt hhigh)] at hl
      exact Bool.false_ne_true hl
    have hbit : (maskOf [l]).getLsbD l = true := by
      rw [maskOf, List.foldl_cons, List.foldl_nil, BitVec.getLsbD_or, BitVec.getLsbD_ofNat, Nat.testBit_two_pow_self, decide_eq_true hlow, Bool.and_self, Bool.or_true]
    rw [hasLane, BitVec.getLsbD_and, BitVec.getLsbD_not, hbit, Bool.not_true, Bool.and_false, Bool.and_false]
  · next hl => simpa using hl

/-! ### Entering the handler (R196) -/

/-- TRAPCAUSE from the cause and the condition. -/
theorem trapcause_toNat (code : Byte) (cond : BitVec 5) :
    (cond.setWidth 32 <<< 16 ||| code.setWidth 32 : W32).toNat = code.toNat + 2 ^ 16 * cond.toNat := by
  have hcond := cond.isLt
  have hcode := code.isLt
  have hadd : (cond.setWidth 32 <<< 16 ||| code.setWidth 32 : W32) = cond.setWidth 32 <<< 16 + code.setWidth 32 := by
    refine (BitVec.add_eq_or_of_and_eq_zero _ _ (BitVec.eq_of_getLsbD_eq (fun i hi => ?_))).symm
    rw [BitVec.getLsbD_and, BitVec.getLsbD_shiftLeft, BitVec.getLsbD_setWidth (x := code), BitVec.getLsbD_zero]
    by_cases h : i < 16
    · simp [h]
    · simp [BitVec.getLsbD_of_ge code i (by omega)]
  rw [hadd]
  simp only [BitVec.toNat_add, BitVec.toNat_shiftLeft, BitVec.toNat_setWidth, Nat.shiftLeft_eq]
  omega

/-- The lane that enters the handler. -/
def Lane.trapped (x : Lane) (c : Cause) (cond : BitVec 5) (addr pc ret vec : Word) : Lane :=
  { x with
    trapcause := cond.setWidth 32 <<< 16 ||| c.code.setWidth 32, trappc := pc, trapaddr := addr, trapret := ret, windows := [],
    handler := true, trapClause := x.clause, clause := none, pc := vec, st := .active, wait := none }

/-- A trap is entered in one lane; its pending results are written. -/
theorem Warp.enterTrap_eq (w : Warp) (l : Nat) (c : Cause) (cond : BitVec 5) (addr pc ret : Word) :
    w.enterTrap l c cond addr pc ret =
      { w.written l (w.due l) with
        results := w.resultsWithout l,
        lanes := w.lanes.modify l (fun x => (Lane.written (w.due l) x).trapped c cond addr pc ret w.trapvec) } := by
  unfold Warp.enterTrap
  rw [Warp.settleLane_eq]
  unfold Warp.mapLane Warp.written
  dsimp only
  rw [List.modify_modify_eq]
  rfl

/-! ### Stops that park (R342) -/

/-- The workgroup and the warp of the current issue. -/
theorem State.issue_of_cx? {s : State} {cx : Cx} (h : s.cx? = some cx) : s.wg? cx.wid = some cx.g ∧ cx.g.warps[cx.k]? = some cx.w := by
  unfold State.cx? at h
  split at h
  · cases h
  · next i hi =>
    split at h
    · cases h
    · next g hg =>
      split at h
      · next w c hw hc =>
        cases h
        exact ⟨hg, hw⟩
      · cases h

/-- A workgroup after a change of one of its warps. -/
theorem State.wg?_mapWarp_same {s : State} {wid k : Nat} {g : Wg} (f : Warp → Warp) (h : s.wg? wid = some g) :
    (s.mapWarp wid k f).wg? wid = some (g.mapWarp k f) := by
  have hwid : (g.wid == wid) = true := List.find?_some (p := fun g : Wg => g.wid == wid) h
  have hsame : ((fun g => g.wid == wid) ∘ fun g => if g.wid == wid then g.mapWarp k f else g) = fun g : Wg => g.wid == wid := by
    funext g
    simp only [Function.comp]
    split <;> rfl
  rw [State.wg?, State.mapWarp_wgs, List.find?_map, hsame, show s.wgs.find? (fun g => g.wid == wid) = some g from h, Option.map_some,
    if_pos hwid]

/-- Another workgroup after it. -/
theorem State.wg?_mapWarp_other {s : State} {wid k n : Nat} (f : Warp → Warp) (hn : n ≠ wid) : (s.mapWarp wid k f).wg? n = s.wg? n := by
  have hsame : ((fun g => g.wid == n) ∘ fun g => if g.wid == wid then g.mapWarp k f else g) = fun g : Wg => g.wid == n := by
    funext g
    simp only [Function.comp]
    split <;> rfl
  rw [State.wg?, State.mapWarp_wgs, List.find?_map, hsame]
  show (s.wg? n).map _ = s.wg? n
  cases h : s.wg? n with
  | none => rfl
  | some g =>
    have hwid : (g.wid == n) = true := List.find?_some (p := fun g : Wg => g.wid == n) h
    have hne : g.wid ≠ wid := fun h' => hn ((eq_of_beq hwid).symm.trans h')
    rw [Option.map_some, if_neg (by simpa using hne)]

/-- A warp after a change of it. -/
theorem State.warp?_mapWarp_same {s : State} {wid k : Nat} {w : Warp} (f : Warp → Warp) (h : s.warp? wid k = some w) :
    (s.mapWarp wid k f).warp? wid k = some (f w) := by
  obtain ⟨g, hg, hw⟩ := Option.bind_eq_some_iff.1 h
  rw [State.warp?, State.wg?_mapWarp_same f hg, Option.bind_some, Wg.mapWarp, List.getElem?_modify_eq, hw]
  rfl

/-- A drained ring leaves the workgroups alone. -/
theorem ringDrain_wgs (slot : Nat) (bss : List (List Byte)) (s : State) (r : Ring) : (ringDrain slot bss s r).1.wgs = s.wgs := by
  induction bss generalizing s r with
  | nil => rfl
  | cons bs bss ih =>
    unfold ringDrain
    split
    · rw [ih, State.msix_wgs]
      exact State.hbmRecord_wgs s _ _
    · rfl

/-- A posted fault record leaves the workgroups alone. -/
theorem State.postFault_wgs (s : State) (bs : List Byte) : (s.postFault bs).wgs = s.wgs := by
  unfold State.postFault
  split
  · rfl
  · exact ringDrain_wgs ..

/-- A warp is in a workgroup. -/
theorem State.wg?_of_warp? {s : State} {wid k : Nat} {w : Warp} (h : s.warp? wid k = some w) : ∃ g, s.wg? wid = some g := by
  obtain ⟨g, hg, -⟩ := Option.bind_eq_some_iff.1 h
  exact ⟨g, hg⟩

/-- One lane parks: it keeps its PC, and its record's cause and place stand in it (R342, R349). -/
theorem State.parkGroup_single {s : State} {wid k l : Nat} {w : Warp} {x : Lane} (hw : s.warp? wid k = some w) (hx : w.lanes[l]? = some x)
    (pc addr : Word) (cause : Cause) (kind detail : Nat) (scal : Bool) :
    ∃ p : Park, (s.parkGroup wid k [l] pc addr cause kind detail scal).lane? wid k l = some (x.parkWith p) ∧ p.cause = cause ∧
      p.kind = kind ∧ p.addr = addr ∧ p.pc = pc := by
  obtain ⟨g, hg⟩ := State.wg?_of_warp? hw
  unfold State.parkGroup
  rw [hg, hw]
  dsimp only
  rw [hx]
  dsimp only
  generalize (if s.sharedPage g.pkt.ctx (pageNamed cause addr detail) = true then detail ||| 0x80 else detail) = d
  refine ⟨{ recId := s.nextRec, cause := cause, kind := kind, addr := addr, detail := d, pc := pc }, ?_, rfl, rfl, rfl, rfl⟩
  have hpost : ∀ (t : State) (bs : List Byte), (t.postFault bs).lane? wid k l = t.lane? wid k l := fun t bs => by
    rw [State.lane?, State.warp?, State.wg?, State.postFault_wgs]
    rfl
  rw [hpost, State.lane?, State.warp?_mapWarp_same (s := { s with nextRec := s.nextRec + 1 }) _ hw, Option.bind_some]
  simp [Warp.mapLanes, Warp.mapLane, hx]

/-- A stop of one lane that is not taken in its handler parks it. -/
theorem State.stopLanes_parks {s : State} {wid k l : Nat} {w : Warp} {x : Lane} {st : Stop} (hw : s.warp? wid k = some w)
    (hx : w.lanes[l]? = some x) (hparks : st.enters w l = false) (pc next : Word) (scal : Bool) :
    ∃ p : Park, (s.stopLanes wid k pc next scal [(l, st)]).lane? wid k l = some (x.parkWith p) ∧ p.cause = st.record.1 ∧
      p.kind = st.record.2.1 ∧ p.addr = st.record.2.2.1 ∧ p.pc = pc := by
  unfold State.stopLanes
  rw [hw]
  simp only [List.filter_cons, List.filter_nil, hparks, Bool.false_eq_true, if_false, Bool.not_false, if_true, List.foldl_nil,
    List.map_cons, List.map_nil, List.length_cons, List.length_nil, State.parkAll]
  have hlow : lowAddr [(l, st.record)] st.record.2.2.1 = st.record.2.2.1 := by simp [lowAddr]
  rw [hlow]
  exact State.parkGroup_single hw hx ..

/-- A trap that is taken in the handler of its one lane. -/
theorem State.stopLanes_enters {s : State} {wid k l : Nat} {w : Warp} {c : Cause} {cond : BitVec 5} {addr : Word} {ret : Option Word}
    {detail : Nat} (hw : s.warp? wid k = some w) (henters : (Stop.trap c cond addr ret detail).enters w l = true) (pc next : Word)
    (scal : Bool) :
    s.stopLanes wid k pc next scal [(l, .trap c cond addr ret detail)] =
      s.mapWarp wid k (fun w => w.enterTrap l c cond addr pc (ret.getD next)) := by
  unfold State.stopLanes
  rw [hw]
  simp only [List.filter_cons, List.filter_nil, henters, Bool.not_true, Bool.false_eq_true, if_false, if_true, List.foldl_cons,
    List.foldl_nil, List.map_nil, List.length_nil, State.parkAll]

/-- Whether a user trap is taken in the handler of its lane (R196). -/
theorem Stop.enters_trap {w : Warp} {l : Nat} {x : Lane} (hx : w.lanes[l]? = some x) (c : Cause) (cond : BitVec 5) (addr : Word)
    (ret : Option Word) (detail : Nat) : (Stop.trap c cond addr ret detail).enters w l = (w.trapvec != 0 && !x.handler) := by
  simp only [Stop.enters, hx]

/-- Settles O57: the entry writes the pending results of its lane alone, and a trap that is not taken parks it. -/
theorem trapEntrySavesAndGoesToTheHandler : Obligations.TrapEntrySavesAndGoesToTheHandler := by
  refine ⟨?_, ?_⟩
  · intro w l x c cond addr pc ret hx v due
    have hv : v = _ := Warp.enterTrap_eq w l c cond addr pc ret
    refine ⟨⟨(Lane.written (w.due l) x).trapped c cond addr pc ret w.trapvec, ?_, rfl, rfl, trapcause_toNat c.code cond, rfl, rfl, rfl, rfl,
      rfl, rfl, rfl, rfl, rfl, rfl, rfl, rfl⟩, ?_, ?_, ?_⟩
    · rw [hv]
      simp [hx]
    · rw [hv]
      rfl
    · rw [hv]
      exact fun r hr => Warp.resultsWithout_lanes hr
    · intro j hj
      rw [hv]
      exact List.getElem?_modify_ne _ _ (Ne.symm hj)
  · intro s wid k l w x c cond addr pc next ret detail hw hx t
    refine ⟨fun hvec hhandler => ?_, fun hpark => ?_⟩
    · have henters : (Stop.trap c cond addr ret detail).enters w l = true := by
        rw [Stop.enters_trap hx, hhandler]
        simpa using hvec
      refine (State.stopLanes_enters hw henters pc next false).trans ?_
      cases ret <;> rfl
    · have hparks : (Stop.trap c cond addr ret detail).enters w l = false := by
        rw [Stop.enters_trap hx]
        rcases hpark with h | h <;> simp [h]
      obtain ⟨p, hlane, hcause, hkind, haddr, hpc⟩ := State.stopLanes_parks hw hx hparks pc next false
      exact ⟨x.parkWith p, p, hlane, rfl, hcause, hkind, haddr, hpc, rfl, rfl⟩

end Sys2Proof.Machine
end

section
/-!
SUPPORT. TRAP, BKPT, RTT and the system registers (R195 to R199): O30 to O32.
-/
namespace Sys2Proof.Machine

/-! ### Stops of every executing lane -/

/-- The warp of the current issue. -/
theorem State.warp?_of_cx? {s : State} {cx : Cx} (h : s.cx? = some cx) : s.warp? cx.wid cx.k = some cx.w := by
  obtain ⟨hwg, hwarp⟩ := State.issue_of_cx? h
  rw [State.warp?, hwg, Option.bind_some, hwarp]

/-- Lanes that all take one trap in their handlers. -/
theorem State.stopLanes_enters_all {s : State} {wid k : Nat} {w : Warp} {ls : List Nat} {c : Cause} {cond : BitVec 5} {addr : Word}
    {ret : Option Word} {detail : Nat} (hw : s.warp? wid k = some w)
    (henters : ∀ l ∈ ls, (Stop.trap c cond addr ret detail).enters w l = true) (pc next : Word) (scal : Bool) :
    s.stopLanes wid k pc next scal (ls.map (fun l => (l, .trap c cond addr ret detail))) =
      ls.foldl (fun s l => s.mapWarp wid k (fun w => w.enterTrap l c cond addr pc (ret.getD next))) s := by
  have htraps : (ls.map (fun l => (l, Stop.trap c cond addr ret detail))).filter (fun x => x.2.enters w x.1) =
      ls.map (fun l => (l, Stop.trap c cond addr ret detail)) := by
    refine List.filter_eq_self.2 (fun x hx => ?_)
    obtain ⟨l, hl, rfl⟩ := List.mem_map.1 hx
    exact henters l hl
  have hparks : (ls.map (fun l => (l, Stop.trap c cond addr ret detail))).filter (fun x => !x.2.enters w x.1) = [] := by
    refine List.filter_eq_nil_iff.2 (fun x hx => ?_)
    obtain ⟨l, hl, rfl⟩ := List.mem_map.1 hx
    simp [henters l hl]
  unfold State.stopLanes
  rw [hw]
  dsimp only
  rw [htraps, hparks, List.foldl_map]
  rfl

/-- Lanes that all park for one stop. -/
theorem State.stopLanes_parks_all {s : State} {wid k : Nat} {w : Warp} {ls : List Nat} {st : Stop} (hw : s.warp? wid k = some w)
    (hparks : ∀ l ∈ ls, st.enters w l = false) (pc next : Word) (scal : Bool) :
    s.stopLanes wid k pc next scal (ls.map (fun l => (l, st))) =
      State.parkAll wid k pc scal ls.length (ls.map (fun l => (l, st.record))) s := by
  have htraps : (ls.map (fun l => (l, st))).filter (fun x => x.2.enters w x.1) = [] := by
    refine List.filter_eq_nil_iff.2 (fun x hx => ?_)
    obtain ⟨l, hl, rfl⟩ := List.mem_map.1 hx
    simp [hparks l hl]
  have hall : (ls.map (fun l => (l, st))).filter (fun x => !x.2.enters w x.1) = ls.map (fun l => (l, st)) := by
    refine List.filter_eq_self.2 (fun x hx => ?_)
    obtain ⟨l, hl, rfl⟩ := List.mem_map.1 hx
    simp [hparks l hl]
  unfold State.stopLanes
  rw [hw]
  dsimp only
  rw [htraps, hall, List.length_map, List.map_map]
  rfl

/-- A move in which every executing lane stops. -/
theorem State.moveAll_stops {s : State} {cx : Cx} {st : Stop} (hlanes : ∀ l ∈ cx.lanes, ∃ x, cx.lane? l = some x) :
    s.moveAll cx noAct (fun _ _ => .stop st) =
      s.stopLanes cx.wid cx.k cx.pc cx.next false (cx.lanes.map (fun l => (l, st))) := by
  have hmoves : cx.lanes.map (fun l => (l, match cx.lane? l with | some x => (fun _ _ => .stop st) l x | none => .go cx.next)) =
      cx.lanes.map (fun l => (l, Move.stop st)) := by
    refine List.map_congr_left (fun l hl => ?_)
    obtain ⟨x, hx⟩ := hlanes l hl
    rw [hx]
  have hwaits : ∀ ls : List Nat, moveWaits (ls.map (fun l => (l, Move.stop st))) = [] := fun ls => by
    rw [moveWaits, List.filterMap_map]
    exact List.filterMap_eq_nil_iff.2 (fun _ _ => rfl)
  have hstops : ∀ ls : List Nat, moveStops (ls.map (fun l => (l, Move.stop st))) = ls.map (fun l => (l, st)) := fun ls => by
    rw [moveStops, List.filterMap_map, ← List.filterMap_eq_map]
    rfl
  have hacts : ∀ ls : List Nat, (ls.map (fun l => (l, Move.stop st))).foldl (State.moveLane cx noAct) s = s := fun ls => by
    induction ls with
    | nil => rfl
    | cons l ls ih => exact ih
  refine (congrArg (s.move cx noAct) hmoves).trans ?_
  unfold State.move
  rw [hwaits, hstops, hacts]

/-! ### TRAP, BKPT and RTT (R195 to R197) -/

/-- TRAP is one user trap in every executing lane (R195). -/
theorem exec_trap_stops {w : FmtA} {s : State} {cx : Cx} (hcx : s.cx? = some cx) (hlanes : ∀ l ∈ cx.lanes, ∃ x, cx.lane? l = some x) :
    exec (.trap w) s = finish (s.stopLanes cx.wid cx.k cx.pc cx.next false (cx.lanes.map (fun l =>
      (l, .trap .trapInsn 0 (((readUni s cx 1 w.a).v.setWidth 32).setWidth 64) none 0)))) := by
  show execTrap w s = _
  unfold execTrap
  rw [withCx_at hcx]
  exact congrArg finish (State.moveAll_stops hlanes)

/-- Entering handlers leaves the HBM alone. -/
theorem State.foldl_mapWarp_hole {wid k : Nat} (f : Nat → Warp → Warp) (ls : List Nat) (s : State) :
    (ls.foldl (fun s l => s.mapWarp wid k (f l)) s).hole = s.hole := by
  induction ls generalizing s with
  | nil => rfl
  | cons l ls ih => rw [List.foldl_cons, ih, State.mapWarp_hole]

/-- Of the state itself an operand names only the device's place in its pod (R104). -/
theorem readOp_congr {s t : State} (h : s.fab = t.fab) (cx : Cx) (l : Nat) (ty : BitVec 4) (c : Code) :
    readOp s cx l ty c = readOp t cx l ty c := by
  unfold readOp special
  rw [h]

/-- A change of a warp leaves the operands of the issue as they are. -/
theorem readUni_mapWarp (s : State) (cx : Cx) (t : BitVec 4) (c : Code) (wid k : Nat) (f : Warp → Warp) :
    readUni (s.mapWarp wid k f) cx t c = readUni s cx t c := by
  unfold readUni
  simp only [readOp_congr (State.mapWarp_fab s wid k f)]

/-- An operand read before each change of a warp is the operand read before all of them. -/
theorem State.foldl_mapWarp_readUni {cx : Cx} {t : BitVec 4} {c : Code} {v : Val} {wid k : Nat} (f : Val → Nat → Warp → Warp) (ls : List Nat)
    {s : State} (h : readUni s cx t c = v) :
    ls.foldl (fun s l => s.mapWarp wid k (f v l)) s = ls.foldl (fun s l => s.mapWarp wid k (f (readUni s cx t c) l)) s := by
  induction ls generalizing s with
  | nil => rfl
  | cons l ls ih => rw [List.foldl_cons, List.foldl_cons, h, ih ((readUni_mapWarp s cx t c wid k _).trans h)]

/-- Settles O30: every lane stops, and all of them enter their handlers or none does. -/
theorem trapsAndBreakpointsStopTheirLanes : Obligations.TrapsAndBreakpointsStopTheirLanes := by
  refine ⟨?_, ?_, ?_⟩
  · intro w s cx hat hvec hlanes
    obtain ⟨hcx, hole⟩ := hat
    rw [exec_trap_stops hcx (fun l hl => (hlanes l hl).imp (fun x hx => hx.1)),
      State.stopLanes_enters_all (State.warp?_of_cx? hcx) (fun l hl => ?_)]
    · refine Eq.trans (finish_next ?_) (congrArg Host.Outcome.next
        (State.foldl_mapWarp_readUni (fun v l y => y.enterTrap l .trapInsn 0 ((v.v.setWidth 32).setWidth 64) cx.pc cx.next) cx.lanes rfl))
      rw [State.foldl_mapWarp_hole, hole]
    · obtain ⟨x, hx, hhandler⟩ := hlanes l hl
      rw [Stop.enters_trap hx, hhandler]
      simpa using hvec
  · intro w s cx hcx hlanes a t hole
    rw [exec_trap_stops hcx (fun l hl => (hlanes l hl).imp (fun x hx => hx.1)),
      State.stopLanes_parks_all (State.warp?_of_cx? hcx) (fun l hl => ?_)]
    · exact finish_next hole
    · obtain ⟨x, hx, hpark⟩ := hlanes l hl
      rw [Stop.enters_trap hx]
      rcases hpark with h | h <;> simp [h]
  · intro w s cx hcx t hole
    show execBkpt w s = _
    unfold execBkpt
    rw [withCx_at hcx, State.stopLanes_parks_all (State.warp?_mapWarp_same _ (State.warp?_of_cx? hcx)) (fun l _ => ?_)]
    · exact finish_next hole
    · rfl

/-- Settles O31: no lane is outside its handler. -/
theorem returnFromTrapLeavesTheHandler : Obligations.ReturnFromTrapLeavesTheHandler := by
  intro w s cx hat hlanes
  obtain ⟨hcx, hole⟩ := hat
  show execRtt w s = _
  unfold execRtt
  rw [withCx_at hcx]
  dsimp only
  rw [List.filter_eq_self.2, List.filter_eq_nil_iff.2, List.map_nil, State.stopLanes_nil]
  · exact finish_next hole
  · intro l hl
    obtain ⟨x, hx, hhandler⟩ := hlanes l hl
    simp [hx, hhandler]
  · intro l hl
    obtain ⟨x, hx, hhandler⟩ := hlanes l hl
    simp [hx, hhandler]

/-! ### System registers (R198, R199, R318) -/

/-- The registers that only privileged contexts may access are COPYMODE and those of the device. -/
theorem csrPrivileged_iff {n : Nat} : csrPrivileged n = true ↔ n = 0x30 ∨ 0x100 ≤ n := by
  simp [csrPrivileged]

/-- Lanes that all stop for one fault. -/
theorem State.commit_faults {s : State} {cx : Cx} {c : Cause} {addr : Word} {detail : Nat} :
    s.commit cx false false 0 (cx.lanes.map (fun l => (l, .stop (.fault c addr detail)))) =
      (Claims.cross s cx (fun _ => .stop (.fault c addr detail))).stopLanes cx.wid cx.k cx.pc cx.next false
        (cx.lanes.map (fun l => (l, .fault c addr detail))) := by
  rw [State.commit_stops false false 0 (waitsOf_map_nil (f := fun _ => .stop (.fault c addr detail)) (fun _ _ _ _ => nofun))]
  show State.stopLanes _ _ _ _ _ _ (stopsOf (cx.lanes.map _)) = _
  rw [stopsOf_map_stop]
  rfl

/-- What CSRW writes in a lane that may write. -/
theorem csrwLane_of_good {s : State} {cx : Cx} {w : FmtA} {l : Nat} {x : Lane} (hx : cx.lane? l = some x)
    (hpriv : (csrPrivileged w.csr && !cx.ctx.priv) = false) (hp : (readOp s cx l w.ty w.a).p = false)
    (hr : csrRefuses w.csr (readOp s cx l w.ty w.a).v = false) :
    csrwLane s cx w l = .ok (if csrWide w.csr && w.ty == 1 then
      csrRead s cx.ctx cx.g cx.w x w.csr &&& 0xFFFFFFFF00000000 ||| (readOp s cx l w.ty w.a).v &&& 0xFFFFFFFF
      else (readOp s cx l w.ty w.a).v) := by
  unfold csrwLane
  rw [hx]
  simp only [hpriv, hp, hr, Bool.false_eq_true, if_false]
  split <;> rfl

/-- CSRW whose lanes all write: a register that lanes share is written with the value of the last. -/
theorem exec_csrw_of_good {w : FmtA} {s : State} {cx : Cx} {v : Nat → Word} (hcx : s.cx? = some cx)
    (hgood : ∀ l ∈ cx.lanes, csrwLane s cx w l = .ok (v l)) :
    exec (.csrw w) s = finish (Claims.cross ((if csrPerLane w.csr then cx.lanes else cx.lanes.getLast?.toList).foldl
      (fun s l => s.csrWrite cx.ctx.num cx.wid cx.k l w.csr (v l)) s) cx (fun _ => .write [] 0 0)) := by
  have hvals : cx.lanes.map (fun l => (l, csrwLane s cx w l)) = cx.lanes.map (fun l => (l, .ok (v l))) :=
    List.map_congr_left (fun l hl => congrArg (Prod.mk l) (hgood l hl))
  have hputs : ∀ ls : List Nat, ls.filterMap (fun l => some (l, v l)) = ls.map (fun l => (l, v l)) := fun ls =>
    congrFun List.filterMap_eq_map ls
  show execCsrw w s = _
  unfold execCsrw
  rw [withCx_at hcx]
  dsimp only
  rw [hvals]
  simp only [List.filterMap_map, Function.comp_def, List.map_map, hputs, flowDone, State.commit_writes, List.getLast?_map]
  have hwriters : (if csrPerLane w.csr then cx.lanes.map (fun l => (l, v l)) else (cx.lanes.getLast?.map (fun l => (l, v l))).toList) =
      (if csrPerLane w.csr then cx.lanes else cx.lanes.getLast?.toList).map (fun l => (l, v l)) := by
    cases csrPerLane w.csr with
    | true => rfl
    | false => cases cx.lanes.getLast? <;> rfl
  rw [hwriters, List.foldl_map]
  rfl

/-- What CSRR gives a lane that may read (R198). -/
def csrrOut (s : State) (cx : Cx) (w : FmtA) (l : Nat) : LaneOut :=
  match cx.lane? (if Code.isScalar w.d then cx.low else l) with
  | none => .skip
  | some x =>
    .write (destWrites l w.d w.ty
      (if w.ty = 1 then csrRead s cx.ctx cx.g cx.w x w.csr &&& 0xFFFFFFFF else csrRead s cx.ctx cx.g cx.w x w.csr) false) 0 0

/-- CSRR in lanes that may read (R198). -/
theorem exec_csrr_of_may {w : FmtA} {s : State} {cx : Cx} (hcx : s.cx? = some cx) (hmay : (csrPrivileged w.csr && !cx.ctx.priv) = false) :
    exec (.csrr w) s = finish (Claims.cross s cx (csrrOut s cx w)) := by
  have hwaits : waitsOf (cx.lanes.map (fun l => (l, csrrOut s cx w l))) = [] := waitsOf_map_nil (fun l _ on a => by
    unfold csrrOut
    cases cx.lane? (if Code.isScalar w.d then cx.low else l) <;> nofun)
  have hstops : stopsOf (cx.lanes.map (fun l => (l, csrrOut s cx w l))) = [] := stopsOf_map_nil (fun l _ st => by
    unfold csrrOut
    cases cx.lane? (if Code.isScalar w.d then cx.low else l) <;> nofun)
  show execCsrr w s = _
  unfold execCsrr
  rw [withCx_at hcx]
  refine congrArg finish (Eq.trans (congrArg (s.commit cx false false 0) (List.map_congr_left (fun l _ => ?_)))
    (State.commit_done false false 0 hwaits hstops))
  unfold csrrOut
  cases cx.lane? (if Code.isScalar w.d then cx.low else l) with
  | none => rfl
  | some x => simp only [hmay, Bool.false_eq_true, if_false, beq_iff_eq]

/-- CSRR of a register that the context may not access (R199, R318). -/
theorem exec_csrr_refused {w : FmtA} {s : State} {cx : Cx} (hcx : s.cx? = some cx) (hmust : (csrPrivileged w.csr && !cx.ctx.priv) = true)
    (hlow : ∃ x, cx.lane? cx.low = some x) (hthere : ∀ l ∈ cx.lanes, ∃ x, cx.lane? l = some x) :
    exec (.csrr w) s = finish (s.commit cx false false 0 (cx.lanes.map (fun l => (l, .stop (.fault .protection 0 0))))) := by
  show execCsrr w s = _
  unfold execCsrr
  rw [withCx_at hcx]
  refine congrArg finish (congrArg (s.commit cx false false 0) (List.map_congr_left (fun l hl => ?_)))
  have hlane : ∃ x, cx.lane? (if Code.isScalar w.d then cx.low else l) = some x := by
    split
    · exact hlow
    · exact hthere l hl
  obtain ⟨x, hx⟩ := hlane
  rw [hx]
  simp only [hmust, if_true]

/-- CSRW of a register that the context may not access (R199, R318). -/
theorem exec_csrw_refused {w : FmtA} {s : State} {cx : Cx} (hcx : s.cx? = some cx) (hmust : (csrPrivileged w.csr && !cx.ctx.priv) = true)
    (hthere : ∀ l ∈ cx.lanes, ∃ x, cx.lane? l = some x) :
    exec (.csrw w) s = finish (s.commit cx false false 0 (cx.lanes.map (fun l => (l, .stop (.fault .protection 0 0))))) := by
  have hvals : cx.lanes.map (fun l => (l, csrwLane s cx w l)) = cx.lanes.map (fun l => (l, .error (.stop (.fault .protection 0 0)))) := by
    refine List.map_congr_left (fun l hl => congrArg (Prod.mk l) ?_)
    obtain ⟨x, hx⟩ := hthere l hl
    unfold csrwLane
    rw [hx]
    simp only [hmust, if_true]
  have hnone : ∀ ls : List Nat, ls.filterMap (fun _ => (none : Option (Nat × Word))) = [] := fun ls =>
    List.filterMap_eq_nil_iff.2 (fun _ _ => rfl)
  show execCsrw w s = _
  unfold execCsrw
  rw [withCx_at hcx]
  dsimp only
  rw [hvals]
  simp only [List.filterMap_map, Function.comp_def, List.map_map, hnone, List.getLast?_nil, Option.toList_none, ite_self, List.foldl_nil]

/-- A context may access a register unless it is privileged and the context is not. -/
theorem csr_may {n : Nat} {priv : Bool} (h : n = 0x30 ∨ 0x100 ≤ n → priv = true) : (csrPrivileged n && !priv) = false := by
  cases hn : csrPrivileged n with
  | false => rfl
  | true => rw [h (csrPrivileged_iff.1 hn)]; rfl

/-- Settles O32: every lane may access the register, or every lane stops. -/
theorem systemRegistersAreReadAndWritten : Obligations.SystemRegistersAreReadAndWritten := by
  refine ⟨?_, ?_, ?_⟩
  · intro w s cx hat hpriv
    obtain ⟨hcx, hole⟩ := hat
    exact (exec_csrr_of_may hcx (csr_may hpriv)).trans (finish_next hole)
  · intro w s cx hcx hpriv hlanes hthere hclean hrefuse v writers t hole
    refine (exec_csrw_of_good (v := v) hcx (fun l hl => ?_)).trans (finish_next hole)
    obtain ⟨x, hx⟩ := hthere l hl
    rw [csrwLane_of_good hx (csr_may hpriv) (hclean l hl) (hrefuse l hl)]
    simp only [v, hx]
  · intro w s cx hcx hname hpriv hthere stop t hole
    have hmust : (csrPrivileged w.csr && !cx.ctx.priv) = true := by
      rw [csrPrivileged_iff.2 hname, hpriv]
      rfl
    refine ⟨?_, fun hlow => ?_⟩
    · rw [exec_csrw_refused hcx hmust hthere, State.commit_faults]
      exact finish_next hole
    · rw [exec_csrr_refused hcx hmust hlow hthere, State.commit_faults]
      exact finish_next hole

end Sys2Proof.Machine
end

section
/-!
SUPPORT. The frame of the arithmetic families (R42, R43, R46, R76, R106, R114): O59. What the frame leaves alone is a relation between
the warp before and after, which every step of an execution's end keeps.
-/
namespace Sys2Proof.Machine

/-! ### What the frame leaves alone in a lane and in a warp -/

/-- Nothing of a lane differs but its registers and predicates that the entry names, its place, its windows and its sticky flags of the
entry's kind, which only grow. -/
structure LaneFrame (e : Entry) (x y : Lane) : Prop where
  only : y = { x with v := y.v, p := y.p, pc := y.pc, wait := y.wait, windows := y.windows, fpstat := y.fpstat, decstat := y.decstat }
  regs : ∀ k, Claims.names e (.lane k) = false → y.v[k]? = x.v[k]?
  preds : ∀ k, Claims.names e (.pred k) = false → y.p[k]? = x.p[k]?
  binary : e.dec = false → y.decstat = x.decstat
  decimal : e.dec = true → y.fpstat = x.fpstat
  fpSticky : y.fpstat &&& x.fpstat = x.fpstat
  decSticky : y.decstat &&& x.decstat = x.decstat
  fpHigh : y.fpstat >>> 5 = x.fpstat >>> 5
  decHigh : y.decstat >>> 5 = x.decstat >>> 5

/-- Nothing differs where nothing happens. -/
theorem LaneFrame.refl (e : Entry) (x : Lane) : LaneFrame e x x :=
  ⟨rfl, fun _ _ => rfl, fun _ _ => rfl, fun _ => rfl, fun _ => rfl, BitVec.and_self, BitVec.and_self, rfl, rfl⟩

/-- Sticky flags stay through two steps. -/
theorem sticky_trans {a b c : W32} (hab : b &&& a = a) (hbc : c &&& b = b) : c &&& a = a := by
  calc c &&& a
      _ = c &&& b &&& a := by rw [BitVec.and_assoc, hab]
      _ = a := by rw [hbc, hab]

/-- Two steps in the frame are in the frame. -/
theorem LaneFrame.trans {e : Entry} {x y z : Lane} (hxy : LaneFrame e x y) (hyz : LaneFrame e y z) : LaneFrame e x z where
  only := by
    have h := hyz.only
    rw [hxy.only] at h
    exact h
  regs := fun k hk => (hyz.regs k hk).trans (hxy.regs k hk)
  preds := fun k hk => (hyz.preds k hk).trans (hxy.preds k hk)
  binary := fun h => (hyz.binary h).trans (hxy.binary h)
  decimal := fun h => (hyz.decimal h).trans (hxy.decimal h)
  fpSticky := sticky_trans hxy.fpSticky hyz.fpSticky
  decSticky := sticky_trans hxy.decSticky hyz.decSticky
  fpHigh := hyz.fpHigh.trans hxy.fpHigh
  decHigh := hyz.decHigh.trans hxy.decHigh

/-- Windows of a lane change. -/
theorem LaneFrame.windows {e : Entry} (x : Lane) (ws : List Window) : LaneFrame e x { x with windows := ws } :=
  ⟨rfl, fun _ _ => rfl, fun _ _ => rfl, fun _ => rfl, fun _ => rfl, BitVec.and_self, BitVec.and_self, rfl, rfl⟩

/-- A lane moves on. -/
theorem LaneFrame.advance {e : Entry} (x : Lane) (next : Word) : LaneFrame e x (x.advance next) :=
  ⟨rfl, fun _ _ => rfl, fun _ _ => rfl, fun _ => rfl, fun _ => rfl, BitVec.and_self, BitVec.and_self, rfl, rfl⟩

/-- Flags that are added stay beside those that were set. -/
theorem or_and_left (a b : W32) : (a ||| b) &&& a = a := by
  refine BitVec.eq_of_getLsbD_eq (fun i hi => ?_)
  rw [BitVec.getLsbD_and, BitVec.getLsbD_or]
  cases a.getLsbD i <;> simp

/-- Five flags lie below bit 5. -/
theorem or_flags_high (a : W32) (f : BitVec 5) : (a ||| f.setWidth 32) >>> 5 = a >>> 5 := by
  refine BitVec.eq_of_getLsbD_eq (fun i hi => ?_)
  rw [BitVec.getLsbD_ushiftRight, BitVec.getLsbD_ushiftRight, BitVec.getLsbD_or, BitVec.getLsbD_setWidth,
    BitVec.getLsbD_of_ge f (5 + i) (by omega), Bool.and_false, Bool.or_false]

/-- Flags of the entry's kind are added. -/
theorem LaneFrame.addFlags {e : Entry} {fp dec : BitVec 5} (hbin : e.dec = false → dec = 0) (hdec : e.dec = true → fp = 0) (x : Lane) :
    LaneFrame e x (x.addFlags fp dec) where
  only := rfl
  regs := fun _ _ => rfl
  preds := fun _ _ => rfl
  binary := fun h => by simp [Lane.addFlags, hbin h]
  decimal := fun h => by simp [Lane.addFlags, hdec h]
  fpSticky := or_and_left _ _
  decSticky := or_and_left _ _
  fpHigh := or_flags_high _ _
  decHigh := or_flags_high _ _

/-- A register or predicate that the entry names is written; p7 discards the write. -/
theorem LaneFrame.put {e : Entry} {d : Dest} (hd : Claims.names e d = true ∨ d = .pred 7) (v : Word) (p : Bool) (x : Lane) :
    LaneFrame e x (x.put d v p) := by
  cases d with
  | scalar k => exact LaneFrame.refl e x
  | lane k =>
    refine { LaneFrame.refl e x with only := rfl, regs := fun j hj => ?_, preds := fun _ _ => rfl }
    have hne : k ≠ j := by
      rintro rfl
      rcases hd with h | h
      · exact Bool.false_ne_true (hj.symm.trans h)
      · cases h
    exact List.getElem?_set_ne hne
  | pred k =>
    unfold Lane.put
    dsimp only
    split
    · next hk =>
      refine { LaneFrame.refl e x with only := rfl, preds := fun j hj => ?_, regs := fun _ _ => rfl }
      have hne : k ≠ j := by
        rintro rfl
        rcases hd with h | h
        · exact Bool.false_ne_true (hj.symm.trans h)
        · cases h
          exact absurd hk (Nat.lt_irrefl 7)
      exact List.getElem?_set_ne hne
    · exact LaneFrame.refl e x

/-- Nothing of a warp differs but its lanes within the frame, those that do not execute not at all, its scalar registers that the entry
names and its pending results. -/
structure WarpFrame (e : Entry) (ls : List Nat) (w w' : Warp) : Prop where
  only : w' = { w with lanes := w'.lanes, s := w'.s, results := w'.results, nextRes := w'.nextRes }
  scalars : ∀ k, Claims.names e (.scalar k) = false → w'.s[k]? = w.s[k]?
  lanes : ∀ (l : Nat) (x : Lane), w.lanes[l]? = some x →
    ∃ y : Lane, w'.lanes[l]? = some y ∧ (l ∉ ls → y = x) ∧ LaneFrame e x y

section
variable {e : Entry} {ls : List Nat}

/-- Nothing differs where nothing happens. -/
theorem WarpFrame.refl (w : Warp) : WarpFrame e ls w w :=
  ⟨rfl, fun _ _ => rfl, fun _ x hx => ⟨x, hx, fun _ => rfl, LaneFrame.refl e x⟩⟩

/-- Two steps in the frame are in the frame. -/
theorem WarpFrame.trans {w w' w'' : Warp} (h : WarpFrame e ls w w') (h' : WarpFrame e ls w' w'') : WarpFrame e ls w w'' where
  only := by
    have ho := h'.only
    rw [h.only] at ho
    exact ho
  scalars := fun k hk => (h'.scalars k hk).trans (h.scalars k hk)
  lanes := fun l x hx => by
    obtain ⟨y, hy, hsame, hxy⟩ := h.lanes l x hx
    obtain ⟨z, hz, hsame', hyz⟩ := h'.lanes l y hy
    exact ⟨z, hz, fun hl => (hsame' hl).trans (hsame hl), hxy.trans hyz⟩

/-- A list of steps in the frame is in the frame. -/
theorem WarpFrame.foldl {α : Type} {f : Warp → α → Warp} {xs : List α} (h : ∀ x ∈ xs, ∀ w, WarpFrame e ls w (f w x)) (w : Warp) :
    WarpFrame e ls w (xs.foldl f w) := by
  induction xs generalizing w with
  | nil => exact WarpFrame.refl w
  | cons x xs ih =>
    exact (h x List.mem_cons_self w).trans (ih (fun y hy => h y (List.mem_cons_of_mem x hy)) _)

/-- Only the pending results change. -/
theorem WarpFrame.of_results (w : Warp) (rs : List Result) (n : Nat) : WarpFrame e ls w { w with results := rs, nextRes := n } :=
  ⟨rfl, fun _ _ => rfl, fun _ x hx => ⟨x, hx, fun _ => rfl, LaneFrame.refl e x⟩⟩

/-- A change of an executing lane in the frame. -/
theorem WarpFrame.mapLane {l : Nat} {f : Lane → Lane} (hl : l ∈ ls) (hf : ∀ x, LaneFrame e x (f x)) (w : Warp) :
    WarpFrame e ls w (w.mapLane l f) where
  only := rfl
  scalars := fun _ _ => rfl
  lanes := fun j x hx => by
    by_cases hj : l = j
    · subst hj
      exact ⟨f x, by simp [Warp.mapLane, hx], fun hn => absurd hl hn, hf x⟩
    · exact ⟨x, by simp [Warp.mapLane, List.getElem?_modify_ne, hj, hx], fun _ => rfl, LaneFrame.refl e x⟩

/-- What a write overrides. -/
theorem WarpFrame.override {l : Nat} (hl : l ∈ ls) (d : Dest) (w : Warp) : WarpFrame e ls w (w.override l d) := by
  unfold Warp.override
  split
  · exact WarpFrame.refl w
  · dsimp only
    split
    · exact WarpFrame.refl w
    · refine WarpFrame.trans (WarpFrame.of_results w _ w.nextRes) (WarpFrame.mapLane hl (fun x => LaneFrame.windows x _) _)

/-- A write of the entry in an executing lane, or of a scalar register. -/
def Written (e : Entry) (ls : List Nat) (z : ResWrite) : Prop :=
  (Claims.names e z.dst = true ∨ z.dst = .pred 7) ∧ ∀ l, z.lane = some l → l ∈ ls

/-- A write of the entry. -/
theorem WarpFrame.apply {z : ResWrite} (hz : Written e ls z) (w : Warp) : WarpFrame e ls w (w.apply z) := by
  obtain ⟨lane, dst, val, poison⟩ := z
  obtain ⟨hd, hl⟩ := hz
  cases dst with
  | scalar k =>
    refine ⟨rfl, fun j hj => ?_, fun _ x hx => ⟨x, hx, fun _ => rfl, LaneFrame.refl e x⟩⟩
    have hne : k ≠ j := by
      rintro rfl
      rcases hd with h | h
      · exact Bool.false_ne_true (hj.symm.trans h)
      · cases h
    exact List.getElem?_set_ne hne
  | lane k =>
    cases lane with
    | none => exact WarpFrame.refl w
    | some l => exact WarpFrame.mapLane (hl l rfl) (fun x => LaneFrame.put hd val poison x) w
  | pred k =>
    cases lane with
    | none => exact WarpFrame.refl w
    | some l => exact WarpFrame.mapLane (hl l rfl) (fun x => LaneFrame.put hd val poison x) w

/-- What a lane of the frame comes to: writes of the entry with flags of its kind. -/
def Framed (e : Entry) (ls : List Nat) (o : Nat × LaneOut) : Prop :=
  o.1 ∈ ls ∧ ∀ ws fp dec, o.2 = .write ws fp dec → (∀ z ∈ ws, Written e ls z) ∧ (e.dec = false → dec = 0) ∧ (e.dec = true → fp = 0)

/-- A lane of a short instruction ends. -/
theorem WarpFrame.commitShort {o : Nat × LaneOut} (ho : Framed e ls o) (next : Word) (w : Warp) :
    WarpFrame e ls w (w.commitShort next o) := by
  obtain ⟨l, out⟩ := o
  obtain ⟨hl, hwrite⟩ := ho
  cases out with
  | skip => exact WarpFrame.mapLane hl (fun x => LaneFrame.advance x next) w
  | stop st => exact WarpFrame.refl w
  | wait on a => exact WarpFrame.refl w
  | write ws fp dec =>
    obtain ⟨hws, hbin, hdec⟩ := hwrite ws fp dec rfl
    have hall : WarpFrame e ls w (w.writeAll l ws) :=
      WarpFrame.foldl (fun z hz w => (WarpFrame.override hl z.dst w).trans (WarpFrame.apply (hws z hz) _)) w
    exact hall.trans (WarpFrame.mapLane hl (fun x => (LaneFrame.addFlags hbin hdec x).trans (LaneFrame.advance _ next)) _)

/-- A lane of a long instruction ends. -/
theorem WarpFrame.commitLong {o : Nat × LaneOut} (ho : Framed e ls o) (next : Word) (id run : Nat) (w : Warp) :
    WarpFrame e ls w (w.commitLong next id run o) := by
  obtain ⟨l, out⟩ := o
  obtain ⟨hl, hwrite⟩ := ho
  cases out with
  | skip => exact WarpFrame.mapLane hl (fun x => LaneFrame.advance x next) w
  | stop st => exact WarpFrame.refl w
  | wait on a => exact WarpFrame.refl w
  | write ws fp dec =>
    obtain ⟨-, hbin, hdec⟩ := hwrite ws fp dec rfl
    have hall : WarpFrame e ls w (ws.foldl (fun w x => w.override l x.dst) w) :=
      WarpFrame.foldl (fun z _ w => WarpFrame.override hl z.dst w) w
    refine hall.trans (WarpFrame.mapLane hl (fun x => ?_) _)
    have hadvance : LaneFrame e x ((x.addFlags fp dec).advance next) :=
      (LaneFrame.addFlags hbin hdec x).trans (LaneFrame.advance _ next)
    dsimp only
    split
    · exact hadvance
    · exact hadvance.trans (LaneFrame.windows _ _)

/-- An execution of the frame ends. -/
theorem WarpFrame.commit {outs : List (Nat × LaneOut)} (houts : ∀ o ∈ outs, Framed e ls o) (next : Word) (long : Bool) (run : Nat)
    (w : Warp) : WarpFrame e ls w (w.commit next long run outs) := by
  unfold Warp.commit
  split
  · have hall : WarpFrame e ls w (outs.foldl (Warp.commitLong next w.nextRes run) w) :=
      WarpFrame.foldl (fun o ho w => WarpFrame.commitLong (houts o ho) next _ run w) w
    dsimp only
    split
    · exact hall
    · exact hall.trans (WarpFrame.of_results _ _ _)
  · exact WarpFrame.foldl (fun o ho w => WarpFrame.commitShort (houts o ho) next w) w

/-! ### The entry's writes -/

/-- What an entry writes are its destinations. -/
theorem Entry.writes_written {l : Nat} (hl : l ∈ ls) (v : Val) : ∀ z ∈ e.writes l v, Written e ls z := by
  have hlane : ∀ j, some l = some j → j ∈ ls := fun j hj => Option.some.inj hj ▸ hl
  unfold Entry.writes
  split
  · next hpred =>
    intro z hz
    obtain rfl := List.mem_singleton.1 hz
    refine ⟨?_, hlane⟩
    by_cases h : e.dst.toNat % 8 = 7
    · exact .inr (congrArg Dest.pred h)
    · exact .inl (by simp [Claims.names, hpred, h])
  · next hpred =>
    unfold destWrites
    split
    · next hscalar =>
      intro z hz
      obtain rfl := List.mem_singleton.1 hz
      exact ⟨.inl (by simp [Claims.names, hpred, hscalar]), fun j hj => by cases hj⟩
    · split
      · next hreg =>
        have hlow : Claims.names e (.lane e.dst.toNat) = true := by simp [Claims.names, hpred, hreg]
        split
        · next hwide =>
          have hhigh : Claims.names e (.lane (e.dst.toNat + 1)) = true := by simp [Claims.names, hpred, hreg, hwide]
          intro z hz
          rcases List.mem_cons.1 hz with rfl | hz
          · exact ⟨.inl hlow, hlane⟩
          · obtain rfl := List.mem_singleton.1 hz
            exact ⟨.inl hhigh, hlane⟩
        · intro z hz
          obtain rfl := List.mem_singleton.1 hz
          exact ⟨.inl hlow, hlane⟩
      · exact fun z hz => absurd hz List.not_mem_nil

/-- A lane that writes nothing. -/
theorem framed_of_ne_write {l : Nat} {o : LaneOut} (hl : l ∈ ls) (h : ∀ ws fp dec, o ≠ .write ws fp dec) : Framed e ls (l, o) :=
  ⟨hl, fun ws fp dec ho => absurd ho (h ws fp dec)⟩

/-- A lane that writes without flags. -/
theorem framed_write {l : Nat} (hl : l ∈ ls) (v : Val) : Framed e ls (l, .write (e.writes l v) 0 0) := by
  refine ⟨hl, fun ws fp dec ho => ?_⟩
  cases ho
  exact ⟨Entry.writes_written hl v, fun _ => rfl, fun _ => rfl⟩

/-- What raising conditions writes has flags of the entry's kind. -/
theorem framed_raiseOut {l : Nat} (hl : l ∈ ls) (x : Lane) (a : AluRes) (v : Val) : Framed e ls (l, raiseOut x e.dec a (e.writes l v)) := by
  unfold raiseOut
  split
  · exact framed_of_ne_write hl (fun _ _ _ => nofun)
  · dsimp only
    generalize (if a.div0 = true then (0 : BitVec 5) else (joinConds a.cs).cond (x.enables e.dec)) = cond
    split
    · exact framed_of_ne_write hl (fun _ _ _ => nofun)
    · refine ⟨hl, fun ws fp dec ho => ?_⟩
      cases hdec : e.dec with
      | true =>
        rw [hdec] at ho
        cases ho
        exact ⟨Entry.writes_written hl v, nofun, fun _ => rfl⟩
      | false =>
        rw [hdec] at ho
        cases ho
        exact ⟨Entry.writes_written hl v, fun _ => rfl, nofun⟩

/-- A lane of the frame. -/
theorem framed_lane (s : State) (cx : Cx) (px : Option Px) {l : Nat} (hl : l ∈ ls) : Framed e ls (l, e.lane s cx px l) := by
  unfold Entry.lane
  split
  · exact framed_of_ne_write hl (fun _ _ _ => nofun)
  · split
    · exact framed_of_ne_write hl (fun _ _ _ => nofun)
    · exact framed_of_ne_write hl (fun _ _ _ => nofun)
    · split
      · exact framed_write hl _
      · exact framed_of_ne_write hl (fun _ _ _ => nofun)
    · exact framed_raiseOut hl _ _ _

/-- A lane of the frame on the scalar unit. -/
theorem framed_uniLane (cx : Cx) (a : AluRes) {l : Nat} (hl : l ∈ ls) : Framed e ls (l, e.uniLane cx a l) := by
  unfold Entry.uniLane
  split
  · exact framed_of_ne_write hl (fun _ _ _ => nofun)
  · split
    · exact framed_raiseOut hl _ _ _
    · exact framed_of_ne_write hl (fun _ _ _ => nofun)

/-- Every lane of the frame. -/
theorem framed_laneOuts (i : Instr) (e : Entry) (s : State) (cx : Cx) : ∀ o ∈ Claims.laneOuts i e s cx, Framed e cx.lanes o := by
  intro o ho
  unfold Claims.laneOuts at ho
  split at ho
  · unfold Entry.uni at ho
    split at ho
    · cases ho
    · obtain ⟨l, hl, rfl⟩ := List.mem_map.1 ho
      exact framed_uniLane cx _ hl
  · obtain ⟨l, hl, rfl⟩ := List.mem_map.1 ho
    exact framed_lane s cx _ hl

end

/-! ### The obligation -/

/-- The members of the move family in the frame (R142 to R146). -/
theorem exec_of_moveRule {i : Instr} {e : Entry} (h : Claims.moveRule i = some e) (s : State) : exec i s = laneOp i e s := by
  cases i with
  | mov w | pand w | por w | pxor w | pnot w => cases h; rfl
  | pmov w =>
    unfold Claims.moveRule at h
    dsimp only at h
    show execPmov w s = _
    unfold execPmov
    split at h
    · next hform =>
      cases h
      simp only [hform]
      rfl
    · next hone =>
      split at h
      · cases h
      · next htwo =>
        cases h
        simp only [beq_false_of_ne hone, beq_false_of_ne htwo, Bool.false_eq_true, if_false]
  | _ => cases h

/-- An instruction in the frame runs its entry. -/
theorem exec_of_inFrame {i : Instr} {e : Entry} (h : Claims.InFrame i e) (s : State) : exec i s = laneOp i e s := by
  rcases h with h | h | h | h | h | h | h | h
  · exact exec_of_integerRule h s
  · exact exec_of_immediateRule h s
  · exact exec_of_logicRule h s
  · exact exec_of_bitRule h s
  · exact exec_of_moveRule h s
  · exact exec_of_floatRule h s
  · exact exec_of_convertRule h s
  · exact exec_of_decimalRule h s

/-- A change of the issue's warp that keeps all but its lanes, scalars and results is in the frame of one warp. -/
theorem onlyWarp_mapWarp {s : State} {cx : Cx} (hcx : s.cx? = some cx) {f : Warp → Warp}
    (hf : f cx.w = { cx.w with lanes := (f cx.w).lanes, s := (f cx.w).s, results := (f cx.w).results, nextRes := (f cx.w).nextRes }) :
    Claims.OnlyWarp s (s.mapWarp cx.wid cx.k f) cx (f cx.w) := by
  obtain ⟨hwg, hwarp⟩ := State.issue_of_cx? hcx
  refine ⟨rfl, fun n hn => State.wg?_mapWarp_other f hn, cx.g.mapWarp cx.k f, State.wg?_mapWarp_same f hwg, rfl, fun k hk => ?_, ?_, hf⟩
  · exact List.getElem?_modify_ne f cx.g.warps (Ne.symm hk)
  · rw [Wg.mapWarp, List.getElem?_modify_eq, hwarp]
    rfl

/-- Settles O59: the execution's end keeps the frame step by step. -/
theorem arithmeticChangesOnlyItsDestination : Obligations.ArithmeticChangesOnlyItsDestination := by
  intro i e s t cx hframe hat hstops hexec
  obtain rfl : Claims.after i s cx (Claims.laneOuts i e s cx) = t := by
    have h := (exec_completes (exec_of_inFrame hframe s) hat hstops).symm.trans hexec
    exact Host.Outcome.next.inj h
  have hwarp := WarpFrame.commit (framed_laneOuts i e s cx) cx.next (form i).long (form i).run.toNat cx.w
  refine ⟨_, onlyWarp_mapWarp hat.1 hwarp.only, hwarp.scalars, fun l x hx => ?_⟩
  obtain ⟨y, hy, hsame, hlane⟩ := hwarp.lanes l x hx
  exact ⟨y, hy, hsame, hlane.only, hlane.regs, hlane.preds, hlane.binary, hlane.decimal, hlane.fpSticky, hlane.decSticky, hlane.fpHigh,
    hlane.decHigh⟩

end Sys2Proof.Machine
end


section
/-!
SUPPORT. A step that issues a warp slot: what the fetch of its words keeps, and how the words at the front become the instruction that
executes (spec/02_execution_model.md R21, R23, R92 to R96, R106, R111, R327).
-/
namespace Sys2Proof.Machine

/-! ### What the fetch keeps -/

/-- The issue, the contexts, the workgroups and the packets are as before. -/
def State.SameRun (s t : State) : Prop := t.issue = s.issue ∧ t.ctxs = s.ctxs ∧ t.wgs = s.wgs ∧ t.pkts = s.pkts

theorem State.SameRun.trans {s t u : State} (h : s.SameRun t) (h' : t.SameRun u) : s.SameRun u := by
  obtain ⟨hi, hc, hw, hp⟩ := h
  obtain ⟨hi', hc', hw', hp'⟩ := h'
  exact ⟨hi'.trans hi, hc'.trans hc, hw'.trans hw, hp'.trans hp⟩

/-- What every element's turn keeps, the turns of a list keep. -/
theorem State.SameRun.foldl {α : Type} {f : State → α → State} (h : ∀ (s : State) (x : α), s.SameRun (f s x)) (xs : List α) (s : State) :
    s.SameRun (xs.foldl f s) := by
  induction xs generalizing s with
  | nil => exact ⟨rfl, rfl, rfl, rfl⟩
  | cons x xs ih => exact (h s x).trans (ih _)

theorem ringDrain_sameRun (slot : Nat) (bss : List (List Byte)) (s : State) (r : Ring) : s.SameRun (ringDrain slot bss s r).1 := by
  induction bss generalizing s r with
  | nil => exact ⟨rfl, rfl, rfl, rfl⟩
  | cons bs bss ih =>
    unfold ringDrain
    split
    · refine State.SameRun.trans ⟨?_, ?_, ?_, ?_⟩ (ih _ _)
      · exact (State.msix_issue _ _).trans (State.hbmRecord_issue s _ _)
      · exact (State.msix_ctxs _ _).trans (State.hbmRecord_ctxs s _ _)
      · exact (State.msix_wgs _ _).trans (State.hbmRecord_wgs s _ _)
      · exact (State.msix_pkts _ _).trans (State.hbmRecord_pkts s _ _)
    · exact ⟨rfl, rfl, rfl, rfl⟩

theorem State.notify_sameRun (s : State) (ctx core slot addr sub : Nat) : s.SameRun (s.notify ctx core slot addr sub) := by
  unfold State.notify State.postFault
  split
  · exact ⟨rfl, rfl, rfl, rfl⟩
  · exact ringDrain_sameRun ..

theorem State.findErrors_sameRun (s : State) (ctx core slot : Nat) (ps : List Part) : s.SameRun (s.findErrors ctx core slot ps) := by
  refine State.SameRun.foldl (fun s p => ?_) ps s
  split
  · refine State.SameRun.foldl (fun s g => ?_) _ s
    exact State.SameRun.trans ⟨rfl, rfl, rfl, rfl⟩ (State.notify_sameRun _ ..)
  · exact ⟨rfl, rfl, rfl, rfl⟩

theorem State.cacheLeaf_sameRun (s : State) (die ctx va : Nat) (leaf : Leaf) : s.SameRun (s.cacheLeaf die ctx va leaf) := by
  unfold State.cacheLeaf
  dsimp only
  split <;> exact ⟨rfl, rfl, rfl, rfl⟩

theorem State.cacheParts_sameRun (s : State) (die ctx : Nat) (l1 : Option Nat) (store : Bool) (ps : List Part) :
    s.SameRun (s.cacheParts die ctx l1 store ps) := by
  refine State.SameRun.foldl (fun s p => ?_) ps s
  refine (State.cacheLeaf_sameRun s die ctx p.va p.leaf).trans ?_
  dsimp only
  split <;> exact ⟨rfl, rfl, rfl, rfl⟩

theorem State.countParts_sameRun (s : State) (store : Bool) (ps : List Part) : s.SameRun (s.countParts store ps) :=
  ⟨State.bumpBy_issue .., State.bumpBy_ctxs .., State.bumpBy_wgs .., State.bumpBy_pkts ..⟩

/-- Parts in use leave the issue, the contexts, the workgroups and the packets alone. -/
theorem State.useParts_sameRun (s : State) (die ctx core slot : Nat) (l1 : Option Nat) (store : Bool) (ps : List Part) :
    s.SameRun (s.useParts die ctx core slot l1 store ps) :=
  (State.cacheParts_sameRun s die ctx l1 store ps).trans
    ((State.countParts_sameRun _ store ps).trans (State.findErrors_sameRun _ ctx core slot ps))

/-! ### The words at the front are decoded -/

/-- Steps 3 to 5 of R111 accept what the decoder accepts and the kernel declares. -/
theorem decodeFor_of_decodeWords {k : Kernel} {px : Option Word} {w : Word} {i : Instr} (h : decodeWords px w = .ok i)
    (hregs : beyondDeclared k i = false) : decodeFor k px w = .ok i := by
  simp [decodeFor, h, hregs]

/-- A word of no assigned major that the decoder accepts names the unassigned encoding. -/
theorem eq_unassigned_of_decodeWords {px : Option Word} {w : Word} {i : Instr} (h : decodeWords px w = .ok i)
    (hu : wordUnassigned w = true) : i = .unassignedEncoding w := by
  simp only [decodeWords, hu, if_true, Except.ok.injEq] at h
  exact h.symm

/-- After a PX word the decoder accepts no PX word and no header (R95). -/
theorem major_of_decodeWords_px {p w : Word} {i : Instr} (h : decodeWords (some p) w = .ok i) :
    wordMajor w ≠ 1 ∧ wordMajor w ≠ 2 := by
  have hassigned : ∀ m, wordMajor w = m → majorAssigned m = true → wordUnassigned w = false := fun m hm hm' => by
    rw [wordUnassigned, Laws.Encoding.toNat_major, hm, hm', Bool.not_true]
  constructor <;> intro hm <;> simp [decodeWords, hassigned _ hm (by decide), hm] at h

/-- The bytes of one word, or of two after a PX word, decode as their words do. -/
theorem decodeWords_of_decodeBytes_word {w : Word} {i : Instr} (hm : wordMajor w ≠ 1)
    (h : decodeBytes (leBytes 8 w.toNat) = .ok (i, [])) : decodeWords none w = .ok i := by
  rw [← List.append_nil (leBytes 8 w.toNat), Laws.Encoding.decodeBytes_word w [] hm] at h
  cases hd : decodeWords none w with
  | error r => simp [hd, Except.map] at h
  | ok j => simpa [hd, Except.map] using h

theorem decodeWords_of_decodeBytes_pair {p w : Word} {i : Instr} (hm : wordMajor p = 1)
    (h : decodeBytes (leBytes 8 p.toNat ++ leBytes 8 w.toNat) = .ok (i, [])) : decodeWords (some p) w = .ok i := by
  rw [← List.append_nil (leBytes 8 w.toNat), decodeBytes, if_neg (by simp [Laws.Encoding.length_leBytes])] at h
  simp only [Laws.Encoding.take_word, Laws.Encoding.drop_word] at h
  rw [if_pos (by simp [hm]), if_neg (by simp [Laws.Encoding.length_leBytes])] at h
  cases hd : decodeWords (some p) w with
  | error r => simp [hd, Except.map] at h
  | ok j => simpa [hd, Except.map] using h

section Front

variable {s : State} {c : Context} {g : Wg} {k : Nat} {w : Warp} {pc wpc first word : Word} {i : Instr} {ls : List Nat}

/-- Words whose places break no lane's form and that decode arrive with all their lanes (R94, R95, R111). -/
theorem State.checkWords_of_decoded {px : Option Word} (hdec : decodeWords px word = .ok i) (hregs : beyondDeclared g.kernel i = false)
    (hls : ls ≠ []) (hform : ∀ l ∈ ls, ∃ x, w.lanes[l]? = some x ∧
      s.breaksForm c g.core x pc first (if px.isSome then 2 else 1) (wordMajor word) = false) :
    s.checkWords c g k w pc wpc first word px ls = s.arriveAt g k pc wpc word i ls := by
  unfold State.checkWords
  extract_lets len bad good stop s'
  have hbad : bad = [] := by
    refine List.filter_eq_nil_iff.2 fun l hl => ?_
    obtain ⟨x, hx, hok⟩ := hform l hl
    simp [hx, len, hok]
  have hgood : good = ls := by simp [good, hbad]
  have hs : s' = s := by simp [s', hbad]
  by_cases hu : wordUnassigned word = true
  · rw [if_pos hu, eq_unassigned_of_decodeWords hdec hu]
    rfl
  · rw [if_neg hu, hgood, if_neg (by simpa using hls), decodeFor_of_decodeWords hdec hregs, hs]

/-- A word that is no PX word is checked alone (R92). -/
theorem State.fetchWords_of_word (hfetch : s.fetch c g.core pc = .word first) (hm : wordMajor first ≠ 1) :
    s.fetchWords c g k w pc ls = s.checkWords c g k w pc pc first first none ls := by
  -- the function is unfolded as a whole: no comparison of states then evaluates the fetch
  have hdef : State.fetchWords = State.fetchWords := rfl
  conv at hdef => rhs; delta State.fetchWords
  rw [hdef]
  beta_reduce
  generalize s.fetch c g.core pc = f at hfetch
  subst hfetch
  exact if_pos (bne_iff_ne.2 hm)

/-- A PX word that every lane's clause has room for is checked with the word after it (R95). -/
theorem State.fetchWords_of_pair (hfetch : s.fetch c g.core pc = .word first) (hm : wordMajor first = 1)
    (hfits : ∀ l ∈ ls, s.pxFits c g.core w pc l = true) (hls : ls ≠ []) (hfetch' : s.fetch c g.core (pc + 8) = .word word)
    (h1 : wordMajor word ≠ 1) (h2 : wordMajor word ≠ 2) :
    s.fetchWords c g k w pc ls = s.checkWords c g k w pc (pc + 8) first word (some first) ls := by
  have hall : ls.filter (s.pxFits c g.core w pc) = ls := List.filter_eq_self.2 hfits
  have hempty : ¬ls.isEmpty = true := by simpa using hls
  -- the function is unfolded as a whole: no comparison of states then evaluates the fetch
  have hdef : State.fetchWords = State.fetchWords := rfl
  conv at hdef => rhs; delta State.fetchWords
  rw [hdef]
  beta_reduce
  generalize s.fetch c g.core pc = f at hfetch
  subst hfetch
  generalize s.fetch c g.core (pc + 8) = f' at hfetch'
  subst hfetch'
  dsimp only
  rw [if_neg (by simp [hm]), hall, if_neg hempty, if_pos (beq_self_eq_true ls.length), if_neg (by simp [h1, h2])]

/-- The words of the statement are fetched and arrive with all lanes of the front (R92, R95). -/
theorem State.fetchWords_of_words {bs : List Byte} (hwords : Claims.Words s c g w pc ls first wpc word bs)
    (hdec : decodeBytes bs = .ok (i, [])) (hregs : beyondDeclared g.kernel i = false) (hls : ls ≠ [])
    (hform : ∀ l ∈ ls, ∃ x, w.lanes[l]? = some x ∧
      s.breaksForm c g.core x pc first (if wordMajor first = 1 then 2 else 1) (wordMajor word) = false) :
    s.fetchWords c g k w pc ls = s.arriveAt g k pc wpc word i ls := by
  obtain ⟨hfetch, ⟨hm, rfl, rfl, rfl⟩ | ⟨hm, rfl, hfetch', rfl, hfits⟩⟩ := hwords
  · rw [if_neg hm] at hform
    rw [State.fetchWords_of_word hfetch hm]
    exact State.checkWords_of_decoded (decodeWords_of_decodeBytes_word hm hdec) hregs hls hform
  · have hpx := decodeWords_of_decodeBytes_pair hm hdec
    obtain ⟨h1, h2⟩ := major_of_decodeWords_px hpx
    rw [if_pos hm] at hform
    rw [State.fetchWords_of_pair hfetch hm hfits hls hfetch' h1 h2]
    exact State.checkWords_of_decoded hpx hregs hls hform

/-! ### The instruction runs -/

/-- The lanes that do not sleep in their wait (R279, R280). -/
def Warp.awake (v : Warp) (ls : List Nat) : List Nat :=
  ls.filter (fun l => match v.lanes[l]? with | some x => !x.sleeps | none => true)

/-- A lane is awake when it is in no wait or in one in which it does not sleep. -/
theorem Warp.awake_eq (v : Warp) (ls : List Nat) :
    v.awake ls = ls.filter (fun l => match v.lanes[l]? with
      | some x => (match x.wait with | some y => !y.asleep | none => true)
      | none => true) := by
  refine List.filter_congr fun l _ => ?_
  cases v.lanes[l]? with
  | none => rfl
  | some x =>
    simp only [Lane.sleeps]
    cases x.wait <;> rfl

/-- A word runs in its lanes that are awake, when none of them awaits a result or the word is a header (R93, R106). -/
theorem State.launchWord_runs {v : Warp} (hv : s.warp? g.wid k = some v) (hne : v.awake ls ≠ [])
    (hready : (∀ h, i ≠ .clauseHeader h) → ∀ l ∈ v.awake ls, v.mustWait l = false) :
    s.launchWord g k pc wpc word i ls = .run i (Claims.issuing s (Issue.mk g.wid k (v.awake ls) pc wpc word)) := by
  unfold State.launchWord
  rw [hv]
  dsimp only
  change (if (v.awake ls).isEmpty = true then _ else _) = _
  rw [if_neg (by simpa using hne), if_neg ?_]
  · rfl
  · intro h
    obtain ⟨hheader, hwaits⟩ := Bool.and_eq_true_iff.1 h
    obtain ⟨l, hl, hw⟩ := List.any_eq_true.1 hwaits
    refine absurd hw ?_
    rw [hready ?_ l hl]
    · decide
    · rintro h rfl
      simp at hheader

/-- What follows an issued instruction is what follows its execution (R321, R326, R327). -/
theorem runReady_issued {f : State} {is : Issue} {cx : Cx} (his : f.issue = some is) (hcx : f.cx? = some cx) :
    runReady (.run i f) = Claims.andThen (exec i f) (fun t => t.afterIssue is cx.g cx.w) := by
  simp only [runReady, his, hcx]
  rfl

end Front

/-- The instruction runs in lanes of a workgroup, after its words have been fetched, and what follows its execution follows. -/
theorem runReady_of_launch {u : State} {c : Context} {g g' : Wg} {v' : Warp} {core slot : Nat} {is : Issue} {i : Instr} {ps : List Part}
    (hg : u.wg? is.wid = some g) (hctx : u.ctx? g.pkt.ctx = some c) :
    let f := (Claims.issuing u is).useFetch c core slot ps
    f.wg? is.wid = some g' → g'.warps[is.warp]? = some v' →
    runReady (.run i f) = Claims.andThen (exec i f) (fun t => t.afterIssue is g' v') := by
  intro f hg' hv'
  obtain ⟨hissue, hctxs, hwgs, -⟩ : (Claims.issuing u is).SameRun f := State.useParts_sameRun ..
  have hpkt : g'.pkt = g.pkt := by
    rw [State.wg?, hwgs] at hg'
    have hsame := State.wg?_mapWarp_same (k := is.warp) (fun y => y.mapLanes is.lanes (fun x => { x with st := .active })) hg
    rw [← Option.some.inj (hsame.symm.trans hg')]
    rfl
  have hf : f.ctx? g'.pkt.ctx = some c := by
    rw [hpkt, State.ctx?, hctxs]
    exact hctx
  have hcx : f.cx? = some { wid := is.wid, k := is.warp, g := g', w := v', ctx := c, lanes := is.lanes, pc := is.pc, wpc := is.wpc,
                            word := is.word } := by
    simp only [State.cx?, hissue, Claims.issuing, hg', hv', hf]
  exact runReady_issued hissue hcx

/-- An issued warp slot without a debugger's stop goes to the fetch of its front (R21, R327). -/
theorem State.ready?_of_front {s : State} {core slot wid k : Nat} {g : Wg} {c : Context} {w : Warp} {pc : Word} {ls : List Nat}
    (hslot : s.slot? core slot = some (wid, k)) (hg : s.wg? wid = some g) (hw : g.warps[k]? = some w) (hc : s.ctx? g.pkt.ctx = some c)
    (hsleep : w.sleep = none) (hhalts : w.halts = []) (hfront : w.front = some (pc, ls)) (hhits : breakHits c g w ls pc = []) :
    s.ready? core slot = s.fetchFront c g k w pc ls := by
  have hwarp : s.warp? wid k = some w := by rw [State.warp?, hg, Option.bind_some, hw]
  simp only [State.ready?, hslot, hg, hwarp, hc, State.readyWarp, hsleep, hhalts, hfront, hhits, Option.isSome_none, List.isEmpty_nil,
    Bool.not_true, Bool.false_eq_true, if_false, if_true]

/-- Settles O53: the front's words are fetched, checked and decoded, and the instruction runs in the lanes that are there and awake. -/
theorem stepRunsTheDecodedInstruction : Obligations.StepRunsTheDecodedInstruction := by
  intro s core slot rest wid k g c w pc first wpc word bs i ls s1 hagenda hslot hg hw hc hsleep hhalts hfront hhits hwords hdec hregs
    hform runs
  have hwid : g.wid = wid := beq_iff_eq.1 (List.find?_some hg :)
  subst hwid
  have hstep : step s = runReady (s1.fetchFront c g k w pc ls) := by
    have hpop : s.pop = (.issue core slot, s1) := by simp only [State.pop, State.forgetTold, hagenda, s1]
    rw [step, hpop]
    exact congrArg runReady (State.ready?_of_front (s := s1) hslot hg hw hc hsleep hhalts hfront hhits)
  have hfetch : ls ≠ [] → s1.fetchWords c g k w pc ls = s1.arriveAt g k pc wpc word i ls := fun hls =>
    State.fetchWords_of_words hwords hdec hregs hls hform
  refine ⟨?_, ?_⟩
  · intro hgo hne hready is f g' v' hg' hv'
    have hls : ls ≠ [] := by
      rintro rfl
      exact hne rfl
    have hwarp : s1.warp? g.wid k = some w := by
      rw [State.warp?, show s1.wg? g.wid = some g from hg, Option.bind_some, hw]
    rw [hstep, State.fetchFront, hfetch hls, State.arriveAt, if_neg (by simp [hgo]), State.launchWord_runs hwarp
      (by rw [Warp.awake_eq]; exact hne) (by rw [Warp.awake_eq]; exact hready), Warp.awake_eq]
    exact runReady_of_launch (u := s1) (is := is) hg hc hg' hv'
  · intro hmeet u v hv hne hready is f g' v' hg' hv'
    have hls : ls ≠ [] := by
      rintro rfl
      exact hne rfl
    have hu : u.wg? g.wid = some (g.mapWarp k _) := State.wg?_mapWarp_same _ hg
    rw [hstep, State.fetchFront, hfetch hls, State.arriveAt, if_pos hmeet]
    dsimp only
    rw [hv]
    dsimp only
    rw [State.launchWord_runs hv
      (by rw [Warp.awake_eq]; exact hne) (by rw [Warp.awake_eq]; exact hready), Warp.awake_eq]
    exact runReady_of_launch (u := u) (is := is) hu hc hg' hv'

end Sys2Proof.Machine
end


section
/-!
SUPPORT. The entries of a flow queue become items (spec/02_execution_model.md R28 to R30, spec/11 R275, R285).
-/
namespace Sys2Proof.Machine

/-- The packet that a key names has it. -/
theorem State.key_of_pkt? {s : State} {k : PktKey} {p : Pkt} (h : s.pkt? k = some p) : p.key = k := eq_of_beq (List.find?_some h :)

section Entry

variable {s t : State} {c : Context} {p : Pkt} {l : Launch} {fb eb got : List Byte}

/-- An entry that no FLOWKILL has dropped, of a flow with room, is taken once RIDX is written: it becomes an item (R29, R193, R285). -/
theorem State.takeEntry_of_written {d : Fqd}
    (hkills : s.kills.all (fun k => !(k.ctx == c.num && k.fqd == l.fqd && k.label == BitVec.ofNat 32 (field eb 0 32) &&
      decide (d.ridx < k.below.toNat))))
    (hroom : s.pendingOf c.num (BitVec.ofNat 32 (field eb 0 32)) < 2 ^ 31)
    (hwrite : s.agentWrite c (l.fqd.toNat + 16) (leBytes 8 (d.ridx + 1)) = (t, .bytes got)) :
    let r := t.newItem c.num (BitVec.ofNat 32 (field eb 0 32)) (field eb 64 2) (BitVec.ofNat 32 (field eb 32 32)) 0 false
    s.takeEntry c p l d eb = (r.1.mapLaunch p.key (fun l =>
      { l with taken := l.taken + 1, closed := l.closed || l.budget == some (l.taken + 1) })).enrol p.key r.2 := by
  have hdropped : (s.kills.any (fun k => k.ctx == c.num && k.fqd == l.fqd && k.label == BitVec.ofNat 32 (field eb 0 32) &&
      decide (d.ridx < k.below.toNat))) = false := by
    rw [List.any_eq_not_all_not, hkills, Bool.not_true]
  unfold State.takeEntry
  simp only [hdropped, Bool.not_false, Bool.true_and, decide_eq_true_eq, if_neg (Nat.not_le.2 hroom), hwrite, Bool.false_eq_true,
    if_false]

/-- A launch without an offered tick reads its descriptor and takes the entry at RIDX (R275, R285). -/
theorem State.takeFlow_of_entry (hoffers : s.offers.all (fun o => !(o.ctx == c.num && o.fqd == l.fqd))) (hclosed : l.closed = false)
    (hread : s.agentRead 3 c l.fqd.toNat 32 = .bytes fb) (hmore : field fb 64 64 ≠ field fb 128 64) (hlog : field fb 192 8 ≤ 20) :
    let r := s.agentUsed 3 c l.fqd.toNat 32
    r.agentRead 3 c (field fb 0 64 + 16 * (field fb 128 64 % 2 ^ field fb 192 8)) 16 = .bytes eb →
    s.takeFlow c p l =
      (r.agentUsed 3 c (field fb 0 64 + 16 * (field fb 128 64 % 2 ^ field fb 192 8)) 16).takeEntry c p l (Fqd.ofBytes fb) eb := by
  intro r hentry
  have hnone : s.offers.find? (fun o => o.ctx == c.num && o.fqd == l.fqd) = none :=
    List.find?_eq_none.2 fun o ho => by
      have := List.all_eq_true.1 hoffers o ho
      rwa [Bool.not_eq_true', ← Bool.not_eq_true] at this
  have hne : ((Fqd.ofBytes fb).widx == (Fqd.ofBytes fb).ridx) = false := beq_false_of_ne hmore
  have hmin : min (Fqd.ofBytes fb).log2n 20 = field fb 192 8 := Nat.min_eq_left hlog
  have hget : (s.agentUsed 3 c l.fqd.toNat 32).agentGet 3 c
      ((Fqd.ofBytes fb).base + 16 * ((Fqd.ofBytes fb).ridx % 2 ^ field fb 192 8)) 16 = (_, .bytes eb) :=
    State.agentGet_of_bytes hentry
  unfold State.takeFlow
  rw [hnone]
  simp only [hclosed, Bool.false_eq_true, if_false, State.agentGet_of_bytes hread, hne, hmin, hget]
  rfl

end Entry

/-- Settles O37: the queue's descriptor and entry are read, RIDX is written and the item enrolled; a warp whose delay is over starts. -/
theorem flowEntriesBecomeItems : Obligations.FlowEntriesBecomeItems := by
  refine ⟨?_, ?_⟩
  · intro ctx q n s t c p l fb eb got hc hp hbody hflow hstarted haborted howes hsaved hslot hoffers hclosed hread hmore hlog entry r
      hentry r label hkills hroom hwrite j it u hole
    show execFlowEntryTake ctx q n s = _
    have hl : p.launch? = some l := by simp only [Pkt.launch?, hbody]
    have hmay : (!l.flow || !p.started || p.aborted || p.owes.isSome || c.saved || (s.slotOf ctx q).isNone) = false := by
      simp [hflow, hstarted, haborted, howes, hsaved, ← Option.not_isSome, hslot]
    unfold execFlowEntryTake
    simp only [hc, hp, hl, hmay, Bool.false_eq_true, if_false]
    rw [State.takeFlow_of_entry hoffers hclosed hread hmore hlog hentry, State.takeEntry_of_written (d := Fqd.ofBytes fb) hkills hroom hwrite]
    exact finish_next hole
  · intro ctx q n s p l hp hbody hfilling hdue hole
    show execPackingDelayExpiry ctx q n s = _
    have hl : (s.pkt? { ctx := ctx, q := q, num := n }).bind Pkt.launch? = some l := by
      simp only [hp, Option.bind_some, Pkt.launch?, hbody]
    unfold execPackingDelayExpiry
    rw [State.key_of_pkt? hp] at hole ⊢
    simp only [hl]
    rw [if_neg (by simpa [hfilling] using hdue)]
    exact finish_next hole

end Sys2Proof.Machine
end


section
/-!
SUPPORT. Rails, reset, the sources and steps of start-up, and the journal (spec/13_fabric_host_boot.md R319, R320, spec/15 R329, spec/22
R385, R386).
-/
namespace Sys2Proof.Machine

/-- What a source that leaves its place leaves behind is what the next source finds, whatever has been noted before. -/
theorem Boot.fetch_nextSource (s : State) (j : List JournalEntry) (left : List Nat) :
    Claims.NextSource s left (Boot.fetch { s.boot with journal := j } left s.now) := by
  obtain ⟨k, hk⟩ := Boot.fetch_eq { s.boot with journal := j } left s.now
  rw [hk]
  rfl

/-- A source fails at a step, and the next one is tried (R319, R386). -/
theorem State.sourceFails_nextSource (s : State) (step src : Nat) :
    ∃ b, s.sourceFails step src = { s with boot := b } ∧ Claims.NextSource s (s.boot.left.filter (· != src)) b := by
  obtain ⟨j, hj⟩ := s.boot.note_eq step 2 src
  exact ⟨_, rfl, by rw [hj]; exact Boot.fetch_nextSource s j _⟩

/-- The entry that a note writes, with its CRC (R385). -/
def Boot.entry (b : Boot) (step outcome arg : Nat) : JournalEntry :=
  let e : JournalEntry :=
    { check := 0, start := b.start, arg := BitVec.ofNat 32 arg, alt := (b.alt[step - 1]?).getD 0, outcome := outcome, step := step }
  { e with check := e.crc }

/-! ### The link (R13, R309, R386) -/

/-- The rate and width of the link under an alteration of step 2: none when the step is skipped or fails. -/
def Condition.linkOf (c : Condition) (alt : Nat) : Nat × Nat :=
  match pcieOf alt with
  | some most => if c.trains (c.shared most) then c.shared most else (0, 0)
  | none => (0, 0)

/-- Only the journal is another. -/
def Boot.Noted (b b' : Boot) : Prop := ∃ j, b' = { b with journal := j }

theorem Boot.Noted.trans {b b' b'' : Boot} (h : b.Noted b') (h' : b'.Noted b'') : b.Noted b'' := by
  obtain ⟨j, rfl⟩ := h
  obtain ⟨k, rfl⟩ := h'
  exact ⟨k, rfl⟩

theorem Boot.note_noted (b : Boot) (step outcome arg : Nat) : b.Noted (b.note step outcome arg) := b.note_eq step outcome arg

/-- Two notes change the journal alone. -/
theorem Boot.note_note_noted (b : Boot) (step outcome arg step' outcome' arg' : Nat) :
    b.Noted ((b.note step outcome arg).note step' outcome' arg') := (b.note_noted ..).trans (Boot.note_noted ..)

/-- Step 2 changes the journal, and the rate and the width of the link. -/
theorem Boot.link_eq (b : Boot) (alt : Nat) :
    ∃ j, b.link alt = { b with journal := j, rate := (b.part.linkOf alt).1, width := (b.part.linkOf alt).2 } := by
  unfold Boot.link Condition.linkOf
  cases pcieOf alt with
  | none =>
    obtain ⟨j, hj⟩ := b.note_noted 2 3 0
    exact ⟨j, by rw [hj]⟩
  | some most =>
    dsimp only
    by_cases ht : b.part.trains (b.part.shared most) = true
    · obtain ⟨j, hj⟩ := b.note_note_noted 2 0 0 2 (if alt == 0 then 1 else 4) (linkArg (b.part.shared most))
      rw [if_pos ht, if_pos ht, hj]
      exact ⟨j, rfl⟩
    · obtain ⟨j, hj⟩ := b.note_note_noted 2 0 0 2 2 (linkArg (b.part.shared most))
      rw [if_neg ht, if_neg ht, hj]
      exact ⟨j, rfl⟩

/-- Start-up when step 4 begins, with a journal. -/
def State.startedBoot (s : State) (j : List JournalEntry) : Boot :=
  { s.boot with
    journal := j, start := s.boot.start + 1, alt := s.boot.alterations, stopped := false, ready := false, step := 4,
    order := s.boot.sourcesBy s.boot.alterations, left := s.boot.sourcesBy s.boot.alterations,
    retryAt := if s.boot.sourcesBy s.boot.alterations = [] then some (s.now + 10000000000) else none,
    image := [], fwver := 0, measure := 0, hbmSlow := s.boot.slowMap,
    rate := (s.boot.part.linkOf ((s.boot.alterations[1]?).getD 0)).1,
    width := (s.boot.part.linkOf ((s.boot.alterations[1]?).getD 0)).2 }

/-- Reset is released with every rail up: the start's record, its link, its sources and the first of them (R319, R385, R386). -/
theorem State.bootStart_eq (s : State) :
    ∃ j, s.bootStart = { s with boot := s.startedBoot j, power := { s.power with inReset := false } } := by
  unfold State.bootStart
  extract_lets old alt b1 b2 b3
  obtain ⟨i, hi⟩ := b1.note_note_noted 1 0 0 1 1 0
  obtain ⟨j, hj⟩ := ((b1.note 1 0 0).note 1 1 0).link_eq ((alt[1]?).getD 0)
  obtain ⟨k, hk⟩ : b2.Noted b3 := by
    simp only [b3]
    split
    · exact Boot.note_note_noted ..
    · exact Boot.note_noted ..
  obtain ⟨n, hn⟩ := b3.fetch_eq b3.order s.now
  change ∃ j, { s with boot := { b3.fetch b3.order s.now with step := 4 }, power := { s.power with inReset := false } } = _
  rw [hn, hk, show b2 = _ from hj, hi]
  exact ⟨n, rfl⟩

/-- The highest rate and the greatest width that both ends share (R13). -/
theorem Condition.shared_eq (c : Condition) (most : Nat × Nat) : c.shared most =
    (if 7 ≤ most.1 ∧ 7 ∈ c.rates then 7 else if 6 ≤ most.1 ∧ 6 ∈ c.rates then 6 else if 5 ≤ most.1 ∧ 5 ∈ c.rates then 5 else 0,
     if 16 ≤ min most.2 c.lanes then 16 else if 8 ≤ min most.2 c.lanes then 8 else if 4 ≤ min most.2 c.lanes then 4 else 0) := by
  have hite : ∀ (p : Prop) [Decidable p] (x : Nat) (o : Option Nat),
      (if p then some x else o).getD 0 = if p then x else o.getD 0 := fun p _ x o => apply_ite (Option.getD · 0) p ..
  have hfind : ∀ (p : Nat → Bool) (x : Nat) (xs : List Nat),
      ((x :: xs).find? p).getD 0 = if p x = true then x else (xs.find? p).getD 0 := fun p x xs => by
    rw [List.find?_cons]
    cases p x <;> rfl
  simp only [Condition.shared, hfind, List.find?_nil, Option.getD_none, Bool.and_eq_true, decide_eq_true_eq, List.elem_eq_mem]

/-- A link trains when both ends share a rate and a width that the part can hold; otherwise it has none. -/
theorem Condition.linkOf_some {c : Condition} {alt : Nat} {most : Nat × Nat} (h : pcieOf alt = some most) :
    let x := c.shared most
    let up := x.1 ≠ 0 ∧ x.2 ≠ 0 ∧ x.1 ≤ c.rate ∧ x.2 ≤ c.width
    (up → c.linkOf alt = x) ∧ (¬up → c.linkOf alt = (0, 0)) := by
  intro x up
  have htrains : c.trains x = true ↔ up := by
    simp [Condition.trains, up, and_assoc]
  unfold Condition.linkOf
  rw [h]
  exact ⟨fun hup => if_pos (htrains.2 hup), fun hup => if_neg (mt htrains.1 hup)⟩

/-! ### A reset -/

/-- The agenda's next move is made in the state in which it has left the agenda. -/
theorem State.pop_of_agenda {s : State} {i : Input} {rest : List Input} (h : s.agenda = i :: rest) :
    s.pop = (i, { s.forgetTold with free := s.free + 1, agenda := rest }) := by
  simp only [State.pop, State.forgetTold, h]

/-- Settles O47, clause by clause: the rails, reset, an image or none from a source, the wait, a journal entry and a reset. -/
theorem startUpGoesStepByStep : Obligations.StartUpGoesStepByStep := by
  refine ⟨?_, ?_, ?_, ?_, ?_, ?_, ?_⟩
  · intro r s hole hr
    show execPowerOn r s = _
    unfold execPowerOn
    rw [hr, if_pos (beq_self_eq_true _)]
    exact finish_next hole
  · intro s hole hreset hrails
    obtain ⟨j, hj⟩ := s.bootStart_eq
    refine ⟨s.startedBoot j, ?_, rfl, rfl, rfl, rfl, rfl, rfl, rfl, rfl, rfl, rfl, rfl, rfl, rfl, ?_⟩
    · show execResetRelease s = _
      unfold execResetRelease
      rw [hreset, hrails, Bool.true_and, if_pos (by decide), hj]
      exact finish_next hole
    · intro a ha
      have halt : (s.boot.alterations[1]?).getD 0 = a := by rw [ha, Option.getD_some]
      simp only [State.startedBoot, halt]
      cases hp : pcieOf a with
      | none => simp only [Condition.linkOf, hp, and_self]
      | some most =>
        obtain ⟨hup, hdown⟩ := Condition.linkOf_some (c := s.boot.part) hp
        rw [Condition.shared_eq] at hup hdown
        exact ⟨fun h => by rw [hup h]; exact ⟨rfl, rfl⟩, fun h => by rw [hdown h]; exact ⟨rfl, rfl⟩⟩
  · intro src f s hole htakes
    show ∃ b, execImageFetchComplete { source := src, got := some f } s = _ ∧ _
    unfold execImageFetchComplete
    by_cases hgood : Config.chainsTo s.boot.config.trust f.chain = true ∧ f.image.length ≤ 2 ^ 26
    · obtain ⟨b, hb, hbooted⟩ := s.bootImage_booted src f.image
      refine ⟨b, ?_, by rwa [if_pos hgood]⟩
      simp only [htakes, Bool.not_true, Bool.false_eq_true, if_false, hgood, Bool.and_eq_true, decide_eq_true_eq, and_self, if_true, hb]
      exact finish_next hole
    · obtain ⟨b, hb, hnext⟩ := s.sourceFails_nextSource 4 src
      refine ⟨b, ?_, by rwa [if_neg hgood]⟩
      simp only [htakes, Bool.not_true, Bool.false_eq_true, if_false, Bool.and_eq_true, decide_eq_true_eq, hgood, hb]
      exact finish_next hole
  · intro src s hole htakes
    obtain ⟨b, hb, hnext⟩ := s.sourceFails_nextSource 4 src
    refine ⟨b, ?_, hnext⟩
    show execImageFetchComplete { source := src, got := none } s = _
    unfold execImageFetchComplete
    simp only [htakes, Bool.not_true, Bool.false_eq_true, if_false, hb]
    exact finish_next hole
  · intro s t hole hretry hdue
    refine ⟨_, ?_, Boot.fetch_nextSource s s.boot.journal s.boot.order⟩
    show execBootSourceRetry s = _
    unfold execBootSourceRetry
    simp only [hretry, if_neg (Nat.not_lt.2 hdue)]
    exact finish_next hole
  · intro b step outcome arg
    exact ⟨b.entry step outcome arg, rfl, rfl, rfl, rfl, rfl, rfl, rfl⟩
  · intro cold rest s hagenda
    refine ⟨({ s.forgetTold with free := s.free + 1, agenda := rest } : State).restart cold, ?_, rfl, rfl, rfl, rfl, rfl, rfl, rfl, rfl,
      rfl, rfl⟩
    rw [step, State.pop_of_agenda hagenda]
    exact finish_next (s := State.restart _ cold) rfl

end Sys2Proof.Machine
end


section
/-!
SUPPORT. Arrivals at tiles and tag waits that end (spec/03_memory.md R56, R59, R61, spec/08 R219, spec/21 R359).
-/
namespace Sys2Proof.Machine

/-! ### A beat reaches the device (R56, R219) -/

section Beat

variable {s t : State} {b : Beat} {g : Wg}

/-- A beat of no live allocation is dropped. -/
theorem State.receive_stale (h : s.allocOf b.alloc = none) : s.receive b = s.answerBeat b .stale := by
  simp only [State.receive, h]

/-- A beat past the end of its allocation is dropped. -/
theorem State.receive_beyond (h : s.allocOf b.alloc = some g) (hend : 256 * g.tiles < b.off + b.data.length) :
    s.receive b = s.answerBeat b (.fault Cause.protection.code) := by
  simp only [State.receive, h, hend, if_true]

/-- A beat of a copy that has timed out is dropped. -/
theorem State.receive_dropped (h : s.allocOf b.alloc = some g) (hend : b.off + b.data.length ≤ 256 * g.tiles)
    (hdropped : (b.sender, b.copy) ∈ s.fab.dropped) : s.receive b = s.answerBeat b (.fault Cause.tagTimeout.code) := by
  simp only [State.receive, h, Nat.not_lt.2 hend, if_false, List.elem_eq_mem, hdropped, decide_true, if_true]

/-- Whether a beat has to wait behind others for its tile: its arrival has not begun, and another waits there (R59). -/
def State.queued (s : State) (g : Wg) (b : Beat) (before : List Waiting) (no : Nat) : Bool :=
  !s.begunBeat g b && (tileQueue g (b.off / 256) before || s.localAhead g.wid (b.off / 256) no)

theorem State.queued_eq_false {before : List Waiting} {no : Nat}
    (h : s.begunBeat g b = true ∨ (tileQueue g (b.off / 256) before = false ∧ s.localAhead g.wid (b.off / 256) no = false)) :
    s.queued g b before no = false := by
  rcases h with h | ⟨h, h'⟩
  · simp [State.queued, h]
  · simp [State.queued, h, h']

/-- The ingress with a beat that waits in it. -/
def State.waiting (s : State) (g : Wg) (b : Beat) : State :=
  { s with fab := { s.fab with nextWait := s.fab.nextWait + 1, arrivals := s.fab.arrivals ++
    [{ beat := b, since := if g.st == .saved then 0 else s.now, here := decide (s.ingress b.sender < 256), no := s.fab.nextWait }] } }

/-- A beat that is not dropped waits, or is admitted if its tile takes it. -/
theorem State.receive_live (h : s.allocOf b.alloc = some g) (hend : b.off + b.data.length ≤ 256 * g.tiles)
    (hkept : (b.sender, b.copy) ∉ s.fab.dropped) :
    s.receive b = if g.st == .saved || decide (256 ≤ s.ingress b.sender) || s.queued g b s.fab.arrivals s.fab.nextWait
      then s.waiting g b else (s.admitBeat g b).getD (s.waiting g b) := by
  have hhere : decide (s.ingress b.sender < 256) = !decide (256 ≤ s.ingress b.sender) := by
    rw [← decide_not]
    simp only [Nat.not_le]
  simp only [State.receive, h, Nat.not_lt.2 hend, if_false, List.elem_eq_mem, hkept, decide_false, Bool.false_eq_true, State.waiting,
    hhere]
  rfl

/-- A waiting beat whose turn it is leaves the ingress if its tile takes it (R59). -/
theorem exec_arrivalAdmit_ingress {n : Nat} {x : Waiting} (hx : s.fab.arrivals[n]? = some x) (hg : s.allocOf x.beat.alloc = some g)
    (hsaved : g.st ≠ .saved) (hhere : x.here = true) (hturn : s.queued g x.beat (s.fab.arrivals.take n) x.no = false)
    (hadmit : (s.dropArrival n).admitBeat g x.beat = some t) : exec (.arrivalAdmit (.ingress n)) s = finish t.promote.tidy := by
  show execArrivalAdmit (.ingress n) s = _
  unfold State.queued at hturn
  simp only [execArrivalAdmit, hx, hg, beq_false_of_ne hsaved, hhere, Bool.not_true, Bool.false_or, hturn, Bool.false_eq_true,
    if_false, hadmit]

end Beat

/-! ### A local arrival begins (R59, R219) -/

/-- The states of a tile by their number (R58). -/
theorem Tag.state_free_iff (x : Tag) : (x.state == 0 || x.state == 3) = true ↔ x = .empty ∨ x = .poison := by
  cases x <;> simp [Tag.state]

theorem Tag.state_poison_iff (x : Tag) : (x.state == 3) = true ↔ x = .poison := by
  cases x <;> simp [Tag.state]

section Local

variable {s : State} {o : Op} {w t : Nat}

/-- Whose turn it is at a tile: nothing that waits for it is ahead of the operation's arrival. -/
def State.turnOf (s : State) (o : Op) (w t : Nat) : Bool :=
  let no := match o.destAt with | some x => if x.origin == w && x.tile == t then x.no else s.fab.nextWait | none => s.fab.nextWait
  !s.beatAhead w t no && !s.localAhead w t no

theorem State.arrivalFree_eq (s : State) (o : Op) (w t : Nat) :
    s.arrivalFree o w t = (s.turnOf o w t && ((s.tag w t).state == 0 || (s.tag w t).state == 3)) := rfl

/-- An arrival in its turn begins at a tile that is EMPTY, or POISON and written whole. -/
theorem State.beginArrival_fills (hbegun : t ∉ o.begun) (hahead : s.arrivalAhead o w t = false) (hturn : s.turnOf o w t = true)
    (htag : s.tag w t = .empty ∨ s.tag w t = .poison ∧ o.kind.cover t = 256) :
    (s.beginArrival o w t).1 =
      (s.mapWg w (fun g => g.setTag t (.filling (.op o.id) (o.kind.cover t) o.kind.count false))).mapOp o.id
        (fun o => { o with begun := o.begun ++ [t], destAt := none }) := by
  have hfree : s.arrivalFree o w t = true := by
    rw [State.arrivalFree_eq, hturn, Bool.true_and, Tag.state_free_iff]
    exact htag.imp_right And.left
  have hwhole : ((s.tag w t).state == 3 && o.kind.cover t != 256) = false := by
    rcases htag with h | ⟨-, h⟩ <;> simp [h, Tag.state]
  simp only [State.beginArrival, List.elem_eq_mem, hbegun, decide_false, hahead, hfree, Bool.not_true, hwhole, Bool.false_eq_true,
    if_false]

/-- At a POISON tile that it does not write whole, it makes its operation POISONED. -/
theorem State.beginArrival_poisons (hbegun : t ∉ o.begun) (hahead : s.arrivalAhead o w t = false) (hturn : s.turnOf o w t = true)
    (htag : s.tag w t = .poison) (hcover : o.kind.cover t ≠ 256) :
    (s.beginArrival o w t).1 = (s.mapOp o.id (fun o => { o with pois := true })).mapOp o.id
      (fun o => { o with begun := o.begun ++ [t], destAt := none }) := by
  have hfree : s.arrivalFree o w t = true := by
    rw [State.arrivalFree_eq, hturn, Bool.true_and, Tag.state_free_iff]
    exact .inr htag
  have hpart : ((s.tag w t).state == 3 && o.kind.cover t != 256) = true := by
    simp [htag, Tag.state, hcover]
  simp only [State.beginArrival, List.elem_eq_mem, hbegun, decide_false, hahead, hfree, Bool.not_true, hpart, Bool.false_eq_true,
    if_false, if_true]

/-- At any other tile it waits. -/
theorem State.beginArrival_waits (hbegun : t ∉ o.begun) (hahead : s.arrivalAhead o w t = false) (hempty : s.tag w t ≠ .empty)
    (hpoison : s.tag w t ≠ .poison) : (s.beginArrival o w t).1 = s.waitDest o w t := by
  have hfull : ((s.tag w t).state == 0 || (s.tag w t).state == 3) = false := by
    rw [← Bool.not_eq_true, Tag.state_free_iff]
    exact not_or.2 ⟨hempty, hpoison⟩
  simp only [State.beginArrival, List.elem_eq_mem, hbegun, decide_false, hahead, State.arrivalFree_eq, hfull, Bool.and_false,
    Bool.not_false, Bool.false_eq_true, if_false, if_true]

theorem State.waitDest_hole (s : State) (o : Op) (w t : Nat) : (s.waitDest o w t).hole = s.hole := by
  unfold State.waitDest
  extract_lets since
  split <;> rfl

/-- The arrival that is looked at is the operation's next. -/
theorem exec_arrivalAdmit_local {id cc : Nat} {rs : List (Nat × Nat)} (ho : s.op? id = some o) (hdest : o.kind.dest = some (w, rs, cc))
    (hst : o.st = .started) (hcover : o.kind.cover t ≠ 0) (hat : ∀ x, o.destAt = some x → x.tile = t) :
    exec (.arrivalAdmit (.localOp id t)) s = finish (s.beginArrival o w t).1 := by
  show execArrivalAdmit (.localOp id t) s = _
  have hother : o.destAt.any (fun x => x.tile != t) = false := by
    cases h : o.destAt with
    | none => rfl
    | some x => simp [hat x h]
  simp [execArrivalAdmit, ho, hdest, hst, hcover, hother]

end Local

/-! ### Tag waits that end (R61, R359) -/

/-- The wait of an operation that has lasted too long is the one that the claim names. -/
theorem State.overdue_of_claim {s : State} {o : Op} {x : TileWait} (h : Claims.Overdue s o x) : s.overdue o = some x := by
  obtain ⟨hlate, ⟨hat, hholds⟩ | ⟨hearlier, hdest, hbusy, hplaced⟩⟩ := h
  · simp [State.overdue, hat, hholds, hlate]
  · have hfirst : o.waitAt.bind (fun y => if s.waitHolds o y && s.timedOut o.ctx y.since then some y else none) = none := by
      cases hw : o.waitAt with
      | none => rfl
      | some y =>
        cases hy : s.waitHolds o y with
        | false => simp [hy]
        | true => simp [hy, hearlier y hw hy]
    have hresident : (s.wg? x.origin).any (fun g => g.st == .saved) = false := by
      cases hg : s.wg? x.origin with
      | none => rfl
      | some g => exact beq_false_of_ne (hplaced g hg)
    unfold State.overdue
    dsimp only
    rw [hfirst]
    simp [hdest, hbusy, hresident, hlate]

section Timeout

variable {s : State} {id u : Nat} {o : Op} {x : TileWait}

/-- A tag wait of an operation ends: it is counted, and the operation ends by its kind. -/
theorem exec_tagWaitTimeout_op (ho : s.op? id = some o) :
    exec (.tagWaitTimeout (.mloop id)) s = finish (s.timeoutOp o).tidy ∧
      exec (.tagWaitTimeout (.arrival (.localOp id u))) s = finish (s.timeoutOp o).tidy := by
  constructor <;> simp only [exec, execTagWaitTimeout, ho]

/-- The end of an operation with FAULT at a tile (R359). -/
def State.tagFault (s : State) (o : Op) (x : TileWait) : State :=
  s.settle o.id .fault Cause.tagTimeout.code (BitVec.ofNat 64 (256 * x.tile))

theorem State.timeoutOp_mloop {d : MloopDesc} (hst : o.st = .started) (h : Claims.Overdue s o x) (hk : o.kind = .mloop d) :
    s.timeoutOp o = ((s.bump 0x12F).drainMloop o d).tagFault o x := by
  simp [State.timeoutOp, State.overdue_of_claim h, hst, hk, State.tagFault]

theorem State.timeoutOp_remote {table : Option (Word × Nat)} {multi : Bool} {ts : List (Nat × Member)} {src : Ep} {n cc : Nat}
    (hst : o.st = .started) (h : Claims.Overdue s o x) (hk : o.kind = .remote table multi ts src n cc) :
    s.timeoutOp o = (s.bump 0x12F).unitFail o .fault Cause.tagTimeout.code (BitVec.ofNat 64 (256 * x.tile)) := by
  simp [State.timeoutOp, State.overdue_of_claim h, hst, hk]

/-- The kinds whose tag wait ends with FAULT and nothing else. -/
def Op.plainFault (o : Op) : Prop :=
  (∃ dst src n cc, o.kind = .copy dst src n cc) ∨ (∃ dst src d cc, o.kind = .tcopy dst src d cc) ∨
    (∃ src last region base count, o.kind = .wnst src last region base count ∧ (last = true → o.units.length ≠ count)) ∨
    (∃ mem row col rows cols pitch fmt, o.kind = .acst mem row col rows cols pitch fmt ∨
      o.kind = .acld mem row col rows cols pitch fmt)

theorem State.timeoutOp_plain (hst : o.st = .started) (h : Claims.Overdue s o x) (hk : o.plainFault) :
    s.timeoutOp o = (s.bump 0x12F).tagFault o x := by
  rcases hk with ⟨_, _, _, _, hk⟩ | ⟨_, _, _, _, hk⟩ | ⟨_, last, region, _, count, hk, hrest⟩ | ⟨_, _, _, _, _, _, _, hk | hk⟩
  case inr.inr.inl =>
    cases last with
    | false => simp [State.timeoutOp, State.overdue_of_claim h, hst, hk, State.tagFault]
    | true =>
      have hmore : (o.units.length == count) = false := beq_false_of_ne (hrest rfl)
      simp only [State.timeoutOp, State.overdue_of_claim h, hst, hk, hmore, bne_self_eq_false, Bool.false_eq_true, if_false]
      generalize Option.map _ _ = r
      cases r with
      | none => rfl
      | some y => cases y <;> rfl
  all_goals simp [State.timeoutOp, State.overdue_of_claim h, hst, hk, State.tagFault]

theorem State.timeoutOp_last {src : Ep} {region : Word} {base pa : Nat} {c : Context} (hst : o.st = .started) (h : Claims.Overdue s o x)
    (hk : o.kind = .wnst src true region base o.units.length) (hc : s.ctx? o.ctx = some c)
    (hheader : (s.bump 0x12F).headerAt o c region = .at_ pa) :
    s.timeoutOp o = (s.bump 0x12F).winnowEnd o pa .fault Cause.tagTimeout.code (BitVec.ofNat 64 (256 * x.tile)) := by
  have hcell : ((s.bump 0x12F).ctx? o.ctx).map (fun c => (s.bump 0x12F).headerAt o c region) = some (.at_ pa) := by
    rw [show (s.bump 0x12F).ctx? o.ctx = some c from hc, Option.map_some, hheader]
  simp only [State.timeoutOp, State.overdue_of_claim h, hst, hk, hcell, beq_self_eq_true, bne_self_eq_false, Bool.false_eq_true, if_false,
    if_true]

end Timeout

/-- Settles O39: beats that reach the device, beats and local arrivals in their turn, and the tag waits of lanes, operations and
beats that end. -/
theorem arrivalsFillTilesAndWaitsTimeOut : Obligations.ArrivalsFillTilesAndWaitsTimeOut := by
  refine ⟨?_, ?_, ?_, ?_, ?_, ?_, ?_⟩
  · intro b s hstale hole
    show finish (s.receive b).tidy = _
    rw [State.receive_stale hstale]
    exact finish_next hole
  · intro b s g hg
    refine ⟨fun hend hole => ?_, fun hend hdropped hole => ?_, fun t hend hkept hsaved hroom hturn hadmit hole => ?_, ?_⟩
    · show finish (s.receive b).tidy = _
      rw [State.receive_beyond hg hend]
      exact finish_next hole
    · show finish (s.receive b).tidy = _
      rw [State.receive_dropped hg hend hdropped]
      exact finish_next hole
    · show finish (s.receive b).tidy = _
      rw [State.receive_live hg hend hkept, beq_false_of_ne hsaved, decide_eq_false (Nat.not_le.2 hroom), State.queued_eq_false hturn,
        hadmit]
      exact finish_next hole
    · intro hend hkept hwait x t hole
      show finish (s.receive b).tidy = _
      have hwaiting : s.receive b = s.waiting g b := by
        rw [State.receive_live hg hend hkept]
        split
        · rfl
        · next hfree =>
          rcases hwait with h | h | h | ⟨hb, h⟩
          · simp [h] at hfree
          · simp [h] at hfree
          · rw [h]; rfl
          · rcases h with h | h <;> simp [State.queued, hb, h] at hfree
      have ht : t = (s.waiting g b).tidy := by
        simp only [t, x, State.waiting, beq_iff_eq]
      rw [hwaiting, ← ht]
      exact finish_next hole
  · intro n s x hx left
    refine ⟨fun hstale hole => ?_, fun g t hg hsaved hhere hturn hadmit hole => ?_⟩
    · show execArrivalAdmit (.ingress n) s = _
      simp only [execArrivalAdmit, hx, hstale]
      exact finish_next hole
    · rw [exec_arrivalAdmit_ingress hx hg hsaved hhere (State.queued_eq_false hturn) hadmit]
      exact finish_next hole
  · intro id t w cc rs s o hole ho hdest hst hcover hbegun hahead hat no hbeats hlocals start fill
    have hturn : s.turnOf o w t = true := by
      have hno : (match o.destAt with
          | some x => if x.origin == w && x.tile == t then x.no else s.fab.nextWait
          | none => s.fab.nextWait) = no := by
        simp only [no]
        cases o.destAt with
        | none => rfl
        | some x => simp only [Bool.and_eq_true, beq_iff_eq]
      unfold State.turnOf
      rw [hno]
      show (!s.beatAhead w t no && !s.localAhead w t no) = true
      rw [hbeats, hlocals]
      rfl
    rw [exec_arrivalAdmit_local ho hdest hst hcover hat]
    refine ⟨fun htag => ?_, fun htag hpart => ?_, fun hempty hpoison => ?_⟩
    · rw [State.beginArrival_fills hbegun hahead hturn htag]
      exact finish_next hole
    · rw [State.beginArrival_poisons hbegun hahead hturn htag hpart]
      exact finish_next hole
    · rw [State.beginArrival_waits hbegun hahead hempty hpoison]
      exact finish_next ((State.waitDest_hole ..).trans hole)
  · intro core slot wid k s g w pc ls hslot hg hw due hpc hls hole
    show finish (s.timeoutLanes core slot) = _
    have hpark : s.timeoutLanes core slot = s.parkTags g k pc ls := by
      unfold State.timeoutLanes
      simp only [hslot, hg, hw]
      simp only [due] at hpc hls
      generalize (w.numbered.filterMap (fun x => x.2.tagWait.map (fun t => (x.1, x.2.pc, t)))).filter (fun x =>
        s.timedOut g.pkt.ctx x.2.2.2.2) = late at hpc hls ⊢
      cases late with
      | nil => cases hpc
      | cons x xs =>
        obtain rfl : x.2.1 = pc := Option.some.inj hpc
        rw [hls]
    rw [hpark]
    exact finish_next hole
  · intro id u s o x ho hst hover a fault
    refine ⟨fun d hk hole => ?_, fun table multi ts src n cc hk hole => ?_, fun hk hole => ?_,
      fun src region base pa hk c hc hheader hole => ?_⟩
    · rw [(exec_tagWaitTimeout_op (u := u) ho).1, State.timeoutOp_mloop hst hover hk]
      exact finish_next hole
    · rw [(exec_tagWaitTimeout_op ho).2, State.timeoutOp_remote hst hover hk]
      exact finish_next hole
    · rw [(exec_tagWaitTimeout_op ho).2, State.timeoutOp_plain hst hover hk]
      exact finish_next hole
    · rw [(exec_tagWaitTimeout_op ho).2, State.timeoutOp_last hst hover hk hc hheader]
      exact finish_next hole
  · intro n s x g hx hg hsaved hhere hlate t hole
    show execTagWaitTimeout (.arrival (.ingress n)) s = _
    simp only [execTagWaitTimeout, hx, hg, beq_false_of_ne hsaved, Bool.false_eq_true, if_false, State.timeoutBeat, hhere, hlate,
      Bool.not_true, Bool.or_self]
    exact finish_next hole

end Sys2Proof.Machine
end


section
/-!
SUPPORT. Engine operations start, perform their units, end and post their records; the matrix engine's commands and k-steps; shortlists
(spec/08 R213 to R233, spec/12 R298, R299).
-/
namespace Sys2Proof.Machine

/-- An operation has the number by which it is found. -/
theorem State.id_of_op? {s : State} {id : Nat} {o : Op} (h : s.op? id = some o) : o.id = id := beq_iff_eq.1 (List.find?_some h :)

/-- An operation that is changed without its number is found as the change leaves it. -/
theorem State.op?_mapOp_same {s : State} {id : Nat} {o : Op} {f : Op → Op} (hf : ∀ x, (f x).id = x.id) (h : s.op? id = some o) :
    (s.mapOp id f).op? id = some (f o) := by
  have hsame : ((fun x : Op => x.id == id) ∘ fun x => if x.id == id then f x else x) = fun x => x.id == id := by
    funext x
    by_cases hx : (x.id == id) = true <;> simp [Function.comp, hx, hf]
  rw [State.op?, State.mapOp_ops, List.find?_map, hsame, show s.ops.find? (fun x => x.id == id) = some o from h, Option.map_some,
    if_pos (beq_iff_eq.2 (State.id_of_op? h))]

/-! ### Starts and units (R213, R218, R219) -/

section Run

variable {s t : State} {id u : Nat} {o : Op} {c : Context}

/-- An operation that nothing ahead of it holds starts. -/
theorem exec_engineQueueStart (h : Claims.Running s id o c .queued) (hheld : s.startHeld o = false) :
    exec (.engineQueueStart id) s = finish (s.startOp o c).tidy := by
  obtain ⟨ho, hc, hst⟩ := h
  show execEngineQueueStart id s = _
  simp [execEngineQueueStart, ho, hc, hst, hheld]

/-- The checks that every unit passes. -/
theorem unit_free (h : Claims.Running s id o c .started) (hu : Claims.UnitFree s o u) :
    (o.st != .started || s.power.tripped || o.units.elem u || s.arrivalHolds o) = false := by
  obtain ⟨-, -, hst⟩ := h
  obtain ⟨hnew, harrival, hpower⟩ := hu
  simp [hst, hnew, harrival, hpower]

/-- A unit of a COPY reads its bytes and writes them at its destination. -/
theorem exec_copyUnit_copy (h : Claims.Running s id o c .started) (hu : Claims.UnitFree s o u) {dst src : Ep} {n cc : Nat}
    (hk : o.kind = .copy dst src n cc) (hlt : u < n / 16) : exec (.copyUnit id u) s = finish (s.copyUnit o c u dst src n).tidy := by
  show execCopyUnit id u s = _
  have ⟨ho, hc, _⟩ := h
  simp only [execCopyUnit, ho, hc, unit_free h hu, Bool.false_eq_true, if_false, hk, if_pos hlt]

/-- A unit of another operation that goes unit by unit has its kind's effect. -/
theorem exec_copyUnit_other (h : Claims.Running s id o c .started) (hu : Claims.UnitFree s o u) {n : Nat}
    (hk : Claims.unitOf s o c u = some (n, t)) (hlt : u < n) : exec (.copyUnit id u) s = finish t.tidy := by
  show execCopyUnit id u s = _
  have ⟨ho, hc, _⟩ := h
  simp only [execCopyUnit, ho, hc, unit_free h hu, Bool.false_eq_true, if_false]
  unfold Claims.unitOf at hk
  generalize o.kind = kind at hk
  cases kind with
  | remote table multi ts src m cc =>
    cases table with
    | none =>
      obtain ⟨rfl, rfl⟩ := Prod.mk.inj (Option.some.inj hk)
      exact congrArg finish (if_pos hlt)
    | some _ => cases hk
  | tcopy _ _ _ _ | wnst _ _ _ _ _ | acst _ _ _ _ _ _ _ | acld _ _ _ _ _ _ _ =>
    obtain ⟨rfl, rfl⟩ := Prod.mk.inj (Option.some.inj hk)
    exact congrArg finish (if_pos hlt)
  | _ => cases hk

/-- A multicast that has a table reads it again for its members (R218). -/
theorem exec_copyUnit_table (h : Claims.Running s id o c .started) (hu : Claims.UnitFree s o u) {a : Word} {map n cc : Nat}
    {multi : Bool} {ts : List (Nat × Member)} {src : Ep} (hk : o.kind = .remote (some (a, map)) multi ts src n cc) :
    exec (.copyUnit id u) s = finish (s.readTable o c a map src n cc) := by
  show execCopyUnit id u s = _
  have ⟨ho, hc, _⟩ := h
  simp only [execCopyUnit, ho, hc, unit_free h hu, Bool.false_eq_true, if_false, hk]

end Run

/-! ### The matrix engine (R226 to R231, R262) -/

section Kstep

variable {s : State} {o : Op} {g : Wg} {d : MloopDesc} {j : Nat}

/-- The k-step that the claim names is the one at which the engine may look. -/
theorem State.kstepNext_of_claim (h : Claims.NextStep s o g j) : s.kstepNext o g j = true := by
  rcases h with ⟨hchain, rfl⟩ | ⟨k, i, hchain, hi, hearlier⟩
  · simp [State.kstepNext, hchain]
  · simp only [State.kstepNext, hchain, hi, List.all_eq_true]
    exact hearlier

/-- What a step leaves in the accumulator and in the carry changes no operation's record of its units. -/
theorem State.op?_applyStep {id : Nat} (h : s.op? id = some o) (hid : o.id = id) :
    ∃ p, (s.applyStep o g d j).op? id = some p ∧ p.units = o.units := by
  subst hid
  unfold State.applyStep
  extract_lets r now s' carry ends
  have hs' : s'.op? o.id = some o := h
  split
  · exact ⟨_, State.op?_mapOp_same (fun _ => rfl) (s := s'.accMap g.wid _ _ _ _ _) hs', rfl⟩
  · exact ⟨_, State.op?_mapOp_same (fun _ => rfl) hs', rfl⟩

theorem State.waitTile_hole (s : State) (o : Op) (u w t : Nat) : (s.waitTile o u w t).hole = s.hole := by
  unfold State.waitTile
  dsimp only
  split
  · split <;> rfl
  · rfl

/-- A k-step with a tile that is not ready waits for it. -/
theorem State.kstep_waits {x : Nat} (hx : (d.tiles j).find? (fun t => !(g.tag t).ready) = some x) : s.kstep o g d j = s.waitTile o j g.wid x := by
  unfold State.kstep
  rw [show d.unready g j = some x from hx]

/-- The state after a k-step whose tiles are ready: the products are added, the tiles consumed and the step recorded (R229). -/
def State.steppedK (s : State) (o : Op) (g : Wg) (d : MloopDesc) (j : Nat) : State :=
  let rows := (d.a.marks g (d.a.slotAt j)).map (· + 128 * (j / d.kper))
  let cols := (d.b.marks g (d.b.slotAt j)).map (· + 128 * (j / d.kper))
  (((s.applyStep o g d j).mapWg g.wid (fun g => (d.tiles j).foldl Wg.consume g)).bump 0x122).mapOp o.id (fun o =>
    { o with units := o.units ++ [j], rowMarks := o.rowMarks ++ rows.filter (fun x => !o.rowMarks.elem x),
             colMarks := o.colMarks ++ cols.filter (fun x => !o.colMarks.elem x), waitAt := none })

/-- The operation has one k-step more. -/
theorem State.op?_steppedK (h : s.op? o.id = some o) :
    ∃ p, (s.steppedK o g d j).op? o.id = some p ∧ p.units.length = o.units.length + 1 := by
  obtain ⟨p, hp, hunits⟩ := State.op?_applyStep (g := g) (d := d) (j := j) h rfl
  refine ⟨_, State.op?_mapOp_same (fun _ => rfl)
    (s := ((s.applyStep o g d j).mapWg g.wid (fun g => (d.tiles j).foldl Wg.consume g)).bump 0x122) hp, ?_⟩
  simp [hunits]

/-- The end of an MLOOP whose k-steps are all performed. -/
def State.endedK (s : State) (p : Op) (d : MloopDesc) : State :=
  ((s.drainMloop p d).settle p.id (if p.rowMarks.isEmpty && p.colMarks.isEmpty && !p.pois then .ok else .poisoned) 0 0).tidy

/-- A k-step whose tiles are ready is performed, and the last one ends the MLOOP. -/
theorem State.kstep_ready {p : Op} (hready : ∀ t ∈ d.tiles j, (g.tag t).ready = true) (hp : (s.steppedK o g d j).op? o.id = some p) :
    s.kstep o g d j = if p.units.length == d.ksteps then (s.steppedK o g d j).endedK p d else s.steppedK o g d j := by
  have hnone : d.unready g j = none := List.find?_eq_none.2 fun t ht => by simp [hready t ht]
  unfold State.steppedK at hp
  dsimp only at hp
  unfold State.kstep
  rw [hnone]
  dsimp only
  rw [hp]
  rfl

end Kstep

/-- A k-step at which the engine may look is performed or waits. -/
theorem exec_kstep {s : State} {id j : Nat} {o : Op} {g : Wg} {d : MloopDesc} (ho : s.op? id = some o) (hk : o.kind = .mloop d)
    (hg : s.wg? o.wid = some g) (hst : o.st = .started) (hj : j < d.ksteps) (hnew : j ∉ o.units) (hnext : Claims.NextStep s o g j)
    (hfree : s.stepFree o d j = true) : exec (.kstep id j) s = finish (s.kstep o g d j) := by
  show execKstep id j s = _
  simp [execKstep, ho, hk, hg, hst, Nat.not_le.2 hj, hnew, State.kstepNext_of_claim hnext, hfree]

/-! ### Completion (R214 to R216) -/

section Complete

variable {s : State} {id : Nat} {o : Op} {c : Context}

/-- The fabric's records of an operation that has ended are dropped. -/
def State.forgotten (s : State) (id : Nat) : State :=
  { s with fab := { s.fab with remote := s.fab.remote.filter (fun r => !(r.ofOp id && (2000 ≤ r.warp || r.answer.isSome))) } }

/-- An operation's handle is left and its event grows by 1. -/
def State.completed (s : State) (o : Op) : State := ((s.mapOp o.id (fun o => { o with st := .ended })).evAdd o.ctx o.event 1).tidy

/-- What R214 asks before an operation that is done completes: the operations of its queue before it have ended, it holds no page and
what it has sent has been answered. -/
structure Completes (s : State) (id : Nat) (o : Op) (c : Context) : Prop where
  running : Claims.Running s id o c .done
  ahead   : s.ahead o = []
  own     : ∀ a ∈ s.ops, a.id < id → a.wid = o.wid → a.kind.queue = o.kind.queue → a.st = .ended
  held    : o.held = []
  written : ∀ r ∈ s.fab.remote, r.wid = id → r.warp = 2001 → r.answer ≠ none

/-- Its checks pass. -/
theorem Completes.may (h : Completes s id o c) :
    (o.st != .done || (s.fab.remote.any (fun r => r.wid == id && r.warp == 2001 && r.answer.isNone) || !(s.ahead o).isEmpty ||
      s.ops.any (fun a => decide (a.id < id) && a.wid == o.wid && a.st != .ended && a.kind.queue == o.kind.queue)) ||
      !o.held.isEmpty) = false := by
  obtain ⟨⟨-, -, hst⟩, hahead, hown, hheld, hwritten⟩ := h
  have hremote : s.fab.remote.any (fun r => r.wid == id && r.warp == 2001 && r.answer.isNone) = false := by
    refine List.any_eq_false.2 fun r hr hbad => ?_
    simp only [Bool.and_eq_true, beq_iff_eq, Option.isNone_iff_eq_none] at hbad
    exact hwritten r hr hbad.1.1 hbad.1.2 hbad.2
  have hops : s.ops.any (fun a => decide (a.id < id) && a.wid == o.wid && a.st != .ended && a.kind.queue == o.kind.queue) = false := by
    refine List.any_eq_false.2 fun a ha hbad => ?_
    simp only [Bool.and_eq_true, beq_iff_eq, decide_eq_true_eq, bne_iff_ne] at hbad
    obtain ⟨⟨⟨hid, hwid⟩, hnot⟩, hqueue⟩ := hbad
    exact hnot (hown a ha hid hwid hqueue)
  rw [hremote, hops, hst, hahead, hheld]
  rfl

/-- An operation without a record ends. -/
theorem exec_complete_unrecorded (h : Completes s id o c) (hrec : o.rnum = none) :
    exec (.engineOperationComplete id) s = finish ((s.forgotten id).completed o) := by
  have ⟨ho, hc, _⟩ := h.running
  have hc' : (s.forgotten id).ctx? o.ctx = some c := hc
  unfold State.forgotten at hc'
  have hid := State.id_of_op? ho
  show execEngineOperationComplete id s = _
  unfold execEngineOperationComplete
  rw [ho]
  dsimp only
  rw [if_neg (by rw [h.may]; exact Bool.false_ne_true), hrec, hc']
  subst hid
  rfl

variable {x : Nat} {t : State}

/-- The record of an operation, as it is posted. -/
def State.posts (s : State) (c : Context) (o : Op) (x : Nat) : State × Got :=
  s.agentWrite c (c.recordAt o.home x) (o.record s.now (phaseOf x c.crlen)) o.core o.slot

/-- An operation whose record is written ends. -/
theorem exec_complete_recorded {got : List Byte} (h : Completes s id o c) (hrec : o.rnum = some x)
    (hpost : (s.forgotten id).posts c o x = (t, .bytes got)) :
    exec (.engineOperationComplete id) s = finish (t.completed o) := by
  have ⟨ho, hc, _⟩ := h.running
  have hc' : (s.forgotten id).ctx? o.ctx = some c := hc
  unfold State.forgotten at hc'
  have hid := State.id_of_op? ho
  show execEngineOperationComplete id s = _
  unfold execEngineOperationComplete
  rw [ho]
  dsimp only
  rw [if_neg (by rw [h.may]; exact Bool.false_ne_true), hrec, hc']
  dsimp only
  unfold State.posts State.forgotten at hpost
  rw [hpost]
  subst hid
  rfl

/-- An operation whose record's page is missing is held and reported. -/
theorem exec_complete_missing {a : Nat} (h : Completes s id o c) (hrec : o.rnum = some x)
    (hpost : (s.forgotten id).posts c o x = (t, .fail .xlateMiss a)) :
    exec (.engineOperationComplete id) s = finish (t.holdUnit o a 1) := by
  have ⟨ho, hc, _⟩ := h.running
  have hc' : (s.forgotten id).ctx? o.ctx = some c := hc
  unfold State.forgotten at hc'
  show execEngineOperationComplete id s = _
  unfold execEngineOperationComplete
  rw [ho]
  dsimp only
  rw [if_neg (by rw [h.may]; exact Bool.false_ne_true), hrec, hc']
  dsimp only
  unfold State.posts State.forgotten at hpost
  rw [hpost]

end Complete

/-! ### Shortlists (R298, R299) -/

/-- Whether an earlier part of the warp for the region is still to be taken (R299). -/
def State.partBefore (s : State) (id : Nat) (o : Op) (region : Word) : Bool :=
  s.ops.any (fun p => p.id < id && p.wid == o.wid && p.warp == o.warp &&
    (p.st == .queued || p.st == .started || p.st == .suspended) &&
    (match p.kind with | .wnst _ _ r _ _ => r == region | _ => false))

theorem State.partBefore_eq_false {s : State} {id : Nat} {o : Op} {region : Word}
    (h : ∀ p ∈ s.ops, p.id < id → p.wid = o.wid → p.warp = o.warp → (p.st = .done ∨ p.st = .ended) ∨
      ∀ a b r d e, p.kind = .wnst a b r d e → r ≠ region) : s.partBefore id o region = false := by
  refine List.any_eq_false.2 fun p hp hbad => ?_
  simp only [Bool.and_eq_true, decide_eq_true_eq, beq_iff_eq] at hbad
  obtain ⟨⟨⟨⟨hid, hwid⟩, hwarp⟩, hst⟩, hkind⟩ := hbad
  rcases h p hp hid hwid hwarp with (hdone | hdone) | hother
  · simp [hdone] at hst
  · simp [hdone] at hst
  · generalize hk : p.kind = kind at hkind
    cases kind with
    | wnst a b r d e => exact hother a b r d e hk (beq_iff_eq.1 hkind)
    | _ => cases hkind

/-- Settles O38: starts, units, the matrix engine's commands and k-steps, completions and shortlists. -/
theorem enginesPerformAndCompleteOperations : Obligations.EnginesPerformAndCompleteOperations := by
  refine ⟨?_, ?_, ?_, ?_, ?_, ?_, ?_, ?_⟩
  · intro id s o c hrun hheld
    rw [exec_engineQueueStart hrun hheld]
    refine ⟨fun dst src cc hk hole => ?_, fun dst src n cc hk hn hole => ?_, fun dst src d cc hk hole => ?_,
      fun multi ts src n cc hk hole => ?_, fun a map multi ts src n cc hk hole => ?_, fun p hk hole => ?_,
      fun src last region base count hk hheader hole => ?_⟩
    all_goals
      simp only [State.startOp, hk]
    · exact finish_next hole
    · rw [if_neg (by simpa using hn)]
      exact finish_next hole
    · exact finish_next hole
    · exact finish_next hole
    · exact finish_next hole
    · exact finish_next hole
    · rw [if_pos (by simp [hheader])]
      exact finish_next hole
  · intro id u s t o c dst src n cc bs hrun hfree hk hlt hread hwrite r hole
    have hid : o.id = id := State.id_of_op? hrun.1
    rw [exec_copyUnit_copy hrun hfree hk hlt]
    simp only [State.copyUnit, hread, hwrite]
    subst hid
    exact finish_next hole
  · intro id u n s t o c hrun hfree hk hlt hole
    rw [exec_copyUnit_other hrun hfree hk hlt]
    exact finish_next hole
  · intro id u n cc map a multi ts src s o c hrun hfree hk hole
    rw [exec_copyUnit_table hrun hfree hk]
    exact finish_next hole
  · intro core s o ho
    refine ⟨?_, fun b hk hole => ?_, fun hk hole => ?_⟩
    · intro row col rows cols hk t hole
      show execMatrixCommandPerform core s = _
      simp only [execMatrixCommandPerform, ho, hk]
      exact finish_next hole
    · show execMatrixCommandPerform core s = _
      simp only [execMatrixCommandPerform, ho, hk]
      exact finish_next hole
    · show execMatrixCommandPerform core s = _
      rcases hk with ⟨_, hk⟩ | ⟨_, _, _, _, _, _, _, hk | hk⟩
      all_goals
        simp only [execMatrixCommandPerform, ho, hk]
        exact finish_next hole
  · intro id j s o g d ho hk hg hst hj hnew hnext hfree tiles
    have hid : o.id = id := State.id_of_op? ho
    subst hid
    rw [exec_kstep ho hk hg hst hj hnew hnext hfree]
    refine ⟨fun x hx hole => ?_, ?_⟩
    · rw [State.kstep_waits hx]
      exact finish_next ((State.waitTile_hole ..).trans hole)
    · intro hready rows cols t
      obtain ⟨p, hp, hlen⟩ := State.op?_steppedK (g := g) (d := d) (j := j) ho
      rw [State.kstep_ready hready hp]
      refine ⟨fun hmore hole => ?_, ?_⟩
      · rw [if_neg (by simp; omega)]
        exact finish_next hole
      · intro p' hlast hp' r u hole
        obtain rfl : p = p' := Option.some.inj (hp.symm.trans hp')
        rw [if_pos (by simp; omega), State.endedK, State.id_of_op? hp]
        exact finish_next hole
  · intro id s o c hrun hahead hown hheld hwritten f ends
    have hid : o.id = id := State.id_of_op? hrun.1
    have hmay : Completes s id o c := ⟨hrun, hahead, hown, hheld, hwritten⟩
    refine ⟨fun hrec hole => ?_, fun x t got hrec hpost hole => ?_, fun x t a hrec hpost hole => ?_⟩
    · rw [exec_complete_unrecorded hmay hrec]
      subst hid
      exact finish_next hole
    · rw [exec_complete_recorded hmay hrec hpost]
      subst hid
      exact finish_next hole
    · rw [exec_complete_missing hmay hrec hpost]
      exact finish_next hole
  · intro id pa s o c src region base count row bad hrun hk hunits hbefore hheader hrow h w read t hole
    have ⟨ho, hc, hst⟩ := hrun
    show execWinnowShortlist id s = _
    have hnone := State.partBefore_eq_false hbefore
    unfold State.partBefore at hnone
    unfold execWinnowShortlist
    simp only [ho, hk, hc, hst, hunits, bne_self_eq_false, Bool.or_self, hheader]
    refine (if_neg ?_).trans ?_
    · exact fun hbad => Bool.false_ne_true (hnone.symm.trans hbad)
    · rw [hrow]
      dsimp only
      rw [← hk, ← hst]
      exact finish_next hole

end Sys2Proof.Machine
end


section
/-!
SUPPORT. What an agent's write keeps, and the packets that are taken, accepted and refused (spec/11_scheduling.md R271 to R278, spec/12
R294).
-/
namespace Sys2Proof.Machine

/-! ### What an agent's write keeps -/

theorem State.flit_sameRun (s : State) (q : Nat) : s.SameRun (s.flit q) :=
  ⟨State.bumpBy_issue .., State.bumpBy_ctxs .., State.bumpBy_wgs .., State.bumpBy_pkts ..⟩

theorem State.sendLine_sameRun (s : State) (e : WcLine) : s.SameRun (s.sendLine e) :=
  State.SameRun.trans ⟨rfl, rfl, rfl, rfl⟩ ((State.flit_sameRun _ e.peer).trans ⟨rfl, rfl, rfl, rfl⟩)

theorem State.drainWc_sameRun (s : State) (p : WcLine → Bool) : s.SameRun (s.drainWc p) :=
  State.SameRun.foldl (fun s e => by
    unfold State.trySend
    split
    · exact State.sendLine_sameRun s e
    · exact ⟨rfl, rfl, rfl, rfl⟩) _ s

theorem State.shed_sameRun (core n : Nat) (s : State) : s.SameRun (State.shed core n s) := by
  induction n generalizing s with
  | zero => exact ⟨rfl, rfl, rfl, rfl⟩
  | succ n ih =>
    unfold State.shed
    split
    · exact ⟨rfl, rfl, rfl, rfl⟩
    · split
      · exact (State.sendLine_sameRun s _).trans (ih _)
      · exact ⟨rfl, rfl, rfl, rfl⟩

theorem State.wcStore_sameRun (s : State) (core ctx peer pa : Nat) (bs : List Byte) : s.SameRun (s.wcStore core ctx peer pa bs) := by
  unfold State.wcStore
  refine State.SameRun.trans ?_ ((State.drainWc_sameRun _ _).trans (State.shed_sameRun core 1 _))
  split <;> exact ⟨rfl, rfl, rfl, rfl⟩

theorem State.lineOut_sameRun (s : State) (ctx q pa : Nat) (bs : List Byte) : s.SameRun (s.lineOut ctx q pa bs) :=
  (State.wcStore_sameRun s Config.cores ctx q pa bs).trans (State.drainWc_sameRun _ _)

theorem State.hbmRecord_sameRun (s : State) (a : Nat) (bs : List Byte) : s.SameRun (s.hbmRecord a bs) :=
  ⟨State.hbmRecord_issue .., State.hbmRecord_ctxs .., State.hbmRecord_wgs .., State.hbmRecord_pkts ..⟩

theorem State.partsRecord_sameRun (ctx : Nat) (ps : List Part) (bs : List Byte) (s : State) : s.SameRun (State.partsRecord s ctx ps bs) := by
  induction ps generalizing s bs with
  | nil => exact ⟨rfl, rfl, rfl, rfl⟩
  | cons p ps ih =>
    unfold State.partsRecord
    extract_lets mine n s1
    refine State.SameRun.trans ?_ (ih _ _)
    simp only [s1]
    split
    · exact State.hbmRecord_sameRun s _ _
    · exact ⟨rfl, rfl, rfl, rfl⟩
    · split
      · exact State.lineOut_sameRun ..
      · exact (State.lineOut_sameRun ..).trans (State.lineOut_sameRun ..)

/-- A write of an agent leaves the issue, the contexts, the workgroups and the packets alone. -/
theorem State.agentWrite_sameRun (s : State) (c : Context) (va : Nat) (bs : List Byte) (core slot : Nat) :
    s.SameRun (s.agentWrite c va bs core slot).1 := by
  unfold State.agentWrite
  split
  · exact (State.partsRecord_sameRun ..).trans ((State.cacheParts_sameRun ..).trans (State.findErrors_sameRun ..))
  · exact ⟨rfl, rfl, rfl, rfl⟩
  · exact ⟨rfl, rfl, rfl, rfl⟩
  · exact ⟨rfl, rfl, rfl, rfl⟩

/-- A registration for an event leaves the packets alone. -/
theorem State.evRegister_pkts (s : State) (ctx e : Nat) (t : W32) (w : EventWaiter) : (s.evRegister ctx e t w).pkts = s.pkts := by
  unfold State.evRegister
  split
  · rfl
  next c _ =>
    extract_lets add
    split
    · rfl
    · split
      · rfl
      · split
        · rfl
        next i _ =>
          obtain ⟨-, -, -, hpkts⟩ := State.agentWrite_sameRun s c (c.evovf.toNat + 32 * i) (leBytes 32 (Config.eventEntry e i).toNat) 0 0
          generalize s.agentWrite c (c.evovf.toNat + 32 * i) (leBytes 32 (Config.eventEntry e i).toNat) = r at hpkts
          obtain ⟨t', got⟩ := r
          cases got with
          | bytes _ => exact hpkts
          | _ => rfl

/-! ### A packet stands last among those in progress -/

section Last

variable {t : State} {p : Pkt}

/-- A packet of a new key is found. -/
theorem State.pkt?_enter (h : t.pkt? p.key = none) : (Claims.enter t p).pkt? p.key = some p := by
  rw [State.pkt?, Claims.enter, List.find?_append, show t.pkts.find? (fun x => x.key == p.key) = none from h, Option.none_or,
    List.find?_singleton, if_pos (beq_self_eq_true _)]

/-- A change of it is a change of what stands last. -/
theorem State.mapPkt_enter (h : t.pkt? p.key = none) (f : Pkt → Pkt) : (Claims.enter t p).mapPkt p.key f = Claims.enter t (f p) := by
  have hold : t.pkts.map (fun x => if x.key == p.key then f x else x) = t.pkts := by
    refine (List.map_congr_left fun x hx => ?_).trans (List.map_id _)
    rw [if_neg (List.find?_eq_none.1 (h : t.pkts.find? _ = none) x hx)]
    rfl
  unfold State.mapPkt Claims.enter
  dsimp only
  rw [List.map_append, hold, List.map_singleton, if_pos (beq_self_eq_true _)]

/-- Its launch is changed likewise. -/
theorem State.mapLaunch_enter {l : Launch} (h : t.pkt? p.key = none) (hbody : p.body = .launch l) (f : Launch → Launch) :
    (Claims.enter t p).mapLaunch p.key f = Claims.enter t { p with body := .launch (f l) } := by
  unfold State.mapLaunch
  rw [State.mapPkt_enter h, hbody]

/-- What holds a flow queue is an earlier launch. -/
theorem State.fqdBusy_enter (t : State) (p : Pkt) (fqd : Word) : (Claims.enter t p).fqdBusy p.key fqd = t.fqdBusy p.key fqd := by
  simp [State.fqdBusy, Claims.enter]

/-- A packet that watches no signal adds none to those that die 0 watches. -/
theorem State.watchCount_enter (t : State) (hwatch : p.watch = 0) : (Claims.enter t p).watchCount 0 = t.watchCount 0 := by
  simp [State.watchCount, Claims.enter, hwatch]

end Last

/-! ### A packet that passes its check (R271, R274 to R277, R294) -/

section Accept

variable {t : State} {c : Context} {q : Nat} {d : QDesc} {bs : List Byte}

/-- The key of a queue's next packet. -/
abbrev nextKey (c : Context) (q : Nat) (d : QDesc) : PktKey := { ctx := c.num, q := q, num := d.ridx }

/-- The release rings once a launch has opened its own. -/
def State.ringOpened (t : State) (c : Context) (q : Nat) (d : QDesc) (bs : List Byte) (l : Launch) : State :=
  if l.flow then Claims.openRing c q d (field bs 320 64) (field bs 384 32) t
  else if field bs 384 64 != 0 then Claims.openRing c q d (field bs 384 64) (field bs 448 32) t else t

theorem State.ringOpened_pkts (t : State) (c : Context) (q : Nat) (d : QDesc) (bs : List Byte) (l : Launch) :
    (t.ringOpened c q d bs l).pkts = t.pkts := by
  unfold State.ringOpened
  split
  · rfl
  · split <;> rfl

/-- What is known of a key's packets holds where they are the same. -/
theorem State.pkt?_congr {s t : State} {k : PktKey} (h : t.pkts = s.pkts) : t.pkt? k = s.pkt? k := by
  rw [State.pkt?, State.pkt?, h]

/-- A launch opens its ring, stands last, and starts if it can. -/
theorem State.acceptPkt_launch {l : Launch} (hnew : t.pkt? (nextKey c q d) = none) :
    let p := Claims.packet c q d bs false (.launch l)
    t.acceptPkt c p bs = (Claims.enter (t.ringOpened c q d bs l) p).startPkt c p := by
  intro p
  have hfound : (Claims.enter (t.ringOpened c q d bs l) p).pkt? p.key = some p :=
    State.pkt?_enter ((State.pkt?_congr (t.ringOpened_pkts c q d bs l)).trans hnew)
  have hstands : t.acceptPkt c p bs = (match (Claims.enter (t.ringOpened c q d bs l) p).pkt? p.key with
      | some x => (Claims.enter (t.ringOpened c q d bs l) p).startPkt c x
      | none => Claims.enter (t.ringOpened c q d bs l) p) := by
    unfold State.ringOpened
    cases hflow : l.flow with
    | true =>
      simp only [State.acceptPkt, p, Claims.packet, hflow, Bool.true_or, if_true]
      rfl
    | false =>
      cases hbase : (field bs 384 64 != 0) with
      | true =>
        simp only [State.acceptPkt, p, Claims.packet, hflow, hbase, Bool.or_true, if_true, Bool.false_eq_true, if_false]
        rfl
      | false =>
        simp only [State.acceptPkt, p, Claims.packet, hflow, hbase, Bool.or_self, Bool.false_eq_true, if_false]
        rfl
  rw [hstands, hfound]

/-- A launch of a flow starts when no earlier one holds its flow queue (R275). -/
theorem State.acceptPkt_flow {l : Launch} (hnew : t.pkt? (nextKey c q d) = none) (hflow : l.flow = true) :
    t.acceptPkt c (Claims.packet c q d bs false (.launch l)) bs = Claims.accepted c q d bs t (.launch l) := by
  have hring : t.ringOpened c q d bs l = Claims.openRing c q d (field bs 320 64) (field bs 384 32) t := if_pos hflow
  rw [State.acceptPkt_launch hnew, hring]
  unfold Claims.accepted
  dsimp only
  rw [if_pos hflow]
  generalize hr : Claims.openRing c q d (field bs 320 64) (field bs 384 32) t = r
  have hnew' : r.pkt? (nextKey c q d) = none := hr ▸ hnew
  cases hbusy : r.fqdBusy (nextKey c q d) l.fqd with
  | true =>
    have hbusy' := State.fqdBusy_enter r (Claims.packet c q d bs false (.launch l)) l.fqd
    rw [if_pos rfl]
    simp only [State.startPkt, Claims.packet, hflow, if_true]
    exact if_pos (hbusy'.trans hbusy)
  | false =>
    rw [if_neg Bool.false_ne_true,
      State.startPkt_flow rfl hflow ((State.fqdBusy_enter r _ _).trans hbusy), State.mapPkt_enter hnew']
    exact State.mapLaunch_enter (p := Claims.packet c q d bs true (.launch l)) hnew' rfl _

/-- A grid launch starts: its items take their dispatch numbers, and its first column is laid out. -/
theorem State.startPkt_grid {s u : State} {p : Pkt} {l : Launch} (hbody : p.body = .launch l) (hflow : l.flow = false)
    (hu : (s.mapPkt p.key (fun p => { p with started := true })).mapLaunch p.key (fun l => { l with firstDispatch := s.dispatch }) = u) :
    s.startPkt c p = State.openColumn { u with dispatch := u.dispatch + l.gx * l.gy * l.gz * l.kernel.stages } p.key := by
  subst hu
  simp only [State.startPkt, hbody, hflow, Bool.false_eq_true, if_false]

/-- A launch of a grid starts: its items take their dispatch numbers, and its first column is laid out (R27, R274). -/
theorem State.acceptPkt_grid {l : Launch} (hnew : t.pkt? (nextKey c q d) = none) (hflow : l.flow = false) :
    t.acceptPkt c (Claims.packet c q d bs false (.launch l)) bs = Claims.accepted c q d bs t (.launch l) := by
  have hring : t.ringOpened c q d bs l =
      if field bs 384 64 != 0 then Claims.openRing c q d (field bs 384 64) (field bs 448 32) t else t :=
    if_neg (by rw [hflow]; exact Bool.false_ne_true)
  rw [State.acceptPkt_launch hnew, hring]
  unfold Claims.accepted
  dsimp only
  rw [if_neg (show ¬l.flow = true by rw [hflow]; exact Bool.false_ne_true)]
  have hnew' : State.pkt? (if field bs 384 64 != 0 then Claims.openRing c q d (field bs 384 64) (field bs 448 32) t else t)
      (nextKey c q d) = none := by
    split <;> exact hnew
  generalize (if field bs 384 64 != 0 then Claims.openRing c q d (field bs 384 64) (field bs 448 32) t else t) = r at hnew' ⊢
  have hgo : ((Claims.enter r (Claims.packet c q d bs false (.launch l))).mapPkt (nextKey c q d)
      (fun p => { p with started := true })).mapLaunch (nextKey c q d) (fun l => { l with firstDispatch := r.dispatch }) =
      Claims.enter r (Claims.packet c q d bs true (.launch { l with firstDispatch := r.dispatch })) := by
    refine (congrArg (State.mapLaunch · (nextKey c q d) _) (State.mapPkt_enter hnew' _)).trans ?_
    exact State.mapLaunch_enter (p := Claims.packet c q d bs true (.launch l)) hnew' rfl _
  exact State.startPkt_grid rfl hflow hgo

/-- A packet registers for the events of its entries. -/
def State.registerAll (s : State) (ctx : Nat) (k : PktKey) (deps : List BarDep) : State :=
  deps.foldl (fun s x => match x with | .event e n => s.evRegister ctx e n (.packet k) | _ => s) s

theorem State.registerAll_pkts (s : State) (ctx : Nat) (k : PktKey) (deps : List BarDep) : (s.registerAll ctx k deps).pkts = s.pkts := by
  unfold State.registerAll
  induction deps generalizing s with
  | nil => rfl
  | cons x deps ih =>
    rw [List.foldl_cons, ih]
    cases x with
    | event e n => exact State.evRegister_pkts ..
    | _ => rfl

/-- A barrier registers for its events and is evaluated (R276). -/
theorem State.acceptPkt_barrier {all : Bool} {deps : List BarDep} (hnew : t.pkt? (nextKey c q d) = none) :
    t.acceptPkt c (Claims.packet c q d bs false (.barrier all deps)) bs = Claims.accepted c q d bs t (.barrier all deps) := by
  let p := Claims.packet c q d bs false (.barrier all deps)
  let p' := { p with started := true, watch := min (signalsOf deps).length (1024 - t.watchCount 0) }
  let f := fun (x : Pkt) =>
    { x with started := true, watch := min (signalsOf deps).length (1024 - (Claims.enter t p).watchCount 0) }
  have hstands : t.acceptPkt c p bs = (match (Claims.enter t p).pkt? (nextKey c q d) with
      | some x => (Claims.enter t p).startPkt c x
      | none => Claims.enter t p) := rfl
  have hstart : (Claims.enter t p).startPkt c p =
      (match (((Claims.enter t p).mapPkt (nextKey c q d) f).registerAll c.num (nextKey c q d) deps).pkt? (nextKey c q d) with
      | some x => (((Claims.enter t p).mapPkt (nextKey c q d) f).registerAll c.num (nextKey c q d) deps).evaluate c x
      | none => ((Claims.enter t p).mapPkt (nextKey c q d) f).registerAll c.num (nextKey c q d) deps) := rfl
  have hgo : (Claims.enter t p).mapPkt (nextKey c q d) f = Claims.enter t p' := by
    refine (State.mapPkt_enter (p := p) hnew f).trans ?_
    simp only [f, State.watchCount_enter t (p := p) rfl, p']
  have hfound : ((Claims.enter t p').registerAll c.num (nextKey c q d) deps).pkt? (nextKey c q d) = some p' :=
    (State.pkt?_congr (State.registerAll_pkts ..)).trans (State.pkt?_enter (p := p') hnew)
  change t.acceptPkt c p bs = _
  have hat : (Claims.enter t p).pkt? (nextKey c q d) = some p := State.pkt?_enter (p := p) hnew
  rw [hstands, hat]
  dsimp only
  rw [hstart, hgo, hfound]
  rfl

/-- The operation of a COPY packet is issued on a core. -/
def State.copyIssued (t : State) (p : Pkt) (core : Nat) (bs : List Byte) : State :=
  { t with ops := t.ops ++ [packetOp t p core bs], nextOp := t.nextOp + 1, nextWid := t.nextWid + 1 }

/-- A COPY issues its operation on the lowest core with a free entry (R277). -/
theorem State.acceptPkt_copy {n : Nat} (hnew : t.pkt? (nextKey c q d) = none) :
    t.acceptPkt c (Claims.packet c q d bs false (.copy n)) bs = Claims.accepted c q d bs t (.copy n) := by
  let p := Claims.packet c q d bs false (.copy t.nextOp)
  unfold State.acceptPkt Claims.accepted
  dsimp only [Claims.packet]
  cases t.copyCore with
  | none =>
    dsimp only
    rw [hnew]
  | some core =>
    let u := Claims.enter (t.copyIssued (Claims.packet c q d bs false (.copy n)) core bs) p
    have hfound : u.pkt? (nextKey c q d) = some p := State.pkt?_enter (p := p) hnew
    have hgo : u.mapPkt (nextKey c q d) (fun x => { x with started := true }) = _ :=
      State.mapPkt_enter (t := t.copyIssued (Claims.packet c q d bs false (.copy n)) core bs) (p := p) hnew _
    change (match u.pkt? (nextKey c q d) with
      | some x => u.startPkt c x
      | none => u) = _
    rw [hfound]
    change u.mapPkt (nextKey c q d) (fun x => { x with started := true }) = _
    rw [hgo]
    rfl

/-- A stream's configuration leaves the packets alone. -/
theorem State.configure_enter (t : State) (p : Pkt) (x : Stream) :
    (Claims.enter t p).configure x = Claims.enter (t.configure x) p ∧ (t.configure x).pkts = t.pkts := by
  unfold State.configure Claims.enter
  dsimp only
  split <;> exact ⟨rfl, rfl⟩

/-- A TICKCFG configures its stream or stops it (R294). -/
theorem State.acceptPkt_tick (hnew : t.pkt? (nextKey c q d) = none) (htype : pktType bs = 6) :
    t.acceptPkt c (Claims.packet c q d bs false .done) bs = Claims.accepted c q d bs t .done := by
  let x := Stream.ofPacket c.num bs
  let p := Claims.packet c q d bs false .done
  obtain ⟨hconf, hpkts⟩ := t.configure_enter p x
  obtain ⟨hconf', -⟩ := t.configure_enter (Claims.packet c q d bs true .done) x
  have hnew' : (t.configure x).pkt? (nextKey c q d) = none := (State.pkt?_congr hpkts).trans hnew
  have hstands : t.acceptPkt c p bs = (match ((Claims.enter t p).configure x).pkt? (nextKey c q d) with
      | some y => ((Claims.enter t p).configure x).startPkt c y
      | none => (Claims.enter t p).configure x) := by
    unfold State.acceptPkt
    simp only [p, Claims.packet, htype, beq_self_eq_true, if_true]
    rfl
  change t.acceptPkt c p bs = (Claims.enter t (Claims.packet c q d bs true .done)).configure x
  have hat : (Claims.enter (t.configure x) p).pkt? (nextKey c q d) = some p := State.pkt?_enter (p := p) hnew'
  rw [hstands, hconf, hat, hconf']
  exact State.mapPkt_enter (p := p) hnew' _

/-- A packet that passes its check does what R271 and its kind say. -/
theorem State.acceptPkt_eq {b : PktBody} (hnew : t.pkt? (nextKey c q d) = none) (htick : b = .done → pktType bs = 6) :
    t.acceptPkt c (Claims.packet c q d bs false b) bs = Claims.accepted c q d bs t b := by
  cases b with
  | launch l =>
    cases hflow : l.flow with
    | true => exact State.acceptPkt_flow hnew hflow
    | false => exact State.acceptPkt_grid hnew hflow
  | barrier all deps => exact State.acceptPkt_barrier hnew
  | copy n => exact State.acceptPkt_copy hnew
  | done => exact State.acceptPkt_tick hnew (htick rfl)

end Accept

/-! ### The next packet of a queue (R271, R281) -/

section Take

variable {s r t : State} {c : Context} {q : Nat} {d : QDesc} {bs : List Byte}

/-- A queue whose next packet may be taken comes to it (R271, R281). -/
theorem State.takePacket_of_takes (h : Claims.Takes s c q d bs r t) (want : List Byte → Bool) :
    s.takePacket c.num q want = r.takeNext c q d want := by
  obtain ⟨hctx, hsaved, hthere, hmapped, hnext, hworks, ⟨db, hdb, rfl⟩, rfl, ⟨hpver, hcls, hlow, hhigh⟩, henabled, hwaits, -, hpower, -⟩ := h
  have howes : (s.queuePkts c.num q).any (fun p => p.owes.isSome) = false := by
    have hall := (Bool.and_eq_true_iff.1 hnext).1
    refine List.any_eq_false.2 fun p hp hbad => ?_
    have := (Bool.and_eq_true_iff.1 (List.all_eq_true.1 hall p hp)).2
    simp [Option.isSome_iff_ne_none] at hbad this
    exact hbad this
  have hmay : (c.saved || decide (c.qcount ≤ q) || (s.slotOf c.num q).isNone || !s.maySucceed c.num q || s.power.tripped ||
      (s.queuePkts c.num q).any (fun p => p.owes.isSome) || ((s.queue? c.num q).map (·.blocked)).getD false) = false := by
    rw [hsaved, decide_eq_false (Nat.not_le.2 hthere), ← Option.not_isSome, hmapped, hnext, hpower, howes, hworks]
    rfl
  have hfit : ((QDesc.ofBytes db).unfit || (QDesc.ofBytes db).state != 0 || (QDesc.ofBytes db).waiting == 0) = false := by
    simp [QDesc.unfit, hpver, Nat.not_lt.2 hcls, Nat.not_lt.2 hlow, Nat.not_lt.2 hhigh, henabled, hwaits]
  unfold State.takePacket
  rw [hctx]
  dsimp only
  rw [if_neg (by rw [hmay]; exact Bool.false_ne_true), show s.agentGet 0 c (c.qdescAt q) 32 = _ from State.agentGet_of_bytes hdb]
  dsimp only
  rw [if_neg (by rw [hfit]; exact Bool.false_ne_true)]
  rfl

/-- A packet of the kind asked for is taken: it is accepted, or refused and aborted (R271, R272, R278). -/
theorem State.takeNext_of_takes (h : Claims.Takes s c q d bs r t) {want : List Byte → Bool} (hwant : want bs = true)
    (hcopy : pktType bs = 5 → r.copyCore.isSome) :
    (∀ b, r.checkPacket c r.launches bs = .ok b → r.takeNext c q d want = t.acceptPkt c (Claims.packet c q d bs false b) bs) ∧
    (∀ cause, r.checkPacket c r.launches bs = .refuse cause →
      r.takeNext c q d want = (t.abort c (Claims.packet c q d bs false .done) 1 cause).after c r) := by
  obtain ⟨-, -, -, -, -, -, -, hr, -, -, -, ⟨hread, -⟩, -, u, got, hwrite, rfl⟩ := h
  have hgo : (!want bs || (pktType bs == 5 && r.copyCore.isNone)) = false := by
    rw [hwant]
    by_cases h5 : pktType bs = 5
    · simp [← Option.not_isSome, hcopy h5]
    · simp [h5]
  constructor
  all_goals
    intro b hcheck
    unfold State.takeNext
    simp only [hread, hgo, Bool.false_eq_true, if_false, hcheck, Bool.or_eq_true, beq_iff_eq,
      show r.agentWrite c (c.qdescAt q + 16) (leBytes 8 (d.ridx + 1)) = (u, .bytes got) from hwrite]
    rfl

/-- A packet of an unassigned TYPE is refused (R272). -/
theorem State.checkPacket_unassigned (id : Nat) (h : pktType bs = 0 ∨ 6 < pktType bs) : r.checkPacket c id bs = .refuse 0 := by
  unfold State.checkPacket
  split
  · rfl
  · split
    case h_7 => rfl
    all_goals
      next ht => omega

/-- What a descriptor's reading gives is what follows from its bytes, or no body at all. -/
theorem State.descriptor_ne_ok {va n : Nat} {k : List Byte → Checked} {b : PktBody} (hk : ∀ bs, k bs ≠ .ok b) :
    r.descriptor c va n k ≠ .ok b := by
  unfold State.descriptor
  split
  · exact hk _
  all_goals exact Checked.noConfusion

theorem launchOrRefuse_ne_done (p : Prop) [Decidable p] (l : Launch) :
    (if p then Checked.ok (.launch l) else .refuse 0) ≠ .ok .done := by
  split <;> simp

theorem State.checkLaunch_ne_done (id : Nat) : r.checkLaunch c id bs ≠ .ok .done := by
  unfold State.checkLaunch
  dsimp only
  split
  · exact Checked.noConfusion
  · refine State.descriptor_ne_ok fun kb => launchOrRefuse_ne_done _ _

theorem State.checkFlowlaunch_ne_done (id : Nat) : r.checkFlowlaunch c id bs ≠ .ok .done := by
  unfold State.checkFlowlaunch
  dsimp only
  split
  · exact Checked.noConfusion
  · refine State.descriptor_ne_ok fun kb => State.descriptor_ne_ok fun fb => launchOrRefuse_ne_done _ _

theorem checkBarrier_ne_done : checkBarrier bs ≠ .ok .done := by
  unfold checkBarrier
  split
  · split <;> simp
  · exact Checked.noConfusion

theorem checkCopy_ne_done : checkCopy bs ≠ .ok .done := by
  unfold checkCopy
  split <;> simp

/-- Only a TICKCFG has no body. -/
theorem State.pktType_of_done {id : Nat} (h : r.checkPacket c id bs = .ok .done) : pktType bs = 6 := by
  unfold State.checkPacket at h
  split at h
  · cases h
  · split at h
    · exact absurd h (State.checkLaunch_ne_done id)
    · exact absurd h (State.checkFlowlaunch_ne_done id)
    · exact absurd h checkBarrier_ne_done
    · exact absurd h checkBarrier_ne_done
    · exact absurd h checkCopy_ne_done
    · assumption
    · cases h

/-- The instruction of a packet takes the queue's next packet if it is of its kind. -/
theorem exec_of_takes {i : Instr} {n q : Nat} {kind : List Byte → Prop} (hi : Claims.takes i = some (n, q, kind)) (hkind : kind bs)
    (hne : bs ≠ []) : ∃ want : List Byte → Bool, want bs = true ∧ ∀ s, exec i s = finish (s.takePacket n q want) := by
  have hsome : bs.isEmpty = false := by simpa using hne
  cases i with
  | launch _ _ | flowlaunch _ _ | barrierAnd _ _ | barrierOr _ _ | copyPacket _ _ =>
    cases hi
    exact ⟨_, by simp [ofType, hsome, show pktType bs = _ from hkind], fun s => rfl⟩
  | tickcfg _ _ | tickcfgStop _ _ =>
    cases hi
    obtain ⟨htype, hperiod⟩ := hkind
    exact ⟨_, by simp [ofType, hsome, htype, hperiod], fun s => rfl⟩
  | unassignedPacketType _ _ =>
    cases hi
    exact ⟨_, by simpa using hkind, fun s => rfl⟩
  | _ => cases hi

end Take

/-- Settles O33: a queue's next packet is taken, and accepted or aborted. -/
theorem packetsAreTakenOrRefused : Obligations.PacketsAreTakenOrRefused := by
  refine ⟨?_, ?_⟩
  · intro i kind s r c q d bs t b hi hkind htakes hcheck hnew hcopy hole
    obtain ⟨want, hwant, hexec⟩ := exec_of_takes hi hkind htakes.packet.2
    rw [hexec, State.takePacket_of_takes htakes, (State.takeNext_of_takes htakes hwant hcopy).1 b hcheck,
      State.acceptPkt_eq hnew (fun hb => State.pktType_of_done (hb ▸ hcheck))]
    exact finish_next hole
  · intro i kind s r c q d bs t u v cause e hi hkind htakes hcheck hcopy hmark hstop hole
    obtain ⟨want, hwant, hexec⟩ := exec_of_takes hi hkind htakes.packet.2
    have hrefused : r.checkPacket c r.launches bs = .refuse cause := by
      rcases hcheck with h | ⟨rfl, h⟩
      · exact h
      · exact State.checkPacket_unassigned _ h
    have habort : t.abort c (Claims.packet c q d bs false .done) 1 cause = .ok v := by
      unfold State.abort State.mark
      rw [show t.csig c (Claims.packet c q d bs false .done).csig 6 (BitVec.ofNat 64 (2 ^ 63)) = .ok (u, e) from hmark]
      exact hstop
    rw [hexec, State.takePacket_of_takes htakes, (State.takeNext_of_takes htakes hwant hcopy).2 cause hrefused, habort]
    exact finish_next hole

end Sys2Proof.Machine
end

section
/-!
SUPPORT. Memories in their canonical form, part 1: what it means for each kind of result, and the operations that write a memory
or a workgroup.
-/
namespace Sys2Proof.Machine

open Safety (MemoryOk)

variable {s t : State} {α β : Type}

/-! ### The predicate and the kinds of results -/

/-- The state in a pair that a name stands for. -/
theorem memoryOk_of_eq {p : State × α} {a : α} (hp : MemoryOk p.1) (e : p = (t, a)) : MemoryOk t := by
  subst e; exact hp

theorem memoryOk_ite {c : Prop} [Decidable c] (hs : MemoryOk s) (ht : MemoryOk t) : MemoryOk (if c then s else t) := by
  split
  · exact hs
  · exact ht

/-- A fold whose every step keeps the canonical form keeps it. -/
theorem memoryOk_foldl {f : State → α → State} {l : List α} (hf : ∀ t a, MemoryOk t → MemoryOk (f t a)) (hs : MemoryOk s) :
    MemoryOk (l.foldl f s) := by
  induction l generalizing s with
  | nil => exact hs
  | cons a l ih => exact ih (hf s a hs)

/-- The same of a fold that keeps more than the state. -/
theorem memoryOk_foldl_fst {f : State × β → α → State × β} {l : List α} {p : State × β}
    (hf : ∀ q a, MemoryOk q.1 → MemoryOk (f q a).1) (hp : MemoryOk p.1) : MemoryOk (l.foldl f p).1 := by
  induction l generalizing p with
  | nil => exact hp
  | cons a l ih => exact ih (hf p a hp)

/-- The memories are canonical where the outcome has a next state. -/
def NextOk (o : Host.Outcome State Fault Refusal) : Prop := ∀ t, o = .next t → MemoryOk t

/-- The memories are canonical where there is a state. -/
def SomeOk (o : Option State) : Prop := ∀ t, o = some t → MemoryOk t

/-- The memories are canonical where a try succeeds. -/
def TriedOk (o : Tried State) : Prop := ∀ t, o = .ok t → MemoryOk t

/-- The same of a try that gives more than the state. -/
def TriedPairOk (o : Tried (State × α)) : Prop := ∀ t a, o = .ok (t, a) → MemoryOk t

theorem finish_ok (hs : MemoryOk s) : NextOk (finish s) := by
  intro t e
  unfold finish at e
  split at e
  · cases e; exact hs
  · cases e

theorem SomeOk.some (hs : MemoryOk s) : SomeOk (.some s) := fun _ e => Option.some.inj e ▸ hs

theorem SomeOk.none : SomeOk .none := fun _ e => nomatch e

theorem memoryOk_getD {o : Option State} (ho : SomeOk o) (hs : MemoryOk s) : MemoryOk (o.getD s) := by
  cases o with
  | none => exact hs
  | some t => exact ho t rfl

theorem SomeOk.bind {o : Option State} {f : State → Option State} (hf : ∀ t, MemoryOk t → SomeOk (f t)) (ho : SomeOk o) :
    SomeOk (o.bind f) := by
  cases o with
  | none => exact .none
  | some t => exact hf t (ho t rfl)

theorem SomeOk.map {o : Option State} {f : State → State} (hf : ∀ t, MemoryOk t → MemoryOk (f t)) (ho : SomeOk o) :
    SomeOk (o.map f) := by
  cases o with
  | none => exact .none
  | some t => exact .some (hf t (ho t rfl))

theorem SomeOk.foldl {f : Option State → α → Option State} {l : List α} {o : Option State}
    (hf : ∀ o a, SomeOk o → SomeOk (f o a)) (ho : SomeOk o) : SomeOk (l.foldl f o) := by
  induction l generalizing o with
  | nil => exact ho
  | cons a l ih => exact ih (hf o a ho)

theorem TriedOk.ok (hs : MemoryOk s) : TriedOk (.ok s) := fun _ e => Except.ok.inj e ▸ hs

theorem TriedOk.error {w : Option (Nat × Nat)} : TriedOk (.error w) := fun _ e => nomatch e

theorem TriedPairOk.ok {p : State × α} (hp : MemoryOk p.1) : TriedPairOk (.ok p) := by
  rintro t a ⟨⟩
  exact hp

theorem TriedPairOk.error {w : Option (Nat × Nat)} : TriedPairOk (.error w : Tried (State × α)) := fun _ _ e => nomatch e

theorem TriedPairOk.map {o : Tried (State × α)} {f : State × α → State} (hf : ∀ p, MemoryOk p.1 → MemoryOk (f p))
    (ho : TriedPairOk o) : TriedOk (o.map f) := by
  cases o with
  | error w => exact .error
  | ok p => exact .ok (hf p (ho _ _ rfl))

theorem TriedOk.ite {c : Prop} [Decidable c] {o p : Tried State} (ho : TriedOk o) (hp : TriedOk p) :
    TriedOk (if c then o else p) := by
  split
  · exact ho
  · exact hp

/-! ### Writes of a memory -/

/-- What the device counts and samples is no memory. -/
theorem memoryOk_obs {o : Observe} (hs : MemoryOk s) : MemoryOk { s with obs := o } := hs


/-- What stands for the fabric is no memory. -/
theorem memoryOk_fab {f : Fabric} (hs : MemoryOk s) : MemoryOk { s with fab := f } := hs

theorem wf_rearm {old m : Memory} {xs : List Winnow} (hm : Memory.wf m = true) : Memory.wf (rearm old xs m).1 = true := by
  induction xs generalizing m with
  | nil => exact hm
  | cons x xs ih => exact ih (Memory.wf_write _ _ hm)

theorem State.hbmWrite_ok {a bs} (hs : MemoryOk s) : MemoryOk (s.hbmWrite a bs) := by
  obtain ⟨hhbm, hrest⟩ := hs
  unfold State.hbmWrite
  split
  · exact ⟨hhbm, hrest⟩
  · exact ⟨wf_rearm (Memory.wf_write a bs hhbm), hrest⟩

theorem State.hbmRecord_ok {a bs} (hs : MemoryOk s) : MemoryOk (s.hbmRecord a bs) := by
  obtain ⟨hhbm, hrest⟩ := hs
  unfold State.hbmRecord
  split
  · exact ⟨hhbm, hrest⟩
  · exact ⟨wf_rearm (Memory.wf_write a bs hhbm), hrest⟩

theorem State.hostWrite_ok {a bs} (hs : MemoryOk s) : MemoryOk (s.hostWrite a bs) := by
  obtain ⟨hhbm, hhost, hrest⟩ := hs
  exact ⟨hhbm, Memory.wf_write a bs hhost, hrest⟩

/-! ### Workgroups -/

/-- Workgroups whose scratchpads are canonical in place of those of the state. -/
theorem memoryOk_wgs {gs : List Wg} (hs : MemoryOk s) (hgs : ∀ g ∈ gs, Memory.wf g.data = true) :
    MemoryOk { s with wgs := gs } := by
  obtain ⟨hhbm, hhost, hstage, hcfg, himage, -⟩ := hs
  exact ⟨hhbm, hhost, hstage, hcfg, himage, hgs⟩

theorem memoryOk_wgs_map {f : Wg → Wg} (hf : ∀ g, Memory.wf g.data = true → Memory.wf (f g).data = true) (hs : MemoryOk s) :
    MemoryOk { s with wgs := s.wgs.map f } := by
  obtain ⟨-, -, -, -, -, hdata⟩ := id hs
  refine memoryOk_wgs hs fun g hg => ?_
  obtain ⟨g', hg', rfl⟩ := List.mem_map.mp hg
  exact hf g' (hdata g' hg')

theorem memoryOk_wgs_filter {p : Wg → Bool} (hs : MemoryOk s) : MemoryOk { s with wgs := s.wgs.filter p } := by
  obtain ⟨-, -, -, -, -, hdata⟩ := id hs
  exact memoryOk_wgs hs fun g hg => hdata g (List.mem_of_mem_filter hg)

theorem memoryOk_wgs_append {gs : List Wg} (hgs : ∀ g ∈ gs, Memory.wf g.data = true) (hs : MemoryOk s) :
    MemoryOk { s with wgs := s.wgs ++ gs } := by
  obtain ⟨-, -, -, -, -, hdata⟩ := id hs
  exact memoryOk_wgs hs fun g hg => (List.mem_append.mp hg).elim (hdata g) (hgs g)

theorem State.mapWgs_ok {f : Wg → Wg} (hf : ∀ g, Memory.wf g.data = true → Memory.wf (f g).data = true) (hs : MemoryOk s) :
    MemoryOk (s.mapWgs f) := memoryOk_wgs_map hf hs

theorem State.mapWg_ok {wid} {f : Wg → Wg} (hf : ∀ g, Memory.wf g.data = true → Memory.wf (f g).data = true) (hs : MemoryOk s) :
    MemoryOk (s.mapWg wid f) := by
  refine memoryOk_wgs_map (fun g hg => ?_) hs
  split
  · exact hf g hg
  · exact hg

theorem State.mapWarp_ok {wid k f} (hs : MemoryOk s) : MemoryOk (s.mapWarp wid k f) := State.mapWg_ok (fun _ hg => hg) hs

theorem State.mapLane_ok {wid k l f} (hs : MemoryOk s) : MemoryOk (s.mapLane wid k l f) := State.mapWarp_ok hs

theorem State.scrWrite_ok {wid off bs} (hs : MemoryOk s) : MemoryOk (s.scrWrite wid off bs) :=
  State.mapWg_ok (fun _ hg => Memory.wf_write off bs hg) hs

end Sys2Proof.Machine
end

section
/-!
SUPPORT. Memories in their canonical form, part 2: outputs, records, lanes that stop, and results that are written.
-/
namespace Sys2Proof.Machine

open Safety (MemoryOk)

variable {s : State}

/-! ### Outputs and records -/

theorem State.bumpBy_ok {reg n} (hs : MemoryOk s) : MemoryOk (s.bumpBy reg n) := memoryOk_obs hs

theorem State.bump_ok {reg} (hs : MemoryOk s) : MemoryOk (s.bump reg) := State.bumpBy_ok hs

theorem State.flit_ok {q} (hs : MemoryOk s) : MemoryOk (s.flit q) := State.bump_ok hs

theorem State.emit_ok {o} (hs : MemoryOk s) : MemoryOk (s.emit o) := hs

theorem State.msix_ok {v} (hs : MemoryOk s) : MemoryOk (s.msix v) := memoryOk_ite hs (State.emit_ok hs)

theorem State.poisonGranules_ok {gs} (hs : MemoryOk s) : MemoryOk (s.poisonGranules gs) := hs

/-- A fold over the memories of which no step changes a byte. -/
theorem MemState.foldl_bytes {α : Type} {f : MemState → α → MemState} {l : List α} {m : MemState}
    (hf : ∀ m a, (f m a).hbm = m.hbm ∧ (f m a).host = m.host) : (l.foldl f m).hbm = m.hbm ∧ (l.foldl f m).host = m.host := by
  induction l generalizing m with
  | nil => exact ⟨rfl, rfl⟩
  | cons a l ih => exact ⟨ih.1.trans (hf m a).1, ih.2.trans (hf m a).2⟩

/-- Memories of which only what surrounds the bytes is another. -/
theorem memoryOk_mem {m : MemState} (hhbm : m.hbm = s.mem.hbm) (hhost : m.host = s.mem.host) (hs : MemoryOk s) :
    MemoryOk { s with mem := m } := by
  obtain ⟨hbm, host, hrest⟩ := hs
  exact ⟨hhbm ▸ hbm, hhost ▸ host, hrest⟩

theorem State.fillLines_ok {core dirty lines} (hs : MemoryOk s) : MemoryOk (s.fillLines core dirty lines) := by
  obtain ⟨hhbm, hhost⟩ := MemState.foldl_bytes (l := lines) (m := s.mem)
    (f := fun m line => match core with | some c => (m.fill2 line dirty).fill1 c line | none => m.fill2 line dirty)
    (fun m line => by cases core <;> exact ⟨rfl, rfl⟩)
  exact memoryOk_mem hhbm hhost hs

theorem State.ringRecord_ok {a bs} (hs : MemoryOk s) : MemoryOk (s.ringRecord a bs) := State.fillLines_ok (State.hbmRecord_ok hs)

theorem ringDrain_ok {slot bs r} (hs : MemoryOk s) : MemoryOk (ringDrain slot bs s r).1 := by
  induction bs generalizing s r with
  | nil => exact hs
  | cons b bs ih =>
    unfold ringDrain
    split
    · exact ih (State.msix_ok (State.ringRecord_ok hs))
    · exact hs

theorem ringPost_ok {slot r bs} (hs : MemoryOk s) : MemoryOk (ringPost slot s r bs).1 := ringDrain_ok hs

theorem State.postFault_ok {bs} (hs : MemoryOk s) : MemoryOk (s.postFault bs) := by
  unfold State.postFault
  split
  · exact hs
  · split
    rename_i e
    have hu := memoryOk_of_eq (ringPost_ok hs) e
    exact hu

theorem State.postService_ok {bs} (hs : MemoryOk s) : MemoryOk (s.postService bs) := by
  unfold State.postService
  split
  · exact hs
  · split
    rename_i e
    have hu := memoryOk_of_eq (ringPost_ok hs) e
    exact hu

theorem State.postStoreLog_ok {bs} (hs : MemoryOk s) : MemoryOk (s.postStoreLog bs) := by
  unfold State.postStoreLog
  split
  · exact hs
  · split
    rename_i e
    have hu := memoryOk_of_eq (ringPost_ok hs) e
    exact hu

/-! ### Lookups -/

theorem State.mapCtx_ok {n f} (hs : MemoryOk s) : MemoryOk (s.mapCtx n f) := hs

theorem State.mapOp_ok {id f} (hs : MemoryOk s) : MemoryOk (s.mapOp id f) := hs

theorem State.mapPkt_ok {k f} (hs : MemoryOk s) : MemoryOk (s.mapPkt k f) := hs

theorem State.cacheLeaf_ok {die ctx va leaf} (hs : MemoryOk s) : MemoryOk (s.cacheLeaf die ctx va leaf) := by
  unfold State.cacheLeaf
  extract_lets leaf walked path mem t
  have ht : MemoryOk t := hs
  split
  · exact ht
  · exact memoryOk_mem (by rw [State.bumpBy_mem]) (by rw [State.bumpBy_mem]) (State.bumpBy_ok ht)

theorem State.sawRepair_ok {die who c va n} (hs : MemoryOk s) : MemoryOk (s.sawRepair die who c va n) := by
  unfold State.sawRepair
  refine memoryOk_foldl (fun t a ht => ?_) hs
  split
  · exact memoryOk_ite (State.cacheLeaf_ok ht) ht
  · exact ht

/-! ### Lanes that stop -/

theorem State.parkGroup_ok {wid k lanes pc addr cause kind detail scal} (hs : MemoryOk s) :
    MemoryOk (s.parkGroup wid k lanes pc addr cause kind detail scal) := by
  unfold State.parkGroup
  split
  · extract_lets detail1 p
    split
    · exact hs
    · exact State.postFault_ok (State.mapWarp_ok hs)
  · exact hs

theorem State.parkAll_ok {wid k pc scal fuel xs} (hs : MemoryOk s) : MemoryOk (State.parkAll wid k pc scal fuel xs s) := by
  induction fuel generalizing xs s with
  | zero => exact hs
  | succ fuel ih =>
    cases xs with
    | nil => exact hs
    | cons x xs => exact ih (State.parkGroup_ok hs)

theorem State.stopLanes_ok {wid k pc next scal stops} (hs : MemoryOk s) : MemoryOk (s.stopLanes wid k pc next scal stops) := by
  unfold State.stopLanes
  split
  · exact hs
  · extract_lets traps parks t
    have ht : MemoryOk t := by
      unfold t
      refine memoryOk_foldl (fun t1 a ht => ?_) hs
      split
      · exact State.mapWarp_ok ht
      · exact ht
    exact State.parkAll_ok ht

theorem State.notify_ok {ctx core slot addr sub} (hs : MemoryOk s) : MemoryOk (s.notify ctx core slot addr sub) :=
  State.postFault_ok hs

theorem State.forgetTold_ok (hs : MemoryOk s) : MemoryOk s.forgetTold := hs

theorem State.tell_ok {ctx core slot t} (hs : MemoryOk s) : MemoryOk (s.tell ctx core slot t) :=
  memoryOk_ite hs (State.notify_ok hs)

theorem State.findErrors_ok {ctx core slot ps} (hs : MemoryOk s) : MemoryOk (s.findErrors ctx core slot ps) :=
  memoryOk_foldl (fun _ _ ht => memoryOk_ite (memoryOk_foldl (fun _ _ ht1 => State.notify_ok ht1) ht) ht) hs

theorem State.physUsed_ok {store a n} (hs : MemoryOk s) : MemoryOk (s.physUsed store a n) :=
  State.fillLines_ok (State.bumpBy_ok (memoryOk_foldl (fun _ _ ht => State.notify_ok ht) hs))

theorem withCx_ok {f : Cx → State} (hf : ∀ cx, MemoryOk (f cx)) (hs : MemoryOk s) : NextOk (withCx s f) := by
  unfold withCx
  split
  · exact finish_ok hs
  · exact finish_ok (hf _)

theorem State.stall_ok {cx ws} (hs : MemoryOk s) : MemoryOk (s.stall cx ws) := by
  unfold State.stall
  refine State.mapWarp_ok ?_
  refine memoryOk_foldl (fun t a ht => ?_) hs
  split
  · exact State.sawRepair_ok (State.sawRepair_ok ht)
  · exact ht

theorem State.commit_ok {cx scal long run outs} (hs : MemoryOk s) : MemoryOk (s.commit cx scal long run outs) := by
  unfold State.commit
  split
  · exact State.stall_ok hs
  · exact State.stopLanes_ok (State.mapWarp_ok hs)

theorem State.commitEach_ok {cx scal long run outs} (hs : MemoryOk s) : MemoryOk (s.commitEach cx scal long run outs) :=
  memoryOk_ite (memoryOk_ite hs (State.stall_ok hs)) (State.commit_ok (memoryOk_ite hs (State.stall_ok hs)))

theorem laneOp_ok {i e} (hs : MemoryOk s) : NextOk (laneOp i e s) := withCx_ok (fun _ => State.commit_ok hs) hs

end Sys2Proof.Machine
end

section
/-!
SUPPORT. Memories in their canonical form, part 3: accesses to memory.
-/
namespace Sys2Proof.Machine

open Safety (MemoryOk)

variable {s : State}

/-! ### Stores to peers -/

theorem State.sendLine_ok {e} (hs : MemoryOk s) : MemoryOk (s.sendLine e) := State.emit_ok (State.flit_ok hs)

theorem State.trySend_ok {e} (hs : MemoryOk s) : MemoryOk (s.trySend e) := memoryOk_ite (State.sendLine_ok hs) hs

theorem State.drainWc_ok {p} (hs : MemoryOk s) : MemoryOk (s.drainWc p) := memoryOk_foldl (fun _ _ ht => State.trySend_ok ht) hs

theorem State.shed_ok {core n} (hs : MemoryOk s) : MemoryOk (State.shed core n s) := by
  induction n generalizing s with
  | zero => exact hs
  | succ n ih =>
    unfold State.shed
    split
    · exact hs
    · split
      · exact ih (State.sendLine_ok hs)
      · exact hs

theorem State.sendAtom_ok {a} (hs : MemoryOk s) : MemoryOk (s.sendAtom a) := State.emit_ok (State.flit_ok hs)

theorem State.sendAtoms_ok {xs} (hs : MemoryOk s) : MemoryOk (State.sendAtoms xs s) := by
  induction xs generalizing s with
  | nil => exact hs
  | cons a rest ih =>
    unfold State.sendAtoms
    extract_lets mine
    split
    · exact hs
    · exact ih (memoryOk_ite (State.sendAtom_ok hs) hs)

theorem State.resend_ok (hs : MemoryOk s) : MemoryOk s.resend :=
  State.sendAtoms_ok (memoryOk_foldl (fun _ _ ht => State.shed_ok ht) (State.drainWc_ok hs))

theorem State.wcStore_ok {core ctx peer pa bs} (hs : MemoryOk s) : MemoryOk (s.wcStore core ctx peer pa bs) :=
  State.shed_ok (State.drainWc_ok (memoryOk_ite hs hs))

theorem State.ask_ok {cx l scal detail peer p a} (hs : MemoryOk s) : MemoryOk (s.ask cx l scal detail peer p a) := by
  unfold State.ask
  extract_lets tag r src t e
  have ht : MemoryOk t := State.flit_ok hs
  split
  · exact State.emit_ok ht
  · exact State.emit_ok ht

theorem State.forget_ok {wid k lanes} (hs : MemoryOk s) : MemoryOk (s.forget wid k lanes) := hs

theorem State.meet_ok {cx l scal detail what n} (hs : MemoryOk s) : MemoryOk (s.meet cx l scal detail what n) := by
  unfold State.meet
  split
  · exact memoryOk_ite (State.ask_ok hs) hs
  · exact State.drainWc_ok hs
  · exact hs

/-! ### Parts of an access -/

theorem State.cacheParts_ok {die ctx l1 store ps} (hs : MemoryOk s) : MemoryOk (s.cacheParts die ctx l1 store ps) :=
  memoryOk_foldl (fun _ _ ht => memoryOk_ite (State.fillLines_ok (State.cacheLeaf_ok ht)) (State.cacheLeaf_ok ht)) hs

theorem State.countParts_ok {store ps} (hs : MemoryOk s) : MemoryOk (s.countParts store ps) := State.bumpBy_ok hs

theorem State.useParts_ok {die ctx core slot l1 store ps} (hs : MemoryOk s) :
    MemoryOk (s.useParts die ctx core slot l1 store ps) :=
  State.findErrors_ok (State.countParts_ok (State.cacheParts_ok hs))

theorem State.touch_ok {cx store ps} (hs : MemoryOk s) : MemoryOk (s.touch cx store ps) := State.useParts_ok hs

theorem State.partWrite_ok {cx l alone p bs} (hs : MemoryOk s) : MemoryOk (s.partWrite cx l alone p bs) := by
  unfold State.partWrite
  split
  · exact hs
  · split
    · exact State.hbmWrite_ok hs
    · exact State.hostWrite_ok hs
    · exact memoryOk_ite hs (memoryOk_ite (State.wcStore_ok hs) (State.wcStore_ok (State.wcStore_ok hs)))

theorem State.partsWrite_ok {cx l alone ps bs} (hs : MemoryOk s) : MemoryOk (s.partsWrite cx l alone ps bs) := by
  induction ps generalizing s bs with
  | nil => exact hs
  | cons p ps ih => exact ih (State.partWrite_ok hs)

theorem State.locWrite_ok {cx l alone loc bs} (hs : MemoryOk s) : MemoryOk (s.locWrite cx l alone loc bs) := by
  unfold State.locWrite
  split
  · exact State.touch_ok (State.partsWrite_ok hs)
  · exact State.scrWrite_ok hs
  · exact hs

theorem State.locTouch_ok {cx loc} (hs : MemoryOk s) : MemoryOk (s.locTouch cx loc) := by
  unfold State.locTouch
  split
  · exact State.touch_ok hs
  · exact hs

theorem State.early_ok {cx l p a} (hs : MemoryOk s) : MemoryOk (s.early cx l p a) := by
  unfold State.early
  extract_lets bs done r src src1
  have hdone : MemoryOk done.1 := by
    unfold done
    split
    · exact State.partWrite_ok hs
    · exact hs
  have hsrc : MemoryOk src := hdone
  exact hsrc

theorem MemOp.send_ok {m : MemOp} {cx scal l loc ps} (hs : MemoryOk s) : MemoryOk (m.send cx scal l loc ps s) := by
  induction ps generalizing s with
  | nil => exact hs
  | cons p rest ih =>
    unfold MemOp.send
    extract_lets need asks
    split
    · exact ih (memoryOk_ite (State.early_ok hs) hs)
    · exact memoryOk_ite (State.meet_ok hs) (ih (State.meet_ok hs))

theorem MemOp.prepare_ok {m cx scal l loc} (hs : MemoryOk s) : MemoryOk (MemOp.prepare m s cx scal l loc) := by
  unfold MemOp.prepare
  split
  · exact hs
  · exact hs
  · exact hs
  · split
    · exact State.drainWc_ok hs
    · split
      · exact MemOp.send_ok hs
      · exact hs

/-- A memory instruction whose access of a lane keeps the memories canonical. -/
def MemOp.Ok (m : MemOp) : Prop := ∀ s l a loc, MemoryOk s → MemoryOk (m.perform s l a loc).1

theorem MemOp.performAll_ok {m : MemOp} {plan} (hm : m.Ok) (hs : MemoryOk s) : MemoryOk (m.performAll plan s).1 := by
  induction plan generalizing s with
  | nil => exact hs
  | cons p ps ih =>
    obtain ⟨l, o | ⟨a, loc⟩⟩ := p
    · exact ih hs
    · exact ih (hm s l a loc hs)

theorem MemOp.run_ok {m : MemOp} {cx su long run plan} (hm : m.Ok) (hs : MemoryOk s) :
    MemoryOk (m.run s cx su long run plan) := by
  unfold MemOp.run
  split
  · exact hs
  · extract_lets t plan decided r outs
    have ht : MemoryOk t := by
      refine memoryOk_foldl (fun u p hu => ?_) hs
      split
      · exact MemOp.prepare_ok hu
      · exact hu
    have hr : MemoryOk r.1 := MemOp.performAll_ok hm ht
    split
    · exact State.commit_ok ht
    · split
      · exact State.commitEach_ok (State.forget_ok hr)
      · exact State.commit_ok (State.forget_ok hr)

/-! ### Loads, stores, hints and tags -/

theorem Wg.consume_wf {g : Wg} {t} (hg : Memory.wf g.data = true) : Memory.wf (g.consume t).data = true := by
  unfold Wg.consume
  split
  · exact hg
  · exact hg

theorem execLd_ok {w} (hs : MemoryOk s) : NextOk (execLd w s) :=
  withCx_ok (fun _ => MemOp.run_ok (fun _ _ _ _ ht => State.locTouch_ok ht) hs) hs

theorem execSt_ok {w} (hs : MemoryOk s) : NextOk (execSt w s) :=
  withCx_ok (fun _ => MemOp.run_ok (fun _ _ _ _ ht => State.locWrite_ok ht) hs) hs

theorem execLdc_ok {w} (hs : MemoryOk s) : NextOk (execLdc w s) := by
  unfold execLdc
  extract_lets su n
  refine withCx_ok (fun cx => ?_) hs
  extract_lets plan s1
  have hs1 : MemoryOk s1 := MemOp.run_ok (fun _ _ _ _ ht => ht) hs
  exact memoryOk_ite hs1 (memoryOk_foldl (fun _ _ ht => State.mapWg_ok (fun _ hg => Wg.consume_wf hg) ht) hs1)

theorem hintOp_ok {i w f} (hf : ∀ core line m, (f core line m).hbm = m.hbm ∧ (f core line m).host = m.host) (hs : MemoryOk s) :
    NextOk (hintOp i w f s) := by
  refine withCx_ok (fun cx => State.commit_ok (memoryOk_foldl (fun t o ht => ?_) hs)) hs
  split
  · split
    · exact memoryOk_mem (hf _ _ _).1 (hf _ _ _).2 ht
    · exact ht
  · exact ht

theorem execPref_ok {w} (hs : MemoryOk s) : NextOk (execPref w s) :=
  hintOp_ok (fun _ _ _ => by split <;> exact ⟨rfl, rfl⟩) hs

theorem execCctlInv1_ok {w} (hs : MemoryOk s) : NextOk (execCctlInv1 w s) := hintOp_ok (fun _ _ _ => ⟨rfl, rfl⟩) hs

theorem execCctlInv1all_ok {w} (hs : MemoryOk s) : NextOk (execCctlInv1all w s) := hintOp_ok (fun _ _ _ => ⟨rfl, rfl⟩) hs

theorem execCctlClean2_ok {w} (hs : MemoryOk s) : NextOk (execCctlClean2 w s) := hintOp_ok (fun _ _ _ => ⟨rfl, rfl⟩) hs

theorem execCctlFlush2_ok {w} (hs : MemoryOk s) : NextOk (execCctlFlush2 w s) := hintOp_ok (fun _ _ _ => ⟨rfl, rfl⟩) hs

theorem tagOp_ok {w cx holds perform} (hp : ∀ t l loc, MemoryOk t → MemoryOk (perform t l loc).1) (hs : MemoryOk s) :
    MemoryOk (tagOp w s cx holds perform) := MemOp.run_ok (fun t l _ loc ht => hp t l loc ht) hs

theorem execTwait_ok {w} (hs : MemoryOk s) : NextOk (execTwait w s) := withCx_ok (fun _ => tagOp_ok (fun _ _ _ ht => ht) hs) hs

theorem execTset_ok {w} (hs : MemoryOk s) : NextOk (execTset w s) := by
  unfold execTset
  refine withCx_ok (fun cx => ?_) hs
  extract_lets n
  refine tagOp_ok (fun t l loc ht => ?_) hs
  split
  · exact State.mapWg_ok (fun _ hg => hg) ht
  · exact ht

theorem execTclr_ok {w} (hs : MemoryOk s) : NextOk (execTclr w s) := by
  unfold execTclr
  refine withCx_ok (fun cx => ?_) hs
  refine tagOp_ok (fun t l loc ht => ?_) hs
  split
  · extract_lets t1
    have ht1 : MemoryOk t1 := memoryOk_ite (State.scrWrite_ok ht) ht
    exact State.mapWg_ok (fun _ hg => hg) ht1
  · exact ht

theorem execTtest_ok {w} (hs : MemoryOk s) : NextOk (execTtest w s) := by
  unfold execTtest
  refine withCx_ok (fun cx => ?_) hs
  refine tagOp_ok (fun t l loc ht => ?_) hs
  split
  · exact ht
  · exact ht

theorem State.rmw_ok {cx l loc n f} (hs : MemoryOk s) : MemoryOk (s.rmw cx l loc n f).1 := by
  unfold State.rmw
  extract_lets bad m old
  split
  · exact State.locTouch_ok hs
  · split
    · exact State.locTouch_ok hs
    · exact State.locWrite_ok (State.locTouch_ok hs)

theorem execAtom_ok {w} (hs : MemoryOk s) : NextOk (execAtom w s) := by
  unfold execAtom
  extract_lets su nr opc
  refine withCx_ok (fun cx => ?_) hs
  extract_lets d
  refine MemOp.run_ok ?_ hs
  intro s1 l a loc ht
  dsimp -zeta only
  extract_lets r
  have hr : MemoryOk r.1 := State.rmw_ok ht
  exact hr

theorem execCas_ok {w} (hs : MemoryOk s) : NextOk (execCas w s) := by
  unfold execCas
  refine withCx_ok (fun cx => ?_) hs
  extract_lets step exp new
  refine MemOp.run_ok ?_ hs
  intro s1 l a loc ht
  dsimp -zeta only
  extract_lets r
  have hr : MemoryOk r.1 := State.rmw_ok ht
  exact hr

theorem execFence_ok {w} (hs : MemoryOk s) : NextOk (execFence w s) := by
  unfold execFence
  refine withCx_ok (fun cx => ?_) hs
  extract_lets wide t waits
  have ht : MemoryOk t := memoryOk_ite (State.drainWc_ok hs) hs
  have hwaits : ∀ (detail : ℕ), MemoryOk (waits detail) := fun _ => State.commit_ok ht
  exact memoryOk_ite (hwaits _) (memoryOk_ite (hwaits _) (State.commit_ok ht))

theorem State.accMap_ok {wid row col rows cols f} (hs : MemoryOk s) : MemoryOk (s.accMap wid row col rows cols f) :=
  State.mapWg_ok (fun _ hg => hg) hs

theorem State.drainMloop_ok {o d} (hs : MemoryOk s) : MemoryOk (s.drainMloop o d) :=
  memoryOk_foldl (fun _ _ ht => State.accMap_ok ht) (memoryOk_ite hs (State.accMap_ok hs))

end Sys2Proof.Machine
end

section
/-!
SUPPORT. Memories in their canonical form, part 4: agents of the device, events, signals and the flows.
-/
namespace Sys2Proof.Machine

open Safety (MemoryOk)

variable {s : State}

/-! ### Accesses of the scheduler, the sequencer and the engines (R393) -/

theorem State.agentUsed_ok {who ctx va n core slot} (hs : MemoryOk s) : MemoryOk (s.agentUsed who ctx va n core slot) := by
  unfold State.agentUsed
  split
  · exact State.useParts_ok hs
  · exact hs

theorem State.agentAsk_ok {who ctx p} (hs : MemoryOk s) : MemoryOk (s.agentAsk who ctx p) := by
  unfold State.agentAsk
  split
  · exact hs
  · exact memoryOk_ite hs (State.emit_ok (State.flit_ok hs))

theorem State.agentWait_ok {who ctx va n} (hs : MemoryOk s) : MemoryOk (s.agentWait who ctx va n) := by
  unfold State.agentWait
  split
  · exact memoryOk_foldl (fun _ _ ht => State.agentAsk_ok ht) hs
  · exact State.sawRepair_ok hs
  · exact hs

theorem State.agentGet_ok {who ctx va n core slot} (hs : MemoryOk s) : MemoryOk (s.agentGet who ctx va n core slot).1 := by
  unfold State.agentGet
  split
  · exact State.agentUsed_ok hs
  · exact State.agentWait_ok hs
  · exact hs

theorem State.agentGets_ok {who ctx reads} (hs : MemoryOk s) : MemoryOk (s.agentGets who ctx reads).1 := by
  unfold State.agentGets
  split
  · exact memoryOk_foldl (fun _ _ ht => State.agentWait_ok ht) hs
  · exact memoryOk_foldl (fun _ _ ht => State.agentUsed_ok ht) hs

theorem State.lineOut_ok {ctx q pa bs} (hs : MemoryOk s) : MemoryOk (s.lineOut ctx q pa bs) :=
  State.drainWc_ok (State.wcStore_ok hs)

theorem State.partsRecord_ok {ctx ps bs} (hs : MemoryOk s) : MemoryOk (s.partsRecord ctx ps bs) := by
  induction ps generalizing s ctx bs with
  | nil => exact hs
  | cons x xs ih =>
    unfold State.partsRecord
    extract_lets mine n t
    have ht : MemoryOk t := by
      unfold t
      split
      · exact State.hbmRecord_ok hs
      · exact State.hostWrite_ok hs
      · exact memoryOk_ite (State.lineOut_ok hs) (State.lineOut_ok (State.lineOut_ok hs))
    exact ih ht

theorem State.agentWrite_ok {ctx va bs core slot} (hs : MemoryOk s) : MemoryOk (s.agentWrite ctx va bs core slot).1 := by
  unfold State.agentWrite
  split
  · exact State.findErrors_ok (State.cacheParts_ok (State.partsRecord_ok hs))
  · exact hs
  · exact hs
  · exact hs

/-! ### Events (R239, R240, R280) -/

theorem State.wakePkt_ok {k} (hs : MemoryOk s) : MemoryOk (s.wakePkt k) := hs

theorem State.rouseReg_ok {r} (hs : MemoryOk s) : MemoryOk (s.rouseReg r) := by
  unfold State.rouseReg
  split
  · exact State.mapWarp_ok hs
  · exact hs

theorem State.evAdd_ok {ctx e n} (hs : MemoryOk s) : MemoryOk (s.evAdd ctx e n) := by
  unfold State.evAdd
  split
  · exact hs
  · split
    · exact hs
    · extract_lets v woken t t1
      have ht : MemoryOk t := State.mapCtx_ok hs
      have ht1 : MemoryOk t1 := memoryOk_foldl (fun _ _ ht1 => State.rouseReg_ok ht1) ht
      refine memoryOk_foldl (fun t2 a ht2 => ?_) ht1
      split
      · exact State.wakePkt_ok ht2
      · exact ht2

theorem State.evRegister_ok {ctx e t w} (hs : MemoryOk s) : MemoryOk (s.evRegister ctx e t w) := by
  unfold State.evRegister
  split
  · exact hs
  · extract_lets add
    have hadd : ∀ {t : State}, MemoryOk t → ∀ (i : Option ℕ), MemoryOk (add t i) := by
      unfold add
      intro t1 ht i
      exact State.mapCtx_ok ht
    split
    · exact hs
    · split
      · exact hadd hs _
      · split
        · exact hs
        · split
          · rename_i e1
            have hu := memoryOk_of_eq (State.agentWrite_ok hs) e1
            exact hadd hu _
          · exact hs

theorem State.dropRegs_ok {ctx wid k} (hs : MemoryOk s) : MemoryOk (s.dropRegs ctx wid k) := State.mapCtx_ok hs

/-! ### Signals (R241, R271, R278, R279) -/

theorem State.wakeSignal_ok {key} (hs : MemoryOk s) : MemoryOk (s.wakeSignal key) :=
  memoryOk_foldl (fun _ _ ht => State.wakePkt_ok ht) (State.mapWgs_ok (fun _ hg => hg) hs)

theorem State.sigUpdate_ok {ctx va opc d} (hs : MemoryOk s) : MemoryOk (s.sigUpdate ctx va opc d).1 := by
  unfold State.sigUpdate
  split
  · split
    · split
      · extract_lets a src
        exact State.resend_ok hs
      · extract_lets used new
        have hused : MemoryOk used := State.useParts_ok hs
        split
        · exact hs
        · split
          · exact hused
          · exact State.wakeSignal_ok (State.cacheParts_ok (State.partsRecord_ok hused))
    · exact hs
  · exact hs
  · exact hs
  · exact hs

/-! ### How an operation ends (R236, R365 to R368) -/

theorem State.spoil_ok {id} (hs : MemoryOk s) : MemoryOk (s.spoil id) := memoryOk_wgs_map (fun _ hg => hg) hs

theorem State.settle_ok {id r c a} (hs : MemoryOk s) : MemoryOk (s.settle id r c a) := State.mapOp_ok hs

theorem State.endRemote_ok {id} (hs : MemoryOk s) : MemoryOk (s.endRemote id) := by
  unfold State.endRemote
  split
  · exact hs
  · split
    · exact memoryOk_ite (State.settle_ok (State.mapOp_ok hs)) hs
    · exact hs

theorem State.cancelOp_ok {id} (hs : MemoryOk s) : MemoryOk (s.cancelOp id) := by
  unfold State.cancelOp
  split
  · exact hs
  · split
    · exact hs
    · split
      · exact State.endRemote_ok (State.mapOp_ok hs)
      · exact hs
      · exact State.settle_ok (State.drainMloop_ok hs)
      · exact State.settle_ok (State.spoil_ok hs)

theorem State.takeAnswers_ok (hs : MemoryOk s) : MemoryOk s.takeAnswers :=
  memoryOk_foldl (fun _ _ ht => State.endRemote_ok (State.mapOp_ok (memoryOk_ite (State.bumpBy_ok ht) ht))) hs

theorem State.endDrain_ok {id} (hs : MemoryOk s) : MemoryOk (s.endDrain id) := by
  unfold State.endDrain
  split
  · exact hs
  · split
    · extract_lets left marker src
      split
      · exact hs
      · split
        · exact State.settle_ok hs
        · split
          · exact hs
          · exact State.settle_ok hs
    · exact hs

/-! ### Ownership (R238) -/

theorem State.handOver_ok {o take h} (hs : MemoryOk s) : MemoryOk (s.handOver o take h) := by
  unfold State.handOver
  split
  · extract_lets t t1
    have ht : MemoryOk t := by
      unfold t
      refine State.mapWg_ok (fun g hg => ?_) hs
      split
      · exact hg
      · exact hg
    have ht1 : MemoryOk t1 := by
      unfold t1
      refine State.mapWg_ok (fun g hg => ?_) ht
      split
      · exact hg
      · exact hg
    exact State.settle_ok (State.settle_ok ht1)
  · exact hs

theorem State.settlePasses_ok {fuel} (hs : MemoryOk s) : MemoryOk (s.settlePasses fuel) := by
  induction fuel generalizing s with
  | zero => exact hs
  | succ fuel ih =>
    unfold State.settlePasses
    split
    · exact hs
    · exact ih (State.handOver_ok hs)

/-! ### Handles (R48, R234, R237) -/

theorem State.dropOps_ok (hs : MemoryOk s) : MemoryOk s.dropOps := hs

/-! ### Launches and flows -/

theorem State.mapLaunch_ok {k f} (hs : MemoryOk s) : MemoryOk (s.mapLaunch k f) := State.mapPkt_ok hs

theorem State.mapFlow_ok {ctx label f} (hs : MemoryOk s) : MemoryOk (s.mapFlow ctx label f) := by
  unfold State.mapFlow
  split
  · exact hs
  · exact hs

theorem State.joinFlow_ok {ctx label cls dispatch} (hs : MemoryOk s) : MemoryOk (s.joinFlow ctx label cls dispatch).1 := by
  unfold State.joinFlow
  extract_lets seq
  exact State.mapFlow_ok hs

/-! ### Delivery (R34, R275, R300) -/

theorem State.deliver_ok {k bs} (hs : MemoryOk s) : MemoryOk (s.deliver k bs) := by
  unfold State.deliver
  split
  · exact hs
  · split
    · exact hs
    · exact State.agentWrite_ok (State.agentWrite_ok hs)

theorem State.drainFlow_ok {ctx label fuel} (hs : MemoryOk s) : MemoryOk (s.drainFlow ctx label fuel) := by
  induction fuel generalizing ctx label s with
  | zero => exact hs
  | succ fuel ih =>
    unfold State.drainFlow
    split
    · exact hs
    · split
      · exact hs
      · split
        · exact State.sawRepair_ok hs
        · extract_lets t t1
          have ht : MemoryOk t := State.mapFlow_ok hs
          have ht1 : MemoryOk t1 := by
            unfold t1
            split
            · exact ht
            · exact State.deliver_ok ht
          exact ih ht1

theorem State.drain_ok {ctx label} (hs : MemoryOk s) : MemoryOk (s.drain ctx label) := by
  unfold State.drain
  split
  · exact hs
  · exact State.drainFlow_ok hs

theorem State.drainAll_ok {ctx} (hs : MemoryOk s) : MemoryOk (s.drainAll ctx) :=
  memoryOk_foldl (fun _ _ ht => State.drain_ok ht) hs

theorem State.release_ok {ctx label seq dispatch r} (hs : MemoryOk s) : MemoryOk (s.release ctx label seq dispatch r) :=
  State.drain_ok (State.mapFlow_ok hs)

end Sys2Proof.Machine
end

section
/-!
SUPPORT. Memories in their canonical form, part 5: items, frames, joins, barriers, engine operations and arrivals.
-/
namespace Sys2Proof.Machine

open Safety (MemoryOk)

variable {s : State}

/-! ### Packing (R30) -/

theorem State.startFlowWarp_ok {k} (hs : MemoryOk s) : MemoryOk (s.startFlowWarp k) := by
  unfold State.startFlowWarp
  split
  · exact hs
  · split
    · exact hs
    · extract_lets items low g
      have hg : ∀ h ∈ [g], Memory.wf h.data = true := by
        intro h hh
        rw [List.mem_singleton.mp hh]
        rfl
      exact State.mapLaunch_ok (memoryOk_wgs_append hg hs)

theorem State.packItem_ok {k it} (hs : MemoryOk s) : MemoryOk (s.packItem k it) := by
  unfold State.packItem
  split
  · exact hs
  · exact memoryOk_ite (State.startFlowWarp_ok (State.mapLaunch_ok hs)) (State.mapLaunch_ok hs)

/-! ### Exclusion (R32, R35) -/

theorem State.passExcl_ok {ctx label} (hs : MemoryOk s) : MemoryOk (s.passExcl ctx label) := by
  unfold State.passExcl
  split
  · exact hs
  · split
    · exact hs
    · split
      · exact hs
      · extract_lets mine took waits
        have htook : MemoryOk took := State.mapFlow_ok hs
        split
        · split
          · exact State.packItem_ok (State.mapLaunch_ok htook)
          · exact hs
        · exact memoryOk_ite (memoryOk_wgs_map (fun _ hg => hg) htook) hs

theorem State.giveExcl_ok {ctx label seq dispatch} (hs : MemoryOk s) : MemoryOk (s.giveExcl ctx label seq dispatch) :=
  State.passExcl_ok (State.mapFlow_ok hs)

theorem State.enrol_ok {k it} (hs : MemoryOk s) : MemoryOk (s.enrol k it) := by
  unfold State.enrol
  split
  · split
    · exact hs
    · exact memoryOk_ite (State.packItem_ok (State.mapFlow_ok hs)) (State.mapLaunch_ok hs)
  · exact State.packItem_ok hs

/-! ### What an item leaves when it exits (R33, R183) -/

theorem State.endItem_ok {g x} (hs : MemoryOk s) : MemoryOk (s.endItem g x) := by
  unfold State.endItem
  split
  · exact hs
  · have hrelease {c : Prop} [Decidable c] {t : State} (ht : MemoryOk t) : MemoryOk (if c then t else s) := memoryOk_ite ht hs
    exact memoryOk_ite hs (memoryOk_ite (State.giveExcl_ok (hrelease (State.release_ok hs))) (hrelease (State.release_ok hs)))

/-! ### The slot that a lane has of its own (R50, R176, R180) -/

theorem State.pushFrame_ok {cx l x f} (hs : MemoryOk s) : MemoryOk (s.pushFrame cx l x f) :=
  memoryOk_ite (State.mapLane_ok hs) (State.mapLane_ok (State.agentWrite_ok hs))

theorem State.refill_ok {ctx g w l x} (hs : MemoryOk s) : MemoryOk (s.refill ctx g w l x).1 := by
  unfold State.refill
  split
  · exact hs
  · split
    · rename_i e
      have hu := memoryOk_of_eq (State.agentGet_ok hs) e
      exact hu
    · rename_i e
      have hu := memoryOk_of_eq (State.agentGet_ok hs) e
      exact hu

theorem State.popFrame_ok {ctx g w l x} (hs : MemoryOk s) : MemoryOk (s.popFrame ctx g w l x).1 := State.refill_ok hs

/-! ### Levels (R180) -/

theorem State.closeLevel_ok {ctx g w l x} (hs : MemoryOk s) : MemoryOk (s.closeLevel ctx g w l x).1 := by
  unfold State.closeLevel
  extract_lets k teams
  split
  · exact hs
  · split
    · rename_i e
      have hu := memoryOk_of_eq (State.agentGet_ok hs) e
      exact hu
    · rename_i e
      have hu := memoryOk_of_eq (State.agentGet_ok hs) e
      exact hu

/-! ### Joins (R182, R337) -/

theorem State.leaveJoin_ok {wid k l} (hs : MemoryOk s) : MemoryOk (s.leaveJoin wid k l) := by
  unfold State.leaveJoin
  split
  · split
    · exact hs
    · split
      · rename_i e
        have hu := memoryOk_of_eq (State.closeLevel_ok hs) e
        exact State.stopLanes_ok hu
      · rename_i e
        have hu := memoryOk_of_eq (State.closeLevel_ok hs) e
        exact State.mapLane_ok (State.popFrame_ok hu)
  · exact hs

theorem State.awaitMasks_ok {wid k} (hs : MemoryOk s) : MemoryOk (s.awaitMasks wid k) := by
  unfold State.awaitMasks
  split
  · exact hs
  · refine memoryOk_foldl (fun t a ht => ?_) hs
    split
    · exact State.agentWait_ok ht
    · exact ht

theorem State.settleJoins_ok {wid k fuel} (hs : MemoryOk s) : MemoryOk (s.settleJoins wid k fuel) := by
  induction fuel generalizing wid k s with
  | zero => exact hs
  | succ fuel ih =>
    unfold State.settleJoins
    split
    · exact hs
    · split
      · exact State.awaitMasks_ok hs
      · exact ih (memoryOk_foldl (fun _ _ ht => State.leaveJoin_ok ht) (State.mapWarp_ok hs))

theorem State.retryJoins_ok {wid} (hs : MemoryOk s) : MemoryOk (s.retryJoins wid) := by
  unfold State.retryJoins
  split
  · exact hs
  · exact memoryOk_ite (memoryOk_foldl (fun _ _ ht => State.settleJoins_ok ht) hs) hs

theorem State.retryAllJoins_ok (hs : MemoryOk s) : MemoryOk s.retryAllJoins :=
  memoryOk_foldl (fun _ _ ht => State.retryJoins_ok ht) hs

/-! ### Exit (R183) -/

theorem Wg.settleBarrier_wf {g : Wg} (hg : Memory.wf g.data = true) : Memory.wf g.settleBarrier.data = true := by
  unfold Wg.settleBarrier
  extract_lets live
  split
  · exact hg
  · exact hg

theorem State.exitLanes_ok {wid k lanes} (hs : MemoryOk s) : MemoryOk (s.exitLanes wid k lanes) := by
  unfold State.exitLanes
  extract_lets t
  have ht : MemoryOk t := by
    unfold t
    refine memoryOk_foldl (fun t1 a ht => ?_) hs
    split
    · exact memoryOk_ite (State.dropRegs_ok (State.mapWarp_ok (State.endItem_ok ht))) ht
    · exact ht
  exact State.mapWg_ok (fun _ hg => Wg.settleBarrier_wf hg) (State.settleJoins_ok ht)

/-! ### Retirement (R25, R26, R56, R183) -/

theorem State.answerBeat_ok {b a} (hs : MemoryOk s) : MemoryOk (s.answerBeat b a) :=
  memoryOk_ite hs (State.emit_ok (State.flit_ok hs))

theorem State.promote_ok (hs : MemoryOk s) : MemoryOk s.promote := hs

theorem State.dropBeats_ok {p a} (hs : MemoryOk s) : MemoryOk (s.dropBeats p a) :=
  State.promote_ok (memoryOk_foldl (fun _ _ ht => State.answerBeat_ok ht) hs)

theorem State.tidy_ok (hs : MemoryOk s) : MemoryOk s.tidy := by
  unfold State.tidy
  extract_lets t t1 done t2 gone
  have ht : MemoryOk t := memoryOk_foldl (fun _ _ ht => State.endDrain_ok ht) (State.takeAnswers_ok hs)
  have ht1 : MemoryOk t1 := State.settlePasses_ok ht
  have ht2 : MemoryOk t2 := by
    unfold t2
    split
    · exact ht1
    · refine State.mapWgs_ok (fun g hg => ?_) (State.dropBeats_ok ht1)
      split
      · exact hg
      · exact hg
  exact memoryOk_ite (State.dropOps_ok ht2) (State.dropOps_ok (State.takeAnswers_ok (memoryOk_wgs_filter ht2)))

theorem State.killLanes_ok {wid k lanes} (hs : MemoryOk s) : MemoryOk (s.killLanes wid k lanes) := State.exitLanes_ok hs

/-! ### The frame of an engine word (R201, R48) -/

theorem State.stopAll_ok {cx f} (hs : MemoryOk s) : MemoryOk (s.stopAll cx f) := State.commit_ok hs

theorem State.waitAll_ok {cx on} (hs : MemoryOk s) : MemoryOk (s.waitAll cx on) := State.stall_ok hs

theorem State.passAll_ok {cx} (hs : MemoryOk s) : MemoryOk (s.passAll cx) := State.commit_ok hs

theorem State.bind_ok {wid k h id} (hs : MemoryOk s) : MemoryOk (s.bind wid k h id) := State.mapWarp_ok hs

theorem State.issueOp_ok {cx h kind event} (hs : MemoryOk s) : MemoryOk (s.issueOp cx h kind event) := by
  unfold State.issueOp
  extract_lets id rnum o t t1
  have ht : MemoryOk t := hs
  have ht1 : MemoryOk t1 := memoryOk_ite (State.mapCtx_ok ht) ht
  split
  · exact ht1
  · exact State.bind_ok ht1

theorem State.engine_ok {cx h plan} (hs : MemoryOk s) : MemoryOk (s.engine cx h plan) := by
  unfold State.engine
  extract_lets busy
  split
  · exact State.waitAll_ok hs
  · split
    · exact State.stopAll_ok hs
    · exact State.waitAll_ok hs
    · exact hs
    · exact memoryOk_ite (State.waitAll_ok hs) (memoryOk_ite (State.waitAll_ok hs) (State.passAll_ok (State.issueOp_ok hs)))

/-! ### COPY (R217 to R221) -/

theorem execCopyLocal_ok {w} (hs : MemoryOk s) : NextOk (execCopyLocal w s) := withCx_ok (fun _ => State.engine_ok hs) hs

theorem execCopyRemote_ok {w} (hs : MemoryOk s) : NextOk (execCopyRemote w s) := withCx_ok (fun _ => State.engine_ok hs) hs

theorem execCopyMulticast_ok {w} (hs : MemoryOk s) : NextOk (execCopyMulticast w s) := withCx_ok (fun _ => State.engine_ok hs) hs

theorem execCopyDrain_ok {w} (hs : MemoryOk s) : NextOk (execCopyDrain w s) := withCx_ok (fun _ => State.engine_ok hs) hs

/-! ### TCOPY, WNST, RINGWAIT (R222 to R225) -/

theorem execTcopy_ok {w} (hs : MemoryOk s) : NextOk (execTcopy w s) := withCx_ok (fun _ => State.engine_ok hs) hs

theorem execWnst_ok {w} (hs : MemoryOk s) : NextOk (execWnst w s) := withCx_ok (fun _ => State.engine_ok hs) hs

theorem execRingwait_ok {w} (hs : MemoryOk s) : NextOk (execRingwait w s) := by
  unfold execRingwait
  refine withCx_ok (fun cx => ?_) hs
  extract_lets a ph
  split
  · exact State.stopAll_ok hs
  · split
    · exact State.stopAll_ok hs
    · split
      · exact State.stopAll_ok hs
      · refine MemOp.run_ok ?_ hs
        intro s1 l a1 loc ht
        dsimp -zeta only
        extract_lets v
        exact State.locTouch_ok ht

/-! ### Matrix commands (R226 to R231, R233) -/

theorem execMloop_ok {w} (hs : MemoryOk s) : NextOk (execMloop w s) := withCx_ok (fun _ => State.engine_ok hs) hs

theorem chainOp_ok {opens} (hs : MemoryOk s) : NextOk (chainOp opens s) := by
  unfold chainOp
  refine withCx_ok (fun cx => ?_) hs
  split
  · exact State.stopAll_ok hs
  · exact memoryOk_ite (State.waitAll_ok hs) (State.passAll_ok (State.mapWarp_ok (State.issueOp_ok hs)))

theorem execMchainB_ok {w} (hs : MemoryOk s) : NextOk (execMchainB w s) := chainOp_ok hs

theorem execMchainE_ok {w} (hs : MemoryOk s) : NextOk (execMchainE w s) := chainOp_ok hs

theorem execMzero_ok {w} (hs : MemoryOk s) : NextOk (execMzero w s) := withCx_ok (fun _ => State.engine_ok hs) hs

theorem accCopy_ok {w store} (hs : MemoryOk s) : NextOk (accCopy w s store) := withCx_ok (fun _ => State.engine_ok hs) hs

theorem execAcst_ok {w} (hs : MemoryOk s) : NextOk (execAcst w s) := accCopy_ok hs

theorem execAcld_ok {w} (hs : MemoryOk s) : NextOk (execAcld w s) := accCopy_ok hs

/-! ### Lanes and the accumulator (R232) -/

theorem accLanes_ok {w acc f} (hf : ∀ (a : Cx) (a_1 a_2 a_3 : ℕ), MemoryOk (f a a_1 a_2 a_3)) (hs : MemoryOk s) :
    NextOk (accLanes w s acc f) := by
  unfold accLanes
  refine withCx_ok (fun cx => ?_) hs
  extract_lets a b c row col n width
  split
  · exact State.stopAll_ok hs
  · split
    · exact State.stopAll_ok hs
    · exact memoryOk_ite (State.stopAll_ok hs) (memoryOk_ite (State.stopAll_ok hs) (memoryOk_ite (State.waitAll_ok hs) (hf _ _ _ _)))

theorem execAcrd_ok {w} (hs : MemoryOk s) : NextOk (execAcrd w s) := accLanes_ok (fun _ _ _ _ => State.commit_ok hs) hs

theorem execAcwr_ok {w} (hs : MemoryOk s) : NextOk (execAcwr w s) := by
  unfold execAcwr
  refine accLanes_ok (fun a a_1 a_2 a_3 => ?_) hs
  extract_lets vals outs t
  have ht : MemoryOk t := by
    unfold t
    refine memoryOk_foldl (fun t1 a1 ht => ?_) hs
    split
    · exact State.accMap_ok ht
    · exact ht
  exact State.commit_ok ht

/-! ### Handles (R234 to R237) -/

theorem withHandle_ok {w f} (hf : ∀ (a : Cx) (a_1 : HandleSt), MemoryOk (f a a_1)) (hs : MemoryOk s) :
    NextOk (withHandle w s f) := by
  unfold withHandle
  refine withCx_ok (fun cx => ?_) hs
  split
  · exact State.stopAll_ok hs
  · exact hf _ _

theorem execWait_ok {w} (hs : MemoryOk s) : NextOk (execWait w s) := by
  unfold execWait
  refine withHandle_ok (fun a a_1 => ?_) hs
  split
  · exact memoryOk_ite (State.commit_ok hs) (State.passAll_ok hs)
  · exact State.waitAll_ok hs

theorem execHtest_ok {w} (hs : MemoryOk s) : NextOk (execHtest w s) := withHandle_ok (fun _ _ => State.commit_ok hs) hs

theorem execHcancel_ok {w} (hs : MemoryOk s) : NextOk (execHcancel w s) := by
  unfold execHcancel
  refine withHandle_ok (fun a a_1 => ?_) hs
  extract_lets t
  have ht : MemoryOk t := by
    unfold t
    split
    · exact State.cancelOp_ok hs
    · exact hs
  exact State.tidy_ok (State.passAll_ok ht)

theorem execHmovExport_ok {w} (hs : MemoryOk s) : NextOk (execHmovExport w s) := withHandle_ok (fun _ _ => State.commit_ok hs) hs

theorem execHmovImport_ok {w} (hs : MemoryOk s) : NextOk (execHmovImport w s) := by
  unfold execHmovImport
  refine withCx_ok (fun cx => ?_) hs
  extract_lets t h
  split
  · exact State.waitAll_ok hs
  · split
    · exact State.stopAll_ok hs
    · exact State.passAll_ok (State.bind_ok hs)

/-! ### Ownership (R238) -/

theorem execOwnpass_ok {w} (hs : MemoryOk s) : NextOk (execOwnpass w s) :=
  withCx_ok (fun _ => State.tidy_ok (State.engine_ok hs)) hs

theorem execOwntake_ok {w} (hs : MemoryOk s) : NextOk (execOwntake w s) :=
  withCx_ok (fun _ => State.tidy_ok (State.engine_ok hs)) hs

/-! ### Stopping and holding (R365, R367) -/

theorem State.unitFail_ok {o st c a} (hs : MemoryOk s) : MemoryOk (s.unitFail o st c a) := by
  unfold State.unitFail
  split
  · exact State.endRemote_ok (State.mapOp_ok hs)
  · exact State.settle_ok (State.spoil_ok hs)

theorem State.holdUnit_ok {o va acc} (hs : MemoryOk s) : MemoryOk (s.holdUnit o va acc) :=
  memoryOk_ite (State.mapOp_ok hs) (State.postService_ok (State.mapOp_ok hs))

theorem State.waitTile_ok {o u origin t} (hs : MemoryOk s) : MemoryOk (s.waitTile o u origin t) := by
  unfold State.waitTile
  extract_lets start
  have hstart : ∀ (since : ℕ), MemoryOk (start since) := fun _ => State.mapOp_ok hs
  split
  · exact memoryOk_ite hs (hstart _)
  · exact hstart _

theorem State.waitDest_ok {o origin t} (hs : MemoryOk s) : MemoryOk (s.waitDest o origin t) := memoryOk_ite hs (State.mapOp_ok hs)

theorem State.forked_ok {o} (hs : MemoryOk s) : MemoryOk (s.forked o).1 := by
  unfold State.forked
  split
  · exact hs
  · extract_lets t ts
    have ht : MemoryOk t := State.drainWc_ok hs
    split
    · exact ht
    · exact State.mapOp_ok ht

/-! ### Sources (R59, R219, R361) -/

theorem State.unitTouch_ok {o c store va n} (hs : MemoryOk s) : MemoryOk (s.unitTouch o c store va n) := by
  -- the function is unfolded as a whole: no comparison of states then evaluates what it looks at
  have hdef : State.unitTouch = State.unitTouch := rfl
  conv at hdef => rhs; delta State.unitTouch
  rw [hdef]
  beta_reduce
  generalize s.unitCheck o c (if store = true then AccKind.store else AccKind.load) va n = x
  split
  · exact State.useParts_ok hs
  · exact hs

theorem State.epTouch_ok {o c store e off n} (hs : MemoryOk s) : MemoryOk (s.epTouch o c store e off n) := by
  unfold State.epTouch
  split
  · exact hs
  · exact State.unitTouch_ok hs

theorem State.sendAsk_ok {o u who peer p out} (hs : MemoryOk s) : MemoryOk (s.sendAsk o u who peer p out) := by
  unfold State.sendAsk
  split
  · rename_i e
    have hu := memoryOk_of_eq (State.forked_ok hs) e
    exact hu
  · rename_i e
    have hu := memoryOk_of_eq (State.forked_ok hs) e
    exact memoryOk_ite hu (State.emit_ok (State.flit_ok hu))

theorem State.srcNeed_ok {o u x} (hs : MemoryOk s) : MemoryOk (s.srcNeed o u x) := by
  unfold State.srcNeed
  split
  · exact hs
  · exact hs
  · split
    · exact State.sawRepair_ok hs
    · exact hs
  · exact State.waitTile_ok hs
  · exact State.holdUnit_ok hs
  · exact State.unitFail_ok hs
  · exact State.sendAsk_ok hs
  · exact hs

theorem State.dropAsks_ok {id u} (hs : MemoryOk s) : MemoryOk (s.dropAsks id u) := hs

/-! ### Arrivals of an operation of this device (R59, R213) -/

theorem State.beginArrival_ok {o origin t} (hs : MemoryOk s) : MemoryOk (s.beginArrival o origin t).1 := by
  unfold State.beginArrival
  split
  · exact hs
  · split
    · exact hs
    · split
      · exact State.waitDest_ok hs
      · extract_lets start
        have hstart : ∀ {t : State}, MemoryOk t → MemoryOk (start t) := by
          unfold start
          intro t1 ht
          exact State.mapOp_ok ht
        split
        · exact hstart (State.mapOp_ok hs)
        · exact hstart (State.mapWg_ok (fun _ hg => hg) hs)

theorem State.beginAll_ok {id origin ts} (hs : MemoryOk s) : MemoryOk (s.beginAll id origin ts).1 := by
  induction ts generalizing s id origin with
  | nil => exact hs
  | cons x xs ih =>
    unfold State.beginAll
    split
    · exact hs
    · split
      · rename_i e
        have hu := memoryOk_of_eq (State.beginArrival_ok hs) e
        exact ih hu
      · exact State.beginArrival_ok hs

/-- A fold over a workgroup of which every step keeps its scratchpad canonical. -/
theorem Wg.foldl_wf {α : Type} {f : Wg → α → Wg} {l : List α} {g : Wg}
    (hf : ∀ g a, Memory.wf g.data = true → Memory.wf (f g a).data = true) (hg : Memory.wf g.data = true) :
    Memory.wf (l.foldl f g).data = true := by
  induction l generalizing g with
  | nil => exact hg
  | cons a l ih => exact ih (hf g a hg)

theorem Wg.landed_wf {g : Wg} {by_ t n poison} (hg : Memory.wf g.data = true) : Memory.wf (g.landed by_ t n poison).data = true := by
  unfold Wg.landed
  split
  · split
    · split
      · exact hg
      · exact hg
    · exact hg
  · exact hg

theorem State.arrive_ok {id origin off bs poison} (hs : MemoryOk s) : MemoryOk (s.arrive id origin off bs poison) := by
  unfold State.arrive
  extract_lets ts bad t
  have ht : MemoryOk t := State.mapWg_ok (fun _ hg => Wg.foldl_wf (fun _ _ hg => Wg.landed_wf hg) hg) (State.scrWrite_ok hs)
  exact State.mapOp_ok ht

/-! ### Writing to global memory (R219) -/

theorem State.sendLines_ok {o u va bs ps} (hs : MemoryOk s) : MemoryOk (s.sendLines o u va bs ps) := by
  unfold State.sendLines
  refine memoryOk_foldl (fun t a ht => ?_) hs
  split
  · exact State.sendAsk_ok ht
  · exact ht

theorem State.poisonOver_ok {p bs} (hs : MemoryOk s) : MemoryOk (s.poisonOver p bs) :=
  memoryOk_ite (State.poisonGranules_ok hs) hs

theorem State.globDst_ok {o c u va bs} (hs : MemoryOk s) : MemoryOk (s.globDst o c u va bs).1 := by
  -- the function is unfolded as a whole: no comparison of states then evaluates what it looks at
  have hdef : State.globDst = State.globDst := rfl
  conv at hdef => rhs; delta State.globDst
  generalize hp : s.globDst o c u va bs = p
  rw [hdef] at hp
  beta_reduce at hp
  generalize s.unitCheck o c AccKind.store va bs.length = x at hp
  subst hp
  split
  · exact State.holdUnit_ok hs
  · exact State.unitFail_ok hs
  · exact State.sawRepair_ok hs
  · exact hs
  · extract_lets ls t
    have ht : MemoryOk t := by
      unfold t
      refine memoryOk_foldl (fun t1 a ht => ?_) hs
      extract_lets mine
      split
      · exact State.poisonOver_ok (State.hbmWrite_ok ht)
      · exact State.hostWrite_ok ht
      · exact ht
    split
    · exact State.unitFail_ok hs
    · split
      · exact State.mapOp_ok (State.unitTouch_ok ht)
      · exact State.sendLines_ok hs

theorem State.epDst_ok {o c u e off bs} (hs : MemoryOk s) : MemoryOk (s.epDst o c u e off bs).1 := by
  unfold State.epDst
  split
  · exact State.globDst_ok hs
  · split
    · rename_i e
      have hu := memoryOk_of_eq (State.beginAll_ok hs) e
      exact State.arrive_ok hu
    · exact State.beginAll_ok hs

theorem State.unitDone_ok {id u n total} (hs : MemoryOk s) : MemoryOk (s.unitDone id u n total) := by
  unfold State.unitDone
  extract_lets t
  have ht : MemoryOk t := State.mapOp_ok (State.dropAsks_ok hs)
  split
  · exact ht
  · exact memoryOk_ite (State.settle_ok ht) ht

theorem State.beginHeld_ok {o e off n x} (hs : MemoryOk s) : MemoryOk (s.beginHeld o e off n x) := by
  unfold State.beginHeld
  split
  · split
    · rename_i e
      have hu := memoryOk_of_eq (State.beginAll_ok hs) e
      exact hu
    · exact hs
  · exact hs

/-! ### COPY, local (R219) -/

theorem State.copyUnit_ok {o c u dst src n} (hs : MemoryOk s) : MemoryOk (s.copyUnit o c u dst src n) := by
  unfold State.copyUnit
  split
  · split
    · rename_i e
      have hu := memoryOk_of_eq (State.epDst_ok hs) e
      exact State.unitDone_ok (State.bumpBy_ok (State.epTouch_ok hu))
    · rename_i e
      have hu := memoryOk_of_eq (State.epDst_ok hs) e
      exact hu
  · exact State.srcNeed_ok (State.beginHeld_ok hs)

end Sys2Proof.Machine
end

section
/-!
SUPPORT. Memories in their canonical form, part 6: the engines' units, arrivals and time-outs, moves, the Gleaner and the sampler.
-/
namespace Sys2Proof.Machine

open Safety (MemoryOk)

variable {s : State}

/-! ### TCOPY (R81, R85, R222, R223) -/

theorem State.tcopyUnit_ok {o c u dst src d} (hs : MemoryOk s) : MemoryOk (s.tcopyUnit o c u dst src d) := by
  unfold State.tcopyUnit
  extract_lets size j what blocks
  split
  · exact State.srcNeed_ok (State.beginHeld_ok hs)
  · extract_lets bytes bs special
    split
    · rename_i e
      have hu := memoryOk_of_eq (State.epDst_ok hs) e
      exact hu
    · rename_i e
      have hu := memoryOk_of_eq (State.epDst_ok hs) e
      extract_lets t
      have ht : MemoryOk t := by
        unfold t
        exact memoryOk_foldl (fun _ _ ht => memoryOk_ite (State.unitTouch_ok (State.epTouch_ok ht)) (State.epTouch_ok ht)) hu
      exact State.unitDone_ok (State.bumpBy_ok (State.mapOp_ok ht))

/-! ### ACST and ACLD (R233) -/

theorem State.acstUnit_ok {o c u mem row col rows cols pitch fmt} (hs : MemoryOk s) :
    MemoryOk (s.acstUnit o c u mem row col rows cols pitch fmt) := by
  unfold State.acstUnit
  extract_lets z per i off
  split
  · exact hs
  · extract_lets bs
    split
    · rename_i e
      have hu := memoryOk_of_eq (State.epDst_ok hs) e
      exact hu
    · rename_i e
      have hu := memoryOk_of_eq (State.epDst_ok hs) e
      exact State.unitDone_ok hu

theorem State.acldUnit_ok {o c u mem row col rows cols pitch fmt} (hs : MemoryOk s) :
    MemoryOk (s.acldUnit o c u mem row col rows cols pitch fmt) := by
  unfold State.acldUnit
  extract_lets z per i off
  split
  · exact State.unitDone_ok (State.mapOp_ok (State.epTouch_ok (State.accMap_ok hs)))
  · exact State.srcNeed_ok hs

/-! ### Beats at this device (R56, R57, R59, R219, R359, R360) -/

theorem State.admitBeat_ok {g b} (hs : MemoryOk s) : SomeOk (s.admitBeat g b) := by
  unfold State.admitBeat
  extract_lets t by_ write fill
  have hwrite : ∀ {u : State}, MemoryOk u → ∀ p, MemoryOk (write u p) := fun hu _ =>
    State.answerBeat_ok (State.mapWg_ok (fun _ hg => Wg.landed_wf hg) (State.scrWrite_ok hu))
  have hfill : MemoryOk fill := State.mapWg_ok (fun _ hg => hg) hs
  split
  · exact .some (hwrite hs true)
  · split
    · split
      · exact .some (hwrite hs false)
      · exact .none
    · exact .some (hwrite hfill false)
    · split
      · exact .some (hwrite hfill false)
      · refine .some (hwrite ?_ true)
        exact hs
    · exact .none

theorem State.receive_ok {b} (hs : MemoryOk s) : MemoryOk (s.receive b) := by
  unfold State.receive
  split
  · exact State.answerBeat_ok hs
  · extract_lets full src wait
    have hwait : MemoryOk wait := hs
    split
    · exact State.answerBeat_ok hs
    · exact memoryOk_ite (State.answerBeat_ok hs) (memoryOk_ite hwait (memoryOk_getD (State.admitBeat_ok hs) hwait))

/-! ### COPY, remote and multicast (R219, R220) -/

theorem State.sendBeat_ok {o u multi n cc bs t} (hs : MemoryOk s) : MemoryOk (s.sendBeat o u multi n cc bs t) := by
  unfold State.sendBeat
  split
  · exact hs
  · extract_lets off tag b r src sent lost
    have hsent : MemoryOk sent := hs
    split
    · exact State.receive_ok hsent
    · exact State.emit_ok (State.flit_ok hsent)
    · exact hs
    · exact State.mapOp_ok hs

theorem State.remoteUnit_ok {o c u multi ts src n cc} (hs : MemoryOk s) : MemoryOk (s.remoteUnit o c u multi ts src n cc) := by
  unfold State.remoteUnit
  extract_lets blocked
  split
  · exact hs
  · split
    · rename_i e
      have hu := memoryOk_of_eq (State.forked_ok hs) e
      exact hu
    · rename_i e
      have hu := memoryOk_of_eq (State.forked_ok hs) e
      split
      · extract_lets t t1
        have ht : MemoryOk t := by
          unfold t
          refine memoryOk_foldl (fun t2 a ht => ?_) (State.epTouch_ok hu)
          split
          · exact State.sendBeat_ok ht
          · exact ht
        have ht1 : MemoryOk t1 := State.mapOp_ok (State.dropAsks_ok ht)
        exact State.endRemote_ok (State.takeAnswers_ok ht1)
      · exact State.srcNeed_ok hu

theorem State.readTable_ok {o c a map src n cc} (hs : MemoryOk s) : MemoryOk (s.readTable o c a map src n cc) := by
  -- the function is unfolded as a whole: no comparison of states then evaluates what it looks at
  have hdef : State.readTable = State.readTable := rfl
  conv at hdef => rhs; delta State.readTable
  rw [hdef]
  beta_reduce
  generalize s.globSrc o c 0 (BitVec.toNat a) 128 = x
  split
  · exact State.endRemote_ok (State.mapOp_ok (State.unitTouch_ok (State.dropAsks_ok hs)))
  · exact State.srcNeed_ok hs

/-! ### The Winnower (R224, R297, R298, R392) -/

theorem State.setWinnow_ok {x} (hs : MemoryOk s) : MemoryOk (s.setWinnow x) := hs

theorem State.winnowUnit_ok {o c u src region base count} (hs : MemoryOk s) :
    MemoryOk (s.winnowUnit o c u src region base count) := by
  -- the header is looked at through a variable: no comparison of states then evaluates it
  obtain ⟨header, hheader⟩ : ∃ f, State.headerAt = f := ⟨_, rfl⟩
  unfold State.winnowUnit
  rw [hheader]
  split
  · extract_lets poisoned y va
    split
    · exact State.srcNeed_ok hs
    · exact State.holdUnit_ok hs
    · exact State.unitFail_ok hs
    · exact State.sawRepair_ok hs
    · exact hs
    · split
      · exact State.unitFail_ok hs
      · extract_lets row t t1 t2 t3
        have ht : MemoryOk t := memoryOk_foldl (fun _ _ ht => State.hbmWrite_ok ht) (State.setWinnow_ok hs)
        have ht1 : MemoryOk t1 := State.unitTouch_ok (State.unitTouch_ok (State.hbmWrite_ok ht))
        have ht2 : MemoryOk t2 := State.epTouch_ok ht1
        have ht3 : MemoryOk t3 := State.mapOp_ok ht2
        exact State.unitDone_ok (State.bumpBy_ok ht3)
  · exact State.srcNeed_ok hs

theorem State.winnowStart_ok {o c region base count} (hs : MemoryOk s) : MemoryOk (s.winnowStart o c region base count) := by
  -- the function is unfolded as a whole: no comparison of states then evaluates what it looks at
  have hdef : State.winnowStart = State.winnowStart := rfl
  conv at hdef => rhs; delta State.winnowStart
  rw [hdef]
  beta_reduce
  generalize s.headerAt o c region = x
  split
  · exact State.srcNeed_ok hs
  · extract_lets h src row
    split
    · exact State.unitFail_ok hs
    · split
      · exact State.unitFail_ok hs
      · split
        · exact State.unitFail_ok hs
        · exact State.mapOp_ok (State.unitTouch_ok (State.hbmWrite_ok (State.setWinnow_ok hs)))

theorem State.winnowEnd_ok {o pa st c a} (hs : MemoryOk s) : MemoryOk (s.winnowEnd o pa st c a) :=
  State.settle_ok (State.hbmWrite_ok hs)

theorem State.deliverShort_ok {o pa bs} (hs : MemoryOk s) : MemoryOk (s.deliverShort o pa bs) := by
  unfold State.deliverShort
  extract_lets h off t
  split
  · exact State.winnowEnd_ok hs
  · split
    · exact State.winnowEnd_ok hs
    · exact memoryOk_ite (State.waitDest_ok hs) (State.winnowEnd_ok (State.mapWg_ok (fun _ hg => hg) (State.scrWrite_ok hs)))

theorem execWinnowShortlist_ok {id} (hs : MemoryOk s) : NextOk (execWinnowShortlist id s) := by
  unfold execWinnowShortlist
  split
  · exact finish_ok hs
  · split
    · extract_lets before
      split
      · exact finish_ok hs
      · split
        · exact finish_ok (State.srcNeed_ok hs)
        · extract_lets w t
          have ht : MemoryOk t := memoryOk_foldl (fun _ _ ht => State.unitTouch_ok ht) hs
          split
          · exact finish_ok (State.srcNeed_ok hs)
          · exact finish_ok (State.tidy_ok (State.deliverShort_ok (State.mapOp_ok ht)))
    · exact finish_ok hs

/-! ### Queue start (R213, R218, R221) -/

theorem State.startDrain_ok {o p} (hs : MemoryOk s) : MemoryOk (s.startDrain o p) := by
  unfold State.startDrain
  split
  · exact hs
  · extract_lets t await tag own r t1 src t2
    have ht : MemoryOk t := State.drainWc_ok hs
    have ht1 : MemoryOk t1 := State.mapOp_ok ht
    have ht2 : MemoryOk t2 := ht1
    exact memoryOk_ite ht (memoryOk_ite ht1 (memoryOk_ite ht2 (State.emit_ok (State.flit_ok ht2))))

theorem State.startOp_ok {o c} (hs : MemoryOk s) : MemoryOk (s.startOp o c) := by
  unfold State.startOp
  extract_lets go
  have hgo : MemoryOk go := State.mapOp_ok hs
  split
  · exact memoryOk_ite (State.settle_ok hs) hgo
  · exact State.readTable_ok hgo
  · exact State.endRemote_ok hgo
  · exact State.startDrain_ok hs
  · exact memoryOk_ite (State.winnowStart_ok hs) hgo
  · exact hgo
  · exact hs

theorem execEngineQueueStart_ok {id} (hs : MemoryOk s) : NextOk (execEngineQueueStart id s) := by
  unfold execEngineQueueStart
  split
  · exact finish_ok hs
  · split
    · exact finish_ok hs
    · split
      · exact finish_ok hs
      · exact finish_ok (State.tidy_ok (State.startOp_ok hs))

/-! ### Units (R219, R223, R224, R233) -/

theorem execCopyUnit_ok {id u} (hs : MemoryOk s) : NextOk (execCopyUnit id u s) := by
  unfold execCopyUnit
  split
  · exact finish_ok hs
  · split
    · exact finish_ok hs
    · split
      · exact finish_ok hs
      · extract_lets within
        have hwithin : ∀ (n : ℕ) {t : State}, MemoryOk t → NextOk (within n t) :=
          fun _ _ ht => finish_ok (memoryOk_ite (State.tidy_ok ht) hs)
        split
        · exact hwithin _ (State.copyUnit_ok hs)
        · exact finish_ok (State.readTable_ok hs)
        · exact hwithin _ (State.remoteUnit_ok hs)
        · exact hwithin _ (State.tcopyUnit_ok hs)
        · exact hwithin _ (State.winnowUnit_ok hs)
        · exact hwithin _ (State.acstUnit_ok hs)
        · exact hwithin _ (State.acldUnit_ok hs)
        · exact finish_ok hs

/-! ### Completion (R214 to R216) -/

theorem execEngineOperationComplete_ok {id} (hs : MemoryOk s) : NextOk (execEngineOperationComplete id s) := by
  unfold execEngineOperationComplete
  split
  · exact finish_ok hs
  · extract_lets unwritten own before src t ends
    have ht : MemoryOk t := hs
    have hends : ∀ {t : State}, MemoryOk t → NextOk (ends t) := by
      unfold ends
      intro t1 ht1
      exact finish_ok (State.tidy_ok (State.evAdd_ok (State.mapOp_ok ht1)))
    split
    · exact finish_ok hs
    · split
      · split
        · exact finish_ok (State.agentWait_ok ht)
        · rename_i e
          have hu := memoryOk_of_eq (State.agentWrite_ok ht) e
          exact finish_ok (State.holdUnit_ok hu)
        · rename_i e
          have hu := memoryOk_of_eq (State.agentWrite_ok ht) e
          exact hends hu
      · exact hends ht

/-! ### Arrivals (R59, R61, R219, R359) -/

theorem State.dropArrival_ok {n} (hs : MemoryOk s) : MemoryOk (s.dropArrival n) := hs

theorem execArrivalAdmit_ok {a} (hs : MemoryOk s) : NextOk (execArrivalAdmit a s) := by
  unfold execArrivalAdmit
  split
  · split
    · exact finish_ok hs
    · split
      · split
        · exact finish_ok hs
        · exact finish_ok (State.beginArrival_ok hs)
      · exact finish_ok hs
  · split
    · exact finish_ok hs
    · split
      · exact finish_ok (State.tidy_ok (State.promote_ok (State.answerBeat_ok (State.dropArrival_ok hs))))
      · extract_lets t
        split
        · exact finish_ok hs
        · split
          · rename_i e
            have hu := (State.admitBeat_ok (State.dropArrival_ok hs)) _ e
            exact finish_ok (State.tidy_ok (State.promote_ok hu))
          · exact finish_ok hs

theorem execRemoteArrivalBeat_ok {b} (hs : MemoryOk s) : NextOk (execRemoteArrivalBeat b s) :=
  finish_ok (State.tidy_ok (State.receive_ok hs))

theorem State.parkTags_ok {g k pc ls} (hs : MemoryOk s) : MemoryOk (s.parkTags g k pc ls) := State.parkAll_ok (State.bump_ok hs)

theorem State.timeoutLanes_ok {core slot} (hs : MemoryOk s) : MemoryOk (s.timeoutLanes core slot) := by
  unfold State.timeoutLanes
  split
  · exact hs
  · split
    · extract_lets waiting due
      clear_value due
      split
      · exact hs
      · exact State.parkTags_ok hs
    · exact hs

theorem State.timeoutOp_ok {o} (hs : MemoryOk s) : MemoryOk (s.timeoutOp o) := by
  unfold State.timeoutOp
  split
  · exact hs
  · split
    · exact hs
    · extract_lets t a
      have ht : MemoryOk t := State.bump_ok hs
      split
      · exact State.settle_ok (State.drainMloop_ok ht)
      · exact State.unitFail_ok ht
      · split
        · exact memoryOk_ite (State.winnowEnd_ok ht) (State.settle_ok ht)
        · exact State.settle_ok ht
      · exact State.settle_ok ht

theorem State.timeoutBeat_ok {x ctx} (hs : MemoryOk s) : MemoryOk (s.timeoutBeat x ctx) :=
  memoryOk_ite hs (State.dropBeats_ok (State.bump_ok hs))

theorem execTagWaitTimeout_ok {w} (hs : MemoryOk s) : NextOk (execTagWaitTimeout w s) := by
  unfold execTagWaitTimeout
  split
  · exact finish_ok (State.timeoutLanes_ok hs)
  · refine finish_ok ?_
    split
    · exact State.tidy_ok (State.timeoutOp_ok hs)
    · exact hs
  · refine finish_ok ?_
    split
    · exact State.tidy_ok (State.timeoutOp_ok hs)
    · exact hs
  · split
    · exact finish_ok hs
    · split
      · exact finish_ok hs
      · split
        · exact finish_ok hs
        · exact finish_ok (State.tidy_ok (State.timeoutBeat_ok hs))

/-! ### The matrix engine (R226 to R231, R263) -/

theorem execMatrixCommandPerform_ok {core} (hs : MemoryOk s) : NextOk (execMatrixCommandPerform core s) := by
  unfold execMatrixCommandPerform
  split
  · exact finish_ok hs
  · split
    · exact finish_ok (State.tidy_ok (State.settle_ok (State.accMap_ok hs)))
    · exact finish_ok (State.tidy_ok (State.settle_ok hs))
    · exact finish_ok (State.mapOp_ok hs)

theorem State.applyStep_ok {o g d j} (hs : MemoryOk s) : MemoryOk (s.applyStep o g d j) := by
  unfold State.applyStep
  extract_lets r now t carry ends
  have ht : MemoryOk t := State.mapWg_ok (fun _ hg => hg) hs
  exact memoryOk_ite (State.mapOp_ok (State.accMap_ok ht)) (State.mapOp_ok ht)

theorem State.kstep_ok {o g d j} (hs : MemoryOk s) : MemoryOk (s.kstep o g d j) := by
  unfold State.kstep
  extract_lets tiles r rows cols t t1
  have ht : MemoryOk t := State.mapWg_ok (fun _ hg => Wg.foldl_wf (fun _ _ ht => Wg.consume_wf ht) hg) (State.applyStep_ok hs)
  have ht1 : MemoryOk t1 := State.mapOp_ok (State.bump_ok ht)
  split
  · exact State.waitTile_ok hs
  · split
    · exact ht1
    · exact memoryOk_ite (State.tidy_ok (State.settle_ok (State.drainMloop_ok ht1))) ht1

theorem execKstep_ok {id j} (hs : MemoryOk s) : NextOk (execKstep id j s) := by
  unfold execKstep
  split
  · exact finish_ok hs
  · split
    · split
      · exact finish_ok hs
      · exact finish_ok (State.kstep_ok hs)
    · exact finish_ok hs

theorem execClauseHeader_ok {w} (hs : MemoryOk s) : NextOk (execClauseHeader w s) := by
  unfold execClauseHeader
  refine withCx_ok (fun cx => ?_) hs
  extract_lets st all
  have hall : ∀ (o : LaneOut), MemoryOk (all o) := fun _ => State.commit_ok hs
  split
  · exact hall _
  · exact hall _
  · exact memoryOk_ite (hall _) (State.mapWarp_ok hs)

theorem execNop_ok {w} (hs : MemoryOk s) : NextOk (execNop w s) := withCx_ok (fun _ => State.commit_ok hs) hs

theorem execUnassignedEncoding_ok {word} (hs : MemoryOk s) : NextOk (execUnassignedEncoding word s) :=
  withCx_ok (fun _ => State.commit_ok hs) hs

theorem execMov_ok {w} (hs : MemoryOk s) : NextOk (execMov w s) := laneOp_ok hs

theorem execRdlane_ok {w} (hs : MemoryOk s) : NextOk (execRdlane w s) := withCx_ok (fun _ => State.commit_ok hs) hs

theorem execWrlane_ok {w} (hs : MemoryOk s) : NextOk (execWrlane w s) := by
  unfold execWrlane
  refine withCx_ok (fun cx => ?_) hs
  extract_lets m v t
  have ht : MemoryOk t := by
    unfold t
    split
    · exact hs
    · exact memoryOk_ite (State.mapWarp_ok hs) hs
  exact State.commit_ok ht

theorem execPand_ok {w} (hs : MemoryOk s) : NextOk (execPand w s) := laneOp_ok hs

theorem execPor_ok {w} (hs : MemoryOk s) : NextOk (execPor w s) := laneOp_ok hs

theorem execPxor_ok {w} (hs : MemoryOk s) : NextOk (execPxor w s) := laneOp_ok hs

theorem execPnot_ok {w} (hs : MemoryOk s) : NextOk (execPnot w s) := laneOp_ok hs

theorem execPmov_ok {w} (hs : MemoryOk s) : NextOk (execPmov w s) := by
  unfold execPmov
  split
  · exact withCx_ok (fun _ => State.commit_ok hs) hs
  · split
    · exact laneOp_ok hs
    · exact laneOp_ok hs

/-! ### Device registers (R321, R324, R325) -/

theorem State.sweep_ok (hs : MemoryOk s) : MemoryOk s.sweep := memoryOk_obs (State.ringRecord_ok hs)

theorem State.devWrite_ok {reg v} (hs : MemoryOk s) : MemoryOk (s.devWrite reg v) := by
  unfold State.devWrite
  extract_lets old new src t period src1 t1 restarts
  have ht : MemoryOk t := memoryOk_obs hs
  have ht1 : MemoryOk t1 := memoryOk_ite ht (memoryOk_obs ht)
  exact memoryOk_ite (memoryOk_ite (State.sweep_ok ht1) ht1) (memoryOk_ite (memoryOk_obs ht) ht)

theorem execGleanerSweep_ok (hs : MemoryOk s) : NextOk (execGleanerSweep s) := by
  unfold execGleanerSweep
  extract_lets period t passed src
  have ht : MemoryOk t := State.sweep_ok hs
  split
  · exact finish_ok hs
  · exact finish_ok (memoryOk_obs ht)

theorem execGlctlOnce_ok (hs : MemoryOk s) : NextOk (execGlctlOnce s) := finish_ok (State.devWrite_ok hs)

/-! ### The lane-cycle record (R322) -/

theorem State.countLane_ok {x} (hs : MemoryOk s) : MemoryOk (s.countLane x) := by
  unfold State.countLane
  split
  · exact State.bump_ok hs
  · exact hs

/-! ### The sampler and trace records (R325 to R327) -/

theorem State.postSample_ok {pc exec launch core slot kind cls} (hs : MemoryOk s) :
    MemoryOk (s.postSample pc exec launch core slot kind cls) :=
  memoryOk_obs (State.ringRecord_ok hs)

theorem State.sampleCore_ok {core} (hs : MemoryOk s) : MemoryOk (s.sampleCore core) := by
  unfold State.sampleCore
  split
  · exact hs
  · exact State.postSample_ok (memoryOk_obs hs)

theorem execSamplerSample_ok {core} (hs : MemoryOk s) : NextOk (execSamplerSample core s) := by
  unfold execSamplerSample
  extract_lets due src
  split
  · exact finish_ok hs
  · exact finish_ok (memoryOk_obs hs)

theorem execCoreClockCycle_ok (hs : MemoryOk s) : NextOk (execCoreClockCycle s) := by
  unfold execCoreClockCycle
  extract_lets ran idle t src src1
  have ht : MemoryOk t := by
    unfold t
    exact State.bump_ok (memoryOk_foldl (fun _ _ ht => State.sampleCore_ok ht) (memoryOk_foldl (fun _ _ ht => State.countLane_ok ht) hs))
  exact finish_ok ht

theorem State.noteIssue_ok {g w pc lanes} (hs : MemoryOk s) : MemoryOk (s.noteIssue g w pc lanes) :=
  memoryOk_ite (State.postSample_ok (memoryOk_obs (State.bump_ok hs))) (memoryOk_obs (State.bump_ok hs))

/-! ### Debugger stops (R327, R351) -/

theorem State.debugPark_ok {wid k hits} (hs : MemoryOk s) : MemoryOk (s.debugPark wid k hits) :=
  memoryOk_foldl (fun _ _ ht => State.parkGroup_ok ht) hs

theorem State.takeHalts_ok {wid k w} (hs : MemoryOk s) : MemoryOk (s.takeHalts wid k w) :=
  State.debugPark_ok (State.mapWarp_ok hs)

/-! ### An instruction is made ready -/

theorem State.stopFront_ok {wid k pc ls st} (hs : MemoryOk s) : MemoryOk (s.stopFront wid k pc ls st) := State.stopLanes_ok hs

theorem State.holdFront_ok {wid k ls on} (hs : MemoryOk s) : MemoryOk (s.holdFront wid k ls on) := State.mapWarp_ok hs

theorem State.useFetch_ok {c core slot ps} (hs : MemoryOk s) : MemoryOk (s.useFetch c core slot ps) := State.useParts_ok hs

/-! ### After an instruction -/

theorem State.holdJoins_ok {g before k pc ls} (hs : MemoryOk s) : MemoryOk (s.holdJoins g before k pc ls) := by
  unfold State.holdJoins
  split
  · exact hs
  · split
    · exact hs
    · exact State.postFault_ok (State.mapWarp_ok hs)

theorem State.afterIssue_ok {is g before} (hs : MemoryOk s) : MemoryOk (s.afterIssue is g before) := by
  unfold State.afterIssue
  extract_lets t
  have ht : MemoryOk t := hs
  split
  · exact State.noteIssue_ok ht
  · extract_lets here ran t1 stepped joins t2 t3
    have ht1 : MemoryOk t1 := State.noteIssue_ok ht
    have ht2 : MemoryOk t2 := State.holdJoins_ok ht1
    have ht3 : MemoryOk t3 := State.mapWarp_ok ht2
    split
    · exact ht
    · split
      · exact memoryOk_ite ht3 (State.takeHalts_ok ht3)
      · exact ht3

end Sys2Proof.Machine
end

section
/-!
SUPPORT. Memories in their canonical form, part 7: integer, branch, barrier and team instructions.
-/
namespace Sys2Proof.Machine

open Safety (MemoryOk)

variable {s : State}

theorem State.pop_ok (hs : MemoryOk s) : MemoryOk s.pop.2 := by
  unfold State.pop
  extract_lets t
  have ht : MemoryOk t := State.forgetTold_ok hs
  split
  · exact ht
  · exact ht

theorem execIadd_ok {w} (hs : MemoryOk s) : NextOk (execIadd w s) := laneOp_ok hs

theorem execIsub_ok {w} (hs : MemoryOk s) : NextOk (execIsub w s) := laneOp_ok hs

theorem execImul_ok {w} (hs : MemoryOk s) : NextOk (execImul w s) := laneOp_ok hs

theorem execImulh_ok {w} (hs : MemoryOk s) : NextOk (execImulh w s) := laneOp_ok hs

theorem execImad_ok {w} (hs : MemoryOk s) : NextOk (execImad w s) := laneOp_ok hs

theorem execImin_ok {w} (hs : MemoryOk s) : NextOk (execImin w s) := laneOp_ok hs

theorem execImax_ok {w} (hs : MemoryOk s) : NextOk (execImax w s) := laneOp_ok hs

theorem execIdiff_ok {w} (hs : MemoryOk s) : NextOk (execIdiff w s) := laneOp_ok hs

theorem execIabs_ok {w} (hs : MemoryOk s) : NextOk (execIabs w s) := laneOp_ok hs

theorem execIneg_ok {w} (hs : MemoryOk s) : NextOk (execIneg w s) := laneOp_ok hs

theorem execIcmp_ok {w} (hs : MemoryOk s) : NextOk (execIcmp w s) := laneOp_ok hs

theorem execSel_ok {w} (hs : MemoryOk s) : NextOk (execSel w s) := laneOp_ok hs

theorem execIcvt_ok {w} (hs : MemoryOk s) : NextOk (execIcvt w s) := laneOp_ok hs

theorem execIdiv_ok {w} (hs : MemoryOk s) : NextOk (execIdiv w s) := laneOp_ok hs

theorem execIrem_ok {w} (hs : MemoryOk s) : NextOk (execIrem w s) := laneOp_ok hs

theorem execIaddImm_ok {w} (hs : MemoryOk s) : NextOk (execIaddImm w s) := laneOp_ok hs

theorem execImulImm_ok {w} (hs : MemoryOk s) : NextOk (execImulImm w s) := laneOp_ok hs

theorem execIminImm_ok {w} (hs : MemoryOk s) : NextOk (execIminImm w s) := laneOp_ok hs

theorem execImaxImm_ok {w} (hs : MemoryOk s) : NextOk (execImaxImm w s) := laneOp_ok hs

theorem execAndImm_ok {w} (hs : MemoryOk s) : NextOk (execAndImm w s) := laneOp_ok hs

theorem execOrImm_ok {w} (hs : MemoryOk s) : NextOk (execOrImm w s) := laneOp_ok hs

theorem execXorImm_ok {w} (hs : MemoryOk s) : NextOk (execXorImm w s) := laneOp_ok hs

theorem execShlImm_ok {w} (hs : MemoryOk s) : NextOk (execShlImm w s) := laneOp_ok hs

theorem execShrImm_ok {w} (hs : MemoryOk s) : NextOk (execShrImm w s) := laneOp_ok hs

theorem execSarImm_ok {w} (hs : MemoryOk s) : NextOk (execSarImm w s) := laneOp_ok hs

theorem execIcmpImm_ok {w} (hs : MemoryOk s) : NextOk (execIcmpImm w s) := laneOp_ok hs

theorem execMovi_ok {w} (hs : MemoryOk s) : NextOk (execMovi w s) := laneOp_ok hs

theorem execPopc_ok {w} (hs : MemoryOk s) : NextOk (execPopc w s) := laneOp_ok hs

theorem execClz_ok {w} (hs : MemoryOk s) : NextOk (execClz w s) := laneOp_ok hs

theorem execCtz_ok {w} (hs : MemoryOk s) : NextOk (execCtz w s) := laneOp_ok hs

theorem execBrev_ok {w} (hs : MemoryOk s) : NextOk (execBrev w s) := laneOp_ok hs

theorem execFns_ok {w} (hs : MemoryOk s) : NextOk (execFns w s) := laneOp_ok hs

theorem execBfx_ok {w} (hs : MemoryOk s) : NextOk (execBfx w s) := laneOp_ok hs

theorem execBfxs_ok {w} (hs : MemoryOk s) : NextOk (execBfxs w s) := laneOp_ok hs

theorem execBfi_ok {w} (hs : MemoryOk s) : NextOk (execBfi w s) := laneOp_ok hs

theorem execPdep_ok {w} (hs : MemoryOk s) : NextOk (execPdep w s) := laneOp_ok hs

theorem execPext_ok {w} (hs : MemoryOk s) : NextOk (execPext w s) := laneOp_ok hs

theorem execBperm_ok {w} (hs : MemoryOk s) : NextOk (execBperm w s) := laneOp_ok hs

theorem execGf2mm_ok {w} (hs : MemoryOk s) : NextOk (execGf2mm w s) := laneOp_ok hs

theorem execPrmb_ok {w} (hs : MemoryOk s) : NextOk (execPrmb w s) := laneOp_ok hs

theorem execMix64_ok {w} (hs : MemoryOk s) : NextOk (execMix64 w s) := laneOp_ok hs

/-! ### Moving the PC -/

theorem State.moveLane_ok {cx act o} (hact : ∀ (t : State), MemoryOk t → ∀ (a : ℕ), MemoryOk (act t a)) (hs : MemoryOk s) :
    MemoryOk (s.moveLane cx act o) := by
  unfold State.moveLane
  split
  · exact State.mapLane_ok (hact _ hs _)
  · exact hs

theorem State.move_ok {cx act outs} (hact : ∀ (t : State), MemoryOk t → ∀ (a : ℕ), MemoryOk (act t a)) (hs : MemoryOk s) :
    MemoryOk (s.move cx act outs) := by
  unfold State.move
  split
  · exact State.stall_ok hs
  · exact State.stopLanes_ok (memoryOk_foldl (fun _ _ ht => State.moveLane_ok hact ht) hs)

theorem State.moveAll_ok {cx act f} (hact : ∀ (t : State), MemoryOk t → ∀ (a : ℕ), MemoryOk (act t a)) (hs : MemoryOk s) :
    MemoryOk (s.moveAll cx act f) :=
  State.move_ok hact hs

theorem noAct_ok {l} (hs : MemoryOk s) : MemoryOk (noAct s l) := hs

theorem State.callFrame_ok {cx l} (hs : MemoryOk s) : MemoryOk (s.callFrame cx l) := by
  unfold State.callFrame
  split
  · exact State.pushFrame_ok hs
  · exact hs

/-! ### Branches (R174, R175) -/

theorem execBr_ok {w} (hs : MemoryOk s) : NextOk (execBr w s) :=
  withCx_ok (fun _ => State.moveAll_ok (fun _ ht _ => noAct_ok ht) hs) hs

theorem execCall_ok {w} (hs : MemoryOk s) : NextOk (execCall w s) :=
  withCx_ok (fun _ => State.moveAll_ok (fun _ ht _ => memoryOk_ite (State.callFrame_ok ht) ht) hs) hs

theorem execBru_ok {w} (hs : MemoryOk s) : NextOk (execBru w s) :=
  withCx_ok (fun _ => State.moveAll_ok (fun _ ht _ => noAct_ok ht) (memoryOk_ite (State.mapWarp_ok hs) hs)) hs

/-! ### Indirect jumps and returns (R177, R178) -/

theorem execJmpi_ok {w} (hs : MemoryOk s) : NextOk (execJmpi w s) :=
  withCx_ok (fun _ => State.moveAll_ok (fun _ ht _ => noAct_ok ht) hs) hs

theorem execCalli_ok {w} (hs : MemoryOk s) : NextOk (execCalli w s) :=
  withCx_ok (fun _ => State.moveAll_ok (fun _ ht _ => State.callFrame_ok ht) hs) hs

theorem State.ready_ok {cx l x} (hs : MemoryOk s) : MemoryOk (s.ready cx l x).1 := by
  unfold State.ready
  split
  · exact State.refill_ok hs
  · exact hs

theorem State.readFrames_ok {cx} (hs : MemoryOk s) : MemoryOk (s.readFrames cx) := by
  unfold State.readFrames
  refine memoryOk_foldl (fun t a ht => ?_) hs
  split
  · exact State.ready_ok ht
  · exact ht

theorem execRet_ok {w} (hs : MemoryOk s) : NextOk (execRet w s) := by
  unfold execRet
  refine withCx_ok (fun cx => ?_) hs
  refine State.moveAll_ok (fun t ht a => ?_) (State.readFrames_ok hs)
  split
  · exact ht
  · exact State.mapLane_ok (State.popFrame_ok ht)

/-! ### Team-calls (R179 to R182) -/

theorem State.openTeam_ok {cx m sub l} (hs : MemoryOk s) : MemoryOk (s.openTeam cx m sub l) := by
  unfold State.openTeam
  split
  · exact hs
  · exact State.mapLane_ok (memoryOk_ite (State.pushFrame_ok hs) (State.agentWrite_ok (State.pushFrame_ok hs)))

theorem execTcall_ok {w} (hs : MemoryOk s) : NextOk (execTcall w s) := by
  unfold execTcall
  refine withCx_ok (fun cx => ?_) hs
  extract_lets n targets weight ws parts fits enters callee maskFor stalls joins t
  have ht : MemoryOk t := memoryOk_ite hs (State.mapWarp_ok hs)
  split
  · exact State.moveAll_ok (fun _ ht1 _ => noAct_ok ht1) hs
  · split
    · exact State.moveAll_ok (fun _ ht1 _ => noAct_ok ht1) hs
    · exact State.moveAll_ok (fun _ ht1 _ => memoryOk_ite (State.openTeam_ok ht1) ht1) ht

theorem execTret_ok {w} (hs : MemoryOk s) : NextOk (execTret w s) := by
  unfold execTret
  refine withCx_ok (fun cx => ?_) hs
  extract_lets ok stalled read t t1
  have hread : MemoryOk read := State.readFrames_ok hs
  have ht : MemoryOk t := State.mapWarp_ok hread
  have ht1 : MemoryOk t1 := State.stopLanes_ok ht
  exact memoryOk_ite (State.stall_ok hread) (State.settleJoins_ok ht1)

/-! ### Exit, barriers, giving way (R183 to R187) -/

theorem State.reportStepped_ok {cx} (hs : MemoryOk s) : MemoryOk (s.reportStepped cx) := by
  unfold State.reportStepped
  extract_lets stepped
  split
  · exact hs
  · exact State.postFault_ok hs

theorem execExit_ok {w} (hs : MemoryOk s) : NextOk (execExit w s) :=
  withCx_ok (fun _ => State.tidy_ok (State.exitLanes_ok (State.reportStepped_ok hs))) hs

theorem State.takePart_ok {cx gen arrive ls} (hs : MemoryOk s) : MemoryOk (s.takePart cx gen arrive ls) := State.mapWarp_ok hs

theorem State.arriveBar_ok {cx arrive} (hs : MemoryOk s) : MemoryOk (s.arriveBar cx arrive) :=
  State.mapWg_ok (fun _ hg => Wg.settleBarrier_wf hg) (State.mapWarp_ok (State.takePart_ok hs))

theorem State.joinBar_ok {cx b arrive} (hs : MemoryOk s) : MemoryOk (s.joinBar cx b arrive) :=
  State.stall_ok (State.mapWarp_ok (State.takePart_ok hs))

theorem barOp_ok {arrive} (hs : MemoryOk s) : NextOk (barOp arrive s) := by
  unfold barOp
  refine withCx_ok (fun cx => ?_) hs
  extract_lets root
  split
  · exact State.moveAll_ok (fun _ ht _ => noAct_ok ht) hs
  · split
    · exact State.joinBar_ok hs
    · exact State.arriveBar_ok hs

theorem execBar_ok {w} (hs : MemoryOk s) : NextOk (execBar w s) := barOp_ok hs

theorem execBarArrive_ok {w} (hs : MemoryOk s) : NextOk (execBarArrive w s) := barOp_ok hs

theorem execTbar_ok {w} (hs : MemoryOk s) : NextOk (execTbar w s) :=
  withCx_ok (fun _ => State.moveAll_ok (fun _ ht _ => noAct_ok ht) hs) hs

theorem execYield_ok {w} (hs : MemoryOk s) : NextOk (execYield w s) :=
  withCx_ok (fun _ => State.mapWarp_ok (State.moveAll_ok (fun _ ht _ => noAct_ok ht) hs)) hs

theorem execSleep_ok {w} (hs : MemoryOk s) : NextOk (execSleep w s) :=
  withCx_ok (fun _ => State.mapWarp_ok (State.moveAll_ok (fun _ ht _ => noAct_ok ht) hs)) hs

theorem crossOp_ok {px zero f} (hs : MemoryOk s) : NextOk (crossOp px zero f s) := withCx_ok (fun _ => State.commit_ok hs) hs

theorem execShfl_ok {w} (hs : MemoryOk s) : NextOk (execShfl w s) := by
  unfold execShfl
  exact crossOp_ok hs

theorem execPushl_ok {w} (hs : MemoryOk s) : NextOk (execPushl w s) := crossOp_ok hs

theorem execVote_ok {w} (hs : MemoryOk s) : NextOk (execVote w s) := by
  unfold execVote
  exact crossOp_ok hs

/-! ### RED and SCAN (R171, R172) -/

theorem execRed_ok {w} (hs : MemoryOk s) : NextOk (execRed w s) := by
  unfold execRed
  exact crossOp_ok hs

theorem execScan_ok {w} (hs : MemoryOk s) : NextOk (execScan w s) := by
  unfold execScan
  exact crossOp_ok hs

theorem execMatchLanes_ok {w} (hs : MemoryOk s) : NextOk (execMatchLanes w s) := crossOp_ok hs

theorem execFadd_ok {w} (hs : MemoryOk s) : NextOk (execFadd w s) := laneOp_ok hs

theorem execFsub_ok {w} (hs : MemoryOk s) : NextOk (execFsub w s) := laneOp_ok hs

theorem execFmul_ok {w} (hs : MemoryOk s) : NextOk (execFmul w s) := laneOp_ok hs

theorem execFfma_ok {w} (hs : MemoryOk s) : NextOk (execFfma w s) := laneOp_ok hs

theorem execFmin_ok {w} (hs : MemoryOk s) : NextOk (execFmin w s) := laneOp_ok hs

theorem execFmax_ok {w} (hs : MemoryOk s) : NextOk (execFmax w s) := laneOp_ok hs

theorem execFcmp_ok {w} (hs : MemoryOk s) : NextOk (execFcmp w s) := laneOp_ok hs

theorem execFclass_ok {w} (hs : MemoryOk s) : NextOk (execFclass w s) := laneOp_ok hs

theorem execFcvt_ok {w} (hs : MemoryOk s) : NextOk (execFcvt w s) := laneOp_ok hs

theorem execFrnd_ok {w} (hs : MemoryOk s) : NextOk (execFrnd w s) := laneOp_ok hs

theorem execFtoi_ok {w} (hs : MemoryOk s) : NextOk (execFtoi w s) := laneOp_ok hs

theorem execItof_ok {w} (hs : MemoryOk s) : NextOk (execItof w s) := laneOp_ok hs

theorem execFscl_ok {w} (hs : MemoryOk s) : NextOk (execFscl w s) := laneOp_ok hs

theorem execFdiv_ok {w} (hs : MemoryOk s) : NextOk (execFdiv w s) := laneOp_ok hs

theorem execFsqrt_ok {w} (hs : MemoryOk s) : NextOk (execFsqrt w s) := laneOp_ok hs

theorem execFrcp_ok {w} (hs : MemoryOk s) : NextOk (execFrcp w s) := laneOp_ok hs

end Sys2Proof.Machine
end

section
/-!
SUPPORT. Memories in their canonical form, part 8: decimal instructions, user queues, placement, waits, requests of peers and channels.
-/
namespace Sys2Proof.Machine

open Safety (MemoryOk)

variable {s : State}

theorem execFrsq_ok {w} (hs : MemoryOk s) : NextOk (execFrsq w s) := laneOp_ok hs

theorem execFex2_ok {w} (hs : MemoryOk s) : NextOk (execFex2 w s) := laneOp_ok hs

theorem execFlg2_ok {w} (hs : MemoryOk s) : NextOk (execFlg2 w s) := laneOp_ok hs

theorem execFsin_ok {w} (hs : MemoryOk s) : NextOk (execFsin w s) := laneOp_ok hs

theorem execFcos_ok {w} (hs : MemoryOk s) : NextOk (execFcos w s) := laneOp_ok hs

theorem execFtanh_ok {w} (hs : MemoryOk s) : NextOk (execFtanh w s) := laneOp_ok hs

theorem execXadd_ok {w} (hs : MemoryOk s) : NextOk (execXadd w s) := laneOp_ok hs

theorem execXsub_ok {w} (hs : MemoryOk s) : NextOk (execXsub w s) := laneOp_ok hs

theorem execXmul_ok {w} (hs : MemoryOk s) : NextOk (execXmul w s) := laneOp_ok hs

theorem execXfma_ok {w} (hs : MemoryOk s) : NextOk (execXfma w s) := laneOp_ok hs

theorem execXdiv_ok {w} (hs : MemoryOk s) : NextOk (execXdiv w s) := laneOp_ok hs

theorem execXquant_ok {w} (hs : MemoryOk s) : NextOk (execXquant w s) := laneOp_ok hs

theorem execXcmp_ok {w} (hs : MemoryOk s) : NextOk (execXcmp w s) := laneOp_ok hs

theorem execXcvt_ok {w} (hs : MemoryOk s) : NextOk (execXcvt w s) := laneOp_ok hs

theorem execXrnd_ok {w} (hs : MemoryOk s) : NextOk (execXrnd w s) := laneOp_ok hs

theorem execXscaleb_ok {w} (hs : MemoryOk s) : NextOk (execXscaleb w s) := laneOp_ok hs

theorem State.queueWait_ok {c q} (hs : MemoryOk s) : MemoryOk (s.queueWait c q) := memoryOk_ite (State.agentWait_ok hs) hs

theorem State.enqueue_ok {c q pkt} (hs : MemoryOk s) : MemoryOk (s.enqueue c q pkt).1 := by
  unfold State.enqueue
  extract_lets widx used
  have hused : MemoryOk used := State.agentUsed_ok hs
  split
  · exact hs
  · split
    · exact hs
    · exact hs
    · exact hs
    · extract_lets d
      split
      · exact hused
      · split
        · exact hused
        · split
          · exact hused
          · split
            · exact hs
            · exact hused
            · exact hs
            · split
              · exact hs
              · exact hused
              · rename_i e
                have hu := memoryOk_of_eq (State.agentWrite_ok hused) e
                exact hu
              · rename_i e
                have hu := memoryOk_of_eq (State.agentWrite_ok hused) e
                split
                · rename_i e1
                  have hu1 := memoryOk_of_eq (State.sigUpdate_ok hu) e1
                  exact hu1
                · exact hs
                · exact hused

/-! ### Allocation ids (R55) -/

theorem State.postWraps_ok {die n} (hs : MemoryOk s) : MemoryOk (s.postWraps die n) := by
  induction n generalizing s die with
  | zero => exact hs
  | succ fuel ih =>
    unfold State.postWraps
    exact ih (State.postService_ok hs)

theorem State.takeId_ok {die} (hs : MemoryOk s) : MemoryOk (s.takeId die).1 := by
  unfold State.takeId
  extract_lets held r
  exact State.postWraps_ok hs

/-! ### Becoming resident and being saved (R57, R359, R372 to R375) -/

theorem State.retime_ok {wid f} (hs : MemoryOk s) : MemoryOk (s.retime wid f) := by
  unfold State.retime
  extract_lets id t turn src
  have ht : MemoryOk t := State.mapWg_ok (fun _ hg => hg) hs
  exact ht

theorem State.moveBreaks_ok {ctx place} (hs : MemoryOk s) : MemoryOk (s.moveBreaks ctx place) := State.mapCtx_ok hs

theorem State.mapOps_ok {f} (hs : MemoryOk s) : MemoryOk (s.mapOps f) := hs

theorem State.saveWg_ok {wid} (hs : MemoryOk s) : MemoryOk (s.saveWg wid) := by
  unfold State.saveWg
  extract_lets core t t1 t2
  have ht : MemoryOk t := State.drainWc_ok hs
  have ht1 : MemoryOk t1 := by
    unfold t1
    split
    · exact ht
    · exact State.moveBreaks_ok ht
  have ht2 : MemoryOk t2 := State.retime_ok (State.mapWg_ok (fun _ hg => hg) ht1)
  exact State.mapOps_ok ht2

theorem State.saveWgs_ok {wids} (hs : MemoryOk s) : MemoryOk (s.saveWgs wids) :=
  memoryOk_foldl (fun _ _ ht => State.saveWg_ok ht) hs

theorem State.preemptWgs_ok {wids} (hs : MemoryOk s) : MemoryOk (s.preemptWgs wids) := State.bumpBy_ok (State.saveWgs_ok hs)

theorem State.putWg_ok {core wid} (hs : MemoryOk s) : SomeOk (s.putWg core wid) := by
  unfold State.putWg
  split
  · exact .none
  · extract_lets here k n reserve held mine used slots r
    have hr : MemoryOk r.1 := by
      unfold r
      split
      · exact State.takeId_ok hs
      · exact hs
    split
    · exact .none
    · split
      · extract_lets t t1 back
        have ht : MemoryOk t := State.mapWg_ok (fun _ hg => hg) hr
        have ht1 : MemoryOk t1 := State.mapOps_ok ht
        exact .some (memoryOk_ite ht1 (State.moveBreaks_ok (State.retime_ok ht1)))
      · exact .none

theorem State.putAll_ok {core ws} (hs : MemoryOk s) : SomeOk (State.putAll core ws s) := by
  induction ws generalizing s with
  | nil => exact .some hs
  | cons w ws ih => exact .bind (fun _ ht => ih ht) (State.putWg_ok hs)

/-! ### Who comes next (R281 to R284) -/

theorem State.mapQueue_ok {ctx q f} (hs : MemoryOk s) : MemoryOk (s.mapQueue ctx q f) := by
  unfold State.mapQueue
  split
  · exact hs
  · exact hs

/-! ### The rows (R283, R284) -/

theorem State.openColumn_ok {k} (hs : MemoryOk s) : MemoryOk (s.openColumn k) := by
  unfold State.openColumn
  split
  · exact hs
  · split
    · exact hs
    · extract_lets i xyz wgs
      have hwgs : ∀ g ∈ wgs, Memory.wf g.data = true := by
        intro g hg
        obtain ⟨st, -, rfl⟩ := List.mem_map.mp hg
        rfl
      exact State.mapLaunch_ok (memoryOk_wgs_append hwgs hs)

theorem State.withoutDue_ok {wids} (hs : MemoryOk s) : MemoryOk (s.withoutDue wids) := hs

theorem execPlaceWorkgroup_ok {wid} (hs : MemoryOk s) : NextOk (execPlaceWorkgroup wid s) := by
  unfold execPlaceWorkgroup
  split
  · exact finish_ok hs
  · split
    · exact finish_ok hs
    · extract_lets col
      split
      · exact finish_ok hs
      · split
        · exact finish_ok hs
        · split
          · exact finish_ok hs
          · rename_i e
            have hu := (State.putAll_ok hs) _ e
            extract_lets t
            have ht : MemoryOk t := State.withoutDue_ok (memoryOk_foldl (fun _ _ ht => State.retryJoins_ok ht) hu)
            exact finish_ok (memoryOk_ite (State.openColumn_ok ht) ht)

theorem execPreempt_ok {wid} (hs : MemoryOk s) : NextOk (execPreempt wid s) := by
  unfold execPreempt
  split
  · exact finish_ok hs
  · extract_lets col
    split
    · exact finish_ok (State.preemptWgs_ok hs)
    · exact finish_ok hs

/-! ### Events (R239, R240) -/

theorem execEvwait_ok {w} (hs : MemoryOk s) : NextOk (execEvwait w s) := by
  unfold execEvwait
  extract_lets su
  refine withCx_ok (fun cx => ?_) hs
  extract_lets who outs t outs1
  have ht : MemoryOk t := by
    unfold t
    refine memoryOk_foldl (fun t1 a ht => ?_) hs
    split
    · exact State.evRegister_ok ht
    · exact ht
  exact State.commitEach_ok ht

theorem execEvsig_ok {w} (hs : MemoryOk s) : NextOk (execEvsig w s) := by
  unfold execEvsig
  extract_lets su
  refine withCx_ok (fun cx => ?_) hs
  extract_lets acts t
  have ht : MemoryOk t := by
    unfold t
    refine memoryOk_foldl (fun t1 a ht => ?_) hs
    split
    · exact State.evAdd_ok ht
    · exact ht
  exact State.commit_ok ht

/-! ### Memory signals (R241) -/

theorem execSigadd_ok {w} (hs : MemoryOk s) : NextOk (execSigadd w s) := by
  unfold execSigadd
  extract_lets su
  refine withCx_ok (fun cx => ?_) hs
  extract_lets v
  refine MemOp.run_ok ?_ hs
  intro s1 l a loc ht
  dsimp -zeta only
  extract_lets r
  have hr : MemoryOk r.1 := State.rmw_ok ht
  dsimp -zeta only
  split
  · exact State.wakeSignal_ok hr
  · exact hr

theorem execSigwait_ok {w} (hs : MemoryOk s) : NextOk (execSigwait w s) := by
  unfold execSigwait
  extract_lets su
  refine withCx_ok (fun cx => ?_) hs
  extract_lets v met plan joins
  refine MemOp.run_ok ?_ hs
  intro s1 l a loc ht
  dsimp -zeta only
  extract_lets m
  exact State.locTouch_ok ht

/-! ### Time (R242) -/

theorem execTime_ok {w} (hs : MemoryOk s) : NextOk (execTime w s) := withCx_ok (fun _ => State.commit_ok hs) hs

/-! ### Re-evaluations (R241, R280) -/

theorem State.rouseSlot_ok {core slot p} (hs : MemoryOk s) : MemoryOk (s.rouseSlot core slot p) := by
  unfold State.rouseSlot
  split
  · exact hs
  · exact State.mapWarp_ok hs

theorem execSignalPoll_ok {core slot} (hs : MemoryOk s) : NextOk (execSignalPoll core slot s) := finish_ok (State.rouseSlot_ok hs)

theorem execEventPoll_ok {core slot} (hs : MemoryOk s) : NextOk (execEventPoll core slot s) := finish_ok (State.rouseSlot_ok hs)

theorem execSleepExpiry_ok {core slot} (hs : MemoryOk s) : NextOk (execSleepExpiry core slot s) := by
  unfold execSleepExpiry
  split
  · exact finish_ok hs
  · exact finish_ok (State.mapWarp_ok hs)

theorem execLongLatencyResult_ok {core slot id} (hs : MemoryOk s) : NextOk (execLongLatencyResult core slot id s) := by
  unfold execLongLatencyResult
  split
  · exact finish_ok hs
  · exact finish_ok (State.mapWarp_ok hs)

/-! ### This device as a target (R305, R306, R380, R381) -/

theorem State.respond_ok {peer tag a} (hs : MemoryOk s) : MemoryOk (s.respond peer tag a) := State.emit_ok (State.flit_ok hs)

theorem State.targetTouch_ok {c store ps} (hs : MemoryOk s) : MemoryOk (s.targetTouch c store ps) := State.useParts_ok hs

theorem State.performRequest_ok {c r ps} (hs : MemoryOk s) : MemoryOk (s.performRequest c r ps) := by
  unfold State.performRequest
  extract_lets old bad sz new t
  have ht : MemoryOk t := by
    unfold t
    clear_value new
    split
    · exact memoryOk_ite hs (State.wakeSignal_ok (State.bumpBy_ok (State.hbmWrite_ok hs)))
    · exact hs
  exact State.respond_ok (State.targetTouch_ok ht)

theorem State.serve_ok {r} (hs : MemoryOk s) : SomeOk (s.serve r) := by
  unfold State.serve
  split
  · split
    · exact .none
    · exact .some (State.respond_ok hs)
  · split
    · exact .none
    · split
      · exact .some (State.respond_ok hs)
      · exact .none
      · exact .some hs
      · split
        · exact .some (State.respond_ok hs)
        · exact .some (State.performRequest_ok hs)

theorem State.writeLine_ok {pa l} (hs : MemoryOk s) : MemoryOk (s.writeLine pa l) := by
  unfold State.writeLine
  refine memoryOk_foldl (fun t a ht => ?_) hs
  extract_lets mine t1
  have ht1 : MemoryOk t1 := memoryOk_ite (State.hbmWrite_ok ht) (memoryOk_foldl (fun _ _ ht1 => State.hbmWrite_ok ht1) ht)
  exact memoryOk_ite (State.poisonGranules_ok ht1) ht1

theorem State.logLine_ok {ctx l cause} (hs : MemoryOk s) : SomeOk (s.logLine ctx l cause) := by
  unfold State.logLine
  extract_lets page ctx1 known repair src
  split
  · exact .none
  · exact .some (State.respond_ok (State.postStoreLog_ok hs))

theorem State.takeLine_ok {before l} (hs : MemoryOk s) : SomeOk (s.takeLine before l) := by
  unfold State.takeLine
  split
  · exact .none
  · split
    · exact State.logLine_ok hs
    · split
      · exact State.logLine_ok hs
      · split
        · exact State.logLine_ok hs
        · exact .none
        · exact .some hs
        · split
          · split
            · exact State.logLine_ok hs
            · exact .some (State.respond_ok (State.targetTouch_ok (State.writeLine_ok hs)))
          · exact .none

theorem State.serveStalled_ok (hs : MemoryOk s) : MemoryOk s.serveStalled := by
  unfold State.serveStalled
  extract_lets t
  have ht : MemoryOk t := by
    refine memoryOk_foldl (fun u l hu => ?_) hs
    split
    · rename_i e
      refine State.takeLine_ok ?_ _ e
      exact hu
    · exact hu
  refine memoryOk_foldl (fun u r hu => ?_) ht
  split
  · rename_i e
    refine State.serve_ok ?_ _ e
    exact hu
  · exact hu

theorem execRemoteRequest_ok {r} (hs : MemoryOk s) : NextOk (execRemoteRequest r s) :=
  finish_ok (memoryOk_getD (State.serve_ok hs) hs)

theorem execRemoteStoreLine_ok {l} (hs : MemoryOk s) : NextOk (execRemoteStoreLine l s) :=
  finish_ok (memoryOk_getD (State.takeLine_ok hs) hs)

/-! ### Responses (R221, R306, R307) -/

theorem State.goOnAll_ok (hs : MemoryOk s) : MemoryOk s.goOnAll :=
  State.retryAllJoins_ok (memoryOk_foldl (fun _ _ ht => State.drainAll_ok ht) (State.resend_ok hs))

theorem execRemoteResponse_ok {r} (hs : MemoryOk s) : NextOk (execRemoteResponse r s) :=
  finish_ok (State.tidy_ok (State.goOnAll_ok hs))

theorem execWcAgeing_ok {core line} (hs : MemoryOk s) : NextOk (execWcAgeing core line s) := finish_ok (State.drainWc_ok hs)

/-! ### Peers that become unreachable (R382) -/

theorem State.keepLost_ok {r} (hs : MemoryOk s) : MemoryOk (s.keepLost r) := hs

theorem State.parkWarps_ok {fuel rs} (hs : MemoryOk s) : MemoryOk (s.parkWarps fuel rs) := by
  induction fuel generalizing s rs with
  | zero => exact hs
  | succ fuel ih =>
    cases rs with
    | nil => exact hs
    | cons r rs =>
      unfold State.parkWarps
      extract_lets mine group ls
      split
      · extract_lets waits stop parks t
        have ht : MemoryOk t := memoryOk_ite (State.forget_ok (State.parkAll_ok hs)) (State.keepLost_ok hs)
        exact ih ht
      · exact ih hs

theorem State.loseOps_ok {p} (hs : MemoryOk s) : MemoryOk (s.loseOps p) :=
  State.parkWarps_ok (memoryOk_foldl (fun _ _ ht => State.endRemote_ok (memoryOk_ite ht (State.mapOp_ok ht))) hs)

theorem State.postLost_ok {core ctx p n} (hs : MemoryOk s) : MemoryOk (s.postLost core ctx p n) := State.postFault_ok hs

theorem State.loseLines_ok {p} (hs : MemoryOk s) : MemoryOk (s.loseLines p) :=
  memoryOk_foldl (fun _ _ ht => State.postLost_ok ht) hs

theorem State.parkReleases_ok {core} (hs : MemoryOk s) : MemoryOk (s.parkReleases core) := by
  unfold State.parkReleases
  refine memoryOk_foldl (fun t a ht => ?_) hs
  refine memoryOk_foldl (fun t1 a1 ht1 => ?_) ht
  split
  · exact ht1
  · exact memoryOk_foldl (fun _ _ ht2 => State.parkAll_ok ht2) ht1

theorem State.losePeer_ok {p} (hs : MemoryOk s) : MemoryOk (s.losePeer p) := by
  unfold State.losePeer
  extract_lets cores t
  have ht : MemoryOk t := memoryOk_foldl (fun _ _ ht => State.parkReleases_ok ht) (State.loseLines_ok hs)
  exact State.tidy_ok (State.goOnAll_ok (State.loseOps_ok ht))

theorem State.moveFlits_ok {c} (hs : MemoryOk s) : MemoryOk (s.moveFlits c) := by
  unfold State.moveFlits
  split
  · exact hs
  · exact memoryOk_ite hs (State.emit_ok hs)

theorem State.withChans_ok {f} (hs : MemoryOk s) : MemoryOk (s.withChans f) :=
  memoryOk_foldl (fun _ _ ht => State.losePeer_ok ht) (memoryOk_foldl (fun _ _ ht => State.moveFlits_ok ht) hs)

/-! ### Flits (R378) -/

theorem State.countReplay_ok {peer plane} (hs : MemoryOk s) : MemoryOk (s.countReplay peer plane) := State.withChans_ok hs

theorem execFlitReceive_ok {f} (hs : MemoryOk s) : NextOk (execFlitReceive f s) := by
  unfold execFlitReceive
  split
  · exact finish_ok hs
  · split
    · exact finish_ok hs
    · extract_lets fixed bad t
      have ht : MemoryOk t := memoryOk_ite (State.withChans_ok (State.bump_ok hs)) hs
      split
      · split
        · exact finish_ok (memoryOk_ite ht (State.countReplay_ok ht))
        · split
          · exact finish_ok (State.withChans_ok ht)
          · exact finish_ok (State.emit_ok (State.withChans_ok ht))
      · split
        · exact finish_ok (State.bump_ok (State.withChans_ok ht))
        · split
          · exact finish_ok ht
          · exact finish_ok (State.countReplay_ok ht)

theorem execReplayRequest_ok {peer plane seq} (hs : MemoryOk s) : NextOk (execReplayRequest peer plane seq s) := by
  unfold execReplayRequest
  split
  · exact finish_ok hs
  · extract_lets n
    split
    · exact finish_ok hs
    · exact finish_ok (State.emit_ok (State.bumpBy_ok hs))

theorem execChannelSilence_ok {peer plane} (hs : MemoryOk s) : NextOk (execChannelSilence peer plane s) := by
  unfold execChannelSilence
  split
  · exact finish_ok hs
  · split
    · split
      · exact finish_ok hs
      · exact finish_ok (State.withChans_ok hs)
    · split
      · exact finish_ok hs
      · exact finish_ok (State.withChans_ok hs)

/-! ### Health (R379) -/

theorem execHealthWindow_ok {peer plane} (hs : MemoryOk s) : NextOk (execHealthWindow peer plane s) := by
  unfold execHealthWindow
  split
  · exact finish_ok hs
  · split
    · exact finish_ok hs
    · exact finish_ok (memoryOk_ite (State.emit_ok (State.withChans_ok hs)) (State.withChans_ok hs))

theorem execHealthReport_ok {r} (hs : MemoryOk s) : NextOk (execHealthReport r s) := by
  unfold execHealthReport
  split
  · exact finish_ok (State.withChans_ok hs)
  · exact finish_ok hs

/-! ### Link-up and pod changes (R303, R314, R383, R390, R391) -/

theorem State.relock_ok {p} (hs : MemoryOk s) : MemoryOk (s.relock p) := by
  unfold State.relock
  extract_lets bit src
  split
  · exact hs
  · exact memoryOk_ite hs hs

theorem execLinkUp_ok {l} (hs : MemoryOk s) : NextOk (execLinkUp l s) := by
  unfold execLinkUp
  extract_lets ver chans src t
  have ht : MemoryOk t := hs
  split
  · exact finish_ok hs
  · exact finish_ok (State.tidy_ok (State.goOnAll_ok (State.relock_ok ht)))

theorem State.frameTo_ok {peer plane} (hs : MemoryOk s) : MemoryOk (s.frameTo peer plane) := memoryOk_ite hs (State.emit_ok hs)

theorem State.cutPeer_ok {p} (hs : MemoryOk s) : MemoryOk (s.cutPeer p) := by
  unfold State.cutPeer
  extract_lets chans fab
  refine State.losePeer_ok ?_
  exact memoryOk_fab hs

theorem State.hold_ok {m} (hs : MemoryOk s) : MemoryOk (s.hold m) :=
  memoryOk_foldl (fun _ _ ht => memoryOk_ite ht (memoryOk_ite (State.cutPeer_ok ht) ht)) hs

theorem State.podSet_ok {keep limit} (hs : MemoryOk s) : MemoryOk (s.podSet keep limit) :=
  memoryOk_foldl (fun _ _ ht => State.frameTo_ok ht) (memoryOk_foldl (fun _ _ ht => State.cutPeer_ok ht) hs)

theorem execDarkLimitExpiry_ok (hs : MemoryOk s) : NextOk (execDarkLimitExpiry s) := by
  unfold execDarkLimitExpiry
  split
  · exact finish_ok hs
  · exact finish_ok (memoryOk_foldl (fun _ _ ht => State.cutPeer_ok ht) hs)

/-! ### Replay and discard (R381, R384) -/

theorem State.endRepair_ok {ctx page} (hs : MemoryOk s) : MemoryOk (s.endRepair ctx page) := hs

theorem State.replayLine_ok {c l} (hs : MemoryOk s) : SomeOk (s.replayLine c l) := by
  unfold State.replayLine
  split
  · exact .none
  · split
    · split
      · exact .none
      · exact .some (State.writeLine_ok hs)
    · exact .none

theorem State.replayPage_ok {r} (hs : MemoryOk s) : SomeOk (s.replayPage r) :=
  .map (fun _ ht => State.serveStalled_ok ht)
    (.foldl (fun _ _ ho => .bind (fun _ ht => State.replayLine_ok ht) ho) (.some (State.endRepair_ok hs)))

end Sys2Proof.Machine
end

section
/-!
SUPPORT. Memories in their canonical form, part 9: flow and logic instructions, queues and packets.
-/
namespace Sys2Proof.Machine

open Safety (MemoryOk)

variable {s : State}

theorem State.inOrder_ok {cx f} (hf : ∀ (t : State), MemoryOk t → ∀ (a : ℕ) (a_1 : Lane), MemoryOk (f t a a_1).1)
    (hs : MemoryOk s) :
    MemoryOk (s.inOrder cx f) := by
  unfold State.inOrder
  extract_lets r
  have hr : MemoryOk r.1 := by
    unfold r
    refine memoryOk_foldl_fst (fun q a ht => ?_) hs
    split
    · exact ht
    · extract_lets y
      have hy : MemoryOk y.1 := hf _ ht _ _
      exact hy
  exact State.commit_ok hr

/-! ### RELABEL (R35, R189) -/

theorem State.relabel_ok {cx l it label cls} (hs : MemoryOk s) : MemoryOk (s.relabel cx l it label cls) := by
  unfold State.relabel
  extract_lets ctx t t1 r t2
  have ht : MemoryOk t := memoryOk_ite (State.release_ok hs) hs
  have ht1 : MemoryOk t1 := memoryOk_ite (State.giveExcl_ok ht) ht
  have hr : MemoryOk r.1 := State.joinFlow_ok ht1
  have ht2 : MemoryOk t2 := State.mapLane_ok hr
  exact memoryOk_ite (State.passExcl_ok ht2) ht2

theorem execRelabel_ok {w} (hs : MemoryOk s) : NextOk (execRelabel w s) := by
  unfold execRelabel
  refine withCx_ok (fun cx => ?_) hs
  refine State.inOrder_ok (fun t ht a a_1 => ?_) hs
  extract_lets a1 b
  split
  · exact ht
  · split
    · exact ht
    · split
      · exact ht
      · split
        · exact ht
        · exact State.relabel_ok ht

/-! ### ORDREL and ORDSKIP (R33, R34, R190, R191) -/

theorem State.releaseOnce_ok {cx l it r} (hs : MemoryOk s) : MemoryOk (s.releaseOnce cx l it r).1 := by
  unfold State.releaseOnce
  split
  · exact hs
  · exact State.release_ok (State.mapLane_ok hs)

theorem State.deliverNow_ok {cx bs} (hs : MemoryOk s) : MemoryOk (s.deliverNow cx bs).1 := by
  unfold State.deliverNow
  split
  · exact State.deliver_ok hs
  · exact hs

theorem ordrelLane_ok {cx w l x} (hs : MemoryOk s) : MemoryOk (ordrelLane cx w s l x).1 := by
  unfold ordrelLane
  extract_lets len n words bs
  split
  · exact hs
  · split
    · exact hs
    · split
      · exact hs
      · split
        · exact hs
        · split
          · exact State.releaseOnce_ok hs
          · exact State.deliverNow_ok hs

theorem execOrdrel_ok {w} (hs : MemoryOk s) : NextOk (execOrdrel w s) := by
  unfold execOrdrel
  refine withCx_ok (fun cx => ?_) hs
  split
  · split
    · exact State.inOrder_ok (fun _ ht _ _ => ordrelLane_ok ht) hs
    · exact State.stall_ok hs
  · exact State.stall_ok (State.drainWc_ok hs)

theorem execOrdskip_ok {w} (hs : MemoryOk s) : NextOk (execOrdskip w s) := by
  unfold execOrdskip
  refine withCx_ok (fun cx => ?_) hs
  refine State.inOrder_ok (fun t ht a a_1 => ?_) hs
  split
  · exact ht
  · split
    · exact State.releaseOnce_ok ht
    · exact ht

/-! ### HOLD (R192, R300) -/

theorem execHold_ok {w} (hs : MemoryOk s) : NextOk (execHold w s) := by
  unfold execHold
  refine withCx_ok (fun cx => ?_) hs
  refine State.inOrder_ok (fun t ht a a_1 => ?_) hs
  extract_lets a1
  split
  · exact ht
  · split
    · exact ht
    · split
      · exact ht
      · split
        · exact ht
        · exact State.drain_ok (State.mapFlow_ok ht)

/-! ### FLOWKILL (R36, R193, R370) -/

theorem State.markKills_ok {c label below} (hs : MemoryOk s) : MemoryOk (s.markKills c label below) :=
  memoryOk_foldl (fun _ _ ht => ht) hs

theorem State.dropLabel_ok {c label below} (hs : MemoryOk s) : MemoryOk (s.dropLabel c label below) := State.markKills_ok hs

theorem State.flowKill_ok {c label below} (hs : MemoryOk s) : MemoryOk (s.flowKill c label below) := by
  unfold State.flowKill
  extract_lets t t1
  have ht : MemoryOk t := memoryOk_foldl (fun _ _ ht => State.cancelOp_ok ht) hs
  have ht1 : MemoryOk t1 := State.dropLabel_ok ht
  refine memoryOk_wgs_map (fun g hg => ?_) ht1
  split
  · exact hg
  · exact hg

theorem State.reportKilled_ok {g w} (hs : MemoryOk s) : MemoryOk (s.reportKilled g w) := by
  unfold State.reportKilled
  extract_lets hits keys
  refine memoryOk_foldl (fun t a ht => ?_) hs
  extract_lets ls
  split
  · exact ht
  · exact State.postFault_ok ht

theorem State.endKilled_ok (hs : MemoryOk s) : MemoryOk s.endKilled := by
  unfold State.endKilled
  refine memoryOk_foldl (fun t a ht => ?_) hs
  refine memoryOk_foldl (fun t1 a1 ht1 => ?_) ht
  split
  · exact ht1
  · exact memoryOk_ite ht1 (State.exitLanes_ok (State.reportKilled_ok ht1))

theorem execFlowkill_ok {w} (hs : MemoryOk s) : NextOk (execFlowkill w s) := by
  unfold execFlowkill
  refine withCx_ok (fun cx => ?_) hs
  extract_lets below read
  have hread : MemoryOk read := State.agentGets_ok hs
  split
  · exact State.stall_ok hread
  · refine State.tidy_ok ?_
    refine State.endKilled_ok ?_
    refine State.inOrder_ok (fun t ht a a_1 => ?_) hread
    extract_lets a1
    split
    · exact ht
    · exact State.flowKill_ok ht

/-! ### ENQ (R194) -/

theorem execEnq_ok {w} (hs : MemoryOk s) : NextOk (execEnq w s) := by
  unfold execEnq
  refine withCx_ok (fun cx => ?_) hs
  extract_lets q bytes held plan t
  have ht : MemoryOk t := by
    unfold t
    refine memoryOk_foldl (fun t1 a ht => ?_) hs
    split
    · exact State.queueWait_ok ht
    · exact ht
  refine MemOp.run_ok ?_ ht
  intro s1 l a loc ht1
  dsimp -zeta only
  split
  · exact ht1
  · extract_lets t1 r
    have ht11 : MemoryOk t1 := State.locTouch_ok ht1
    have hr : MemoryOk r.1 := State.enqueue_ok ht11
    split
    · exact ht11
    · split
      · exact hr
      · exact hr

theorem execAnd_ok {w} (hs : MemoryOk s) : NextOk (execAnd w s) := laneOp_ok hs

theorem execOr_ok {w} (hs : MemoryOk s) : NextOk (execOr w s) := laneOp_ok hs

theorem execXor_ok {w} (hs : MemoryOk s) : NextOk (execXor w s) := laneOp_ok hs

theorem execAndn_ok {w} (hs : MemoryOk s) : NextOk (execAndn w s) := laneOp_ok hs

theorem execOrn_ok {w} (hs : MemoryOk s) : NextOk (execOrn w s) := laneOp_ok hs

theorem execNot_ok {w} (hs : MemoryOk s) : NextOk (execNot w s) := laneOp_ok hs

theorem execLop3_ok {w} (hs : MemoryOk s) : NextOk (execLop3 w s) := laneOp_ok hs

theorem execShl_ok {w} (hs : MemoryOk s) : NextOk (execShl w s) := laneOp_ok hs

theorem execShr_ok {w} (hs : MemoryOk s) : NextOk (execShr w s) := laneOp_ok hs

theorem execSar_ok {w} (hs : MemoryOk s) : NextOk (execSar w s) := laneOp_ok hs

theorem execRol_ok {w} (hs : MemoryOk s) : NextOk (execRol w s) := laneOp_ok hs

theorem execRor_ok {w} (hs : MemoryOk s) : NextOk (execRor w s) := laneOp_ok hs

theorem execFshl_ok {w} (hs : MemoryOk s) : NextOk (execFshl w s) := laneOp_ok hs

theorem execFshr_ok {w} (hs : MemoryOk s) : NextOk (execFshr w s) := laneOp_ok hs

/-! ### Examining a queue (R269, R281, R369, R388, R393) -/

theorem State.postStop_ok {c q addr num csig tag err cause} (hs : MemoryOk s) :
    MemoryOk (s.postStop c q addr num csig tag err cause) :=
  State.postService_ok hs

theorem State.await_ok {c page} (hs : MemoryOk s) : MemoryOk (s.await c page) := by
  unfold State.await
  split
  · exact State.agentWait_ok hs
  · exact hs

theorem Tried.after_ok {t : Tried State} {c} (ht : TriedOk t) (hs : MemoryOk s) : MemoryOk (t.after c s) := by
  unfold Tried.after
  split
  · exact ht _ rfl
  · exact State.await_ok hs

theorem State.blockQueue_ok {c q cause} (hs : MemoryOk s) : TriedOk (s.blockQueue c q cause) :=
  TriedOk.ite (.ok hs) (TriedOk.ite (.ok (State.postStop_ok (State.mapQueue_ok hs))) .error)

theorem State.putQState_ok {c q st err} (hs : MemoryOk s) : TriedOk (s.putQState c q st err) := by
  unfold State.putQState
  split
  · exact .error
  · rename_i e
    have hu := memoryOk_of_eq (State.agentWrite_ok hs) e
    exact State.blockQueue_ok hu
  · rename_i e
    have hu := memoryOk_of_eq (State.agentWrite_ok hs) e
    exact .ok hu

theorem State.unmap_ok {x} (hs : MemoryOk s) : MemoryOk (s.unmap x) := hs

theorem State.setReady_ok {ctx q cls ready} (hs : MemoryOk s) : MemoryOk (s.setReady ctx q cls ready) := by
  unfold State.setReady
  split
  · exact State.mapQueue_ok hs
  · extract_lets t
    have ht : MemoryOk t := State.mapQueue_ok hs
    split
    · exact State.unmap_ok ht
    · exact ht

theorem State.examine_ok {c q} (hs : MemoryOk s) : MemoryOk (s.examine c q) := by
  unfold State.examine
  extract_lets cls live
  split
  · exact hs
  · split
    · exact State.setReady_ok hs
    · split
      · rename_i e
        have hu := memoryOk_of_eq (State.agentGet_ok hs) e
        exact hu
      · rename_i e
        have hu := memoryOk_of_eq (State.agentGet_ok hs) e
        exact hu
      · rename_i e
        have hu := memoryOk_of_eq (State.agentGet_ok hs) e
        exact State.setReady_ok (Tried.after_ok (State.blockQueue_ok hu) hu)
      · rename_i e
        have hu := memoryOk_of_eq (State.agentGet_ok hs) e
        extract_lets d t t1
        have ht : MemoryOk t := memoryOk_ite hu (Tried.after_ok (State.putQState_ok hu) hu)
        have ht1 : MemoryOk t1 := memoryOk_ite (Tried.after_ok (State.putQState_ok hu) hu) hu
        exact memoryOk_ite (State.setReady_ok ht) (State.setReady_ok ht1)

theorem execQueueExamine_ok {ctx q} (hs : MemoryOk s) : NextOk (execQueueExamine ctx q s) := by
  unfold execQueueExamine
  split
  · exact finish_ok hs
  · exact finish_ok (State.examine_ok hs)

/-! ### Slots (R281, R282) -/

theorem State.mapTo_ok {x slot} (hs : MemoryOk s) : MemoryOk (s.mapTo x slot) := hs

theorem State.evict_ok {x} (hs : MemoryOk s) : MemoryOk (s.evict x) := State.mapQueue_ok (State.unmap_ok (State.preemptWgs_ok hs))

theorem execQueueSlotMap_ok {ctx q} (hs : MemoryOk s) : NextOk (execQueueSlotMap ctx q s) := by
  unfold execQueueSlotMap
  split
  · exact finish_ok hs
  · split
    · exact finish_ok hs
    · split
      · exact finish_ok (State.mapTo_ok hs)
      · split
        · exact finish_ok (State.mapTo_ok (State.evict_ok hs))
        · exact finish_ok hs

theorem execTimeSliceEnd_ok {slot} (hs : MemoryOk s) : NextOk (execTimeSliceEnd slot s) := by
  unfold execTimeSliceEnd
  split
  · exact finish_ok hs
  · split
    · exact finish_ok hs
    · split
      · exact finish_ok (State.mapTo_ok (State.evict_ok hs))
      · extract_lets same next
        clear_value next
        split
        · exact finish_ok hs
        · exact finish_ok hs

/-! ### Completion signals and aborts (R271, R278, R369, R393) -/

theorem State.csig_ok {c a opc d} (hs : MemoryOk s) : TriedPairOk (s.csig c a opc d) := by
  unfold State.csig
  split
  · exact .ok hs
  · split
    · exact .error
    · rename_i e
      have hu := memoryOk_of_eq (State.sigUpdate_ok hs) e
      exact .ok hu
    · rename_i e
      have hu := memoryOk_of_eq (State.sigUpdate_ok hs) e
      exact .ok hu

theorem State.mark_ok {c a} (hs : MemoryOk s) : TriedPairOk (s.mark c a) := State.csig_ok hs

theorem State.abortRing_ok {c q d fuel x} (hs : MemoryOk s) : TriedOk (s.abortRing c q d fuel x) := by
  induction fuel generalizing c q d x s with
  | zero =>
    unfold State.abortRing
    split
    · exact .error
    · rename_i e
      have hu := memoryOk_of_eq (State.agentWrite_ok hs) e
      exact State.blockQueue_ok hu
    · rename_i e
      have hu := memoryOk_of_eq (State.agentWrite_ok hs) e
      exact .ok hu
  | succ fuel ih =>
    unfold State.abortRing
    split
    · exact .error
    · rename_i e
      have hu := memoryOk_of_eq (State.agentGet_ok hs) e
      exact .ok hu
    · rename_i e
      have hu := memoryOk_of_eq (State.agentGet_ok hs) e
      exact ih hu
    · rename_i e
      have hu := memoryOk_of_eq (State.agentGet_ok hs) e
      extract_lets t
      have ht : MemoryOk t := memoryOk_ite hu hu
      split
      · exact .error
      · rename_i e1
        have hu1 := (State.mark_ok ht) _ _ e1
        exact ih hu1

theorem State.abortTaken_ok {c q} (hs : MemoryOk s) : TriedOk (s.abortTaken c q) := by
  unfold State.abortTaken
  split
  · exact .ok hs
  · exact TriedPairOk.map (fun _ ht => ht) (State.mark_ok hs)

theorem State.stopQueue_ok {c p err cause} (hs : MemoryOk s) : TriedOk (s.stopQueue c p err cause) := by
  unfold State.stopQueue
  extract_lets q
  split
  · exact .error
  · rename_i e
    have hu := (TriedOk.ite (State.putQState_ok hs) .error) _ e
    split
    · exact .error
    · rename_i e1
      have hu1 := (State.abortTaken_ok (State.postStop_ok hu)) _ e1
      split
      · exact .error
      · rename_i e2
        have hu2 := memoryOk_of_eq (State.agentGet_ok hu1) e2
        exact .ok hu2
      · rename_i e2
        have hu2 := memoryOk_of_eq (State.agentGet_ok hu1) e2
        exact State.blockQueue_ok hu2
      · rename_i e2
        have hu2 := memoryOk_of_eq (State.agentGet_ok hu1) e2
        exact State.abortRing_ok hu2

theorem State.abort_ok {c p err cause} (hs : MemoryOk s) : TriedOk (s.abort c p err cause) := by
  unfold State.abort
  split
  · exact .error
  · rename_i e
    have hu := (State.mark_ok hs) _ _ e
    exact State.stopQueue_ok hu

theorem State.dropPkt_ok {k} (hs : MemoryOk s) : MemoryOk (s.dropPkt k) := hs

theorem State.abortPkt_ok {c p err cause} (hs : MemoryOk s) : MemoryOk (s.abortPkt c p err cause) := by
  unfold State.abortPkt
  split
  · rename_i e
    have hu := (State.abort_ok (State.dropPkt_ok hs)) _ e
    exact hu
  · exact State.await_ok (State.mapPkt_ok hs)

theorem State.abortRunning_ok {c p cause} (hs : MemoryOk s) : MemoryOk (s.abortRunning c p cause) := by
  unfold State.abortRunning
  split
  · rename_i e
    have hu := (State.abort_ok hs) _ e
    exact State.mapPkt_ok hu
  · exact State.await_ok (State.mapPkt_ok hs)

/-! ### Barriers (R276, R279, R280) -/

theorem State.evaluate_ok {c p} (hs : MemoryOk s) : MemoryOk (s.evaluate c p) := by
  unfold State.evaluate
  split
  · split
    · exact hs
    · extract_lets read
      have hread : MemoryOk read := State.agentGets_ok hs
      split
      · exact hread
      · split
        · exact State.mapPkt_ok hread
        · exact State.abortPkt_ok hread
        · exact hread
  · exact hs

theorem execBarrierEvaluate_ok {ctx q n} (hs : MemoryOk s) : NextOk (execBarrierEvaluate ctx q n s) := by
  unfold execBarrierEvaluate
  split
  · exact finish_ok (State.evaluate_ok hs)
  · exact finish_ok hs

/-! ### Starting (R27, R271, R275 to R277, R285, R294) -/

theorem State.configure_ok {x} (hs : MemoryOk s) : MemoryOk (s.configure x) := memoryOk_ite hs hs

theorem State.startPkt_ok {c p} (hs : MemoryOk s) : MemoryOk (s.startPkt c p) := by
  unfold State.startPkt
  extract_lets go t
  have hgo : ∀ {t : State}, MemoryOk t → MemoryOk (go t) := by
    unfold go
    intro t1 ht
    exact State.mapPkt_ok ht
  have ht : MemoryOk t := State.mapLaunch_ok (hgo hs)
  split
  · exact memoryOk_ite (memoryOk_ite hs (State.mapLaunch_ok (hgo hs))) (State.openColumn_ok ht)
  · extract_lets watch go1 t1
    have hgo1 : ∀ {t : State}, MemoryOk t → MemoryOk (go1 t) := by
      unfold go1
      intro t2 ht1
      exact State.mapPkt_ok ht1
    have ht1 : MemoryOk t1 := by
      unfold t1
      refine memoryOk_foldl (fun t2 a ht1 => ?_) (hgo1 hs)
      split
      · exact State.evRegister_ok ht1
      · exact ht1
    split
    · exact State.evaluate_ok ht1
    · exact ht1
  · exact hgo hs

/-! ### Taking (R271, R272, R393) -/

theorem State.acceptPkt_ok {c p bs} (hs : MemoryOk s) : MemoryOk (s.acceptPkt c p bs) := by
  unfold State.acceptPkt
  extract_lets t
  have ht : MemoryOk t := by
    unfold t
    split
    · split
      · exact hs
      · exact hs
    · exact hs
    · exact memoryOk_ite (State.configure_ok hs) hs
    · exact hs
  split
  · exact State.startPkt_ok ht
  · exact ht

theorem State.takeNext_ok {c q d want} (hs : MemoryOk s) : MemoryOk (s.takeNext c q d want) := by
  unfold State.takeNext
  extract_lets k read bs p check bs1 p1 check1
  clear_value read
  split
  · exact State.agentWait_ok hs
  · exact hs
  · split
    · exact hs
    · split
      · exact State.agentWait_ok hs
      · exact Tried.after_ok (State.blockQueue_ok hs) hs
      · rename_i e
        have hu := memoryOk_of_eq (State.agentWrite_ok hs) e
        extract_lets t t1
        have ht : MemoryOk t := State.agentGets_ok hu
        have ht1 : MemoryOk t1 := memoryOk_ite ht ht
        clear_value check
        split
        · exact State.acceptPkt_ok ht1
        · exact Tried.after_ok (State.abort_ok ht1) hs
        · exact State.agentWait_ok hs
        · exact hs
  · split
    · exact hs
    · split
      · exact State.agentWait_ok hs
      · exact Tried.after_ok (State.blockQueue_ok hs) hs
      · rename_i e
        have hu := memoryOk_of_eq (State.agentWrite_ok hs) e
        extract_lets t t1
        have ht : MemoryOk t := State.agentGets_ok hu
        have ht1 : MemoryOk t1 := memoryOk_ite ht ht
        clear_value check1
        split
        · exact State.acceptPkt_ok ht1
        · exact Tried.after_ok (State.abort_ok ht1) hs
        · exact State.agentWait_ok hs
        · exact hs

theorem State.takePacket_ok {ctx q want} (hs : MemoryOk s) : MemoryOk (s.takePacket ctx q want) := by
  unfold State.takePacket
  split
  · exact hs
  · split
    · exact hs
    · split
      · rename_i e
        have hu := memoryOk_of_eq (State.agentGet_ok hs) e
        exact hu
      · rename_i e
        have hu := memoryOk_of_eq (State.agentGet_ok hs) e
        exact hu
      · rename_i e
        have hu := memoryOk_of_eq (State.agentGet_ok hs) e
        exact Tried.after_ok (State.blockQueue_ok hu) hu
      · rename_i e
        have hu := memoryOk_of_eq (State.agentGet_ok hs) e
        exact memoryOk_ite hu (State.takeNext_ok hu)

theorem execLaunch_ok {ctx q} (hs : MemoryOk s) : NextOk (execLaunch ctx q s) := finish_ok (State.takePacket_ok hs)

theorem execFlowlaunch_ok {ctx q} (hs : MemoryOk s) : NextOk (execFlowlaunch ctx q s) := finish_ok (State.takePacket_ok hs)

theorem execBarrierAnd_ok {ctx q} (hs : MemoryOk s) : NextOk (execBarrierAnd ctx q s) := finish_ok (State.takePacket_ok hs)

theorem execBarrierOr_ok {ctx q} (hs : MemoryOk s) : NextOk (execBarrierOr ctx q s) := finish_ok (State.takePacket_ok hs)

theorem execCopyPacket_ok {ctx q} (hs : MemoryOk s) : NextOk (execCopyPacket ctx q s) := finish_ok (State.takePacket_ok hs)

theorem execTickcfg_ok {ctx q} (hs : MemoryOk s) : NextOk (execTickcfg ctx q s) := finish_ok (State.takePacket_ok hs)

theorem execTickcfgStop_ok {ctx q} (hs : MemoryOk s) : NextOk (execTickcfgStop ctx q s) := finish_ok (State.takePacket_ok hs)

theorem execUnassignedPacketType_ok {ctx q} (hs : MemoryOk s) : NextOk (execUnassignedPacketType ctx q s) :=
  finish_ok (State.takePacket_ok hs)

theorem execPacketStart_ok {ctx q n} (hs : MemoryOk s) : NextOk (execPacketStart ctx q n s) := by
  unfold execPacketStart
  split
  · exact finish_ok (memoryOk_ite hs (State.startPkt_ok hs))
  · refine finish_ok ?_
    split
    · rename_i e
      obtain ⟨c, -, e⟩ := Option.map_eq_some_iff.mp e
      have ht := memoryOk_of_eq (State.agentGet_ok hs) e
      exact memoryOk_ite (State.takePacket_ok ht) ht
    · rename_i e
      obtain ⟨c, -, e⟩ := Option.map_eq_some_iff.mp e
      exact memoryOk_of_eq (State.agentGet_ok hs) e
    · exact hs
  · exact finish_ok hs

/-! ### Completing (R271, R277) -/

theorem State.completePkt_ok {c p} (hs : MemoryOk s) : MemoryOk (s.completePkt c p) := by
  unfold State.completePkt
  split
  · exact State.await_ok hs
  · rename_i e
    have hu := (State.csig_ok (State.dropPkt_ok hs)) _ _ e
    exact hu
  · rename_i e
    have hu := (State.csig_ok (State.dropPkt_ok hs)) _ _ e
    exact Tried.after_ok (State.stopQueue_ok hu) hs

theorem execPacketComplete_ok {ctx q n} (hs : MemoryOk s) : NextOk (execPacketComplete ctx q n s) := by
  unfold execPacketComplete
  split
  · split
    · exact finish_ok hs
    · split
      · refine finish_ok ?_
        split
        · exact memoryOk_ite (State.abortRunning_ok hs) (State.abortPkt_ok hs)
        · exact State.abortPkt_ok hs
      · split
        · refine finish_ok ?_
          split
          · exact memoryOk_ite (State.drainWc_ok hs) hs
          · exact hs
        · exact finish_ok (State.examine_ok (State.dropOps_ok (State.abortPkt_ok hs)))
        · exact finish_ok (State.examine_ok (State.dropOps_ok (State.completePkt_ok hs)))
  · exact finish_ok hs

/-! ### Flow queue entries (R28, R29, R275, R285) -/

theorem State.closeLaunch_ok {k} (hs : MemoryOk s) : MemoryOk (s.closeLaunch k) := State.mapLaunch_ok hs

theorem State.failFlow_ok {c p cause} (hs : MemoryOk s) : MemoryOk (s.failFlow c p cause) :=
  State.abortRunning_ok (State.closeLaunch_ok hs)

theorem State.newItem_ok {ctx label cls payload tick late} (hs : MemoryOk s) :
    MemoryOk (s.newItem ctx label cls payload tick late).1 := by
  unfold State.newItem
  extract_lets d r
  have hr : MemoryOk r.1 := State.joinFlow_ok hs
  exact hr

theorem State.foundEmpty_ok {k l closed} (hs : MemoryOk s) : MemoryOk (s.foundEmpty k l closed) :=
  memoryOk_ite (State.closeLaunch_ok hs) hs

theorem State.takeEntry_ok {c p l d bs} (hs : MemoryOk s) : MemoryOk (s.takeEntry c p l d bs) := by
  unfold State.takeEntry
  extract_lets label dropped
  split
  · exact hs
  · split
    · exact State.agentWait_ok hs
    · rename_i e
      have hu := memoryOk_of_eq (State.agentWrite_ok hs) e
      exact State.failFlow_ok hu
    · rename_i e
      have hu := memoryOk_of_eq (State.agentWrite_ok hs) e
      exact memoryOk_ite hu (State.enrol_ok (State.mapLaunch_ok (State.newItem_ok hu)))

end Sys2Proof.Machine
end

section
/-!
SUPPORT. Memories in their canonical form, part 10: flow entries, streams, rings, errors, power, start-up, the host and
the system registers.
-/
namespace Sys2Proof.Machine

open Safety (MemoryOk)

variable {s : State}

/-! ### Flow queue entries (R28, R29, R275, R285) -/

theorem State.takeFlow_ok {c p l} (hs : MemoryOk s) : MemoryOk (s.takeFlow c p l) := by
  unfold State.takeFlow
  split
  · exact State.enrol_ok hs
  · split
    · exact hs
    · split
      · rename_i e
        have hu := memoryOk_of_eq (State.agentGet_ok hs) e
        exact hu
      · rename_i e
        have hu := memoryOk_of_eq (State.agentGet_ok hs) e
        exact hu
      · rename_i e
        have hu := memoryOk_of_eq (State.agentGet_ok hs) e
        exact State.failFlow_ok hu
      · rename_i e
        have hu := memoryOk_of_eq (State.agentGet_ok hs) e
        extract_lets d
        split
        · exact State.foundEmpty_ok hu
        · split
          · rename_i e1
            have hu1 := memoryOk_of_eq (State.agentGet_ok hu) e1
            exact hu1
          · rename_i e1
            have hu1 := memoryOk_of_eq (State.agentGet_ok hu) e1
            exact hu1
          · rename_i e1
            have hu1 := memoryOk_of_eq (State.agentGet_ok hu) e1
            exact State.failFlow_ok hu1
          · rename_i e1
            have hu1 := memoryOk_of_eq (State.agentGet_ok hu) e1
            exact State.takeEntry_ok hu1

theorem execFlowEntryTake_ok {ctx q n} (hs : MemoryOk s) : NextOk (execFlowEntryTake ctx q n s) := by
  unfold execFlowEntryTake
  split
  · split
    · exact finish_ok hs
    · split
      · exact finish_ok hs
      · exact finish_ok (State.takeFlow_ok hs)
  · exact finish_ok hs

theorem execPackingDelayExpiry_ok {ctx q n} (hs : MemoryOk s) : NextOk (execPackingDelayExpiry ctx q n s) := by
  unfold execPackingDelayExpiry
  split
  · exact finish_ok hs
  · split
    · exact finish_ok hs
    · exact finish_ok (State.startFlowWarp_ok hs)

/-! ### The window and the tick engine (R292, R294, R295) -/

theorem State.readStamps_ok {c x ns} (hs : MemoryOk s) : MemoryOk (s.readStamps c x ns).1 := State.agentGets_ok hs

theorem State.mapStream_ok {id f} (hs : MemoryOk s) : MemoryOk (s.mapStream id f) := hs

theorem State.offerTick_ok {x late} (hs : MemoryOk s) : MemoryOk (s.offerTick x late) := by
  unfold State.offerTick
  split
  · exact hs
  · extract_lets skip payload r t t1
    have hr : MemoryOk r.1 := State.newItem_ok hs
    have ht : MemoryOk t := State.mapStream_ok hr
    have ht1 : MemoryOk t1 := memoryOk_ite (State.bump_ok ht) ht
    exact memoryOk_ite (State.release_ok ht) ht1

theorem execTickDue_ok {ctx stream} (hs : MemoryOk s) : NextOk (execTickDue ctx stream s) := by
  unfold execTickDue
  split
  · exact finish_ok hs
  · split
    · exact finish_ok hs
    · extract_lets read ready
      have hread : MemoryOk read.1 := State.readStamps_ok hs
      split
      · exact finish_ok hread
      · exact finish_ok (State.offerTick_ok hread)

theorem execTickGraceExpiry_ok {ctx stream} (hs : MemoryOk s) : NextOk (execTickGraceExpiry ctx stream s) := by
  unfold execTickGraceExpiry
  split
  · exact finish_ok hs
  · split
    · exact finish_ok hs
    · extract_lets read
      have hread : MemoryOk read.1 := State.readStamps_ok hs
      split
      · exact finish_ok hread
      · exact finish_ok (State.offerTick_ok hread)

/-! ### Ingest (R291 to R293) -/

theorem State.ingestToken_ok {c x old n bs} (hs : MemoryOk s) : MemoryOk (s.ingestToken c x old n bs).1 := by
  unfold State.ingestToken
  split
  · exact hs
  · split
    · rename_i e
      have hu := memoryOk_of_eq (State.agentWrite_ok hs) e
      exact State.agentWrite_ok hu
    · rename_i e _
      have hu := memoryOk_of_eq (State.agentWrite_ok hs) e
      exact hu

theorem State.ingestTokens_ok {pre c x toks put} (hs : MemoryOk s) : MemoryOk (State.ingestTokens pre c x toks put s) := by
  induction toks generalizing put s with
  | nil => exact hs
  | cons tok rest ih =>
    unfold State.ingestTokens
    extract_lets old
    clear_value old
    cases old with
    | none => exact ih hs
    | some old => exact ih (State.ingestToken_ok hs)

theorem State.ingest_ok {x c bs} (hs : MemoryOk s) : MemoryOk (s.ingest x c bs) := by
  unfold State.ingest
  extract_lets toks stalls read t t1
  have hread : MemoryOk read.1 := State.readStamps_ok hs
  have ht : MemoryOk t := memoryOk_foldl (fun _ _ hu => State.agentWait_ok hu) (memoryOk_ite hread hs)
  have ht1 : MemoryOk t1 := State.ingestTokens_ok (State.bump_ok hread)
  refine memoryOk_ite ?_ (memoryOk_ite (State.offerTick_ok ht1) ht1)
  exact ht

theorem execIngestFrame_ok {port payload} (hs : MemoryOk s) : NextOk (execIngestFrame port payload s) := by
  unfold execIngestFrame
  extract_lets h
  split
  · exact finish_ok hs
  · split
    · exact finish_ok (State.bump_ok hs)
    · split
      · exact finish_ok (State.bump_ok hs)
      · split
        · exact finish_ok (State.bump_ok hs)
        · split
          · exact finish_ok (State.bump_ok hs)
          · split
            · exact finish_ok (State.bump_ok hs)
            · exact finish_ok (State.ingest_ok hs)

/-! ### The timebase (R288 to R290, log 8) -/

theorem State.stepTime_ok {tb} (hs : MemoryOk s) : MemoryOk (s.stepTime tb) := hs

theorem execPtpSync_ok {y} (hs : MemoryOk s) : NextOk (execPtpSync y s) := by
  unfold execPtpSync
  split
  · exact finish_ok hs
  · extract_lets t off good lock tb slew src
    have hsrc : MemoryOk src := State.stepTime_ok hs
    exact finish_ok hsrc

theorem execTbHoldover_ok (hs : MemoryOk s) : NextOk (execTbHoldover s) := by
  unfold execTbHoldover
  extract_lets t
  split
  · exact finish_ok hs
  · exact finish_ok hs

/-! ### Record rings (R348, R363, R380) -/

theorem State.readCount_ok {slot r} (hs : MemoryOk s) : MemoryOk (s.readCount slot r) := by
  unfold State.readCount
  split
  · exact State.physUsed_ok hs
  · exact hs

theorem State.pollRing_ok {slot r} (hs : MemoryOk s) : MemoryOk (s.pollRing slot r).1 := ringDrain_ok hs

theorem execRingConsumedPoll_ok {r} (hs : MemoryOk s) : NextOk (execRingConsumedPoll r s) := by
  unfold execRingConsumedPoll
  split
  · extract_lets t
    have ht : MemoryOk t := State.readCount_ok hs
    split
    · split
      rename_i e
      have hu := memoryOk_of_eq (State.pollRing_ok ht) e
      exact finish_ok hu
    · exact finish_ok ht
  · extract_lets t
    have ht : MemoryOk t := State.readCount_ok hs
    split
    · split
      rename_i e
      have hu := memoryOk_of_eq (State.pollRing_ok ht) e
      exact finish_ok hu
    · exact finish_ok ht
  · extract_lets t
    have ht : MemoryOk t := State.readCount_ok hs
    split
    · split
      rename_i e
      have hu := memoryOk_of_eq (State.pollRing_ok ht) e
      exact finish_ok (State.serveStalled_ok hu)
    · exact finish_ok ht

/-! ### Soft errors (R361, R362) -/

theorem State.errGranules_ok {code gs} (hs : MemoryOk s) : MemoryOk (s.errGranules code gs) := by
  unfold State.errGranules
  extract_lets new t
  have ht : MemoryOk t := State.poisonGranules_ok hs
  exact ht

theorem State.errTile_ok {core slot tile} (hs : MemoryOk s) : MemoryOk (s.errTile core slot tile) := by
  unfold State.errTile
  split
  · exact hs
  · extract_lets t spoilt src t1 t2
    have ht1 : MemoryOk t1 := State.mapWg_ok (fun _ hg => hg) hs
    have ht2 : MemoryOk t2 := by
      unfold t2
      split
      · exact State.mapOp_ok ht1
      · exact ht1
    exact memoryOk_ite hs (State.notify_ok ht2)

theorem State.errAcc_ok {core slot row col} (hs : MemoryOk s) : MemoryOk (s.errAcc core slot row col) := by
  unfold State.errAcc
  split
  · exact hs
  · exact memoryOk_ite hs (State.tell_ok (State.mapOps_ok (State.accMap_ok hs)))

theorem execUncorrectableError_ok {e} (hs : MemoryOk s) : NextOk (execUncorrectableError e s) := by
  unfold execUncorrectableError
  split
  · exact finish_ok (State.errGranules_ok hs)
  · exact finish_ok (State.errGranules_ok hs)
  · exact finish_ok hs
  · exact finish_ok (State.errTile_ok hs)
  · exact finish_ok (State.errAcc_ok hs)
  · split
    · exact finish_ok hs
    · exact finish_ok (memoryOk_ite (State.tell_ok (State.mapWarp_ok hs)) (State.mapWarp_ok hs))
  · exact finish_ok hs
  · exact finish_ok hs

/-! ### Whole contexts (R366, R372, R374) -/

theorem State.saveContext_ok {ctx} (hs : MemoryOk s) : MemoryOk (s.saveContext ctx) :=
  State.mapCtx_ok (memoryOk_foldl (fun _ _ ht => State.unmap_ok ht) (State.saveWgs_ok hs))

/-! ### Power and heat (R330 to R334) -/

theorem execPowerMeasure_ok {m} (hs : MemoryOk s) : NextOk (execPowerMeasure m s) := finish_ok hs

theorem State.trip_ok {die milli} (hs : MemoryOk s) : MemoryOk (s.trip die milli) :=
  State.emit_ok (State.postService_ok (State.drainWc_ok (memoryOk_foldl (fun _ _ ht => State.saveContext_ok ht) hs)))

theorem execJunctionTemperature_ok {r} (hs : MemoryOk s) : NextOk (execJunctionTemperature r s) := by
  unfold execJunctionTemperature
  extract_lets p
  split
  · exact finish_ok (State.trip_ok hs)
  · exact finish_ok hs

theorem execThermalTrip_ok {die milli} (hs : MemoryOk s) : NextOk (execThermalTrip die milli s) := by
  unfold execThermalTrip
  split
  · exact finish_ok hs
  · exact finish_ok (State.trip_ok hs)

theorem execCoolantFlowLow_ok (hs : MemoryOk s) : NextOk (execCoolantFlowLow s) := by
  unfold execCoolantFlowLow
  split
  · exact finish_ok hs
  · exact finish_ok hs

theorem execIdleEntry_ok (hs : MemoryOk s) : NextOk (execIdleEntry s) := by
  unfold execIdleEntry
  split
  · exact finish_ok hs
  · split
    · exact finish_ok hs
    · split
      · exact finish_ok hs
      · exact finish_ok hs

theorem execTelemetrySend_ok (hs : MemoryOk s) : NextOk (execTelemetrySend s) := by
  unfold execTelemetrySend
  split
  · exact finish_ok hs
  · exact finish_ok (State.emit_ok hs)

/-! ### Start-up (R319, R320, R385, R386, log 12) -/

theorem execPowerOn_ok {r} (hs : MemoryOk s) : NextOk (execPowerOn r s) := by
  unfold execPowerOn
  split
  · exact finish_ok hs
  · exact finish_ok hs

/-- A start-up state whose staged image is canonical in place of that of the state. -/
theorem memoryOk_boot {b : Boot} (hb : Memory.wf b.image = true) (hs : MemoryOk s) : MemoryOk { s with boot := b } := by
  obtain ⟨hhbm, hhost, hstage, hcfg, -, hdata⟩ := hs
  exact ⟨hhbm, hhost, hstage, hcfg, hb, hdata⟩

theorem memoryOk_image (hs : MemoryOk s) : Memory.wf s.boot.image = true := by
  obtain ⟨-, -, -, -, himage, -⟩ := hs
  exact himage

theorem Boot.note_image (b : Boot) (step outcome arg : Nat) : (b.note step outcome arg).image = b.image := by
  obtain ⟨j, hj⟩ := b.note_eq step outcome arg
  rw [hj]

theorem Boot.fetch_image (b : Boot) (left : List Nat) (now : Nat) : (b.fetch left now).image = b.image := by
  obtain ⟨j, hj⟩ := b.fetch_eq left now
  rw [hj]

theorem Boot.train_image (b : Boot) : b.train.image = b.image := by
  by_cases h : b.untrained = 0 ∧ b.part.dies = true
  · obtain ⟨j, hj⟩ := Boot.train_succeeds h
    rw [hj]
  · obtain ⟨j, hj⟩ := Boot.train_fails h
    rw [hj]

/-- A start stages no image yet. -/
theorem State.bootStart_ok (hs : MemoryOk s) : MemoryOk s.bootStart := by
  obtain ⟨j, hj⟩ := s.bootStart_eq
  rw [hj]
  have ht : MemoryOk { s with boot := s.startedBoot j } := memoryOk_boot rfl hs
  exact ht

theorem execResetRelease_ok (hs : MemoryOk s) : NextOk (execResetRelease s) := by
  unfold execResetRelease
  split
  · exact finish_ok (State.bootStart_ok hs)
  · exact finish_ok hs

theorem State.sourceFails_ok {step src} (hs : MemoryOk s) : MemoryOk (s.sourceFails step src) := by
  have himage := memoryOk_image hs
  exact memoryOk_boot (by rw [Boot.fetch_image, Boot.note_image, himage]) hs

theorem State.bootImage_ok {src image} (hs : MemoryOk s) : MemoryOk (s.bootImage src image) := by
  have himage := memoryOk_image hs
  by_cases hgood : Config.xmssValid image = true ∧ s.boot.rollback ≤ Config.imageLevel image
  · obtain ⟨j, hj⟩ := State.bootImage_accepted hgood src
    rw [hj]
    exact memoryOk_boot (by rw [Boot.train_image, himage]) hs
  · obtain ⟨j, hj⟩ := State.bootImage_rejected hgood src
    rw [hj]
    exact memoryOk_boot (by rw [Boot.fetch_image, himage]) hs

theorem execImageFetchComplete_ok {r} (hs : MemoryOk s) : NextOk (execImageFetchComplete r s) := by
  unfold execImageFetchComplete
  split
  · exact finish_ok hs
  · split
    · exact finish_ok (State.sourceFails_ok hs)
    · split
      · exact finish_ok (State.bootImage_ok hs)
      · exact finish_ok (State.sourceFails_ok hs)

theorem execBootSourceRetry_ok (hs : MemoryOk s) : NextOk (execBootSourceRetry s) := by
  have himage := memoryOk_image hs
  unfold execBootSourceRetry
  split
  · exact finish_ok hs
  · split
    · exact finish_ok hs
    · exact finish_ok (memoryOk_boot (by rw [Boot.fetch_image, himage]) hs)

/-- A restart keeps the host's memory, and every other memory is as after reset. -/
theorem State.restart_ok {cold} (hs : MemoryOk s) : MemoryOk (s.restart cold) := by
  obtain ⟨-, hhost, -⟩ := hs
  exact ⟨rfl, hhost, rfl, rfl, rfl, fun _ hg => nomatch hg⟩

/-! ### The PCIe function (R309, R310, R312, R319) -/

theorem execConfigRequest_ok {r} (hs : MemoryOk s) : NextOk (execConfigRequest r s) := by
  obtain ⟨hhbm, hhost, hstage, hcfg, hrest⟩ := id hs
  unfold execConfigRequest
  split
  · exact finish_ok (State.emit_ok hs)
  · split
    · exact finish_ok (State.emit_ok ⟨hhbm, hhost, hstage, Memory.wf_write _ _ hcfg, hrest⟩)
    · exact finish_ok (State.emit_ok hs)

theorem execHostBar2Access_ok {r} (hs : MemoryOk s) : NextOk (execHostBar2Access r s) := by
  unfold execHostBar2Access
  extract_lets base
  split
  · split
    · exact finish_ok hs
    · split
      · exact finish_ok (State.emit_ok hs)
      · split
        · exact finish_ok hs
        · exact finish_ok (State.emit_ok (State.physUsed_ok hs))
  · split
    · exact finish_ok hs
    · split
      · exact finish_ok hs
      · exact finish_ok (State.physUsed_ok (State.hbmWrite_ok hs))

theorem State.ring_ok {value} (hs : MemoryOk s) : MemoryOk (s.ring value) := by
  unfold State.ring
  extract_lets ctx q t
  have ht : MemoryOk t := memoryOk_ite (State.mapQueue_ok hs) hs
  split
  · exact hs
  · exact State.examine_ok ht

theorem execDoorbell_ok {value} (hs : MemoryOk s) : NextOk (execDoorbell value s) := by
  unfold execDoorbell
  split
  · exact finish_ok (State.ring_ok hs)
  · exact finish_ok hs

theorem State.unmask_ok (hs : MemoryOk s) : MemoryOk s.unmask :=
  memoryOk_foldl (fun _ _ ht => memoryOk_ite (State.emit_ok ht) ht) hs

/-- A host side with the same staged bytes and configuration space in place of that of the state. -/
theorem memoryOk_host {h : HostPort} (hstage : h.stage = s.host.stage) (hcfg : h.cfg = s.host.cfg) (hs : MemoryOk s) :
    MemoryOk { s with host := h } := by
  obtain ⟨ohbm, ohost, ostage, ocfg, orest⟩ := hs
  exact ⟨ohbm, ohost, hstage ▸ ostage, hcfg ▸ ocfg, orest⟩

theorem State.bar0Write_ok {off bs} (hs : MemoryOk s) : MemoryOk (s.bar0Write off bs) := by
  obtain ⟨hhbm, hhost, hstage, hrest⟩ := id hs
  unfold State.bar0Write
  split
  · exact memoryOk_host rfl rfl hs
  · split
    · exact memoryOk_ite hs (memoryOk_host rfl rfl hs)
    · split
      · exact memoryOk_ite (State.ring_ok hs) hs
      · split
        · split
          · exact State.unmask_ok (memoryOk_host rfl rfl hs)
          · exact hs
        · split
          · exact ⟨hhbm, hhost, Memory.wf_write _ _ hstage, hrest⟩
          · exact hs

theorem State.portMessage_ok {chain m} (hs : MemoryOk s) : MemoryOk (s.portMessage chain m) := memoryOk_ite hs hs

theorem execRegisterWrite_ok {offset data} (hs : MemoryOk s) : NextOk (execRegisterWrite offset data s) := by
  unfold execRegisterWrite
  split
  · exact finish_ok (State.bar0Write_ok hs)
  · exact finish_ok hs

/-! ### Traps (R195 to R197) -/

theorem execTrap_ok {w} (hs : MemoryOk s) : NextOk (execTrap w s) :=
  withCx_ok (fun _ => State.moveAll_ok (fun _ ht _ => noAct_ok ht) hs) hs

theorem execBkpt_ok {w} (hs : MemoryOk s) : NextOk (execBkpt w s) :=
  withCx_ok (fun _ => State.stopLanes_ok (State.mapWarp_ok hs)) hs

theorem execRtt_ok {w} (hs : MemoryOk s) : NextOk (execRtt w s) :=
  withCx_ok (fun _ => State.stopLanes_ok (State.mapWarp_ok hs)) hs

/-! ### System registers (R198, R199, R200) -/

theorem State.csrWrite_ok {ctx wid k l n v} (hs : MemoryOk s) : MemoryOk (s.csrWrite ctx wid k l n v) := by
  unfold State.csrWrite
  extract_lets v1
  split
  · exact State.mapLane_ok hs
  · exact memoryOk_ite (State.mapWarp_ok hs) (memoryOk_ite (State.mapCtx_ok hs) (memoryOk_ite (State.devWrite_ok hs) hs))

theorem execCsrr_ok {w} (hs : MemoryOk s) : NextOk (execCsrr w s) := withCx_ok (fun _ => State.commit_ok hs) hs

theorem execCsrw_ok {w} (hs : MemoryOk s) : NextOk (execCsrw w s) :=
  withCx_ok (fun _ => State.commit_ok (memoryOk_foldl (fun _ _ ht => State.csrWrite_ok ht) hs)) hs

end Sys2Proof.Machine
end

section
/-!
SUPPORT. Memories in their canonical form, part 11: management messages.
-/
namespace Sys2Proof.Machine

open Safety (MemoryOk)

variable {s : State}

theorem State.answer_ok {src r} (hs : MemoryOk s) : MemoryOk (s.answer src r) := by
  unfold State.answer
  extract_lets src1 t src2
  have ht : MemoryOk t := hs
  split
  · exact State.emit_ok ht
  · exact memoryOk_ite (State.msix_ok ht) ht

/-! ### What an operation answers -/

/-- The state that an answer carries. -/
def Ans.state : Ans → State
  | .now t .. => t
  | .whole t _ => t
  | .later t => t

/-- The memories are canonical in the state that an answer carries. -/
def AnsOk (a : Ans) : Prop := MemoryOk a.state

theorem Ans.send_ok {a : Ans} {src} (ha : AnsOk a) : MemoryOk (a.send src) := by
  cases a with
  | now t st v x => exact State.answer_ok ha
  | whole t r => exact State.answer_ok ha
  | later t => exact ha

theorem AnsOk.ite {c : Prop} [Decidable c] {a b : Ans} (ha : AnsOk a) (hb : AnsOk b) : AnsOk (if c then a else b) := by
  split
  · exact ha
  · exact hb

theorem message_ok {op frame f} (hf : ∀ t m, MemoryOk t → AnsOk (f t m)) (hs : MemoryOk s) : NextOk (message op frame f s) := by
  unfold message
  split
  · exact finish_ok hs
  · extract_lets m
    split
    · exact finish_ok hs
    · split
      · exact finish_ok (State.answer_ok hs)
      · split
        · exact finish_ok (Ans.send_ok (hf s m hs))
        · exact finish_ok (State.answer_ok hs)

theorem onCtx_ok {f m} (hf : ∀ t c n, MemoryOk t → AnsOk (f t c n)) (hs : MemoryOk s) : AnsOk (onCtx f s m) := by
  unfold onCtx
  split
  · exact hs
  · exact hf _ _ _ hs

theorem ringMessage_ok {align put m} (hput : ∀ t n, MemoryOk t → MemoryOk (put t n)) (hs : MemoryOk s) :
    AnsOk (ringMessage align put s m) :=
  .ite hs (hput s m hs)

theorem onLanes_ok {f m} (hf : ∀ t x n, MemoryOk t → AnsOk (f t x n)) (hs : MemoryOk s) : AnsOk (onLanes f s m) := by
  unfold onLanes
  split
  · exact hs
  · exact hf _ _ _ hs

theorem onRecords_ok {ok f m} (hf : ∀ t x n, MemoryOk t → MemoryOk (f t x n)) (hs : MemoryOk s) :
    AnsOk (onRecords ok f s m) :=
  onLanes_ok (fun t x n ht => .ite ht (.ite ht (hf t x n ht))) hs

theorem onReg_ok {f m} (hf : ∀ t x r n, MemoryOk t → AnsOk (f t x r n)) (hs : MemoryOk s) : AnsOk (onReg f s m) := by
  refine onLanes_ok (fun t x n ht => ?_) hs
  split
  · exact ht
  · exact .ite ht (.ite ht (hf _ _ _ _ ht))

theorem onHeld_ok {f m} (hf : ∀ t o, MemoryOk t → MemoryOk (f t o)) (hs : MemoryOk s) : AnsOk (onHeld f s m) := by
  unfold onHeld
  split
  · exact hs
  · split
    · exact hs
    · exact hf _ _ hs

theorem onChannel_ok {f m} (hf : ∀ t c, MemoryOk t → MemoryOk (f t c)) (hs : MemoryOk s) : AnsOk (onChannel f s m) := by
  unfold onChannel
  split
  · exact hs
  · exact hf _ _ hs

theorem onRepair_ok {f m} (hf : ∀ t r, MemoryOk t → AnsOk (f t r)) (hs : MemoryOk s) : AnsOk (onRepair f s m) := by
  unfold onRepair
  split
  · exact hs
  · split
    · exact hs
    · exact hf _ _ hs

/-! ### Attachment, contexts and rings -/

theorem execAttach_ok (hs : MemoryOk s) : NextOk (execAttach s) :=
  message_ok (fun _ _ ht => .ite ht (memoryOk_host rfl rfl ht)) hs

theorem execDetach_ok (hs : MemoryOk s) : NextOk (execDetach s) :=
  message_ok (fun _ _ ht => .ite (memoryOk_host rfl rfl ht) ht) hs

theorem execCtxcreate_ok (hs : MemoryOk s) : NextOk (execCtxcreate s) := by
  refine message_ok (fun t m ht => ?_) hs
  extract_lets at_
  split
  · exact ht
  · refine .ite ht (.ite ht ?_)
    have hused : MemoryOk (t.physUsed false at_ 64) := State.physUsed_ok ht
    exact .ite hused hused

theorem State.dropCtx_ok {n} (hs : MemoryOk s) : MemoryOk (s.dropCtx n) := by
  have ht : MemoryOk { s with wgs := s.wgs.filter (fun g => g.pkt.ctx != n) } := memoryOk_wgs_filter hs
  exact ht

theorem execCtxdestroy_ok (hs : MemoryOk s) : NextOk (execCtxdestroy s) :=
  message_ok (fun _ _ ht => onCtx_ok (fun _ _ _ hu => .ite hu (State.dropCtx_ok hu)) ht) hs

theorem execCtxcsr_ok (hs : MemoryOk s) : NextOk (execCtxcsr s) :=
  message_ok (fun _ _ ht => onCtx_ok (fun _ _ _ hu => .ite hu (State.mapCtx_ok hu)) ht) hs

theorem execDevcsr_ok (hs : MemoryOk s) : NextOk (execDevcsr s) :=
  message_ok (fun _ _ ht => .ite ht (memoryOk_ite (State.devWrite_ok ht) ht)) hs

theorem execFaultring_ok (hs : MemoryOk s) : NextOk (execFaultring s) :=
  message_ok (fun _ _ ht => ringMessage_ok (fun _ _ hu => hu) ht) hs

theorem execServring_ok (hs : MemoryOk s) : NextOk (execServring s) :=
  message_ok (fun _ _ ht => ringMessage_ok (fun _ _ hu => hu) ht) hs

theorem execStorelog_ok (hs : MemoryOk s) : NextOk (execStorelog s) :=
  message_ok (fun _ _ ht => ringMessage_ok (fun _ _ hu => hu) ht) hs

theorem execSavepool_ok (hs : MemoryOk s) : NextOk (execSavepool s) :=
  message_ok (fun _ _ ht => .ite ht ht) hs

/-! ### The pod, parameters and power -/

theorem State.formPod_ok {id own map} (hs : MemoryOk s) : MemoryOk (s.formPod id own map) := by
  unfold State.formPod
  extract_lets t peers alone fab t1
  have ht : MemoryOk t := memoryOk_foldl (fun _ _ hu => State.cutPeer_ok hu) hs
  have ht1 : MemoryOk t1 := memoryOk_fab ht
  exact memoryOk_foldl (fun _ _ hu => memoryOk_foldl (fun _ _ hv => State.frameTo_ok hv) hu) ht1

theorem execPodform_ok (hs : MemoryOk s) : NextOk (execPodform s) := by
  refine message_ok (fun t m ht => ?_) hs
  extract_lets own map u
  have hu : MemoryOk u := memoryOk_ite ht (State.formPod_ok ht)
  exact .ite ht (.ite (memoryOk_fab hu) hu)

theorem execExportCtx_ok (hs : MemoryOk s) : NextOk (execExportCtx s) :=
  message_ok (fun _ _ ht => .ite (memoryOk_fab ht) (.ite ht (State.serveStalled_ok (memoryOk_fab ht)))) hs

theorem execFabparam_ok (hs : MemoryOk s) : NextOk (execFabparam s) :=
  message_ok (fun _ _ ht => .ite ht (memoryOk_fab ht)) hs

theorem execBar2base_ok (hs : MemoryOk s) : NextOk (execBar2base s) :=
  message_ok (fun _ _ ht => memoryOk_host rfl rfl ht) hs

theorem execHostatomic_ok (hs : MemoryOk s) : NextOk (execHostatomic s) :=
  message_ok (fun _ _ ht => memoryOk_host rfl rfl ht) hs

theorem execStreamparam_ok (hs : MemoryOk s) : NextOk (execStreamparam s) :=
  message_ok (fun _ _ ht => memoryOk_host rfl rfl ht) hs

theorem execPowercap_ok (hs : MemoryOk s) : NextOk (execPowercap s) :=
  message_ok (fun _ _ ht => .ite ht ht) hs

theorem State.standby_ok (hs : MemoryOk s) : MemoryOk s.standby := State.withChans_ok hs

theorem State.leaveStandby_ok (hs : MemoryOk s) : MemoryOk s.leaveStandby := memoryOk_foldl (fun _ _ ht => State.frameTo_ok ht) hs

theorem execPowerstate_ok (hs : MemoryOk s) : NextOk (execPowerstate s) :=
  message_ok (fun _ _ ht =>
    .ite (.ite (memoryOk_ite ht (State.standby_ok ht)) ht) (.ite (memoryOk_ite (State.leaveStandby_ok ht) ht) ht)) hs

theorem execTelemetry_ok (hs : MemoryOk s) : NextOk (execTelemetry s) := by
  refine message_ok (fun t m ht => ?_) hs
  have hu : MemoryOk { t with host := { t.host with
      collector := (BitVec.ofNat 64 (param m 1), BitVec.ofNat 64 (param m 2), bitsOf (param m 3) 0 16) } } :=
    memoryOk_host rfl rfl ht
  exact hu

/-! ### Firmware -/

theorem execRollback_ok (hs : MemoryOk s) : NextOk (execRollback s) :=
  message_ok (fun _ _ ht => .ite ht (memoryOk_boot (memoryOk_image ht) ht)) hs

theorem execJournalclr_ok (hs : MemoryOk s) : NextOk (execJournalclr s) :=
  message_ok (fun _ _ ht => memoryOk_boot (memoryOk_image ht) ht) hs

theorem execImgpiece_ok (hs : MemoryOk s) : NextOk (execImgpiece s) := by
  refine message_ok (fun t m ht => ?_) hs
  extract_lets off n
  exact .ite ht (memoryOk_boot (Memory.wf_write _ _ (memoryOk_image ht)) ht)

theorem execImgdone_ok (hs : MemoryOk s) : NextOk (execImgdone s) := by
  refine message_ok (fun t m ht => ?_) hs
  split
  · exact ht
  · exact .ite ht (.ite (State.bootImage_ok ht) (State.bootImage_ok ht))

theorem execUnassignedMessageOp_ok (hs : MemoryOk s) : NextOk (execUnassignedMessageOp s) := by
  unfold execUnassignedMessageOp
  split
  · exact finish_ok hs
  · extract_lets op
    split
    · exact finish_ok hs
    · exact finish_ok (State.answer_ok hs)

/-! ### Lanes -/

theorem State.onTarget_ok {t f} (hs : MemoryOk s) : MemoryOk (s.onTarget t f) := State.mapWarp_ok hs

theorem execResume_ok (hs : MemoryOk s) : NextOk (execResume s) :=
  message_ok (fun _ _ ht => onRecords_ok (fun _ _ _ hu => State.onTarget_ok hu) ht) hs

theorem execRedirect_ok (hs : MemoryOk s) : NextOk (execRedirect s) :=
  message_ok (fun _ _ ht => onRecords_ok (fun _ _ _ hu => State.forget_ok (State.onTarget_ok hu)) ht) hs

theorem execKill_ok (hs : MemoryOk s) : NextOk (execKill s) :=
  message_ok (fun _ _ ht => onLanes_ok (fun _ _ _ hu => .ite hu (State.tidy_ok (State.killLanes_ok hu))) ht) hs

theorem execRead_ok (hs : MemoryOk s) : NextOk (execRead s) := by
  refine message_ok (fun _ _ ht => onReg_ok (fun u x r n hu => ?_) ht) hs
  split
  · exact hu
  · cases r with
    | lane k => exact hu
    | scalar k => exact hu
    | preds => exact hu
    | csr k => exact hu

theorem execWrite_ok (hs : MemoryOk s) : NextOk (execWrite s) := by
  refine message_ok (fun _ _ ht => onReg_ok (fun u x r n hu => ?_) ht) hs
  cases r with
  | lane k => exact State.mapWarp_ok hu
  | scalar k => exact State.mapWarp_ok hu
  | preds => exact State.mapWarp_ok hu
  | csr k => exact .ite hu (memoryOk_foldl (fun _ _ hv => State.csrWrite_ok hv) hu)

theorem execHalt_ok (hs : MemoryOk s) : NextOk (execHalt s) :=
  message_ok (fun _ _ ht => onLanes_ok (fun _ _ _ hu => State.debugPark_ok (State.mapWarp_ok hu)) ht) hs

theorem execStep_ok (hs : MemoryOk s) : NextOk (execStep s) :=
  message_ok (fun _ _ ht => onLanes_ok (fun _ _ _ hu => .ite hu (.ite hu (State.onTarget_ok hu))) ht) hs

theorem execResumeDbg_ok (hs : MemoryOk s) : NextOk (execResumeDbg s) :=
  message_ok (fun _ _ ht => onRecords_ok (fun _ _ _ hu => State.onTarget_ok hu) ht) hs

theorem execTrace_ok (hs : MemoryOk s) : NextOk (execTrace s) :=
  message_ok (fun _ _ ht => onLanes_ok (fun _ _ _ hu => State.onTarget_ok hu) ht) hs

theorem execBreakpoint_ok (hs : MemoryOk s) : NextOk (execBreakpoint s) :=
  message_ok (fun _ _ ht =>
    .ite (onCtx_ok (fun _ _ _ hu => State.mapCtx_ok hu) ht) (onLanes_ok (fun _ _ _ hu => State.mapCtx_ok hu) ht)) hs

/-! ### Memory, operations, launches and contexts -/

theorem execInval_ok (hs : MemoryOk s) : NextOk (execInval s) := by
  refine message_ok (fun _ _ ht => onCtx_ok (fun t c m ht => ?_) ht) hs
  extract_lets v pages first begun since u
  have hu : MemoryOk u :=
    memoryOk_ite ht (State.drainWc_ok (State.goOnAll_ok (State.serveStalled_ok (memoryOk_mem rfl rfl ht))))
  exact .ite ht (.ite (memoryOk_host rfl rfl hu) (memoryOk_host rfl rfl hu))

theorem execSethwm_ok (hs : MemoryOk s) : NextOk (execSethwm s) :=
  message_ok (fun _ _ ht => onCtx_ok (fun _ _ _ hu => .ite hu (State.mapCtx_ok hu)) ht) hs

theorem execResumepage_ok (hs : MemoryOk s) : NextOk (execResumepage s) := by
  refine message_ok (fun _ _ ht => onCtx_ok (fun _ _ _ hu => memoryOk_wgs_map (fun g hg => ?_) hu) ht) hs
  split
  · exact hg
  · exact hg

theorem execEngresume_ok (hs : MemoryOk s) : NextOk (execEngresume s) :=
  message_ok (fun _ _ ht => onHeld_ok (fun _ _ hu => State.mapOp_ok hu) ht) hs

theorem State.endHeld_ok {o} (hs : MemoryOk s) : MemoryOk (s.endHeld o) :=
  memoryOk_ite (State.tidy_ok (State.evAdd_ok (State.mapOp_ok hs))) (State.tidy_ok (State.unitFail_ok (State.mapOp_ok hs)))

theorem execEngend_ok (hs : MemoryOk s) : NextOk (execEngend s) :=
  message_ok (fun _ _ ht => onHeld_ok (fun _ _ hu => State.endHeld_ok hu) ht) hs

theorem State.endUnplaced_ok {ctx it} (hs : MemoryOk s) : MemoryOk (s.endUnplaced ctx it) :=
  memoryOk_ite (State.giveExcl_ok (memoryOk_ite (State.release_ok hs) hs)) (memoryOk_ite (State.release_ok hs) hs)

theorem State.endLaunch_ok {c p l} (hs : MemoryOk s) : MemoryOk (s.endLaunch c p l) := by
  unfold State.endLaunch
  extract_lets mine ids t t1 t2 t3 away stale t4 t5
  have ht : MemoryOk t := State.mapOps_ok (memoryOk_foldl (fun _ _ ht => State.cancelOp_ok ht) hs)
  have ht1 : MemoryOk t1 := State.mapLaunch_ok ht
  have ht2 : MemoryOk t2 := memoryOk_foldl (fun _ _ ht2 => State.endUnplaced_ok ht2) ht1
  have ht3 : MemoryOk t3 := memoryOk_foldl (fun _ _ ht3 => memoryOk_foldl (fun _ _ ht4 => State.killLanes_ok ht4) ht3) ht2
  have ht4 : MemoryOk t4 := State.dropBeats_ok ht3
  have ht5 : MemoryOk t5 := memoryOk_wgs_filter ht4
  exact State.tidy_ok (State.abortPkt_ok ht5)

theorem execEndlaunch_ok (hs : MemoryOk s) : NextOk (execEndlaunch s) := by
  refine message_ok (fun _ _ ht => onCtx_ok (fun u c m hu => ?_) ht) hs
  split
  · exact hu
  · split
    · exact hu
    · exact State.endLaunch_ok hu

theorem execCtxsave_ok (hs : MemoryOk s) : NextOk (execCtxsave s) :=
  message_ok (fun _ _ ht => onCtx_ok (fun _ _ _ hu => State.saveContext_ok hu) ht) hs

theorem execCtxrestore_ok (hs : MemoryOk s) : NextOk (execCtxrestore s) :=
  message_ok (fun _ _ ht => onCtx_ok (fun _ _ _ hu =>
    .ite hu (memoryOk_foldl (fun _ _ hv => State.examine_ok hv) (State.mapCtx_ok hu))) ht) hs

/-! ### Channels, the store log, pod changes and FLOWSTATE -/

theorem execChretire_ok (hs : MemoryOk s) : NextOk (execChretire s) :=
  message_ok (fun _ _ ht => onChannel_ok (fun _ _ hu =>
    memoryOk_ite (State.emit_ok (State.withChans_ok hu)) (State.withChans_ok hu)) ht) hs

theorem execChrestore_ok (hs : MemoryOk s) : NextOk (execChrestore s) :=
  message_ok (fun _ _ ht => onChannel_ok (fun _ _ hu => State.frameTo_ok (State.withChans_ok hu)) ht) hs

theorem execSlreplay_ok (hs : MemoryOk s) : NextOk (execSlreplay s) := by
  refine message_ok (fun _ _ ht => onRepair_ok (fun u r hu => ?_) ht) hs
  split
  · rename_i e
    exact State.replayPage_ok hu _ e
  · exact hu

theorem execSldiscard_ok (hs : MemoryOk s) : NextOk (execSldiscard s) :=
  message_ok (fun _ _ ht => onRepair_ok (fun _ _ hu => State.serveStalled_ok (State.endRepair_ok hu)) ht) hs

theorem execPodhold_ok (hs : MemoryOk s) : NextOk (execPodhold s) := by
  refine message_ok (fun t m ht => ?_) hs
  extract_lets u
  have hu : MemoryOk u := memoryOk_ite ht (State.hold_ok ht)
  exact .ite (memoryOk_fab hu) (memoryOk_fab hu)

theorem execPodset_ok (hs : MemoryOk s) : NextOk (execPodset s) := by
  refine message_ok (fun t m ht => ?_) hs
  extract_lets limit u
  have hu : MemoryOk u := memoryOk_ite ht (State.podSet_ok ht)
  refine .ite ht ?_
  split
  · exact hu
  · exact .ite (memoryOk_fab hu) hu

theorem execFlowstate_ok (hs : MemoryOk s) : NextOk (execFlowstate s) :=
  message_ok (fun _ _ ht => onCtx_ok (fun _ _ _ hu => hu) ht) hs

end Sys2Proof.Machine
end

section
/-!
SUPPORT. Memories in their canonical form, part 12: every instruction and every move of a step keeps them, which settles O56.
-/
namespace Sys2Proof.Machine

open Safety (MemoryOk)

variable {s : State}

/-- Every instruction, event and message keeps the memories in their canonical form: one line for each arm of the dispatcher. -/
theorem exec_ok (i : Instr) (hs : MemoryOk s) : NextOk (exec i s) :=
  match i with
  | .clauseHeader _ => execClauseHeader_ok hs
  | .nop w => execNop_ok (w := w) hs
  | .iadd _ => execIadd_ok hs
  | .isub _ => execIsub_ok hs
  | .imul _ => execImul_ok hs
  | .imulh _ => execImulh_ok hs
  | .imad _ => execImad_ok hs
  | .imin _ => execImin_ok hs
  | .imax _ => execImax_ok hs
  | .iabs _ => execIabs_ok hs
  | .ineg _ => execIneg_ok hs
  | .idiff _ => execIdiff_ok hs
  | .icmp _ => execIcmp_ok hs
  | .sel _ => execSel_ok hs
  | .icvt _ => execIcvt_ok hs
  | .idiv _ => execIdiv_ok hs
  | .irem _ => execIrem_ok hs
  | .iaddImm _ => execIaddImm_ok hs
  | .imulImm _ => execImulImm_ok hs
  | .iminImm _ => execIminImm_ok hs
  | .imaxImm _ => execImaxImm_ok hs
  | .icmpImm _ => execIcmpImm_ok hs
  | .andImm _ => execAndImm_ok hs
  | .orImm _ => execOrImm_ok hs
  | .xorImm _ => execXorImm_ok hs
  | .shlImm _ => execShlImm_ok hs
  | .shrImm _ => execShrImm_ok hs
  | .sarImm _ => execSarImm_ok hs
  | .movi _ => execMovi_ok hs
  | .and _ => execAnd_ok hs
  | .or _ => execOr_ok hs
  | .xor _ => execXor_ok hs
  | .andn _ => execAndn_ok hs
  | .orn _ => execOrn_ok hs
  | .not _ => execNot_ok hs
  | .lop3 _ => execLop3_ok hs
  | .shl _ => execShl_ok hs
  | .shr _ => execShr_ok hs
  | .sar _ => execSar_ok hs
  | .rol _ => execRol_ok hs
  | .ror _ => execRor_ok hs
  | .fshl _ => execFshl_ok hs
  | .fshr _ => execFshr_ok hs
  | .popc _ => execPopc_ok hs
  | .clz _ => execClz_ok hs
  | .ctz _ => execCtz_ok hs
  | .fns _ => execFns_ok hs
  | .brev _ => execBrev_ok hs
  | .bfx _ => execBfx_ok hs
  | .bfxs _ => execBfxs_ok hs
  | .bfi _ => execBfi_ok hs
  | .pdep _ => execPdep_ok hs
  | .pext _ => execPext_ok hs
  | .bperm _ => execBperm_ok hs
  | .gf2mm _ => execGf2mm_ok hs
  | .prmb _ => execPrmb_ok hs
  | .mix64 _ => execMix64_ok hs
  | .mov _ => execMov_ok hs
  | .rdlane _ => execRdlane_ok hs
  | .wrlane _ => execWrlane_ok hs
  | .pand _ => execPand_ok hs
  | .por _ => execPor_ok hs
  | .pxor _ => execPxor_ok hs
  | .pnot _ => execPnot_ok hs
  | .pmov _ => execPmov_ok hs
  | .fadd _ => execFadd_ok hs
  | .fsub _ => execFsub_ok hs
  | .fmul _ => execFmul_ok hs
  | .ffma _ => execFfma_ok hs
  | .fmin _ => execFmin_ok hs
  | .fmax _ => execFmax_ok hs
  | .fcmp _ => execFcmp_ok hs
  | .fclass _ => execFclass_ok hs
  | .fcvt _ => execFcvt_ok hs
  | .frnd _ => execFrnd_ok hs
  | .ftoi _ => execFtoi_ok hs
  | .itof _ => execItof_ok hs
  | .fscl _ => execFscl_ok hs
  | .fdiv _ => execFdiv_ok hs
  | .fsqrt _ => execFsqrt_ok hs
  | .frcp _ => execFrcp_ok hs
  | .frsq _ => execFrsq_ok hs
  | .fex2 _ => execFex2_ok hs
  | .flg2 _ => execFlg2_ok hs
  | .fsin _ => execFsin_ok hs
  | .fcos _ => execFcos_ok hs
  | .ftanh _ => execFtanh_ok hs
  | .xadd _ => execXadd_ok hs
  | .xsub _ => execXsub_ok hs
  | .xmul _ => execXmul_ok hs
  | .xfma _ => execXfma_ok hs
  | .xdiv _ => execXdiv_ok hs
  | .xquant _ => execXquant_ok hs
  | .xcmp _ => execXcmp_ok hs
  | .xcvt _ => execXcvt_ok hs
  | .xrnd _ => execXrnd_ok hs
  | .xscaleb _ => execXscaleb_ok hs
  | .shfl _ => execShfl_ok hs
  | .pushl _ => execPushl_ok hs
  | .vote _ => execVote_ok hs
  | .red _ => execRed_ok hs
  | .scan _ => execScan_ok hs
  | .matchLanes _ => execMatchLanes_ok hs
  | .br _ => execBr_ok hs
  | .bru _ => execBru_ok hs
  | .call _ => execCall_ok hs
  | .jmpi _ => execJmpi_ok hs
  | .calli _ => execCalli_ok hs
  | .ret w => execRet_ok (w := w) hs
  | .tcall _ => execTcall_ok hs
  | .tret w => execTret_ok (w := w) hs
  | .exit w => execExit_ok (w := w) hs
  | .bar w => execBar_ok (w := w) hs
  | .barArrive w => execBarArrive_ok (w := w) hs
  | .tbar w => execTbar_ok (w := w) hs
  | .yield w => execYield_ok (w := w) hs
  | .sleep _ => execSleep_ok hs
  | .relabel _ => execRelabel_ok hs
  | .ordrel _ => execOrdrel_ok hs
  | .ordskip w => execOrdskip_ok (w := w) hs
  | .hold _ => execHold_ok hs
  | .flowkill _ => execFlowkill_ok hs
  | .enq _ => execEnq_ok hs
  | .ld _ => execLd_ok hs
  | .st _ => execSt_ok hs
  | .ldc _ => execLdc_ok hs
  | .pref _ => execPref_ok hs
  | .cctlInv1 _ => execCctlInv1_ok hs
  | .cctlInv1all _ => execCctlInv1all_ok hs
  | .cctlClean2 _ => execCctlClean2_ok hs
  | .cctlFlush2 _ => execCctlFlush2_ok hs
  | .twait _ => execTwait_ok hs
  | .tset _ => execTset_ok hs
  | .tclr _ => execTclr_ok hs
  | .ttest _ => execTtest_ok hs
  | .atom _ => execAtom_ok hs
  | .cas _ => execCas_ok hs
  | .fence _ => execFence_ok hs
  | .copyLocal _ => execCopyLocal_ok hs
  | .copyRemote _ => execCopyRemote_ok hs
  | .copyMulticast _ => execCopyMulticast_ok hs
  | .copyDrain _ => execCopyDrain_ok hs
  | .tcopy _ => execTcopy_ok hs
  | .wnst _ => execWnst_ok hs
  | .ringwait _ => execRingwait_ok hs
  | .mloop _ => execMloop_ok hs
  | .mchainB w => execMchainB_ok (w := w) hs
  | .mchainE w => execMchainE_ok (w := w) hs
  | .mzero _ => execMzero_ok hs
  | .acrd _ => execAcrd_ok hs
  | .acwr _ => execAcwr_ok hs
  | .acst _ => execAcst_ok hs
  | .acld _ => execAcld_ok hs
  | .wait _ => execWait_ok hs
  | .htest _ => execHtest_ok hs
  | .hcancel _ => execHcancel_ok hs
  | .hmovExport _ => execHmovExport_ok hs
  | .hmovImport _ => execHmovImport_ok hs
  | .ownpass _ => execOwnpass_ok hs
  | .owntake _ => execOwntake_ok hs
  | .evwait _ => execEvwait_ok hs
  | .evsig _ => execEvsig_ok hs
  | .sigadd _ => execSigadd_ok hs
  | .sigwait _ => execSigwait_ok hs
  | .time _ => execTime_ok hs
  | .trap _ => execTrap_ok hs
  | .bkpt w => execBkpt_ok (w := w) hs
  | .rtt w => execRtt_ok (w := w) hs
  | .csrr _ => execCsrr_ok hs
  | .csrw _ => execCsrw_ok hs
  | .launch _ _ => execLaunch_ok hs
  | .flowlaunch _ _ => execFlowlaunch_ok hs
  | .barrierAnd _ _ => execBarrierAnd_ok hs
  | .barrierOr _ _ => execBarrierOr_ok hs
  | .copyPacket _ _ => execCopyPacket_ok hs
  | .tickcfg _ _ => execTickcfg_ok hs
  | .tickcfgStop _ _ => execTickcfgStop_ok hs
  | .packetStart _ _ _ => execPacketStart_ok hs
  | .packetComplete _ _ _ => execPacketComplete_ok hs
  | .barrierEvaluate _ _ _ => execBarrierEvaluate_ok hs
  | .queueExamine _ _ => execQueueExamine_ok hs
  | .queueSlotMap _ _ => execQueueSlotMap_ok hs
  | .timeSliceEnd _ => execTimeSliceEnd_ok hs
  | .placeWorkgroup _ => execPlaceWorkgroup_ok hs
  | .preempt _ => execPreempt_ok hs
  | .flowEntryTake _ _ _ => execFlowEntryTake_ok hs
  | .packingDelayExpiry _ _ _ => execPackingDelayExpiry_ok hs
  | .sleepExpiry _ _ => execSleepExpiry_ok hs
  | .signalPoll _ _ => execSignalPoll_ok hs
  | .eventPoll _ _ => execEventPoll_ok hs
  | .engineQueueStart _ => execEngineQueueStart_ok hs
  | .engineOperationComplete _ => execEngineOperationComplete_ok hs
  | .arrivalAdmit _ => execArrivalAdmit_ok hs
  | .remoteArrivalBeat _ => execRemoteArrivalBeat_ok hs
  | .tagWaitTimeout _ => execTagWaitTimeout_ok hs
  | .kstep _ _ => execKstep_ok hs
  | .matrixCommandPerform _ => execMatrixCommandPerform_ok hs
  | .winnowShortlist _ => execWinnowShortlist_ok hs
  | .remoteRequest _ => execRemoteRequest_ok hs
  | .remoteStoreLine _ => execRemoteStoreLine_ok hs
  | .remoteResponse _ => execRemoteResponse_ok hs
  | .wcAgeing _ _ => execWcAgeing_ok hs
  | .flitReceive _ => execFlitReceive_ok hs
  | .replayRequest _ _ _ => execReplayRequest_ok hs
  | .channelSilence _ _ => execChannelSilence_ok hs
  | .healthWindow _ _ => execHealthWindow_ok hs
  | .healthReport _ => execHealthReport_ok hs
  | .linkUp _ => execLinkUp_ok hs
  | .ingestFrame _ _ => execIngestFrame_ok hs
  | .tickDue _ _ => execTickDue_ok hs
  | .tickGraceExpiry _ _ => execTickGraceExpiry_ok hs
  | .ptpSync _ => execPtpSync_ok hs
  | .samplerSample _ => execSamplerSample_ok hs
  | .ringConsumedPoll _ => execRingConsumedPoll_ok hs
  | .uncorrectableError _ => execUncorrectableError_ok hs
  | .powerMeasure _ => execPowerMeasure_ok hs
  | .thermalTrip _ _ => execThermalTrip_ok hs
  | .powerOn _ => execPowerOn_ok hs
  | .imageFetchComplete _ => execImageFetchComplete_ok hs
  | .configRequest _ => execConfigRequest_ok hs
  | .hostBar2Access _ => execHostBar2Access_ok hs
  | .doorbell _ => execDoorbell_ok hs
  | .registerWrite _ _ => execRegisterWrite_ok hs
  | .longLatencyResult _ _ _ => execLongLatencyResult_ok hs
  | .copyUnit _ _ => execCopyUnit_ok hs
  | .junctionTemperature _ => execJunctionTemperature_ok hs
  | .unassignedEncoding _ => execUnassignedEncoding_ok hs
  | .unassignedPacketType _ _ => execUnassignedPacketType_ok hs
  | .darkLimitExpiry => execDarkLimitExpiry_ok hs
  | .tbHoldover => execTbHoldover_ok hs
  | .gleanerSweep => execGleanerSweep_ok hs
  | .glctlOnce => execGlctlOnce_ok hs
  | .coolantFlowLow => execCoolantFlowLow_ok hs
  | .idleEntry => execIdleEntry_ok hs
  | .resetRelease => execResetRelease_ok hs
  | .bootSourceRetry => execBootSourceRetry_ok hs
  | .telemetrySend => execTelemetrySend_ok hs
  | .coreClockCycle => execCoreClockCycle_ok hs
  | .attach => execAttach_ok hs
  | .detach => execDetach_ok hs
  | .ctxcreate => execCtxcreate_ok hs
  | .ctxdestroy => execCtxdestroy_ok hs
  | .faultring => execFaultring_ok hs
  | .servring => execServring_ok hs
  | .storelog => execStorelog_ok hs
  | .savepool => execSavepool_ok hs
  | .podform => execPodform_ok hs
  | .exportCtx => execExportCtx_ok hs
  | .bar2base => execBar2base_ok hs
  | .hostatomic => execHostatomic_ok hs
  | .fabparam => execFabparam_ok hs
  | .streamparam => execStreamparam_ok hs
  | .powercap => execPowercap_ok hs
  | .powerstate => execPowerstate_ok hs
  | .telemetry => execTelemetry_ok hs
  | .rollback => execRollback_ok hs
  | .journalclr => execJournalclr_ok hs
  | .imgpiece => execImgpiece_ok hs
  | .imgdone => execImgdone_ok hs
  | .ctxcsr => execCtxcsr_ok hs
  | .devcsr => execDevcsr_ok hs
  | .resume => execResume_ok hs
  | .redirect => execRedirect_ok hs
  | .kill => execKill_ok hs
  | .read => execRead_ok hs
  | .write => execWrite_ok hs
  | .halt => execHalt_ok hs
  | .step => execStep_ok hs
  | .resumeDbg => execResumeDbg_ok hs
  | .trace => execTrace_ok hs
  | .breakpoint => execBreakpoint_ok hs
  | .inval => execInval_ok hs
  | .sethwm => execSethwm_ok hs
  | .resumepage => execResumepage_ok hs
  | .engresume => execEngresume_ok hs
  | .engend => execEngend_ok hs
  | .endlaunch => execEndlaunch_ok hs
  | .ctxsave => execCtxsave_ok hs
  | .ctxrestore => execCtxrestore_ok hs
  | .chretire => execChretire_ok hs
  | .chrestore => execChrestore_ok hs
  | .slreplay => execSlreplay_ok hs
  | .sldiscard => execSldiscard_ok hs
  | .podhold => execPodhold_ok hs
  | .podset => execPodset_ok hs
  | .flowstate => execFlowstate_ok hs
  | .unassignedMessageOp => execUnassignedMessageOp_ok hs

/-! ### The issue of an instruction -/

/-- The state in which a warp's next instruction is decided or runs. -/
def Ready.state : Ready → State
  | .done t => t
  | .run _ t => t

/-- The memories are canonical in the state in which a warp's next instruction is decided or runs. -/
def ReadyOk (r : Ready) : Prop := MemoryOk r.state

theorem ReadyOk.ite {c : Prop} [Decidable c] {q r : Ready} (hq : ReadyOk q) (hr : ReadyOk r) : ReadyOk (if c then q else r) := by
  split
  · exact hq
  · exact hr

theorem ReadyOk.map {f : State → State} {r : Ready} (hf : ∀ t, MemoryOk t → MemoryOk (f t)) (hr : ReadyOk r) :
    ReadyOk (r.map f) := by
  cases r with
  | done t => exact hf t hr
  | run i t => exact hf t hr

theorem State.launchWord_ok {g k pc wpc word i here} (hs : MemoryOk s) : ReadyOk (s.launchWord g k pc wpc word i here) := by
  unfold State.launchWord
  split
  · exact hs
  · exact .ite hs (.ite (State.holdFront_ok hs) (State.mapWarp_ok hs))

theorem State.arriveAt_ok {g k pc wpc word i ls} (hs : MemoryOk s) : ReadyOk (s.arriveAt g k pc wpc word i ls) := by
  unfold State.arriveAt
  split
  · extract_lets t
    have ht : MemoryOk t := State.mapWarp_ok hs
    split
    · exact ht
    · exact State.launchWord_ok ht
  · exact State.launchWord_ok hs

theorem State.checkWords_ok {c g k w pc wpc first word px ls} (hs : MemoryOk s) :
    ReadyOk (s.checkWords c g k w pc wpc first word px ls) := by
  unfold State.checkWords
  extract_lets len bad good stop t
  have ht : MemoryOk t := memoryOk_ite hs (State.stopLanes_ok hs)
  refine .ite (State.launchWord_ok hs) (.ite ht ?_)
  split
  · exact State.stopFront_ok ht
  · exact State.arriveAt_ok ht

theorem State.fetchWords_ok {c g k w pc ls} (hs : MemoryOk s) : ReadyOk (s.fetchWords c g k w pc ls) := by
  -- the function is unfolded as a whole: no comparison of states then evaluates what it looks at
  have hdef : State.fetchWords = State.fetchWords := rfl
  conv at hdef => rhs; delta State.fetchWords
  rw [hdef]
  beta_reduce
  generalize s.fetch c g.core pc = x
  generalize s.fetch c g.core (pc + 8) = y
  split
  · exact State.stopFront_ok hs
  · exact State.sawRepair_ok (State.holdFront_ok hs)
  · exact hs
  · split
    · exact State.checkWords_ok hs
    · extract_lets fits t
      have ht : MemoryOk t := memoryOk_ite hs (State.stopFront_ok hs)
      split
      · exact ht
      · split
        · exact State.stopFront_ok ht
        · exact State.sawRepair_ok (State.holdFront_ok ht)
        · exact ht
        · exact .ite (State.stopFront_ok ht) (State.checkWords_ok ht)

theorem State.fetchFront_ok {c g k w pc ls} (hs : MemoryOk s) : ReadyOk (s.fetchFront c g k w pc ls) :=
  .map (fun _ ht => State.useFetch_ok ht) (State.fetchWords_ok hs)

theorem State.readyWarp_ok {g c k w} (hs : MemoryOk s) : ReadyOk (s.readyWarp g c k w) := by
  unfold State.readyWarp
  split
  · exact hs
  · split
    · exact State.takeHalts_ok hs
    · split
      · exact hs
      · exact .ite (State.fetchFront_ok hs) (State.debugPark_ok hs)

theorem State.ready?_ok {core slot} (hs : MemoryOk s) : ReadyOk (s.ready? core slot) := by
  unfold State.ready?
  split
  · exact hs
  · split
    · split
      · exact State.readyWarp_ok hs
      · exact hs
    · exact hs

theorem runReady_ok {r : Ready} (hr : ReadyOk r) : NextOk (runReady r) := by
  cases r with
  | done t => exact finish_ok hr
  | run i t =>
    have hexec : NextOk (exec i t) := exec_ok i hr
    unfold runReady
    dsimp only
    split
    · cases hnext : exec i t with
      | next u => exact finish_ok (State.afterIssue_ok (hexec u hnext))
      | fault r => exact fun _ e => nomatch e
      | refused r => exact fun _ e => nomatch e
    · exact hexec

/-! ### A step -/

theorem runMove_ok (m : Input) (hs : MemoryOk s) : NextOk (runMove m s) := by
  cases m with
  | ev i => exact exec_ok i hs
  | issue core slot => exact runReady_ok (State.ready?_ok hs)
  | hostMem a bs => exact finish_ok (State.hostWrite_ok hs)
  | portMsg chain m => exact finish_ok (State.portMessage_ok hs)
  | hostRead off n => exact finish_ok (memoryOk_ite (State.emit_ok hs) hs)
  | condition p => exact finish_ok (memoryOk_boot (memoryOk_image hs) hs)
  | flash c j => exact finish_ok (memoryOk_boot (memoryOk_image hs) hs)
  | restart cold => exact finish_ok (State.restart_ok hs)

/-- Settles O56: the next move is taken, which writes no memory, and made, and every move keeps the canonical form. -/
theorem stepKeepsMemoryCanonical : Obligations.StepKeepsMemoryCanonical := by
  unfold Obligations.StepKeepsMemoryCanonical
  intro s t hs hstep
  exact runMove_ok _ (State.pop_ok hs) t hstep

end Sys2Proof.Machine
end
